-- ==== Sys2Proof/Word.lean ====
section
/-! DEFINITION. The machine word and the byte. A register of the scalar file holds 64 bits (R71), memory holds bytes (R4). -/

namespace Sys2Proof

/-- A 64-bit register pattern (R90). -/
abbrev Word := BitVec 64

/-- One byte of memory (R4). -/
abbrev Byte := BitVec 8

end Sys2Proof
end

