-- ==== Sys2Proof/Syntax.lean ====
section
/-! DEFINITION. The instruction syntax: one constructor per row of the opcode table, and the plain data that the rows
without an encoding (the device's own steps) act on. In a word's constructors, `s` is the settle marker (R14) and the
other letters are the fields of R15 under the table's names. -/

namespace Sys2Proof

/-- Why a word names no instruction: the bullets of R30. -/
inductive EncodingFault where
  | major
  | function
  | reserved
  | register
  | couloirField
  | consumeWithoutChain
  deriving DecidableEq, Repr

/-- One boot stage image (R423): whether its Ed25519 and ML-DSA-65 signatures verify against the trusted keys, its
security version, and the digest that is measured. -/
structure StageImage where
  ed25519Ok : Bool
  mldsaOk : Bool
  version : Nat
  digest : BitVec 512
  deriving DecidableEq, Repr

/-- What an extended self-test finds out of service (R431, R432). Cores are numbered `die * 384 + core`, clusters
`die * 24 + cluster`. -/
structure SelfTestResult where
  failedCores : List Nat
  failedBanks : List (Nat × Nat)
  failedL2 : List (Nat × Nat)
  failedEngines : List (Nat × Nat)
  failedStacks : List (Nat × Nat)
  failedCxlPorts : Nat
  failedUalPorts : Nat
  failedEthPorts : Nat
  rowSpares : Nat
  linksRecovered : List Nat
  deriving DecidableEq, Repr

/-- What a read of a protected line meets (R324). -/
inductive EccOutcome where
  | clean
  | corrected
  | uncorrectable
  deriving DecidableEq, Repr

/-- The operations of `AMO` (R209), in the order of its table. -/
inductive AmoOp where
  | add
  | and
  | or
  | xor
  | min
  | max
  | minn
  | maxn
  | swap
  | fadd32
  | fmax32
  deriving DecidableEq, Repr

/-- What an access of another node asks of this package (R436): the last one is a packet of reduce-adds to one line (R317), with the
contributor index of its first element. -/
inductive PodOp where
  | read (len : Nat)
  | write (data : List Byte)
  | amo (op : AmoOp) (data : Word)
  | cas (expect new : Word)
  | adds (fmt : BitVec 5) (item : Word) (n first : Nat) (data : List Word)
  deriving DecidableEq, Repr

/-- An access of node `source` that reaches this package through the pod window: EXP and OFFSET of R436. -/
structure PodAccess where
  source : Nat
  exported : Bool
  offset : BitVec 40
  op : PodOp
  deriving DecidableEq, Repr

/-- A control message crossing UALink (R439): one that arrives from another node, or the delivery of the `i`-th message
in flight to a node of the pod. -/
inductive ControlMsg where
  | signalIn (handle : Word)
  | failIn (handle : Word) (code : BitVec 8)
  | depositIn (target : Word) (reg : BitVec 5) (value : Word)
  | outgoing (i : Nat)
  deriving DecidableEq, Repr

/-- A packet that reaches the remote-memory engine (R442, R445). A message of several packets gives each its part, a write with
the address of the part; `last` and the immediate value come with the last one. -/
inductive NetPacket where
  | send (psn : BitVec 24) (data : List Byte) (last : Bool) (imm : Option (BitVec 32))
  | write (psn : BitVec 24) (va : Word) (rkey : BitVec 32) (data : List Byte) (last : Bool) (imm : Option (BitVec 32))
  | readRequest (psn : BitVec 24) (va : Word) (rkey : BitVec 32) (len : Nat)
  | fetchAdd (psn : BitVec 24) (va : Word) (rkey : BitVec 32) (x : Word)
  | compareSwap (psn : BitVec 24) (va : Word) (rkey : BitVec 32) (c x : Word)
  | ack (psn : BitVec 24)
  | readResponse (psn : BitVec 24) (data : List Byte)
  | nak (psn : BitVec 24)
  | remoteError (psn : BitVec 24)
  deriving DecidableEq, Repr

/-- A request that reaches the sequencer of the placement table (R447), with the node that sent it and its number in the ring of that node. -/
structure PlaceRequest where
  source : Nat
  number : Nat
  op : BitVec 4
  seqid : BitVec 32
  block : BitVec 32
  token : Word
  deriving DecidableEq, Repr

/-- One update of the placement table as the sequencer broadcasts it, an append with the node and number of its request; and, at the
sequencer, that every other replica has applied an update (R447). -/
inductive PlaceUpdate where
  | append (seq : Nat) (entry node : Nat) (seqid block : BitVec 32) (source number : Nat)
  | free (seq : Nat) (entries : List Nat)
  | applied (seq : Nat)
  deriving DecidableEq, Repr

/-- The steps of the device (opcode table): every instruction word, and every step the device takes on its own. -/
inductive Instr where
  | deviceReset
  | powerUp (images : List StageImage) (t : SelfTestResult)
  | shockEvent (milliG : Nat)
  | pendingResultReturn (core i : Nat)
  | ldqReply (i : Nat)
  | tokenSignalArrival (i : Nat)
  | tokenFailArrival (i : Nat)
  | depositArrival (i : Nat)
  | resumeDecision (core : Nat)
  | preemptRequest (core strand : Nat)
  | suspendedImageMove (core strand : Nat)
  | cleanRowCopy (core strand : Nat)
  | preemptLift (core strand : Nat)
  | trapDelivery (core : Nat)
  | trapSlotFreed (core : Nat)
  | imageUncorrectable (core strand : Nat)
  | cellUncorrectable (core cell : Nat)
  | parkTimeout (core : Nat)
  | fimetUnpark (core : Nat)
  | vectorExecute (core : Nat)
  | debugStopTakesEffect (core : Nat)
  | streamFillArrival (core strand reg : Nat)
  | streamDrainComplete (core i : Nat)
  | matrixCommandExecute (core : Nat)
  | remoteMatrixCommand (i : Nat)
  | feBankAnswer (core : Nat)
  | waiterWake (i : Nat)
  | waiterTableTimeout (core strand : Nat)
  | waitLimitExpiry (core strand : Nat)
  | bankModeChange (cluster : Nat)
  | barrierArrival (i : Nat)
  | gondolaCopyComplete (cluster i : Nat)
  | barrierCellError (level unit cell : Nat)
  | gondolaEngineFailure (cluster engine : Nat)
  | coreFailure (core : Nat)
  | slotTableSwap (die : Nat)
  | messagePacketArrival (id total offset : Nat) (payload : List Byte) (last : Bool)
  | memoryRequest (i : Nat)
  | responseArrival (i : Nat)
  | reduceAddArrival (i : Nat)
  | l2BankFailure (die bank : Nat) (lost : List Nat)
  | rowActivateHint (i : Nat)
  | patrolScrub (line : Nat) (e : EccOutcome)
  | linkRetrainStart (link : Nat)
  | linkRetrainComplete (link : Nat)
  | linkDownTimeout (link : Nat)
  | moraineRequest (die : Nat)
  | moraineMovementComplete (die i : Nat)
  | moraineMetadataError (die slot : Nat)
  | faultBatchWrite
  | engineFaultReport (i : Nat)
  | migrationStart
  | migrationCopyStep (i : Nat)
  | migrationFinish (i : Nat)
  | dumpStart
  | dumpPageCopy
  | dumpComplete
  | launchPortWrite (q off size : Nat) (data : BitVec 512)
  | launchAdmission
  | dependencyReport (launch k : Nat)
  | launchPlacement (launch : Nat) (cores : List Nat) (perCore : Nat)
  | itemStart (launch : Nat)
  | launchFinish (launch : Nat)
  | cancelComplete (launch : Nat)
  | couloirPublicationDelivery (i : Nat)
  | podRemoteAccess (a : PodAccess)
  | pathDownTimeout (node : Nat)
  | remoteControlMessage (m : ControlMsg)
  | netDoorbellAcquire (qp : Nat)
  | netPacketArrival (qp : Nat) (p : NetPacket)
  | netRetransmitTimeout (qp : Nat)
  | placementRequest (r : PlaceRequest)
  | placementUpdate (u : PlaceUpdate)
  | supplyDroop
  | stretchRecovery
  | rideEntry
  | rideRecovery
  | quiesceEntry
  | quiesceComplete
  | heldRestart
  | thermalRide
  | thermalReturn
  | thermalQuiesce
  | profileSwitch
  | hostMemoryAccess (write : Bool) (off len : Nat) (data : BitVec 512)
  | attest (addr : Nat) (nonce : BitVec 256)
  | extentadd (off size : Nat)
  | extentrel (off : Nat)
  | setvec (vec : Nat) (addr : Word) (data : BitVec 32)
  | mbxProfile (sel : BitVec 2)
  | debugstop (core : Nat) (stop : Bool)
  | selftest (t : SelfTestResult)
  | wrsVtype (s : Bool) (a : BitVec 5)
  | wrsVbank (s : Bool) (a : BitVec 5)
  | wrsCclimit (s : Bool) (a : BitVec 5)
  | wrsSlotpol (s : Bool) (a : BitVec 5)
  | wrsRedcfg (s : Bool) (a : BitVec 5)
  | wrsProfile (s : Bool) (a : BitVec 5)
  | wrsAcctctl (s : Bool) (a : BitVec 5)
  | wrsTrptr (s : Bool) (a : BitVec 5)
  | wrsLcancel (s : Bool) (a : BitVec 5)
  | wrsMigdoor (s : Bool) (a : BitVec 5)
  | wrsDumpdoor (s : Bool) (a : BitVec 5)
  | wrsNetreload (s : Bool) (a : BitVec 5)
  | illegal (s : Bool)
  | trap (s : Bool) (a : BitVec 5)
  | rett (s : Bool) (a : BitVec 5)
  | synci (s : Bool)
  | mapfence (s : Bool)
  | tlbinv (s : Bool) (a b : BitVec 5)
  | uefix (s : Bool) (a : BitVec 5)
  | mxsave (s : Bool) (a : BitVec 5)
  | mxrst (s : Bool) (a : BitVec 5)
  | park (s : Bool) (a : BitVec 5)
  | rds (s : Bool) (d : BitVec 5) (x : BitVec 12)
  | wrs (s : Bool) (a : BitVec 5) (x : BitVec 12)
  | add (s : Bool) (d a b : BitVec 5) (k : BitVec 2) (n : Bool)
  | sub (s : Bool) (d a b : BitVec 5) (k : BitVec 2) (n : Bool)
  | and (s : Bool) (d a b : BitVec 5) (k : BitVec 2) (n : Bool)
  | or (s : Bool) (d a b : BitVec 5) (k : BitVec 2) (n : Bool)
  | xor (s : Bool) (d a b : BitVec 5) (k : BitVec 2) (n : Bool)
  | andn (s : Bool) (d a b : BitVec 5) (k : BitVec 2) (n : Bool)
  | orn (s : Bool) (d a b : BitVec 5) (k : BitVec 2) (n : Bool)
  | shl (s : Bool) (d a b : BitVec 5) (k : BitVec 2) (n : Bool)
  | shr (s : Bool) (d a b : BitVec 5) (k : BitVec 2) (n : Bool)
  | sra (s : Bool) (d a b : BitVec 5) (k : BitVec 2) (n : Bool)
  | rot (s : Bool) (d a b : BitVec 5) (k : BitVec 2) (n : Bool)
  | min (s : Bool) (d a b : BitVec 5) (k : BitVec 2) (n : Bool)
  | max (s : Bool) (d a b : BitVec 5) (k : BitVec 2) (n : Bool)
  | minn (s : Bool) (d a b : BitVec 5) (k : BitVec 2) (n : Bool)
  | maxn (s : Bool) (d a b : BitVec 5) (k : BitVec 2) (n : Bool)
  | mul (s : Bool) (d a b : BitVec 5) (k : BitVec 2) (n : Bool)
  | mulh (s : Bool) (d a b : BitVec 5) (k : BitVec 2) (n : Bool)
  | mulhn (s : Bool) (d a b : BitVec 5) (k : BitVec 2) (n : Bool)
  | div (s : Bool) (d a b : BitVec 5) (k : BitVec 2) (n : Bool)
  | divn (s : Bool) (d a b : BitVec 5) (k : BitVec 2) (n : Bool)
  | rem (s : Bool) (d a b : BitVec 5) (k : BitVec 2) (n : Bool)
  | remn (s : Bool) (d a b : BitVec 5) (k : BitVec 2) (n : Bool)
  | clz (s : Bool) (d a : BitVec 5) (k : BitVec 2) (n : Bool)
  | ctz (s : Bool) (d a : BitVec 5) (k : BitVec 2) (n : Bool)
  | popc (s : Bool) (d a : BitVec 5) (k : BitVec 2) (n : Bool)
  | sext (s : Bool) (d a b : BitVec 5) (k : BitVec 2) (n : Bool)
  | zext (s : Bool) (d a b : BitVec 5) (k : BitVec 2) (n : Bool)
  | sel (s : Bool) (d a b : BitVec 5) (k : BitVec 2) (n : Bool)
  | addi (s : Bool) (d a : BitVec 5) (i : BitVec 15)
  | andi (s : Bool) (d a : BitVec 5) (i : BitVec 15)
  | ori (s : Bool) (d a : BitVec 5) (i : BitVec 15)
  | xori (s : Bool) (d a : BitVec 5) (i : BitVec 15)
  | shli (s : Bool) (d a : BitVec 5) (h : BitVec 6)
  | shri (s : Bool) (d a : BitVec 5) (h : BitVec 6)
  | srai (s : Bool) (d a : BitVec 5) (h : BitVec 6)
  | roti (s : Bool) (d a : BitVec 5) (h : BitVec 6)
  | li (s : Bool) (d : BitVec 5) (i : BitVec 20)
  | lsh (s : Bool) (d : BitVec 5) (i : BitVec 20)
  | addpc (s : Bool) (d : BitVec 5) (i : BitVec 20)
  | seteq (s : Bool) (d a b : BitVec 5) (k : BitVec 2) (n : Bool)
  | setne (s : Bool) (d a b : BitVec 5) (k : BitVec 2) (n : Bool)
  | setlt (s : Bool) (d a b : BitVec 5) (k : BitVec 2) (n : Bool)
  | setge (s : Bool) (d a b : BitVec 5) (k : BitVec 2) (n : Bool)
  | setltn (s : Bool) (d a b : BitVec 5) (k : BitVec 2) (n : Bool)
  | setgen (s : Bool) (d a b : BitVec 5) (k : BitVec 2) (n : Bool)
  | seteqi (s : Bool) (d a : BitVec 5) (i : BitVec 12)
  | setnei (s : Bool) (d a : BitVec 5) (i : BitVec 12)
  | setlti (s : Bool) (d a : BitVec 5) (i : BitVec 12)
  | setgei (s : Bool) (d a : BitVec 5) (i : BitVec 12)
  | setltni (s : Bool) (d a : BitVec 5) (i : BitVec 12)
  | setgeni (s : Bool) (d a : BitVec 5) (i : BitVec 12)
  | bfx (s : Bool) (d a : BitVec 5) (p w : BitVec 6)
  | bfi (s : Bool) (d a : BitVec 5) (p w : BitVec 6)
  | adda (s : Bool) (d a b : BitVec 5) (k : BitVec 2) (n : Bool)
  | tagset (s : Bool) (d a b : BitVec 5) (k : BitVec 2) (n : Bool)
  | tagget (s : Bool) (d a : BitVec 5) (k : BitVec 2) (n : Bool)
  | pdiff (s : Bool) (d a b : BitVec 5) (k : BitVec 2) (n : Bool)
  | beqz (s : Bool) (a : BitVec 5) (o : BitVec 16)
  | bnez (s : Bool) (a : BitVec 5) (o : BitVec 16)
  | bltz (s : Bool) (a : BitVec 5) (o : BitVec 16)
  | bgez (s : Bool) (a : BitVec 5) (o : BitVec 16)
  | blez (s : Bool) (a : BitVec 5) (o : BitVec 16)
  | bgtz (s : Bool) (a : BitVec 5) (o : BitVec 16)
  | beq (s : Bool) (a b : BitVec 5) (o : BitVec 11)
  | bne (s : Bool) (a b : BitVec 5) (o : BitVec 11)
  | blt (s : Bool) (a b : BitVec 5) (o : BitVec 11)
  | bge (s : Bool) (a b : BitVec 5) (o : BitVec 11)
  | bltn (s : Bool) (a b : BitVec 5) (o : BitVec 11)
  | bgen (s : Bool) (a b : BitVec 5) (o : BitVec 11)
  | jal (s : Bool) (o : BitVec 25)
  | j (s : Bool) (o : BitVec 25)
  | jr (s : Bool) (a : BitVec 5)
  | jalr (s : Bool) (d a : BitVec 5)
  | dbnz (s : Bool) (d : BitVec 5) (o : BitVec 15)
  | ldp (s : Bool) (d : BitVec 5) (w : BitVec 2) (o : BitVec 13)
  | ldI8 (s : Bool) (d a : BitVec 5) (o : BitVec 12)
  | ldN8 (s : Bool) (d a : BitVec 5) (o : BitVec 12)
  | ldI16 (s : Bool) (d a : BitVec 5) (o : BitVec 12)
  | ldN16 (s : Bool) (d a : BitVec 5) (o : BitVec 12)
  | ldI32 (s : Bool) (d a : BitVec 5) (o : BitVec 12)
  | ldN32 (s : Bool) (d a : BitVec 5) (o : BitVec 12)
  | ldI64 (s : Bool) (d a : BitVec 5) (o : BitVec 12)
  | st8 (s : Bool) (d a : BitVec 5) (o : BitVec 13)
  | st16 (s : Bool) (d a : BitVec 5) (o : BitVec 13)
  | st32 (s : Bool) (d a : BitVec 5) (o : BitVec 13)
  | st64 (s : Bool) (d a : BitVec 5) (o : BitVec 13)
  | ldq (s : Bool) (d a b : BitVec 5)
  | stq (s : Bool) (d a b : BitVec 5)
  | amoadd (s : Bool) (d a b : BitVec 5) (p o : BitVec 3)
  | amoand (s : Bool) (d a b : BitVec 5) (p o : BitVec 3)
  | amoor (s : Bool) (d a b : BitVec 5) (p o : BitVec 3)
  | amoxor (s : Bool) (d a b : BitVec 5) (p o : BitVec 3)
  | amomin (s : Bool) (d a b : BitVec 5) (p o : BitVec 3)
  | amomax (s : Bool) (d a b : BitVec 5) (p o : BitVec 3)
  | amominn (s : Bool) (d a b : BitVec 5) (p o : BitVec 3)
  | amomaxn (s : Bool) (d a b : BitVec 5) (p o : BitVec 3)
  | amoswap (s : Bool) (d a b : BitVec 5) (p o : BitVec 3)
  | amofadd32 (s : Bool) (d a b : BitVec 5) (p o : BitVec 3)
  | amofmax32 (s : Bool) (d a b : BitVec 5) (p o : BitVec 3)
  | cas (s : Bool) (d a b : BitVec 5) (p o : BitVec 3)
  | ldfe (s : Bool) (d a : BitVec 5)
  | stfe (s : Bool) (d a : BitVec 5)
  | feinit (s : Bool) (a b : BitVec 5)
  | fefill (s : Bool) (d a : BitVec 5)
  | feq (s : Bool) (d a : BitVec 5)
  | fence (s : Bool) (c : BitVec 3) (k : BitVec 4)
  | pin (s : Bool) (d a : BitVec 5)
  | unpin (s : Bool) (d a : BitVec 5)
  | cflush (s : Bool) (a b : BitVec 5)
  | cinv (s : Bool) (a b : BitVec 5)
  | pref (s : Bool) (a b : BitVec 5)
  | bankcfg (s : Bool) (d a b : BitVec 5)
  | setl (s : Bool) (d a b : BitVec 5)
  | strip (s : Bool) (d a : BitVec 5) (e f g h n : BitVec 3)
  | vld (s : Bool) (d a b : BitVec 5) (m : BitVec 4) (x : Bool) (c : BitVec 3)
  | vlds (s : Bool) (d a b : BitVec 5) (m : BitVec 4) (x : Bool) (c : BitVec 3)
  | vldx (s : Bool) (d a b : BitVec 5) (m : BitVec 4) (x : Bool) (c : BitVec 3)
  | vldff (s : Bool) (d a b : BitVec 5) (m : BitVec 4) (x : Bool) (c : BitVec 3)
  | vst (s : Bool) (d a b : BitVec 5) (m : BitVec 4) (x : Bool) (c : BitVec 3)
  | vsts (s : Bool) (d a b : BitVec 5) (m : BitVec 4) (x : Bool) (c : BitVec 3)
  | vstx (s : Bool) (d a b : BitVec 5) (m : BitVec 4) (x : Bool) (c : BitVec 3)
  | vstra (s : Bool) (d a b : BitVec 5) (m : BitVec 4) (x : Bool) (c : BitVec 3)
  | vadd (s : Bool) (d a b : BitVec 5) (m : BitVec 4) (x : Bool)
  | vsub (s : Bool) (d a b : BitVec 5) (m : BitVec 4) (x : Bool)
  | vmul (s : Bool) (d a b : BitVec 5) (m : BitVec 4) (x : Bool)
  | vmulh (s : Bool) (d a b : BitVec 5) (m : BitVec 4) (x : Bool)
  | vmulhn (s : Bool) (d a b : BitVec 5) (m : BitVec 4) (x : Bool)
  | vmin (s : Bool) (d a b : BitVec 5) (m : BitVec 4) (x : Bool)
  | vmax (s : Bool) (d a b : BitVec 5) (m : BitVec 4) (x : Bool)
  | vminn (s : Bool) (d a b : BitVec 5) (m : BitVec 4) (x : Bool)
  | vmaxn (s : Bool) (d a b : BitVec 5) (m : BitVec 4) (x : Bool)
  | vand (s : Bool) (d a b : BitVec 5) (m : BitVec 4) (x : Bool)
  | vor (s : Bool) (d a b : BitVec 5) (m : BitVec 4) (x : Bool)
  | vxor (s : Bool) (d a b : BitVec 5) (m : BitVec 4) (x : Bool)
  | vshl (s : Bool) (d a b : BitVec 5) (m : BitVec 4) (x : Bool)
  | vshr (s : Bool) (d a b : BitVec 5) (m : BitVec 4) (x : Bool)
  | vsra (s : Bool) (d a b : BitVec 5) (m : BitVec 4) (x : Bool)
  | vrshr (s : Bool) (d a b : BitVec 5) (m : BitVec 4) (x : Bool)
  | vrnshr (s : Bool) (d a b : BitVec 5) (m : BitVec 4) (x : Bool)
  | vadds (s : Bool) (d a b : BitVec 5) (m : BitVec 4) (x : Bool)
  | vsubs (s : Bool) (d a b : BitVec 5) (m : BitVec 4) (x : Bool)
  | vmac (s : Bool) (d a b : BitVec 5) (m : BitVec 4) (x : Bool)
  | vdot2 (s : Bool) (d a b : BitVec 5) (m : BitVec 4) (x : Bool)
  | vdot4 (s : Bool) (d a b : BitVec 5) (m : BitVec 4) (x : Bool)
  | vabs (s : Bool) (d a : BitVec 5) (m : BitVec 4) (x : Bool)
  | vavg (s : Bool) (d a b : BitVec 5) (m : BitVec 4) (x : Bool)
  | vwmul (s : Bool) (d a b : BitVec 5) (m : BitVec 4) (x : Bool)
  | vwadd (s : Bool) (d a b : BitVec 5) (m : BitVec 4) (x : Bool)
  | vaddG (s : Bool) (d a b : BitVec 5) (m : BitVec 4) (x : Bool)
  | vsubG (s : Bool) (d a b : BitVec 5) (m : BitVec 4) (x : Bool)
  | vmulG (s : Bool) (d a b : BitVec 5) (m : BitVec 4) (x : Bool)
  | vmulhG (s : Bool) (d a b : BitVec 5) (m : BitVec 4) (x : Bool)
  | vmulhnG (s : Bool) (d a b : BitVec 5) (m : BitVec 4) (x : Bool)
  | vminG (s : Bool) (d a b : BitVec 5) (m : BitVec 4) (x : Bool)
  | vmaxG (s : Bool) (d a b : BitVec 5) (m : BitVec 4) (x : Bool)
  | vminnG (s : Bool) (d a b : BitVec 5) (m : BitVec 4) (x : Bool)
  | vmaxnG (s : Bool) (d a b : BitVec 5) (m : BitVec 4) (x : Bool)
  | vandG (s : Bool) (d a b : BitVec 5) (m : BitVec 4) (x : Bool)
  | vorG (s : Bool) (d a b : BitVec 5) (m : BitVec 4) (x : Bool)
  | vxorG (s : Bool) (d a b : BitVec 5) (m : BitVec 4) (x : Bool)
  | vshlG (s : Bool) (d a b : BitVec 5) (m : BitVec 4) (x : Bool)
  | vshrG (s : Bool) (d a b : BitVec 5) (m : BitVec 4) (x : Bool)
  | vsraG (s : Bool) (d a b : BitVec 5) (m : BitVec 4) (x : Bool)
  | vrshrG (s : Bool) (d a b : BitVec 5) (m : BitVec 4) (x : Bool)
  | vrnshrG (s : Bool) (d a b : BitVec 5) (m : BitVec 4) (x : Bool)
  | vaddsG (s : Bool) (d a b : BitVec 5) (m : BitVec 4) (x : Bool)
  | vsubsG (s : Bool) (d a b : BitVec 5) (m : BitVec 4) (x : Bool)
  | vmacG (s : Bool) (d a b : BitVec 5) (m : BitVec 4) (x : Bool)
  | vdot2G (s : Bool) (d a b : BitVec 5) (m : BitVec 4) (x : Bool)
  | vdot4G (s : Bool) (d a b : BitVec 5) (m : BitVec 4) (x : Bool)
  | vavgG (s : Bool) (d a b : BitVec 5) (m : BitVec 4) (x : Bool)
  | vwmulG (s : Bool) (d a b : BitVec 5) (m : BitVec 4) (x : Bool)
  | vwaddG (s : Bool) (d a b : BitVec 5) (m : BitVec 4) (x : Bool)
  | vfadd (s : Bool) (d a b : BitVec 5) (m : BitVec 4) (x : Bool)
  | vfsub (s : Bool) (d a b : BitVec 5) (m : BitVec 4) (x : Bool)
  | vfmul (s : Bool) (d a b : BitVec 5) (m : BitVec 4) (x : Bool)
  | vfma (s : Bool) (d a b : BitVec 5) (m : BitVec 4) (x : Bool)
  | vfms (s : Bool) (d a b : BitVec 5) (m : BitVec 4) (x : Bool)
  | vfdiv (s : Bool) (d a b : BitVec 5) (m : BitVec 4) (x : Bool)
  | vfsqrt (s : Bool) (d a : BitVec 5) (m : BitVec 4) (x : Bool)
  | vfmin (s : Bool) (d a b : BitVec 5) (m : BitVec 4) (x : Bool)
  | vfmax (s : Bool) (d a b : BitVec 5) (m : BitVec 4) (x : Bool)
  | vfabs (s : Bool) (d a : BitVec 5) (m : BitVec 4) (x : Bool)
  | vfneg (s : Bool) (d a : BitVec 5) (m : BitVec 4) (x : Bool)
  | vfexp2 (s : Bool) (d a : BitVec 5) (m : BitVec 4) (x : Bool)
  | vflog2 (s : Bool) (d a : BitVec 5) (m : BitVec 4) (x : Bool)
  | vfrcp (s : Bool) (d a : BitVec 5) (m : BitVec 4) (x : Bool)
  | vfrsq (s : Bool) (d a : BitVec 5) (m : BitVec 4) (x : Bool)
  | vfclass (s : Bool) (d a : BitVec 5) (m : BitVec 4) (x : Bool)
  | vfsgnj (s : Bool) (d a b : BitVec 5) (m : BitVec 4) (x : Bool)
  | vfaddG (s : Bool) (d a b : BitVec 5) (m : BitVec 4) (x : Bool)
  | vfsubG (s : Bool) (d a b : BitVec 5) (m : BitVec 4) (x : Bool)
  | vfmulG (s : Bool) (d a b : BitVec 5) (m : BitVec 4) (x : Bool)
  | vfmaG (s : Bool) (d a b : BitVec 5) (m : BitVec 4) (x : Bool)
  | vfmsG (s : Bool) (d a b : BitVec 5) (m : BitVec 4) (x : Bool)
  | vfdivG (s : Bool) (d a b : BitVec 5) (m : BitVec 4) (x : Bool)
  | vfminG (s : Bool) (d a b : BitVec 5) (m : BitVec 4) (x : Bool)
  | vfmaxG (s : Bool) (d a b : BitVec 5) (m : BitVec 4) (x : Bool)
  | vfsgnjG (s : Bool) (d a b : BitVec 5) (m : BitVec 4) (x : Bool)
  | vcmpeq (s : Bool) (d a b : BitVec 5) (m : BitVec 4) (x g : Bool)
  | vcmpne (s : Bool) (d a b : BitVec 5) (m : BitVec 4) (x g : Bool)
  | vcmplt (s : Bool) (d a b : BitVec 5) (m : BitVec 4) (x g : Bool)
  | vcmpge (s : Bool) (d a b : BitVec 5) (m : BitVec 4) (x g : Bool)
  | vcmpltn (s : Bool) (d a b : BitVec 5) (m : BitVec 4) (x g : Bool)
  | vcmpgen (s : Bool) (d a b : BitVec 5) (m : BitVec 4) (x g : Bool)
  | vcmpfeq (s : Bool) (d a b : BitVec 5) (m : BitVec 4) (x g : Bool)
  | vcmpfne (s : Bool) (d a b : BitVec 5) (m : BitVec 4) (x g : Bool)
  | vcmpflt (s : Bool) (d a b : BitVec 5) (m : BitVec 4) (x g : Bool)
  | vcmpfge (s : Bool) (d a b : BitVec 5) (m : BitVec 4) (x g : Bool)
  | vcmpfun (s : Bool) (d a b : BitVec 5) (m : BitVec 4) (x g : Bool)
  | vcvt (s : Bool) (d a t : BitVec 5) (m : BitVec 4) (x r u : Bool) (c : BitVec 3)
  | vmv (s : Bool) (d a : BitVec 5) (m : BitVec 4) (x : Bool)
  | vbrd (s : Bool) (d b : BitVec 5) (m : BitVec 4) (x : Bool)
  | vext (s : Bool) (d a b : BitVec 5)
  | vins (s : Bool) (d a b : BitVec 5)
  | vmrg (s : Bool) (d a b : BitVec 5) (m : BitVec 4) (x : Bool)
  | viota (s : Bool) (d : BitVec 5) (m : BitVec 4) (x : Bool)
  | vrowb (s : Bool) (d a b : BitVec 5) (m : BitVec 4) (x : Bool)
  | vcolb (s : Bool) (d a b : BitVec 5) (m : BitVec 4) (x : Bool)
  | vslup (s : Bool) (d a b : BitVec 5) (m : BitVec 4) (x : Bool)
  | vsldn (s : Bool) (d a b : BitVec 5) (m : BitVec 4) (x : Bool)
  | vsl1up (s : Bool) (d a b : BitVec 5) (m : BitVec 4) (x : Bool)
  | vsl1dn (s : Bool) (d a b : BitVec 5) (m : BitVec 4) (x : Bool)
  | vgath (s : Bool) (d a b : BitVec 5) (m : BitVec 4) (x : Bool)
  | vtrn (s : Bool) (d a : BitVec 5) (m : BitVec 4)
  | vcprs (s : Bool) (d a : BitVec 5) (m : BitVec 4) (x : Bool)
  | vexpd (s : Bool) (d a : BitVec 5) (m : BitVec 4) (x : Bool)
  | vgxch (s : Bool) (d a b : BitVec 5) (m : BitVec 4)
  | vredsum (s : Bool) (d a : BitVec 5) (m : BitVec 4) (x r : Bool)
  | vredmin (s : Bool) (d a : BitVec 5) (m : BitVec 4) (x r : Bool)
  | vredmax (s : Bool) (d a : BitVec 5) (m : BitVec 4) (x r : Bool)
  | vredminn (s : Bool) (d a : BitVec 5) (m : BitVec 4) (x r : Bool)
  | vredmaxn (s : Bool) (d a : BitVec 5) (m : BitVec 4) (x r : Bool)
  | vredand (s : Bool) (d a : BitVec 5) (m : BitVec 4) (x r : Bool)
  | vredor (s : Bool) (d a : BitVec 5) (m : BitVec 4) (x r : Bool)
  | vredxor (s : Bool) (d a : BitVec 5) (m : BitVec 4) (x r : Bool)
  | vfredo (s : Bool) (d a : BitVec 5) (m : BitVec 4) (x r : Bool)
  | vfredt (s : Bool) (d a : BitVec 5) (m : BitVec 4) (x r : Bool)
  | vfredmax (s : Bool) (d a : BitVec 5) (m : BitVec 4) (x r : Bool)
  | vfredmin (s : Bool) (d a : BitVec 5) (m : BitVec 4) (x r : Bool)
  | vsmx (s : Bool) (d a b : BitVec 5) (m : BitVec 4) (x : Bool)
  | vsmg (s : Bool) (d a : BitVec 5)
  | vsmf (s : Bool) (d a : BitVec 5)
  | mand (s : Bool) (d a b : BitVec 5)
  | mor (s : Bool) (d a b : BitVec 5)
  | mxor (s : Bool) (d a b : BitVec 5)
  | mandn (s : Bool) (d a b : BitVec 5)
  | mpop (s : Bool) (d a : BitVec 5)
  | mfirst (s : Bool) (d a : BitVec 5)
  | mupto (s : Bool) (d a : BitVec 5)
  | mbefore (s : Bool) (d a : BitVec 5)
  | mscan (s : Bool) (d a : BitVec 5)
  | mmov (s : Bool) (d a : BitVec 5)
  | mld (s : Bool) (d a : BitVec 5)
  | mst (s : Bool) (d a : BitVec 5)
  | msetl (s : Bool) (d a : BitVec 5)
  | cld (s : Bool) (d a : BitVec 5)
  | cst (s : Bool) (d a : BitVec 5)
  | cset (s : Bool) (d a b : BitVec 5)
  | cmov (s : Bool) (d a : BitVec 5)
  | mring (s : Bool) (d a : BitVec 5)
  | mrcommit (s : Bool) (d a : BitVec 5)
  | mma (s : Bool) (d a : BitVec 5)
  | mmas (s : Bool) (d a b : BitVec 5)
  | mzero (s : Bool) (d : BitVec 5)
  | mrd (s : Bool) (d a b : BitVec 5)
  | mwr (s : Bool) (d a b : BitVec 5)
  | mbeg (s : Bool) (d : BitVec 5)
  | mend (s : Bool)
  | mrpop (s : Bool) (d a : BitVec 5)
  | mrq (s : Bool) (d a : BitVec 5)
  | toka (s : Bool) (d a : BitVec 5)
  | tokf (s : Bool) (a : BitVec 5)
  | toks (s : Bool) (a : BitVec 5)
  | tokt (s : Bool) (d a : BitVec 5)
  | tokr (s : Bool) (d a b : BitVec 5)
  | toke (s : Bool) (a b : BitVec 5)
  | await (s : Bool) (d a : BitVec 5) (l : BitVec 10)
  | yield (s : Bool) (l : BitVec 10)
  | spawn (s : Bool) (d a b : BitVec 5)
  | exit (s : Bool)
  | hop (s : Bool) (d a b : BitVec 5)
  | deposit (s : Bool) (d a b : BitVec 5)
  | prio (s : Bool) (a : BitVec 5)
  | self (s : Bool) (d a : BitVec 5)
  | pub (s : Bool) (d a : BitVec 5)
  | cadv (s : Bool)
  | item (s : Bool) (d a : BitVec 5)
  | cxq (s : Bool) (d a : BitVec 5)
  | bara (s : Bool) (d a b : BitVec 5)
  | barq (s : Bool) (d a : BitVec 5)
  | gang (s : Bool) (d a : BitVec 5)
  | ungang (s : Bool)
  | gshape (s : Bool) (a b : BitVec 5)
  | gcp (s : Bool) (d a b : BitVec 5)
  | gcpm (s : Bool) (d a b : BitVec 5)
  | gfill (s : Bool) (d a b : BitVec 5)
  | gred (s : Bool) (d a b : BitVec 5)
  | gq (s : Bool) (d : BitVec 5)
  | gcpr (s : Bool) (d a b : BitVec 5)
  | ssopen (s : Bool) (d a : BitVec 5)
  | ssld (s : Bool) (d a b : BitVec 5)
  | sscm (s : Bool) (d a b : BitVec 5)
  | ssroll (s : Bool) (d a b : BitVec 5)
  | ssfork (s : Bool) (d a b : BitVec 5)
  | sspin (s : Bool) (d a b : BitVec 5)
  | ssunpin (s : Bool) (d a b : BitVec 5)
  | ssq (s : Bool) (d a b : BitVec 5)
  | ssclose (s : Bool) (d a : BitVec 5)
  | launch (s : Bool) (d a b : BitVec 5)
  | sbind (s : Bool) (d a b : BitVec 5)
  | sunb (s : Bool) (d a : BitVec 5)
  | sq (s : Bool) (d a : BitVec 5)
  | acctrd (s : Bool) (d a : BitVec 5)
  | mark (s : Bool) (a : BitVec 5)
  | acctclr (s : Bool) (a : BitVec 5)
  | lix (s : Bool) (d : BitVec 5) (e : BitVec 32)
  | lixh (s : Bool) (d : BitVec 5) (e : BitVec 32)
  | mcmd (s : Bool) (d a b : BitVec 5) (e : BitVec 32)
  | mdist (s : Bool) (d a b : BitVec 5) (e : BitVec 32)
  | unassignedEncoding (r : EncodingFault) (w : BitVec 32)
  | hopArrival (i : Nat)
  | hbmRefresh (die bank : Nat)
  | burstClockChange (fast : Bool)
  | supplyLoss
  | fuseVersionAdvance (version : Nat)
  | clusterSramBankFault (cluster bank : Nat)
  | cxlDeviceFailure (port : Nat)
  deriving DecidableEq, Repr

end Sys2Proof
end

