-- ==== Sys2Proof/WellFormed.lean ====
section
/-! DEFINITION. What makes an instruction well formed beyond its fields: the register classes of R18, the Couloir fields of
R17, and the reserved values and combinations that the instructions' descriptions give (R29, R30). -/

namespace Sys2Proof

/-- A register field that names one of the 16 mask registers (R18). -/
def isMask (d : BitVec 5) : Bool := d.ult 16

/-- A field of `mmov`: a mask register, `XM` or `FLTM` (R18, R129). -/
def isMaskOrSpecial (d : BitVec 5) : Bool := d.ult 18

/-- A register field that names one of eight: a scale register, a tile or a ring (R18). -/
def isLow8 (d : BitVec 5) : Bool := d.ult 8

/-- A carriable register, `g16` to `g23` (R17, R18). -/
def isCarriable (a : BitVec 5) : Bool := a.extractLsb' 3 2 == 2#2

/-- A deposit-capable register, `g24` to `g27` (R18, R170). -/
def isDeposit (d : BitVec 5) : Bool := d.extractLsb' 2 3 == 6#3

/-- The Couloir fields of R17: a chain operand names a carriable register, and only a chain operand is consumed. -/
def chainOk (a : BitVec 5) (k : BitVec 2) (n : Bool) : Bool := if k == 0 then !n else isCarriable a

/-- The type codes of R42 and R44. -/
def isTypeCode (t : BitVec 5) : Bool := (t != 0 && t.ult 0x0B) || (!t.ult 0x10 && t.ult 0x18)

/-- The pointer fields of a Q word (R29, R128): at most four, those beyond the count zero, none named twice. -/
def stripOk (p0 p1 p2 p3 n : BitVec 3) : Bool :=
  match n.toNat with
  | 0 => p0 == 0 && p1 == 0 && p2 == 0 && p3 == 0
  | 1 => p1 == 0 && p2 == 0 && p3 == 0
  | 2 => p2 == 0 && p3 == 0 && p0 != p1
  | 3 => p3 == 0 && p0 != p1 && p0 != p2 && p1 != p2
  | 4 => p0 != p1 && p0 != p2 && p0 != p3 && p1 != p2 && p1 != p3 && p2 != p3
  | _ => false

/-- The special indices whose `WRS` is a row of its own in the opcode table. -/
def ownRowIndex (x : BitVec 12) : Bool :=
  x == 0x006#12 || x == 0x024#12 || x == 0x023#12 || x == 0x841#12 || x == 0x840#12 || x == 0x880#12 || x == 0x813#12 || x == 0x815#12 || x == 0x872#12 || x == 0x863#12 || x == 0x864#12 || x == 0x8B2#12

/-- Well-formedness of an instruction. The steps of the device carry no fields to check; `unassignedEncoding` stands for
words that are not well formed. -/
def Instr.wf : Instr → Bool
  | .deviceReset => true
  | .powerUp _ _ => true
  | .shockEvent _ => true
  | .pendingResultReturn _ _ => true
  | .ldqReply _ => true
  | .tokenSignalArrival _ => true
  | .tokenFailArrival _ => true
  | .depositArrival _ => true
  | .resumeDecision _ => true
  | .preemptRequest _ _ => true
  | .suspendedImageMove _ _ => true
  | .cleanRowCopy _ _ => true
  | .preemptLift _ _ => true
  | .trapDelivery _ => true
  | .trapSlotFreed _ => true
  | .imageUncorrectable _ _ => true
  | .cellUncorrectable _ _ => true
  | .parkTimeout _ => true
  | .fimetUnpark _ => true
  | .vectorExecute _ => true
  | .debugStopTakesEffect _ => true
  | .streamFillArrival _ _ _ => true
  | .streamDrainComplete _ _ => true
  | .matrixCommandExecute _ => true
  | .remoteMatrixCommand _ => true
  | .feBankAnswer _ => true
  | .waiterWake _ => true
  | .waiterTableTimeout _ _ => true
  | .waitLimitExpiry _ _ => true
  | .bankModeChange _ => true
  | .barrierArrival _ => true
  | .gondolaCopyComplete _ _ => true
  | .barrierCellError _ _ _ => true
  | .gondolaEngineFailure _ _ => true
  | .coreFailure _ => true
  | .slotTableSwap _ => true
  | .messagePacketArrival _ _ _ _ _ => true
  | .memoryRequest _ => true
  | .responseArrival _ => true
  | .reduceAddArrival _ => true
  | .l2BankFailure _ _ _ => true
  | .rowActivateHint _ => true
  | .patrolScrub _ _ => true
  | .linkRetrainStart _ => true
  | .linkRetrainComplete _ => true
  | .linkDownTimeout _ => true
  | .moraineRequest _ => true
  | .moraineMovementComplete _ _ => true
  | .moraineMetadataError _ _ => true
  | .faultBatchWrite => true
  | .engineFaultReport _ => true
  | .migrationStart => true
  | .migrationCopyStep _ => true
  | .migrationFinish _ => true
  | .dumpStart => true
  | .dumpPageCopy => true
  | .dumpComplete => true
  | .launchPortWrite _ _ _ _ => true
  | .launchAdmission => true
  | .dependencyReport _ _ => true
  | .launchPlacement _ _ _ => true
  | .itemStart _ => true
  | .launchFinish _ => true
  | .cancelComplete _ => true
  | .couloirPublicationDelivery _ => true
  | .podRemoteAccess _ => true
  | .pathDownTimeout _ => true
  | .remoteControlMessage _ => true
  | .netDoorbellAcquire _ => true
  | .netPacketArrival _ _ => true
  | .netRetransmitTimeout _ => true
  | .placementRequest _ => true
  | .placementUpdate _ => true
  | .supplyDroop => true
  | .stretchRecovery => true
  | .rideEntry => true
  | .rideRecovery => true
  | .quiesceEntry => true
  | .quiesceComplete => true
  | .heldRestart => true
  | .thermalRide => true
  | .thermalReturn => true
  | .thermalQuiesce => true
  | .profileSwitch => true
  | .hostMemoryAccess _ _ _ _ => true
  | .attest _ _ => true
  | .extentadd _ _ => true
  | .extentrel _ => true
  | .setvec _ _ _ => true
  | .mbxProfile _ => true
  | .debugstop _ _ => true
  | .selftest _ => true
  | .wrsVtype _ _ => true
  | .wrsVbank _ _ => true
  | .wrsCclimit _ _ => true
  | .wrsSlotpol _ _ => true
  | .wrsRedcfg _ _ => true
  | .wrsProfile _ _ => true
  | .wrsAcctctl _ _ => true
  | .wrsTrptr _ _ => true
  | .wrsLcancel _ _ => true
  | .wrsMigdoor _ _ => true
  | .wrsDumpdoor _ _ => true
  | .wrsNetreload _ _ => true
  | .illegal _ => true
  | .trap _ _ => true
  | .rett _ _ => true
  | .synci _ => true
  | .mapfence _ => true
  | .tlbinv _ _ _ => true
  | .uefix _ _ => true
  | .mxsave _ _ => true
  | .mxrst _ _ => true
  | .park _ _ => true
  | .rds _ _ _ => true
  | .wrs _ _ x => !ownRowIndex x
  | .add _ _ a _ k n => chainOk a k n
  | .sub _ _ a _ k n => chainOk a k n
  | .and _ _ a _ k n => chainOk a k n
  | .or _ _ a _ k n => chainOk a k n
  | .xor _ _ a _ k n => chainOk a k n
  | .andn _ _ a _ k n => chainOk a k n
  | .orn _ _ a _ k n => chainOk a k n
  | .shl _ _ a _ k n => chainOk a k n
  | .shr _ _ a _ k n => chainOk a k n
  | .sra _ _ a _ k n => chainOk a k n
  | .rot _ _ a _ k n => chainOk a k n
  | .min _ _ a _ k n => chainOk a k n
  | .max _ _ a _ k n => chainOk a k n
  | .minn _ _ a _ k n => chainOk a k n
  | .maxn _ _ a _ k n => chainOk a k n
  | .mul _ _ a _ k n => chainOk a k n
  | .mulh _ _ a _ k n => chainOk a k n
  | .mulhn _ _ a _ k n => chainOk a k n
  | .div _ _ a _ k n => chainOk a k n
  | .divn _ _ a _ k n => chainOk a k n
  | .rem _ _ a _ k n => chainOk a k n
  | .remn _ _ a _ k n => chainOk a k n
  | .clz _ _ a k n => chainOk a k n
  | .ctz _ _ a k n => chainOk a k n
  | .popc _ _ a k n => chainOk a k n
  | .sext _ _ a _ k n => chainOk a k n
  | .zext _ _ a _ k n => chainOk a k n
  | .sel _ _ a _ k n => chainOk a k n
  | .addi _ _ _ _ => true
  | .andi _ _ _ _ => true
  | .ori _ _ _ _ => true
  | .xori _ _ _ _ => true
  | .shli _ _ _ _ => true
  | .shri _ _ _ _ => true
  | .srai _ _ _ _ => true
  | .roti _ _ _ _ => true
  | .li _ _ _ => true
  | .lsh _ _ _ => true
  | .addpc _ _ _ => true
  | .seteq _ _ a _ k n => chainOk a k n
  | .setne _ _ a _ k n => chainOk a k n
  | .setlt _ _ a _ k n => chainOk a k n
  | .setge _ _ a _ k n => chainOk a k n
  | .setltn _ _ a _ k n => chainOk a k n
  | .setgen _ _ a _ k n => chainOk a k n
  | .seteqi _ _ _ _ => true
  | .setnei _ _ _ _ => true
  | .setlti _ _ _ _ => true
  | .setgei _ _ _ _ => true
  | .setltni _ _ _ _ => true
  | .setgeni _ _ _ _ => true
  | .bfx _ _ _ p w => p.toNat + w.toNat < 64
  | .bfi _ _ _ p w => p.toNat + w.toNat < 64
  | .adda _ _ a _ k n => chainOk a k n
  | .tagset _ _ a _ k n => chainOk a k n
  | .tagget _ _ a k n => chainOk a k n
  | .pdiff _ _ a _ k n => chainOk a k n
  | .beqz _ _ _ => true
  | .bnez _ _ _ => true
  | .bltz _ _ _ => true
  | .bgez _ _ _ => true
  | .blez _ _ _ => true
  | .bgtz _ _ _ => true
  | .beq _ _ _ _ => true
  | .bne _ _ _ _ => true
  | .blt _ _ _ _ => true
  | .bge _ _ _ _ => true
  | .bltn _ _ _ _ => true
  | .bgen _ _ _ _ => true
  | .jal _ _ => true
  | .j _ _ => true
  | .jr _ _ => true
  | .jalr _ _ _ => true
  | .dbnz _ _ _ => true
  | .ldp _ _ _ _ => true
  | .ldI8 _ _ _ _ => true
  | .ldN8 _ _ _ _ => true
  | .ldI16 _ _ _ _ => true
  | .ldN16 _ _ _ _ => true
  | .ldI32 _ _ _ _ => true
  | .ldN32 _ _ _ _ => true
  | .ldI64 _ _ _ _ => true
  | .st8 _ _ _ _ => true
  | .st16 _ _ _ _ => true
  | .st32 _ _ _ _ => true
  | .st64 _ _ _ _ => true
  | .ldq _ d _ b => (b != d || d == 0)
  | .stq _ _ _ _ => true
  | .amoadd _ _ _ _ p o => p.ult 6 && o.ult 4
  | .amoand _ _ _ _ p o => p.ult 6 && o.ult 4
  | .amoor _ _ _ _ p o => p.ult 6 && o.ult 4
  | .amoxor _ _ _ _ p o => p.ult 6 && o.ult 4
  | .amomin _ _ _ _ p o => p.ult 6 && o.ult 4
  | .amomax _ _ _ _ p o => p.ult 6 && o.ult 4
  | .amominn _ _ _ _ p o => p.ult 6 && o.ult 4
  | .amomaxn _ _ _ _ p o => p.ult 6 && o.ult 4
  | .amoswap _ _ _ _ p o => p.ult 6 && o.ult 4
  | .amofadd32 _ _ _ _ p o => p.ult 6 && o.ult 4
  | .amofmax32 _ _ _ _ p o => p.ult 6 && o.ult 4
  | .cas _ _ _ _ p o => p.ult 6 && o.ult 4
  | .ldfe _ _ _ => true
  | .stfe _ _ _ => true
  | .feinit _ _ _ => true
  | .fefill _ _ _ => true
  | .feq _ _ _ => true
  | .fence _ c k => c.ult 6 && k != 0
  | .pin _ _ _ => true
  | .unpin _ _ _ => true
  | .cflush _ _ _ => true
  | .cinv _ _ _ => true
  | .pref _ _ _ => true
  | .bankcfg _ _ _ _ => true
  | .setl _ _ _ _ => true
  | .strip _ _ _ e f g h n => stripOk e f g h n
  | .vld _ _ _ _ _ _ _ => true
  | .vlds _ _ _ _ _ _ _ => true
  | .vldx _ _ _ _ _ _ _ => true
  | .vldff _ _ _ _ _ _ _ => true
  | .vst _ _ _ _ _ _ _ => true
  | .vsts _ _ _ _ _ _ _ => true
  | .vstx _ _ _ _ _ _ _ => true
  | .vstra _ _ _ _ _ _ _ => true
  | .vadd _ _ _ _ _ _ => true
  | .vsub _ _ _ _ _ _ => true
  | .vmul _ _ _ _ _ _ => true
  | .vmulh _ _ _ _ _ _ => true
  | .vmulhn _ _ _ _ _ _ => true
  | .vmin _ _ _ _ _ _ => true
  | .vmax _ _ _ _ _ _ => true
  | .vminn _ _ _ _ _ _ => true
  | .vmaxn _ _ _ _ _ _ => true
  | .vand _ _ _ _ _ _ => true
  | .vor _ _ _ _ _ _ => true
  | .vxor _ _ _ _ _ _ => true
  | .vshl _ _ _ _ _ _ => true
  | .vshr _ _ _ _ _ _ => true
  | .vsra _ _ _ _ _ _ => true
  | .vrshr _ _ _ _ _ _ => true
  | .vrnshr _ _ _ _ _ _ => true
  | .vadds _ _ _ _ _ _ => true
  | .vsubs _ _ _ _ _ _ => true
  | .vmac _ _ _ _ _ _ => true
  | .vdot2 _ _ _ _ _ _ => true
  | .vdot4 _ _ _ _ _ _ => true
  | .vabs _ _ _ _ _ => true
  | .vavg _ _ _ _ _ _ => true
  | .vwmul _ _ _ _ _ _ => true
  | .vwadd _ _ _ _ _ _ => true
  | .vaddG _ _ _ _ _ _ => true
  | .vsubG _ _ _ _ _ _ => true
  | .vmulG _ _ _ _ _ _ => true
  | .vmulhG _ _ _ _ _ _ => true
  | .vmulhnG _ _ _ _ _ _ => true
  | .vminG _ _ _ _ _ _ => true
  | .vmaxG _ _ _ _ _ _ => true
  | .vminnG _ _ _ _ _ _ => true
  | .vmaxnG _ _ _ _ _ _ => true
  | .vandG _ _ _ _ _ _ => true
  | .vorG _ _ _ _ _ _ => true
  | .vxorG _ _ _ _ _ _ => true
  | .vshlG _ _ _ _ _ _ => true
  | .vshrG _ _ _ _ _ _ => true
  | .vsraG _ _ _ _ _ _ => true
  | .vrshrG _ _ _ _ _ _ => true
  | .vrnshrG _ _ _ _ _ _ => true
  | .vaddsG _ _ _ _ _ _ => true
  | .vsubsG _ _ _ _ _ _ => true
  | .vmacG _ _ _ _ _ _ => true
  | .vdot2G _ _ _ _ _ _ => true
  | .vdot4G _ _ _ _ _ _ => true
  | .vavgG _ _ _ _ _ _ => true
  | .vwmulG _ _ _ _ _ _ => true
  | .vwaddG _ _ _ _ _ _ => true
  | .vfadd _ _ _ _ _ _ => true
  | .vfsub _ _ _ _ _ _ => true
  | .vfmul _ _ _ _ _ _ => true
  | .vfma _ _ _ _ _ _ => true
  | .vfms _ _ _ _ _ _ => true
  | .vfdiv _ _ _ _ _ _ => true
  | .vfsqrt _ _ _ _ _ => true
  | .vfmin _ _ _ _ _ _ => true
  | .vfmax _ _ _ _ _ _ => true
  | .vfabs _ _ _ _ _ => true
  | .vfneg _ _ _ _ _ => true
  | .vfexp2 _ _ _ _ _ => true
  | .vflog2 _ _ _ _ _ => true
  | .vfrcp _ _ _ _ _ => true
  | .vfrsq _ _ _ _ _ => true
  | .vfclass _ _ _ _ _ => true
  | .vfsgnj _ _ _ _ _ _ => true
  | .vfaddG _ _ _ _ _ _ => true
  | .vfsubG _ _ _ _ _ _ => true
  | .vfmulG _ _ _ _ _ _ => true
  | .vfmaG _ _ _ _ _ _ => true
  | .vfmsG _ _ _ _ _ _ => true
  | .vfdivG _ _ _ _ _ _ => true
  | .vfminG _ _ _ _ _ _ => true
  | .vfmaxG _ _ _ _ _ _ => true
  | .vfsgnjG _ _ _ _ _ _ => true
  | .vcmpeq _ d _ _ _ _ _ => isMask d
  | .vcmpne _ d _ _ _ _ _ => isMask d
  | .vcmplt _ d _ _ _ _ _ => isMask d
  | .vcmpge _ d _ _ _ _ _ => isMask d
  | .vcmpltn _ d _ _ _ _ _ => isMask d
  | .vcmpgen _ d _ _ _ _ _ => isMask d
  | .vcmpfeq _ d _ _ _ _ _ => isMask d
  | .vcmpfne _ d _ _ _ _ _ => isMask d
  | .vcmpflt _ d _ _ _ _ _ => isMask d
  | .vcmpfge _ d _ _ _ _ _ => isMask d
  | .vcmpfun _ d _ _ _ _ _ => isMask d
  | .vcvt _ _ _ t _ _ _ u c => isTypeCode t && (u || c == 0)
  | .vmv _ _ _ _ _ => true
  | .vbrd _ _ _ _ _ => true
  | .vext _ _ _ _ => true
  | .vins _ _ _ _ => true
  | .vmrg _ _ _ _ _ _ => true
  | .viota _ _ _ _ => true
  | .vrowb _ _ _ _ _ _ => true
  | .vcolb _ _ _ _ _ _ => true
  | .vslup _ _ _ _ _ _ => true
  | .vsldn _ _ _ _ _ _ => true
  | .vsl1up _ _ _ _ _ _ => true
  | .vsl1dn _ _ _ _ _ _ => true
  | .vgath _ _ _ _ _ _ => true
  | .vtrn _ _ _ _ => true
  | .vcprs _ _ _ _ _ => true
  | .vexpd _ _ _ _ _ => true
  | .vgxch _ _ _ _ _ => true
  | .vredsum _ _ _ _ _ _ => true
  | .vredmin _ _ _ _ _ _ => true
  | .vredmax _ _ _ _ _ _ => true
  | .vredminn _ _ _ _ _ _ => true
  | .vredmaxn _ _ _ _ _ _ => true
  | .vredand _ _ _ _ _ _ => true
  | .vredor _ _ _ _ _ _ => true
  | .vredxor _ _ _ _ _ _ => true
  | .vfredo _ _ _ _ _ _ => true
  | .vfredt _ _ _ _ _ _ => true
  | .vfredmax _ _ _ _ _ _ => true
  | .vfredmin _ _ _ _ _ _ => true
  | .vsmx _ d a _ _ _ => d != a
  | .vsmg _ d a => !d.getLsbD 0 && !a.getLsbD 0 && d != a
  | .vsmf _ d a => !a.getLsbD 0 && d != a
  | .mand _ d a b => isMask d && isMask a && isMask b
  | .mor _ d a b => isMask d && isMask a && isMask b
  | .mxor _ d a b => isMask d && isMask a && isMask b
  | .mandn _ d a b => isMask d && isMask a && isMask b
  | .mpop _ _ a => isMask a
  | .mfirst _ _ a => isMask a
  | .mupto _ d a => isMask d && isMask a
  | .mbefore _ d a => isMask d && isMask a
  | .mscan _ _ a => isMask a
  | .mmov _ d a => isMaskOrSpecial d && isMaskOrSpecial a
  | .mld _ d _ => isMask d
  | .mst _ d _ => isMask d
  | .msetl _ d _ => isMask d
  | .cld _ d _ => isLow8 d
  | .cst _ d _ => isLow8 d
  | .cset _ d _ _ => isLow8 d
  | .cmov _ d a => isLow8 d && isLow8 a
  | .mring _ d _ => isLow8 d
  | .mrcommit _ d _ => isLow8 d
  | .mma _ d _ => isLow8 d
  | .mmas _ d _ b => isLow8 d && isMask b && b != 0
  | .mzero _ d => isLow8 d
  | .mrd _ _ a _ => isLow8 a
  | .mwr _ d _ _ => isLow8 d
  | .mbeg _ _ => true
  | .mend _ => true
  | .mrpop _ d _ => isLow8 d
  | .mrq _ _ a => isLow8 a
  | .toka _ _ _ => true
  | .tokf _ _ => true
  | .toks _ _ => true
  | .tokt _ _ _ => true
  | .tokr _ _ _ _ => true
  | .toke _ _ _ => true
  | .await _ _ _ _ => true
  | .yield _ _ => true
  | .spawn _ _ _ _ => true
  | .exit _ => true
  | .hop _ _ _ _ => true
  | .deposit _ d _ _ => isDeposit d
  | .prio _ _ => true
  | .self _ _ _ => true
  | .pub _ _ a => isCarriable a
  | .cadv _ => true
  | .item _ _ _ => true
  | .cxq _ _ _ => true
  | .bara _ _ _ _ => true
  | .barq _ _ _ => true
  | .gang _ _ _ => true
  | .ungang _ => true
  | .gshape _ _ _ => true
  | .gcp _ _ _ _ => true
  | .gcpm _ _ _ _ => true
  | .gfill _ _ _ _ => true
  | .gred _ _ _ _ => true
  | .gq _ _ => true
  | .gcpr _ _ _ _ => true
  | .ssopen _ _ _ => true
  | .ssld _ _ _ _ => true
  | .sscm _ _ _ _ => true
  | .ssroll _ _ _ _ => true
  | .ssfork _ _ _ _ => true
  | .sspin _ _ _ _ => true
  | .ssunpin _ _ _ _ => true
  | .ssq _ _ _ _ => true
  | .ssclose _ _ _ => true
  | .launch _ _ _ _ => true
  | .sbind _ _ _ _ => true
  | .sunb _ _ _ => true
  | .sq _ _ _ => true
  | .acctrd _ _ _ => true
  | .mark _ _ => true
  | .acctclr _ _ => true
  | .lix _ _ _ => true
  | .lixh _ _ _ => true
  | .mcmd _ _ _ b _ => !b.getLsbD 0
  | .mdist _ _ _ b _ => !b.getLsbD 0
  | .unassignedEncoding _ _ => false
  | .hopArrival _ => true
  | .hbmRefresh _ _ => true
  | .burstClockChange _ => true
  | .supplyLoss => true
  | .fuseVersionAdvance _ => true
  | .clusterSramBankFault _ _ => true
  | .cxlDeviceFailure _ => true

end Sys2Proof
end

