-- ==== Sys2Proof/Decode.lean ====
section
/-! DEFINITION. Decoding of instruction words under R13-R30 and their encoding, both from the encoding tables of the
spec: the formats of R15, the opcode map of R26 and the splits of R27. A word that names no instruction decodes to
`unassignedEncoding` with the reason (R30).
The section is noncomputable because the compiler's runtime has no tag for the later constructors of `Instr`; the kernel
evaluates every definition of it. -/

noncomputable section

namespace Sys2Proof

/-- The major opcode (R14). -/
def majorOf (w : BitVec 32) : Nat := (w.extractLsb' 25 6).toNat

/-- Why a word whose reserved bits are zero still names no instruction (R30): its Couloir fields, or a register field. -/
def faultReason (w : BitVec 32) : EncodingFault :=
  let chain := majorOf w == 0x02 || majorOf w == 0x0B || majorOf w == 0x0E
  let k := w.extractLsb' 8 2
  if chain && w.getLsbD 7 && k == 0 then .consumeWithoutChain
  else if chain && k != 0 && (w.extractLsb' 18 2) != 2#2 then .couloirField
  else .register

/-- The instruction `i` read from `w`, unless a reserved field of `w` is nonzero or `i` breaks a rule of its operands. -/
def accept (reservedZero : Bool) (i : Instr) (w : BitVec 32) : Instr :=
  if reservedZero then (if i.wf then i else .unassignedEncoding (faultReason w) w)
  else .unassignedEncoding .reserved w

/-- Major 0x00 (R26). -/
def decodeSys (w : BitVec 32) : Instr :=
  match (w.extractLsb' 0 7).toNat with
  | 0 => accept ((w.extractLsb' 7 18) == 0) (.illegal (w.getLsbD 31)) w
  | 1 => accept ((w.extractLsb' 20 5) == 0 && (w.extractLsb' 7 8) == 0) (.trap (w.getLsbD 31) (w.extractLsb' 15 5)) w
  | 2 => accept ((w.extractLsb' 20 5) == 0 && (w.extractLsb' 7 8) == 0) (.rett (w.getLsbD 31) (w.extractLsb' 15 5)) w
  | 3 => accept ((w.extractLsb' 7 18) == 0) (.synci (w.getLsbD 31)) w
  | 4 => accept ((w.extractLsb' 7 18) == 0) (.mapfence (w.getLsbD 31)) w
  | 5 => accept ((w.extractLsb' 20 5) == 0 && (w.extractLsb' 7 3) == 0) (.tlbinv (w.getLsbD 31) (w.extractLsb' 15 5) (w.extractLsb' 10 5)) w
  | 6 => accept ((w.extractLsb' 20 5) == 0 && (w.extractLsb' 7 8) == 0) (.uefix (w.getLsbD 31) (w.extractLsb' 15 5)) w
  | 7 => accept ((w.extractLsb' 20 5) == 0 && (w.extractLsb' 7 8) == 0) (.mxsave (w.getLsbD 31) (w.extractLsb' 15 5)) w
  | 8 => accept ((w.extractLsb' 20 5) == 0 && (w.extractLsb' 7 8) == 0) (.mxrst (w.getLsbD 31) (w.extractLsb' 15 5)) w
  | 9 => accept ((w.extractLsb' 20 5) == 0 && (w.extractLsb' 7 8) == 0) (.park (w.getLsbD 31) (w.extractLsb' 15 5)) w
  | _ => .unassignedEncoding .function w

/-- The `WRS` forms (R27, R105): the indices whose write is a row of its own, then every other index. -/
def wrsForm (s : Bool) (a : BitVec 5) (x : BitVec 12) : Instr :=
  match x.toNat with
  | 0x006 => .wrsVtype s a
  | 0x024 => .wrsVbank s a
  | 0x023 => .wrsCclimit s a
  | 0x841 => .wrsSlotpol s a
  | 0x840 => .wrsRedcfg s a
  | 0x880 => .wrsProfile s a
  | 0x813 => .wrsAcctctl s a
  | 0x815 => .wrsTrptr s a
  | 0x872 => .wrsLcancel s a
  | 0x863 => .wrsMigdoor s a
  | 0x864 => .wrsDumpdoor s a
  | 0x8B2 => .wrsNetreload s a
  | _ => .wrs s a x

/-- Major 0x01 (R27). -/
def decodeSpec (w : BitVec 32) : Instr :=
  match (w.extractLsb' 14 1).toNat with
  | 0 => accept ((w.extractLsb' 15 5) == 0 && (w.extractLsb' 12 2) == 0) (.rds (w.getLsbD 31) (w.extractLsb' 20 5) (w.extractLsb' 0 12)) w
  | _ => accept ((w.extractLsb' 20 5) == 0 && (w.extractLsb' 12 2) == 0) (wrsForm (w.getLsbD 31) (w.extractLsb' 15 5) (w.extractLsb' 0 12)) w

/-- Major 0x02 (R26). -/
def decodeAlu (w : BitVec 32) : Instr :=
  match (w.extractLsb' 0 7).toNat with
  | 0 => accept (true) (.add (w.getLsbD 31) (w.extractLsb' 20 5) (w.extractLsb' 15 5) (w.extractLsb' 10 5) (w.extractLsb' 8 2) (w.getLsbD 7)) w
  | 1 => accept (true) (.sub (w.getLsbD 31) (w.extractLsb' 20 5) (w.extractLsb' 15 5) (w.extractLsb' 10 5) (w.extractLsb' 8 2) (w.getLsbD 7)) w
  | 2 => accept (true) (.and (w.getLsbD 31) (w.extractLsb' 20 5) (w.extractLsb' 15 5) (w.extractLsb' 10 5) (w.extractLsb' 8 2) (w.getLsbD 7)) w
  | 3 => accept (true) (.or (w.getLsbD 31) (w.extractLsb' 20 5) (w.extractLsb' 15 5) (w.extractLsb' 10 5) (w.extractLsb' 8 2) (w.getLsbD 7)) w
  | 4 => accept (true) (.xor (w.getLsbD 31) (w.extractLsb' 20 5) (w.extractLsb' 15 5) (w.extractLsb' 10 5) (w.extractLsb' 8 2) (w.getLsbD 7)) w
  | 5 => accept (true) (.andn (w.getLsbD 31) (w.extractLsb' 20 5) (w.extractLsb' 15 5) (w.extractLsb' 10 5) (w.extractLsb' 8 2) (w.getLsbD 7)) w
  | 6 => accept (true) (.orn (w.getLsbD 31) (w.extractLsb' 20 5) (w.extractLsb' 15 5) (w.extractLsb' 10 5) (w.extractLsb' 8 2) (w.getLsbD 7)) w
  | 7 => accept (true) (.shl (w.getLsbD 31) (w.extractLsb' 20 5) (w.extractLsb' 15 5) (w.extractLsb' 10 5) (w.extractLsb' 8 2) (w.getLsbD 7)) w
  | 8 => accept (true) (.shr (w.getLsbD 31) (w.extractLsb' 20 5) (w.extractLsb' 15 5) (w.extractLsb' 10 5) (w.extractLsb' 8 2) (w.getLsbD 7)) w
  | 9 => accept (true) (.sra (w.getLsbD 31) (w.extractLsb' 20 5) (w.extractLsb' 15 5) (w.extractLsb' 10 5) (w.extractLsb' 8 2) (w.getLsbD 7)) w
  | 10 => accept (true) (.rot (w.getLsbD 31) (w.extractLsb' 20 5) (w.extractLsb' 15 5) (w.extractLsb' 10 5) (w.extractLsb' 8 2) (w.getLsbD 7)) w
  | 11 => accept (true) (.min (w.getLsbD 31) (w.extractLsb' 20 5) (w.extractLsb' 15 5) (w.extractLsb' 10 5) (w.extractLsb' 8 2) (w.getLsbD 7)) w
  | 12 => accept (true) (.max (w.getLsbD 31) (w.extractLsb' 20 5) (w.extractLsb' 15 5) (w.extractLsb' 10 5) (w.extractLsb' 8 2) (w.getLsbD 7)) w
  | 13 => accept (true) (.minn (w.getLsbD 31) (w.extractLsb' 20 5) (w.extractLsb' 15 5) (w.extractLsb' 10 5) (w.extractLsb' 8 2) (w.getLsbD 7)) w
  | 14 => accept (true) (.maxn (w.getLsbD 31) (w.extractLsb' 20 5) (w.extractLsb' 15 5) (w.extractLsb' 10 5) (w.extractLsb' 8 2) (w.getLsbD 7)) w
  | 15 => accept (true) (.mul (w.getLsbD 31) (w.extractLsb' 20 5) (w.extractLsb' 15 5) (w.extractLsb' 10 5) (w.extractLsb' 8 2) (w.getLsbD 7)) w
  | 16 => accept (true) (.mulh (w.getLsbD 31) (w.extractLsb' 20 5) (w.extractLsb' 15 5) (w.extractLsb' 10 5) (w.extractLsb' 8 2) (w.getLsbD 7)) w
  | 17 => accept (true) (.mulhn (w.getLsbD 31) (w.extractLsb' 20 5) (w.extractLsb' 15 5) (w.extractLsb' 10 5) (w.extractLsb' 8 2) (w.getLsbD 7)) w
  | 18 => accept (true) (.div (w.getLsbD 31) (w.extractLsb' 20 5) (w.extractLsb' 15 5) (w.extractLsb' 10 5) (w.extractLsb' 8 2) (w.getLsbD 7)) w
  | 19 => accept (true) (.divn (w.getLsbD 31) (w.extractLsb' 20 5) (w.extractLsb' 15 5) (w.extractLsb' 10 5) (w.extractLsb' 8 2) (w.getLsbD 7)) w
  | 20 => accept (true) (.rem (w.getLsbD 31) (w.extractLsb' 20 5) (w.extractLsb' 15 5) (w.extractLsb' 10 5) (w.extractLsb' 8 2) (w.getLsbD 7)) w
  | 21 => accept (true) (.remn (w.getLsbD 31) (w.extractLsb' 20 5) (w.extractLsb' 15 5) (w.extractLsb' 10 5) (w.extractLsb' 8 2) (w.getLsbD 7)) w
  | 22 => accept ((w.extractLsb' 10 5) == 0) (.clz (w.getLsbD 31) (w.extractLsb' 20 5) (w.extractLsb' 15 5) (w.extractLsb' 8 2) (w.getLsbD 7)) w
  | 23 => accept ((w.extractLsb' 10 5) == 0) (.ctz (w.getLsbD 31) (w.extractLsb' 20 5) (w.extractLsb' 15 5) (w.extractLsb' 8 2) (w.getLsbD 7)) w
  | 24 => accept ((w.extractLsb' 10 5) == 0) (.popc (w.getLsbD 31) (w.extractLsb' 20 5) (w.extractLsb' 15 5) (w.extractLsb' 8 2) (w.getLsbD 7)) w
  | 25 => accept (true) (.sext (w.getLsbD 31) (w.extractLsb' 20 5) (w.extractLsb' 15 5) (w.extractLsb' 10 5) (w.extractLsb' 8 2) (w.getLsbD 7)) w
  | 26 => accept (true) (.zext (w.getLsbD 31) (w.extractLsb' 20 5) (w.extractLsb' 15 5) (w.extractLsb' 10 5) (w.extractLsb' 8 2) (w.getLsbD 7)) w
  | 27 => accept (true) (.sel (w.getLsbD 31) (w.extractLsb' 20 5) (w.extractLsb' 15 5) (w.extractLsb' 10 5) (w.extractLsb' 8 2) (w.getLsbD 7)) w
  | _ => .unassignedEncoding .function w

/-- Major 0x07 (R26). -/
def decodeShi (w : BitVec 32) : Instr :=
  match (w.extractLsb' 13 2).toNat with
  | 0 => accept ((w.extractLsb' 6 7) == 0) (.shli (w.getLsbD 31) (w.extractLsb' 20 5) (w.extractLsb' 15 5) (w.extractLsb' 0 6)) w
  | 1 => accept ((w.extractLsb' 6 7) == 0) (.shri (w.getLsbD 31) (w.extractLsb' 20 5) (w.extractLsb' 15 5) (w.extractLsb' 0 6)) w
  | 2 => accept ((w.extractLsb' 6 7) == 0) (.srai (w.getLsbD 31) (w.extractLsb' 20 5) (w.extractLsb' 15 5) (w.extractLsb' 0 6)) w
  | _ => accept ((w.extractLsb' 6 7) == 0) (.roti (w.getLsbD 31) (w.extractLsb' 20 5) (w.extractLsb' 15 5) (w.extractLsb' 0 6)) w

/-- Major 0x0B (R26). -/
def decodeSet (w : BitVec 32) : Instr :=
  match (w.extractLsb' 0 7).toNat with
  | 0 => accept (true) (.seteq (w.getLsbD 31) (w.extractLsb' 20 5) (w.extractLsb' 15 5) (w.extractLsb' 10 5) (w.extractLsb' 8 2) (w.getLsbD 7)) w
  | 1 => accept (true) (.setne (w.getLsbD 31) (w.extractLsb' 20 5) (w.extractLsb' 15 5) (w.extractLsb' 10 5) (w.extractLsb' 8 2) (w.getLsbD 7)) w
  | 2 => accept (true) (.setlt (w.getLsbD 31) (w.extractLsb' 20 5) (w.extractLsb' 15 5) (w.extractLsb' 10 5) (w.extractLsb' 8 2) (w.getLsbD 7)) w
  | 3 => accept (true) (.setge (w.getLsbD 31) (w.extractLsb' 20 5) (w.extractLsb' 15 5) (w.extractLsb' 10 5) (w.extractLsb' 8 2) (w.getLsbD 7)) w
  | 4 => accept (true) (.setltn (w.getLsbD 31) (w.extractLsb' 20 5) (w.extractLsb' 15 5) (w.extractLsb' 10 5) (w.extractLsb' 8 2) (w.getLsbD 7)) w
  | 5 => accept (true) (.setgen (w.getLsbD 31) (w.extractLsb' 20 5) (w.extractLsb' 15 5) (w.extractLsb' 10 5) (w.extractLsb' 8 2) (w.getLsbD 7)) w
  | _ => .unassignedEncoding .function w

/-- Major 0x0C (R26). -/
def decodeSeti (w : BitVec 32) : Instr :=
  match (w.extractLsb' 12 3).toNat with
  | 0 => accept (true) (.seteqi (w.getLsbD 31) (w.extractLsb' 20 5) (w.extractLsb' 15 5) (w.extractLsb' 0 12)) w
  | 1 => accept (true) (.setnei (w.getLsbD 31) (w.extractLsb' 20 5) (w.extractLsb' 15 5) (w.extractLsb' 0 12)) w
  | 2 => accept (true) (.setlti (w.getLsbD 31) (w.extractLsb' 20 5) (w.extractLsb' 15 5) (w.extractLsb' 0 12)) w
  | 3 => accept (true) (.setgei (w.getLsbD 31) (w.extractLsb' 20 5) (w.extractLsb' 15 5) (w.extractLsb' 0 12)) w
  | 4 => accept (true) (.setltni (w.getLsbD 31) (w.extractLsb' 20 5) (w.extractLsb' 15 5) (w.extractLsb' 0 12)) w
  | 5 => accept (true) (.setgeni (w.getLsbD 31) (w.extractLsb' 20 5) (w.extractLsb' 15 5) (w.extractLsb' 0 12)) w
  | _ => .unassignedEncoding .function w

/-- Major 0x0D (R26). -/
def decodeBf (w : BitVec 32) : Instr :=
  match (w.extractLsb' 14 1).toNat with
  | 0 => accept ((w.extractLsb' 12 2) == 0) (.bfx (w.getLsbD 31) (w.extractLsb' 20 5) (w.extractLsb' 15 5) (w.extractLsb' 6 6) (w.extractLsb' 0 6)) w
  | _ => accept ((w.extractLsb' 12 2) == 0) (.bfi (w.getLsbD 31) (w.extractLsb' 20 5) (w.extractLsb' 15 5) (w.extractLsb' 6 6) (w.extractLsb' 0 6)) w

/-- Major 0x0E (R26). -/
def decodePtr (w : BitVec 32) : Instr :=
  match (w.extractLsb' 0 7).toNat with
  | 0 => accept (true) (.adda (w.getLsbD 31) (w.extractLsb' 20 5) (w.extractLsb' 15 5) (w.extractLsb' 10 5) (w.extractLsb' 8 2) (w.getLsbD 7)) w
  | 1 => accept (true) (.tagset (w.getLsbD 31) (w.extractLsb' 20 5) (w.extractLsb' 15 5) (w.extractLsb' 10 5) (w.extractLsb' 8 2) (w.getLsbD 7)) w
  | 2 => accept ((w.extractLsb' 10 5) == 0) (.tagget (w.getLsbD 31) (w.extractLsb' 20 5) (w.extractLsb' 15 5) (w.extractLsb' 8 2) (w.getLsbD 7)) w
  | 3 => accept (true) (.pdiff (w.getLsbD 31) (w.extractLsb' 20 5) (w.extractLsb' 15 5) (w.extractLsb' 10 5) (w.extractLsb' 8 2) (w.getLsbD 7)) w
  | _ => .unassignedEncoding .function w

/-- Major 0x10 (R26). -/
def decodeBrz (w : BitVec 32) : Instr :=
  match (w.extractLsb' 21 4).toNat with
  | 0 => accept (true) (.beqz (w.getLsbD 31) (w.extractLsb' 16 5) (w.extractLsb' 0 16)) w
  | 1 => accept (true) (.bnez (w.getLsbD 31) (w.extractLsb' 16 5) (w.extractLsb' 0 16)) w
  | 2 => accept (true) (.bltz (w.getLsbD 31) (w.extractLsb' 16 5) (w.extractLsb' 0 16)) w
  | 3 => accept (true) (.bgez (w.getLsbD 31) (w.extractLsb' 16 5) (w.extractLsb' 0 16)) w
  | 4 => accept (true) (.blez (w.getLsbD 31) (w.extractLsb' 16 5) (w.extractLsb' 0 16)) w
  | 5 => accept (true) (.bgtz (w.getLsbD 31) (w.extractLsb' 16 5) (w.extractLsb' 0 16)) w
  | _ => .unassignedEncoding .function w

/-- Major 0x11 (R26). -/
def decodeBrr (w : BitVec 32) : Instr :=
  match (w.extractLsb' 21 4).toNat with
  | 0 => accept (true) (.beq (w.getLsbD 31) (w.extractLsb' 16 5) (w.extractLsb' 11 5) (w.extractLsb' 0 11)) w
  | 1 => accept (true) (.bne (w.getLsbD 31) (w.extractLsb' 16 5) (w.extractLsb' 11 5) (w.extractLsb' 0 11)) w
  | 2 => accept (true) (.blt (w.getLsbD 31) (w.extractLsb' 16 5) (w.extractLsb' 11 5) (w.extractLsb' 0 11)) w
  | 3 => accept (true) (.bge (w.getLsbD 31) (w.extractLsb' 16 5) (w.extractLsb' 11 5) (w.extractLsb' 0 11)) w
  | 4 => accept (true) (.bltn (w.getLsbD 31) (w.extractLsb' 16 5) (w.extractLsb' 11 5) (w.extractLsb' 0 11)) w
  | 5 => accept (true) (.bgen (w.getLsbD 31) (w.extractLsb' 16 5) (w.extractLsb' 11 5) (w.extractLsb' 0 11)) w
  | _ => .unassignedEncoding .function w

/-- Major 0x14 (R26). -/
def decodeJr (w : BitVec 32) : Instr :=
  match (w.extractLsb' 0 7).toNat with
  | 0 => accept ((w.extractLsb' 20 5) == 0 && (w.extractLsb' 7 8) == 0) (.jr (w.getLsbD 31) (w.extractLsb' 15 5)) w
  | 1 => accept ((w.extractLsb' 7 8) == 0) (.jalr (w.getLsbD 31) (w.extractLsb' 20 5) (w.extractLsb' 15 5)) w
  | _ => .unassignedEncoding .function w

/-- Major 0x18 (R26). -/
def decodeLd (w : BitVec 32) : Instr :=
  match (w.extractLsb' 12 3).toNat with
  | 0 => accept (true) (.ldI8 (w.getLsbD 31) (w.extractLsb' 20 5) (w.extractLsb' 15 5) (w.extractLsb' 0 12)) w
  | 1 => accept (true) (.ldN8 (w.getLsbD 31) (w.extractLsb' 20 5) (w.extractLsb' 15 5) (w.extractLsb' 0 12)) w
  | 2 => accept (true) (.ldI16 (w.getLsbD 31) (w.extractLsb' 20 5) (w.extractLsb' 15 5) (w.extractLsb' 0 12)) w
  | 3 => accept (true) (.ldN16 (w.getLsbD 31) (w.extractLsb' 20 5) (w.extractLsb' 15 5) (w.extractLsb' 0 12)) w
  | 4 => accept (true) (.ldI32 (w.getLsbD 31) (w.extractLsb' 20 5) (w.extractLsb' 15 5) (w.extractLsb' 0 12)) w
  | 5 => accept (true) (.ldN32 (w.getLsbD 31) (w.extractLsb' 20 5) (w.extractLsb' 15 5) (w.extractLsb' 0 12)) w
  | 6 => accept (true) (.ldI64 (w.getLsbD 31) (w.extractLsb' 20 5) (w.extractLsb' 15 5) (w.extractLsb' 0 12)) w
  | _ => .unassignedEncoding .function w

/-- Major 0x19 (R26). -/
def decodeSt (w : BitVec 32) : Instr :=
  match (w.extractLsb' 13 2).toNat with
  | 0 => accept (true) (.st8 (w.getLsbD 31) (w.extractLsb' 20 5) (w.extractLsb' 15 5) (w.extractLsb' 0 13)) w
  | 1 => accept (true) (.st16 (w.getLsbD 31) (w.extractLsb' 20 5) (w.extractLsb' 15 5) (w.extractLsb' 0 13)) w
  | 2 => accept (true) (.st32 (w.getLsbD 31) (w.extractLsb' 20 5) (w.extractLsb' 15 5) (w.extractLsb' 0 13)) w
  | _ => accept (true) (.st64 (w.getLsbD 31) (w.extractLsb' 20 5) (w.extractLsb' 15 5) (w.extractLsb' 0 13)) w

/-- Major 0x1A (R26). -/
def decodeLdq (w : BitVec 32) : Instr :=
  match (w.extractLsb' 0 7).toNat with
  | 0 => accept ((w.extractLsb' 7 3) == 0) (.ldq (w.getLsbD 31) (w.extractLsb' 20 5) (w.extractLsb' 15 5) (w.extractLsb' 10 5)) w
  | 1 => accept ((w.extractLsb' 7 3) == 0) (.stq (w.getLsbD 31) (w.extractLsb' 20 5) (w.extractLsb' 15 5) (w.extractLsb' 10 5)) w
  | _ => .unassignedEncoding .function w

/-- Major 0x1B (R26). -/
def decodeAmo (w : BitVec 32) : Instr :=
  match (w.extractLsb' 0 4).toNat with
  | 0 => accept (true) (.amoadd (w.getLsbD 31) (w.extractLsb' 20 5) (w.extractLsb' 15 5) (w.extractLsb' 10 5) (w.extractLsb' 7 3) (w.extractLsb' 4 3)) w
  | 1 => accept (true) (.amoand (w.getLsbD 31) (w.extractLsb' 20 5) (w.extractLsb' 15 5) (w.extractLsb' 10 5) (w.extractLsb' 7 3) (w.extractLsb' 4 3)) w
  | 2 => accept (true) (.amoor (w.getLsbD 31) (w.extractLsb' 20 5) (w.extractLsb' 15 5) (w.extractLsb' 10 5) (w.extractLsb' 7 3) (w.extractLsb' 4 3)) w
  | 3 => accept (true) (.amoxor (w.getLsbD 31) (w.extractLsb' 20 5) (w.extractLsb' 15 5) (w.extractLsb' 10 5) (w.extractLsb' 7 3) (w.extractLsb' 4 3)) w
  | 4 => accept (true) (.amomin (w.getLsbD 31) (w.extractLsb' 20 5) (w.extractLsb' 15 5) (w.extractLsb' 10 5) (w.extractLsb' 7 3) (w.extractLsb' 4 3)) w
  | 5 => accept (true) (.amomax (w.getLsbD 31) (w.extractLsb' 20 5) (w.extractLsb' 15 5) (w.extractLsb' 10 5) (w.extractLsb' 7 3) (w.extractLsb' 4 3)) w
  | 6 => accept (true) (.amominn (w.getLsbD 31) (w.extractLsb' 20 5) (w.extractLsb' 15 5) (w.extractLsb' 10 5) (w.extractLsb' 7 3) (w.extractLsb' 4 3)) w
  | 7 => accept (true) (.amomaxn (w.getLsbD 31) (w.extractLsb' 20 5) (w.extractLsb' 15 5) (w.extractLsb' 10 5) (w.extractLsb' 7 3) (w.extractLsb' 4 3)) w
  | 8 => accept (true) (.amoswap (w.getLsbD 31) (w.extractLsb' 20 5) (w.extractLsb' 15 5) (w.extractLsb' 10 5) (w.extractLsb' 7 3) (w.extractLsb' 4 3)) w
  | 9 => accept (true) (.amofadd32 (w.getLsbD 31) (w.extractLsb' 20 5) (w.extractLsb' 15 5) (w.extractLsb' 10 5) (w.extractLsb' 7 3) (w.extractLsb' 4 3)) w
  | 10 => accept (true) (.amofmax32 (w.getLsbD 31) (w.extractLsb' 20 5) (w.extractLsb' 15 5) (w.extractLsb' 10 5) (w.extractLsb' 7 3) (w.extractLsb' 4 3)) w
  | _ => .unassignedEncoding .function w

/-- Major 0x1D (R26). -/
def decodeFe (w : BitVec 32) : Instr :=
  match (w.extractLsb' 0 7).toNat with
  | 0 => accept ((w.extractLsb' 7 8) == 0) (.ldfe (w.getLsbD 31) (w.extractLsb' 20 5) (w.extractLsb' 15 5)) w
  | 1 => accept ((w.extractLsb' 7 8) == 0) (.stfe (w.getLsbD 31) (w.extractLsb' 20 5) (w.extractLsb' 15 5)) w
  | 2 => accept ((w.extractLsb' 20 5) == 0 && (w.extractLsb' 7 3) == 0) (.feinit (w.getLsbD 31) (w.extractLsb' 15 5) (w.extractLsb' 10 5)) w
  | 3 => accept ((w.extractLsb' 7 8) == 0) (.fefill (w.getLsbD 31) (w.extractLsb' 20 5) (w.extractLsb' 15 5)) w
  | 4 => accept ((w.extractLsb' 7 8) == 0) (.feq (w.getLsbD 31) (w.extractLsb' 20 5) (w.extractLsb' 15 5)) w
  | _ => .unassignedEncoding .function w

/-- Major 0x1F (R26). -/
def decodeCache (w : BitVec 32) : Instr :=
  match (w.extractLsb' 0 7).toNat with
  | 0 => accept ((w.extractLsb' 7 8) == 0) (.pin (w.getLsbD 31) (w.extractLsb' 20 5) (w.extractLsb' 15 5)) w
  | 1 => accept ((w.extractLsb' 7 8) == 0) (.unpin (w.getLsbD 31) (w.extractLsb' 20 5) (w.extractLsb' 15 5)) w
  | 2 => accept ((w.extractLsb' 20 5) == 0 && (w.extractLsb' 7 3) == 0) (.cflush (w.getLsbD 31) (w.extractLsb' 15 5) (w.extractLsb' 10 5)) w
  | 3 => accept ((w.extractLsb' 20 5) == 0 && (w.extractLsb' 7 3) == 0) (.cinv (w.getLsbD 31) (w.extractLsb' 15 5) (w.extractLsb' 10 5)) w
  | 4 => accept ((w.extractLsb' 20 5) == 0 && (w.extractLsb' 7 3) == 0) (.pref (w.getLsbD 31) (w.extractLsb' 15 5) (w.extractLsb' 10 5)) w
  | 5 => accept ((w.extractLsb' 7 3) == 0) (.bankcfg (w.getLsbD 31) (w.extractLsb' 20 5) (w.extractLsb' 15 5) (w.extractLsb' 10 5)) w
  | _ => .unassignedEncoding .function w

/-- Major 0x22 (R26). -/
def decodeVld (w : BitVec 32) : Instr :=
  match (w.extractLsb' 0 2).toNat with
  | 0 => accept (true) (.vld (w.getLsbD 31) (w.extractLsb' 20 5) (w.extractLsb' 15 5) (w.extractLsb' 10 5) (w.extractLsb' 6 4) (w.getLsbD 5) (w.extractLsb' 2 3)) w
  | 1 => accept (true) (.vlds (w.getLsbD 31) (w.extractLsb' 20 5) (w.extractLsb' 15 5) (w.extractLsb' 10 5) (w.extractLsb' 6 4) (w.getLsbD 5) (w.extractLsb' 2 3)) w
  | 2 => accept (true) (.vldx (w.getLsbD 31) (w.extractLsb' 20 5) (w.extractLsb' 15 5) (w.extractLsb' 10 5) (w.extractLsb' 6 4) (w.getLsbD 5) (w.extractLsb' 2 3)) w
  | _ => accept (true) (.vldff (w.getLsbD 31) (w.extractLsb' 20 5) (w.extractLsb' 15 5) (w.extractLsb' 10 5) (w.extractLsb' 6 4) (w.getLsbD 5) (w.extractLsb' 2 3)) w

/-- Major 0x23 (R26). -/
def decodeVst (w : BitVec 32) : Instr :=
  match (w.extractLsb' 0 2).toNat with
  | 0 => accept (true) (.vst (w.getLsbD 31) (w.extractLsb' 20 5) (w.extractLsb' 15 5) (w.extractLsb' 10 5) (w.extractLsb' 6 4) (w.getLsbD 5) (w.extractLsb' 2 3)) w
  | 1 => accept (true) (.vsts (w.getLsbD 31) (w.extractLsb' 20 5) (w.extractLsb' 15 5) (w.extractLsb' 10 5) (w.extractLsb' 6 4) (w.getLsbD 5) (w.extractLsb' 2 3)) w
  | 2 => accept (true) (.vstx (w.getLsbD 31) (w.extractLsb' 20 5) (w.extractLsb' 15 5) (w.extractLsb' 10 5) (w.extractLsb' 6 4) (w.getLsbD 5) (w.extractLsb' 2 3)) w
  | _ => accept (true) (.vstra (w.getLsbD 31) (w.extractLsb' 20 5) (w.extractLsb' 15 5) (w.extractLsb' 10 5) (w.extractLsb' 6 4) (w.getLsbD 5) (w.extractLsb' 2 3)) w

/-- Major 0x24 (R26). -/
def decodeVint (w : BitVec 32) : Instr :=
  match (w.extractLsb' 0 5).toNat with
  | 0 => accept (true) (.vadd (w.getLsbD 31) (w.extractLsb' 20 5) (w.extractLsb' 15 5) (w.extractLsb' 10 5) (w.extractLsb' 6 4) (w.getLsbD 5)) w
  | 1 => accept (true) (.vsub (w.getLsbD 31) (w.extractLsb' 20 5) (w.extractLsb' 15 5) (w.extractLsb' 10 5) (w.extractLsb' 6 4) (w.getLsbD 5)) w
  | 2 => accept (true) (.vmul (w.getLsbD 31) (w.extractLsb' 20 5) (w.extractLsb' 15 5) (w.extractLsb' 10 5) (w.extractLsb' 6 4) (w.getLsbD 5)) w
  | 3 => accept (true) (.vmulh (w.getLsbD 31) (w.extractLsb' 20 5) (w.extractLsb' 15 5) (w.extractLsb' 10 5) (w.extractLsb' 6 4) (w.getLsbD 5)) w
  | 4 => accept (true) (.vmulhn (w.getLsbD 31) (w.extractLsb' 20 5) (w.extractLsb' 15 5) (w.extractLsb' 10 5) (w.extractLsb' 6 4) (w.getLsbD 5)) w
  | 5 => accept (true) (.vmin (w.getLsbD 31) (w.extractLsb' 20 5) (w.extractLsb' 15 5) (w.extractLsb' 10 5) (w.extractLsb' 6 4) (w.getLsbD 5)) w
  | 6 => accept (true) (.vmax (w.getLsbD 31) (w.extractLsb' 20 5) (w.extractLsb' 15 5) (w.extractLsb' 10 5) (w.extractLsb' 6 4) (w.getLsbD 5)) w
  | 7 => accept (true) (.vminn (w.getLsbD 31) (w.extractLsb' 20 5) (w.extractLsb' 15 5) (w.extractLsb' 10 5) (w.extractLsb' 6 4) (w.getLsbD 5)) w
  | 8 => accept (true) (.vmaxn (w.getLsbD 31) (w.extractLsb' 20 5) (w.extractLsb' 15 5) (w.extractLsb' 10 5) (w.extractLsb' 6 4) (w.getLsbD 5)) w
  | 9 => accept (true) (.vand (w.getLsbD 31) (w.extractLsb' 20 5) (w.extractLsb' 15 5) (w.extractLsb' 10 5) (w.extractLsb' 6 4) (w.getLsbD 5)) w
  | 10 => accept (true) (.vor (w.getLsbD 31) (w.extractLsb' 20 5) (w.extractLsb' 15 5) (w.extractLsb' 10 5) (w.extractLsb' 6 4) (w.getLsbD 5)) w
  | 11 => accept (true) (.vxor (w.getLsbD 31) (w.extractLsb' 20 5) (w.extractLsb' 15 5) (w.extractLsb' 10 5) (w.extractLsb' 6 4) (w.getLsbD 5)) w
  | 12 => accept (true) (.vshl (w.getLsbD 31) (w.extractLsb' 20 5) (w.extractLsb' 15 5) (w.extractLsb' 10 5) (w.extractLsb' 6 4) (w.getLsbD 5)) w
  | 13 => accept (true) (.vshr (w.getLsbD 31) (w.extractLsb' 20 5) (w.extractLsb' 15 5) (w.extractLsb' 10 5) (w.extractLsb' 6 4) (w.getLsbD 5)) w
  | 14 => accept (true) (.vsra (w.getLsbD 31) (w.extractLsb' 20 5) (w.extractLsb' 15 5) (w.extractLsb' 10 5) (w.extractLsb' 6 4) (w.getLsbD 5)) w
  | 15 => accept (true) (.vrshr (w.getLsbD 31) (w.extractLsb' 20 5) (w.extractLsb' 15 5) (w.extractLsb' 10 5) (w.extractLsb' 6 4) (w.getLsbD 5)) w
  | 16 => accept (true) (.vrnshr (w.getLsbD 31) (w.extractLsb' 20 5) (w.extractLsb' 15 5) (w.extractLsb' 10 5) (w.extractLsb' 6 4) (w.getLsbD 5)) w
  | 17 => accept (true) (.vadds (w.getLsbD 31) (w.extractLsb' 20 5) (w.extractLsb' 15 5) (w.extractLsb' 10 5) (w.extractLsb' 6 4) (w.getLsbD 5)) w
  | 18 => accept (true) (.vsubs (w.getLsbD 31) (w.extractLsb' 20 5) (w.extractLsb' 15 5) (w.extractLsb' 10 5) (w.extractLsb' 6 4) (w.getLsbD 5)) w
  | 19 => accept (true) (.vmac (w.getLsbD 31) (w.extractLsb' 20 5) (w.extractLsb' 15 5) (w.extractLsb' 10 5) (w.extractLsb' 6 4) (w.getLsbD 5)) w
  | 20 => accept (true) (.vdot2 (w.getLsbD 31) (w.extractLsb' 20 5) (w.extractLsb' 15 5) (w.extractLsb' 10 5) (w.extractLsb' 6 4) (w.getLsbD 5)) w
  | 21 => accept (true) (.vdot4 (w.getLsbD 31) (w.extractLsb' 20 5) (w.extractLsb' 15 5) (w.extractLsb' 10 5) (w.extractLsb' 6 4) (w.getLsbD 5)) w
  | 22 => accept ((w.extractLsb' 10 5) == 0) (.vabs (w.getLsbD 31) (w.extractLsb' 20 5) (w.extractLsb' 15 5) (w.extractLsb' 6 4) (w.getLsbD 5)) w
  | 23 => accept (true) (.vavg (w.getLsbD 31) (w.extractLsb' 20 5) (w.extractLsb' 15 5) (w.extractLsb' 10 5) (w.extractLsb' 6 4) (w.getLsbD 5)) w
  | 24 => accept (true) (.vwmul (w.getLsbD 31) (w.extractLsb' 20 5) (w.extractLsb' 15 5) (w.extractLsb' 10 5) (w.extractLsb' 6 4) (w.getLsbD 5)) w
  | 25 => accept (true) (.vwadd (w.getLsbD 31) (w.extractLsb' 20 5) (w.extractLsb' 15 5) (w.extractLsb' 10 5) (w.extractLsb' 6 4) (w.getLsbD 5)) w
  | _ => .unassignedEncoding .function w

/-- Major 0x25 (R26). -/
def decodeVints (w : BitVec 32) : Instr :=
  match (w.extractLsb' 0 5).toNat with
  | 0 => accept (true) (.vaddG (w.getLsbD 31) (w.extractLsb' 20 5) (w.extractLsb' 15 5) (w.extractLsb' 10 5) (w.extractLsb' 6 4) (w.getLsbD 5)) w
  | 1 => accept (true) (.vsubG (w.getLsbD 31) (w.extractLsb' 20 5) (w.extractLsb' 15 5) (w.extractLsb' 10 5) (w.extractLsb' 6 4) (w.getLsbD 5)) w
  | 2 => accept (true) (.vmulG (w.getLsbD 31) (w.extractLsb' 20 5) (w.extractLsb' 15 5) (w.extractLsb' 10 5) (w.extractLsb' 6 4) (w.getLsbD 5)) w
  | 3 => accept (true) (.vmulhG (w.getLsbD 31) (w.extractLsb' 20 5) (w.extractLsb' 15 5) (w.extractLsb' 10 5) (w.extractLsb' 6 4) (w.getLsbD 5)) w
  | 4 => accept (true) (.vmulhnG (w.getLsbD 31) (w.extractLsb' 20 5) (w.extractLsb' 15 5) (w.extractLsb' 10 5) (w.extractLsb' 6 4) (w.getLsbD 5)) w
  | 5 => accept (true) (.vminG (w.getLsbD 31) (w.extractLsb' 20 5) (w.extractLsb' 15 5) (w.extractLsb' 10 5) (w.extractLsb' 6 4) (w.getLsbD 5)) w
  | 6 => accept (true) (.vmaxG (w.getLsbD 31) (w.extractLsb' 20 5) (w.extractLsb' 15 5) (w.extractLsb' 10 5) (w.extractLsb' 6 4) (w.getLsbD 5)) w
  | 7 => accept (true) (.vminnG (w.getLsbD 31) (w.extractLsb' 20 5) (w.extractLsb' 15 5) (w.extractLsb' 10 5) (w.extractLsb' 6 4) (w.getLsbD 5)) w
  | 8 => accept (true) (.vmaxnG (w.getLsbD 31) (w.extractLsb' 20 5) (w.extractLsb' 15 5) (w.extractLsb' 10 5) (w.extractLsb' 6 4) (w.getLsbD 5)) w
  | 9 => accept (true) (.vandG (w.getLsbD 31) (w.extractLsb' 20 5) (w.extractLsb' 15 5) (w.extractLsb' 10 5) (w.extractLsb' 6 4) (w.getLsbD 5)) w
  | 10 => accept (true) (.vorG (w.getLsbD 31) (w.extractLsb' 20 5) (w.extractLsb' 15 5) (w.extractLsb' 10 5) (w.extractLsb' 6 4) (w.getLsbD 5)) w
  | 11 => accept (true) (.vxorG (w.getLsbD 31) (w.extractLsb' 20 5) (w.extractLsb' 15 5) (w.extractLsb' 10 5) (w.extractLsb' 6 4) (w.getLsbD 5)) w
  | 12 => accept (true) (.vshlG (w.getLsbD 31) (w.extractLsb' 20 5) (w.extractLsb' 15 5) (w.extractLsb' 10 5) (w.extractLsb' 6 4) (w.getLsbD 5)) w
  | 13 => accept (true) (.vshrG (w.getLsbD 31) (w.extractLsb' 20 5) (w.extractLsb' 15 5) (w.extractLsb' 10 5) (w.extractLsb' 6 4) (w.getLsbD 5)) w
  | 14 => accept (true) (.vsraG (w.getLsbD 31) (w.extractLsb' 20 5) (w.extractLsb' 15 5) (w.extractLsb' 10 5) (w.extractLsb' 6 4) (w.getLsbD 5)) w
  | 15 => accept (true) (.vrshrG (w.getLsbD 31) (w.extractLsb' 20 5) (w.extractLsb' 15 5) (w.extractLsb' 10 5) (w.extractLsb' 6 4) (w.getLsbD 5)) w
  | 16 => accept (true) (.vrnshrG (w.getLsbD 31) (w.extractLsb' 20 5) (w.extractLsb' 15 5) (w.extractLsb' 10 5) (w.extractLsb' 6 4) (w.getLsbD 5)) w
  | 17 => accept (true) (.vaddsG (w.getLsbD 31) (w.extractLsb' 20 5) (w.extractLsb' 15 5) (w.extractLsb' 10 5) (w.extractLsb' 6 4) (w.getLsbD 5)) w
  | 18 => accept (true) (.vsubsG (w.getLsbD 31) (w.extractLsb' 20 5) (w.extractLsb' 15 5) (w.extractLsb' 10 5) (w.extractLsb' 6 4) (w.getLsbD 5)) w
  | 19 => accept (true) (.vmacG (w.getLsbD 31) (w.extractLsb' 20 5) (w.extractLsb' 15 5) (w.extractLsb' 10 5) (w.extractLsb' 6 4) (w.getLsbD 5)) w
  | 20 => accept (true) (.vdot2G (w.getLsbD 31) (w.extractLsb' 20 5) (w.extractLsb' 15 5) (w.extractLsb' 10 5) (w.extractLsb' 6 4) (w.getLsbD 5)) w
  | 21 => accept (true) (.vdot4G (w.getLsbD 31) (w.extractLsb' 20 5) (w.extractLsb' 15 5) (w.extractLsb' 10 5) (w.extractLsb' 6 4) (w.getLsbD 5)) w
  | 23 => accept (true) (.vavgG (w.getLsbD 31) (w.extractLsb' 20 5) (w.extractLsb' 15 5) (w.extractLsb' 10 5) (w.extractLsb' 6 4) (w.getLsbD 5)) w
  | 24 => accept (true) (.vwmulG (w.getLsbD 31) (w.extractLsb' 20 5) (w.extractLsb' 15 5) (w.extractLsb' 10 5) (w.extractLsb' 6 4) (w.getLsbD 5)) w
  | 25 => accept (true) (.vwaddG (w.getLsbD 31) (w.extractLsb' 20 5) (w.extractLsb' 15 5) (w.extractLsb' 10 5) (w.extractLsb' 6 4) (w.getLsbD 5)) w
  | _ => .unassignedEncoding .function w

/-- Major 0x26 (R26). -/
def decodeVfp (w : BitVec 32) : Instr :=
  match (w.extractLsb' 0 5).toNat with
  | 0 => accept (true) (.vfadd (w.getLsbD 31) (w.extractLsb' 20 5) (w.extractLsb' 15 5) (w.extractLsb' 10 5) (w.extractLsb' 6 4) (w.getLsbD 5)) w
  | 1 => accept (true) (.vfsub (w.getLsbD 31) (w.extractLsb' 20 5) (w.extractLsb' 15 5) (w.extractLsb' 10 5) (w.extractLsb' 6 4) (w.getLsbD 5)) w
  | 2 => accept (true) (.vfmul (w.getLsbD 31) (w.extractLsb' 20 5) (w.extractLsb' 15 5) (w.extractLsb' 10 5) (w.extractLsb' 6 4) (w.getLsbD 5)) w
  | 3 => accept (true) (.vfma (w.getLsbD 31) (w.extractLsb' 20 5) (w.extractLsb' 15 5) (w.extractLsb' 10 5) (w.extractLsb' 6 4) (w.getLsbD 5)) w
  | 4 => accept (true) (.vfms (w.getLsbD 31) (w.extractLsb' 20 5) (w.extractLsb' 15 5) (w.extractLsb' 10 5) (w.extractLsb' 6 4) (w.getLsbD 5)) w
  | 5 => accept (true) (.vfdiv (w.getLsbD 31) (w.extractLsb' 20 5) (w.extractLsb' 15 5) (w.extractLsb' 10 5) (w.extractLsb' 6 4) (w.getLsbD 5)) w
  | 6 => accept ((w.extractLsb' 10 5) == 0) (.vfsqrt (w.getLsbD 31) (w.extractLsb' 20 5) (w.extractLsb' 15 5) (w.extractLsb' 6 4) (w.getLsbD 5)) w
  | 7 => accept (true) (.vfmin (w.getLsbD 31) (w.extractLsb' 20 5) (w.extractLsb' 15 5) (w.extractLsb' 10 5) (w.extractLsb' 6 4) (w.getLsbD 5)) w
  | 8 => accept (true) (.vfmax (w.getLsbD 31) (w.extractLsb' 20 5) (w.extractLsb' 15 5) (w.extractLsb' 10 5) (w.extractLsb' 6 4) (w.getLsbD 5)) w
  | 9 => accept ((w.extractLsb' 10 5) == 0) (.vfabs (w.getLsbD 31) (w.extractLsb' 20 5) (w.extractLsb' 15 5) (w.extractLsb' 6 4) (w.getLsbD 5)) w
  | 10 => accept ((w.extractLsb' 10 5) == 0) (.vfneg (w.getLsbD 31) (w.extractLsb' 20 5) (w.extractLsb' 15 5) (w.extractLsb' 6 4) (w.getLsbD 5)) w
  | 11 => accept ((w.extractLsb' 10 5) == 0) (.vfexp2 (w.getLsbD 31) (w.extractLsb' 20 5) (w.extractLsb' 15 5) (w.extractLsb' 6 4) (w.getLsbD 5)) w
  | 12 => accept ((w.extractLsb' 10 5) == 0) (.vflog2 (w.getLsbD 31) (w.extractLsb' 20 5) (w.extractLsb' 15 5) (w.extractLsb' 6 4) (w.getLsbD 5)) w
  | 13 => accept ((w.extractLsb' 10 5) == 0) (.vfrcp (w.getLsbD 31) (w.extractLsb' 20 5) (w.extractLsb' 15 5) (w.extractLsb' 6 4) (w.getLsbD 5)) w
  | 14 => accept ((w.extractLsb' 10 5) == 0) (.vfrsq (w.getLsbD 31) (w.extractLsb' 20 5) (w.extractLsb' 15 5) (w.extractLsb' 6 4) (w.getLsbD 5)) w
  | 15 => accept ((w.extractLsb' 10 5) == 0) (.vfclass (w.getLsbD 31) (w.extractLsb' 20 5) (w.extractLsb' 15 5) (w.extractLsb' 6 4) (w.getLsbD 5)) w
  | 16 => accept (true) (.vfsgnj (w.getLsbD 31) (w.extractLsb' 20 5) (w.extractLsb' 15 5) (w.extractLsb' 10 5) (w.extractLsb' 6 4) (w.getLsbD 5)) w
  | _ => .unassignedEncoding .function w

/-- Major 0x27 (R26). -/
def decodeVfps (w : BitVec 32) : Instr :=
  match (w.extractLsb' 0 5).toNat with
  | 0 => accept (true) (.vfaddG (w.getLsbD 31) (w.extractLsb' 20 5) (w.extractLsb' 15 5) (w.extractLsb' 10 5) (w.extractLsb' 6 4) (w.getLsbD 5)) w
  | 1 => accept (true) (.vfsubG (w.getLsbD 31) (w.extractLsb' 20 5) (w.extractLsb' 15 5) (w.extractLsb' 10 5) (w.extractLsb' 6 4) (w.getLsbD 5)) w
  | 2 => accept (true) (.vfmulG (w.getLsbD 31) (w.extractLsb' 20 5) (w.extractLsb' 15 5) (w.extractLsb' 10 5) (w.extractLsb' 6 4) (w.getLsbD 5)) w
  | 3 => accept (true) (.vfmaG (w.getLsbD 31) (w.extractLsb' 20 5) (w.extractLsb' 15 5) (w.extractLsb' 10 5) (w.extractLsb' 6 4) (w.getLsbD 5)) w
  | 4 => accept (true) (.vfmsG (w.getLsbD 31) (w.extractLsb' 20 5) (w.extractLsb' 15 5) (w.extractLsb' 10 5) (w.extractLsb' 6 4) (w.getLsbD 5)) w
  | 5 => accept (true) (.vfdivG (w.getLsbD 31) (w.extractLsb' 20 5) (w.extractLsb' 15 5) (w.extractLsb' 10 5) (w.extractLsb' 6 4) (w.getLsbD 5)) w
  | 7 => accept (true) (.vfminG (w.getLsbD 31) (w.extractLsb' 20 5) (w.extractLsb' 15 5) (w.extractLsb' 10 5) (w.extractLsb' 6 4) (w.getLsbD 5)) w
  | 8 => accept (true) (.vfmaxG (w.getLsbD 31) (w.extractLsb' 20 5) (w.extractLsb' 15 5) (w.extractLsb' 10 5) (w.extractLsb' 6 4) (w.getLsbD 5)) w
  | 16 => accept (true) (.vfsgnjG (w.getLsbD 31) (w.extractLsb' 20 5) (w.extractLsb' 15 5) (w.extractLsb' 10 5) (w.extractLsb' 6 4) (w.getLsbD 5)) w
  | _ => .unassignedEncoding .function w

/-- Major 0x28 (R26). -/
def decodeVcmp (w : BitVec 32) : Instr :=
  match (w.extractLsb' 0 4).toNat with
  | 0 => accept (true) (.vcmpeq (w.getLsbD 31) (w.extractLsb' 20 5) (w.extractLsb' 15 5) (w.extractLsb' 10 5) (w.extractLsb' 6 4) (w.getLsbD 5) (w.getLsbD 4)) w
  | 1 => accept (true) (.vcmpne (w.getLsbD 31) (w.extractLsb' 20 5) (w.extractLsb' 15 5) (w.extractLsb' 10 5) (w.extractLsb' 6 4) (w.getLsbD 5) (w.getLsbD 4)) w
  | 2 => accept (true) (.vcmplt (w.getLsbD 31) (w.extractLsb' 20 5) (w.extractLsb' 15 5) (w.extractLsb' 10 5) (w.extractLsb' 6 4) (w.getLsbD 5) (w.getLsbD 4)) w
  | 3 => accept (true) (.vcmpge (w.getLsbD 31) (w.extractLsb' 20 5) (w.extractLsb' 15 5) (w.extractLsb' 10 5) (w.extractLsb' 6 4) (w.getLsbD 5) (w.getLsbD 4)) w
  | 4 => accept (true) (.vcmpltn (w.getLsbD 31) (w.extractLsb' 20 5) (w.extractLsb' 15 5) (w.extractLsb' 10 5) (w.extractLsb' 6 4) (w.getLsbD 5) (w.getLsbD 4)) w
  | 5 => accept (true) (.vcmpgen (w.getLsbD 31) (w.extractLsb' 20 5) (w.extractLsb' 15 5) (w.extractLsb' 10 5) (w.extractLsb' 6 4) (w.getLsbD 5) (w.getLsbD 4)) w
  | 6 => accept (true) (.vcmpfeq (w.getLsbD 31) (w.extractLsb' 20 5) (w.extractLsb' 15 5) (w.extractLsb' 10 5) (w.extractLsb' 6 4) (w.getLsbD 5) (w.getLsbD 4)) w
  | 7 => accept (true) (.vcmpfne (w.getLsbD 31) (w.extractLsb' 20 5) (w.extractLsb' 15 5) (w.extractLsb' 10 5) (w.extractLsb' 6 4) (w.getLsbD 5) (w.getLsbD 4)) w
  | 8 => accept (true) (.vcmpflt (w.getLsbD 31) (w.extractLsb' 20 5) (w.extractLsb' 15 5) (w.extractLsb' 10 5) (w.extractLsb' 6 4) (w.getLsbD 5) (w.getLsbD 4)) w
  | 9 => accept (true) (.vcmpfge (w.getLsbD 31) (w.extractLsb' 20 5) (w.extractLsb' 15 5) (w.extractLsb' 10 5) (w.extractLsb' 6 4) (w.getLsbD 5) (w.getLsbD 4)) w
  | 10 => accept (true) (.vcmpfun (w.getLsbD 31) (w.extractLsb' 20 5) (w.extractLsb' 15 5) (w.extractLsb' 10 5) (w.extractLsb' 6 4) (w.getLsbD 5) (w.getLsbD 4)) w
  | _ => .unassignedEncoding .function w

/-- Major 0x2A (R26). -/
def decodeVmov (w : BitVec 32) : Instr :=
  match (w.extractLsb' 0 5).toNat with
  | 0 => accept ((w.extractLsb' 10 5) == 0) (.vmv (w.getLsbD 31) (w.extractLsb' 20 5) (w.extractLsb' 15 5) (w.extractLsb' 6 4) (w.getLsbD 5)) w
  | 1 => accept ((w.extractLsb' 15 5) == 0) (.vbrd (w.getLsbD 31) (w.extractLsb' 20 5) (w.extractLsb' 10 5) (w.extractLsb' 6 4) (w.getLsbD 5)) w
  | 2 => accept ((w.extractLsb' 5 5) == 0) (.vext (w.getLsbD 31) (w.extractLsb' 20 5) (w.extractLsb' 15 5) (w.extractLsb' 10 5)) w
  | 3 => accept ((w.extractLsb' 5 5) == 0) (.vins (w.getLsbD 31) (w.extractLsb' 20 5) (w.extractLsb' 15 5) (w.extractLsb' 10 5)) w
  | 4 => accept (true) (.vmrg (w.getLsbD 31) (w.extractLsb' 20 5) (w.extractLsb' 15 5) (w.extractLsb' 10 5) (w.extractLsb' 6 4) (w.getLsbD 5)) w
  | 5 => accept ((w.extractLsb' 10 10) == 0) (.viota (w.getLsbD 31) (w.extractLsb' 20 5) (w.extractLsb' 6 4) (w.getLsbD 5)) w
  | 6 => accept (true) (.vrowb (w.getLsbD 31) (w.extractLsb' 20 5) (w.extractLsb' 15 5) (w.extractLsb' 10 5) (w.extractLsb' 6 4) (w.getLsbD 5)) w
  | 7 => accept (true) (.vcolb (w.getLsbD 31) (w.extractLsb' 20 5) (w.extractLsb' 15 5) (w.extractLsb' 10 5) (w.extractLsb' 6 4) (w.getLsbD 5)) w
  | _ => .unassignedEncoding .function w

/-- Major 0x2B (R26). -/
def decodeVperm (w : BitVec 32) : Instr :=
  match (w.extractLsb' 0 5).toNat with
  | 0 => accept (true) (.vslup (w.getLsbD 31) (w.extractLsb' 20 5) (w.extractLsb' 15 5) (w.extractLsb' 10 5) (w.extractLsb' 6 4) (w.getLsbD 5)) w
  | 1 => accept (true) (.vsldn (w.getLsbD 31) (w.extractLsb' 20 5) (w.extractLsb' 15 5) (w.extractLsb' 10 5) (w.extractLsb' 6 4) (w.getLsbD 5)) w
  | 2 => accept (true) (.vsl1up (w.getLsbD 31) (w.extractLsb' 20 5) (w.extractLsb' 15 5) (w.extractLsb' 10 5) (w.extractLsb' 6 4) (w.getLsbD 5)) w
  | 3 => accept (true) (.vsl1dn (w.getLsbD 31) (w.extractLsb' 20 5) (w.extractLsb' 15 5) (w.extractLsb' 10 5) (w.extractLsb' 6 4) (w.getLsbD 5)) w
  | 4 => accept (true) (.vgath (w.getLsbD 31) (w.extractLsb' 20 5) (w.extractLsb' 15 5) (w.extractLsb' 10 5) (w.extractLsb' 6 4) (w.getLsbD 5)) w
  | 5 => accept ((w.extractLsb' 10 5) == 0 && (w.extractLsb' 5 1) == 0) (.vtrn (w.getLsbD 31) (w.extractLsb' 20 5) (w.extractLsb' 15 5) (w.extractLsb' 6 4)) w
  | 6 => accept ((w.extractLsb' 10 5) == 0) (.vcprs (w.getLsbD 31) (w.extractLsb' 20 5) (w.extractLsb' 15 5) (w.extractLsb' 6 4) (w.getLsbD 5)) w
  | 7 => accept ((w.extractLsb' 10 5) == 0) (.vexpd (w.getLsbD 31) (w.extractLsb' 20 5) (w.extractLsb' 15 5) (w.extractLsb' 6 4) (w.getLsbD 5)) w
  | 8 => accept ((w.extractLsb' 5 1) == 0) (.vgxch (w.getLsbD 31) (w.extractLsb' 20 5) (w.extractLsb' 15 5) (w.extractLsb' 10 5) (w.extractLsb' 6 4)) w
  | _ => .unassignedEncoding .function w

/-- Major 0x2C (R26). -/
def decodeVred (w : BitVec 32) : Instr :=
  match (w.extractLsb' 0 4).toNat with
  | 0 => accept ((w.extractLsb' 10 5) == 0) (.vredsum (w.getLsbD 31) (w.extractLsb' 20 5) (w.extractLsb' 15 5) (w.extractLsb' 6 4) (w.getLsbD 5) (w.getLsbD 4)) w
  | 1 => accept ((w.extractLsb' 10 5) == 0) (.vredmin (w.getLsbD 31) (w.extractLsb' 20 5) (w.extractLsb' 15 5) (w.extractLsb' 6 4) (w.getLsbD 5) (w.getLsbD 4)) w
  | 2 => accept ((w.extractLsb' 10 5) == 0) (.vredmax (w.getLsbD 31) (w.extractLsb' 20 5) (w.extractLsb' 15 5) (w.extractLsb' 6 4) (w.getLsbD 5) (w.getLsbD 4)) w
  | 3 => accept ((w.extractLsb' 10 5) == 0) (.vredminn (w.getLsbD 31) (w.extractLsb' 20 5) (w.extractLsb' 15 5) (w.extractLsb' 6 4) (w.getLsbD 5) (w.getLsbD 4)) w
  | 4 => accept ((w.extractLsb' 10 5) == 0) (.vredmaxn (w.getLsbD 31) (w.extractLsb' 20 5) (w.extractLsb' 15 5) (w.extractLsb' 6 4) (w.getLsbD 5) (w.getLsbD 4)) w
  | 5 => accept ((w.extractLsb' 10 5) == 0) (.vredand (w.getLsbD 31) (w.extractLsb' 20 5) (w.extractLsb' 15 5) (w.extractLsb' 6 4) (w.getLsbD 5) (w.getLsbD 4)) w
  | 6 => accept ((w.extractLsb' 10 5) == 0) (.vredor (w.getLsbD 31) (w.extractLsb' 20 5) (w.extractLsb' 15 5) (w.extractLsb' 6 4) (w.getLsbD 5) (w.getLsbD 4)) w
  | 7 => accept ((w.extractLsb' 10 5) == 0) (.vredxor (w.getLsbD 31) (w.extractLsb' 20 5) (w.extractLsb' 15 5) (w.extractLsb' 6 4) (w.getLsbD 5) (w.getLsbD 4)) w
  | 8 => accept ((w.extractLsb' 10 5) == 0) (.vfredo (w.getLsbD 31) (w.extractLsb' 20 5) (w.extractLsb' 15 5) (w.extractLsb' 6 4) (w.getLsbD 5) (w.getLsbD 4)) w
  | 9 => accept ((w.extractLsb' 10 5) == 0) (.vfredt (w.getLsbD 31) (w.extractLsb' 20 5) (w.extractLsb' 15 5) (w.extractLsb' 6 4) (w.getLsbD 5) (w.getLsbD 4)) w
  | 10 => accept ((w.extractLsb' 10 5) == 0) (.vfredmax (w.getLsbD 31) (w.extractLsb' 20 5) (w.extractLsb' 15 5) (w.extractLsb' 6 4) (w.getLsbD 5) (w.getLsbD 4)) w
  | 11 => accept ((w.extractLsb' 10 5) == 0) (.vfredmin (w.getLsbD 31) (w.extractLsb' 20 5) (w.extractLsb' 15 5) (w.extractLsb' 6 4) (w.getLsbD 5) (w.getLsbD 4)) w
  | _ => .unassignedEncoding .function w

/-- Major 0x2D (R26). -/
def decodeVsm (w : BitVec 32) : Instr :=
  match (w.extractLsb' 0 5).toNat with
  | 0 => accept (true) (.vsmx (w.getLsbD 31) (w.extractLsb' 20 5) (w.extractLsb' 15 5) (w.extractLsb' 10 5) (w.extractLsb' 6 4) (w.getLsbD 5)) w
  | 1 => accept ((w.extractLsb' 5 10) == 0) (.vsmg (w.getLsbD 31) (w.extractLsb' 20 5) (w.extractLsb' 15 5)) w
  | 2 => accept ((w.extractLsb' 5 10) == 0) (.vsmf (w.getLsbD 31) (w.extractLsb' 20 5) (w.extractLsb' 15 5)) w
  | _ => .unassignedEncoding .function w

/-- Major 0x2E (R26). -/
def decodeMask (w : BitVec 32) : Instr :=
  match (w.extractLsb' 0 7).toNat with
  | 0 => accept ((w.extractLsb' 7 3) == 0) (.mand (w.getLsbD 31) (w.extractLsb' 20 5) (w.extractLsb' 15 5) (w.extractLsb' 10 5)) w
  | 1 => accept ((w.extractLsb' 7 3) == 0) (.mor (w.getLsbD 31) (w.extractLsb' 20 5) (w.extractLsb' 15 5) (w.extractLsb' 10 5)) w
  | 2 => accept ((w.extractLsb' 7 3) == 0) (.mxor (w.getLsbD 31) (w.extractLsb' 20 5) (w.extractLsb' 15 5) (w.extractLsb' 10 5)) w
  | 3 => accept ((w.extractLsb' 7 3) == 0) (.mandn (w.getLsbD 31) (w.extractLsb' 20 5) (w.extractLsb' 15 5) (w.extractLsb' 10 5)) w
  | 4 => accept ((w.extractLsb' 7 8) == 0) (.mpop (w.getLsbD 31) (w.extractLsb' 20 5) (w.extractLsb' 15 5)) w
  | 5 => accept ((w.extractLsb' 7 8) == 0) (.mfirst (w.getLsbD 31) (w.extractLsb' 20 5) (w.extractLsb' 15 5)) w
  | 6 => accept ((w.extractLsb' 7 8) == 0) (.mupto (w.getLsbD 31) (w.extractLsb' 20 5) (w.extractLsb' 15 5)) w
  | 7 => accept ((w.extractLsb' 7 8) == 0) (.mbefore (w.getLsbD 31) (w.extractLsb' 20 5) (w.extractLsb' 15 5)) w
  | 8 => accept ((w.extractLsb' 7 8) == 0) (.mscan (w.getLsbD 31) (w.extractLsb' 20 5) (w.extractLsb' 15 5)) w
  | 9 => accept ((w.extractLsb' 7 8) == 0) (.mmov (w.getLsbD 31) (w.extractLsb' 20 5) (w.extractLsb' 15 5)) w
  | 10 => accept ((w.extractLsb' 7 8) == 0) (.mld (w.getLsbD 31) (w.extractLsb' 20 5) (w.extractLsb' 15 5)) w
  | 11 => accept ((w.extractLsb' 7 8) == 0) (.mst (w.getLsbD 31) (w.extractLsb' 20 5) (w.extractLsb' 15 5)) w
  | 12 => accept ((w.extractLsb' 7 8) == 0) (.msetl (w.getLsbD 31) (w.extractLsb' 20 5) (w.extractLsb' 15 5)) w
  | _ => .unassignedEncoding .function w

/-- Major 0x2F (R26). -/
def decodeScale (w : BitVec 32) : Instr :=
  match (w.extractLsb' 0 7).toNat with
  | 0 => accept ((w.extractLsb' 7 8) == 0) (.cld (w.getLsbD 31) (w.extractLsb' 20 5) (w.extractLsb' 15 5)) w
  | 1 => accept ((w.extractLsb' 7 8) == 0) (.cst (w.getLsbD 31) (w.extractLsb' 20 5) (w.extractLsb' 15 5)) w
  | 2 => accept ((w.extractLsb' 7 3) == 0) (.cset (w.getLsbD 31) (w.extractLsb' 20 5) (w.extractLsb' 15 5) (w.extractLsb' 10 5)) w
  | 3 => accept ((w.extractLsb' 7 8) == 0) (.cmov (w.getLsbD 31) (w.extractLsb' 20 5) (w.extractLsb' 15 5)) w
  | _ => .unassignedEncoding .function w

/-- Major 0x30 (R26). -/
def decodeMtx (w : BitVec 32) : Instr :=
  match (w.extractLsb' 0 7).toNat with
  | 0 => accept ((w.extractLsb' 7 8) == 0) (.mring (w.getLsbD 31) (w.extractLsb' 20 5) (w.extractLsb' 15 5)) w
  | 1 => accept ((w.extractLsb' 7 8) == 0) (.mrcommit (w.getLsbD 31) (w.extractLsb' 20 5) (w.extractLsb' 15 5)) w
  | 2 => accept ((w.extractLsb' 7 8) == 0) (.mma (w.getLsbD 31) (w.extractLsb' 20 5) (w.extractLsb' 15 5)) w
  | 3 => accept ((w.extractLsb' 7 3) == 0) (.mmas (w.getLsbD 31) (w.extractLsb' 20 5) (w.extractLsb' 15 5) (w.extractLsb' 10 5)) w
  | 4 => accept ((w.extractLsb' 7 13) == 0) (.mzero (w.getLsbD 31) (w.extractLsb' 20 5)) w
  | 5 => accept ((w.extractLsb' 7 3) == 0) (.mrd (w.getLsbD 31) (w.extractLsb' 20 5) (w.extractLsb' 15 5) (w.extractLsb' 10 5)) w
  | 6 => accept ((w.extractLsb' 7 3) == 0) (.mwr (w.getLsbD 31) (w.extractLsb' 20 5) (w.extractLsb' 15 5) (w.extractLsb' 10 5)) w
  | 7 => accept ((w.extractLsb' 7 13) == 0) (.mbeg (w.getLsbD 31) (w.extractLsb' 20 5)) w
  | 8 => accept ((w.extractLsb' 7 18) == 0) (.mend (w.getLsbD 31)) w
  | 9 => accept ((w.extractLsb' 7 8) == 0) (.mrpop (w.getLsbD 31) (w.extractLsb' 20 5) (w.extractLsb' 15 5)) w
  | 10 => accept ((w.extractLsb' 7 8) == 0) (.mrq (w.getLsbD 31) (w.extractLsb' 20 5) (w.extractLsb' 15 5)) w
  | _ => .unassignedEncoding .function w

/-- Major 0x32 (R26). -/
def decodeTok (w : BitVec 32) : Instr :=
  match (w.extractLsb' 0 7).toNat with
  | 0 => accept ((w.extractLsb' 7 8) == 0) (.toka (w.getLsbD 31) (w.extractLsb' 20 5) (w.extractLsb' 15 5)) w
  | 1 => accept ((w.extractLsb' 20 5) == 0 && (w.extractLsb' 7 8) == 0) (.tokf (w.getLsbD 31) (w.extractLsb' 15 5)) w
  | 2 => accept ((w.extractLsb' 20 5) == 0 && (w.extractLsb' 7 8) == 0) (.toks (w.getLsbD 31) (w.extractLsb' 15 5)) w
  | 3 => accept ((w.extractLsb' 7 8) == 0) (.tokt (w.getLsbD 31) (w.extractLsb' 20 5) (w.extractLsb' 15 5)) w
  | 4 => accept ((w.extractLsb' 7 3) == 0) (.tokr (w.getLsbD 31) (w.extractLsb' 20 5) (w.extractLsb' 15 5) (w.extractLsb' 10 5)) w
  | 5 => accept ((w.extractLsb' 20 5) == 0 && (w.extractLsb' 7 3) == 0) (.toke (w.getLsbD 31) (w.extractLsb' 15 5) (w.extractLsb' 10 5)) w
  | _ => .unassignedEncoding .function w

/-- Major 0x33 (R26). -/
def decodeAwait (w : BitVec 32) : Instr :=
  match (w.extractLsb' 14 1).toNat with
  | 0 => accept ((w.extractLsb' 10 4) == 0) (.await (w.getLsbD 31) (w.extractLsb' 20 5) (w.extractLsb' 15 5) (w.extractLsb' 0 10)) w
  | _ => accept ((w.extractLsb' 15 10) == 0 && (w.extractLsb' 10 4) == 0) (.yield (w.getLsbD 31) (w.extractLsb' 0 10)) w

/-- Major 0x34 (R26). -/
def decodeStrand (w : BitVec 32) : Instr :=
  match (w.extractLsb' 0 7).toNat with
  | 0 => accept ((w.extractLsb' 7 3) == 0) (.spawn (w.getLsbD 31) (w.extractLsb' 20 5) (w.extractLsb' 15 5) (w.extractLsb' 10 5)) w
  | 1 => accept ((w.extractLsb' 7 18) == 0) (.exit (w.getLsbD 31)) w
  | 2 => accept ((w.extractLsb' 7 3) == 0) (.hop (w.getLsbD 31) (w.extractLsb' 20 5) (w.extractLsb' 15 5) (w.extractLsb' 10 5)) w
  | 3 => accept ((w.extractLsb' 7 3) == 0) (.deposit (w.getLsbD 31) (w.extractLsb' 20 5) (w.extractLsb' 15 5) (w.extractLsb' 10 5)) w
  | 4 => accept ((w.extractLsb' 20 5) == 0 && (w.extractLsb' 7 8) == 0) (.prio (w.getLsbD 31) (w.extractLsb' 15 5)) w
  | 5 => accept ((w.extractLsb' 7 8) == 0) (.self (w.getLsbD 31) (w.extractLsb' 20 5) (w.extractLsb' 15 5)) w
  | _ => .unassignedEncoding .function w

/-- Major 0x35 (R26). -/
def decodeChain (w : BitVec 32) : Instr :=
  match (w.extractLsb' 0 7).toNat with
  | 0 => accept ((w.extractLsb' 7 8) == 0) (.pub (w.getLsbD 31) (w.extractLsb' 20 5) (w.extractLsb' 15 5)) w
  | 1 => accept ((w.extractLsb' 7 18) == 0) (.cadv (w.getLsbD 31)) w
  | 2 => accept ((w.extractLsb' 7 8) == 0) (.item (w.getLsbD 31) (w.extractLsb' 20 5) (w.extractLsb' 15 5)) w
  | 3 => accept ((w.extractLsb' 7 8) == 0) (.cxq (w.getLsbD 31) (w.extractLsb' 20 5) (w.extractLsb' 15 5)) w
  | _ => .unassignedEncoding .function w

/-- Major 0x36 (R26). -/
def decodeBar (w : BitVec 32) : Instr :=
  match (w.extractLsb' 0 7).toNat with
  | 0 => accept ((w.extractLsb' 7 3) == 0) (.bara (w.getLsbD 31) (w.extractLsb' 20 5) (w.extractLsb' 15 5) (w.extractLsb' 10 5)) w
  | 1 => accept ((w.extractLsb' 7 8) == 0) (.barq (w.getLsbD 31) (w.extractLsb' 20 5) (w.extractLsb' 15 5)) w
  | _ => .unassignedEncoding .function w

/-- Major 0x37 (R26). -/
def decodeGang (w : BitVec 32) : Instr :=
  match (w.extractLsb' 0 7).toNat with
  | 0 => accept ((w.extractLsb' 7 8) == 0) (.gang (w.getLsbD 31) (w.extractLsb' 20 5) (w.extractLsb' 15 5)) w
  | 1 => accept ((w.extractLsb' 7 18) == 0) (.ungang (w.getLsbD 31)) w
  | _ => .unassignedEncoding .function w

/-- Major 0x38 (R26). -/
def decodeGcp (w : BitVec 32) : Instr :=
  match (w.extractLsb' 0 7).toNat with
  | 0 => accept ((w.extractLsb' 20 5) == 0 && (w.extractLsb' 7 3) == 0) (.gshape (w.getLsbD 31) (w.extractLsb' 15 5) (w.extractLsb' 10 5)) w
  | 1 => accept ((w.extractLsb' 7 3) == 0) (.gcp (w.getLsbD 31) (w.extractLsb' 20 5) (w.extractLsb' 15 5) (w.extractLsb' 10 5)) w
  | 2 => accept ((w.extractLsb' 7 3) == 0) (.gcpm (w.getLsbD 31) (w.extractLsb' 20 5) (w.extractLsb' 15 5) (w.extractLsb' 10 5)) w
  | 3 => accept ((w.extractLsb' 7 3) == 0) (.gfill (w.getLsbD 31) (w.extractLsb' 20 5) (w.extractLsb' 15 5) (w.extractLsb' 10 5)) w
  | 4 => accept ((w.extractLsb' 7 3) == 0) (.gred (w.getLsbD 31) (w.extractLsb' 20 5) (w.extractLsb' 15 5) (w.extractLsb' 10 5)) w
  | 5 => accept ((w.extractLsb' 7 13) == 0) (.gq (w.getLsbD 31) (w.extractLsb' 20 5)) w
  | 6 => accept ((w.extractLsb' 7 3) == 0) (.gcpr (w.getLsbD 31) (w.extractLsb' 20 5) (w.extractLsb' 15 5) (w.extractLsb' 10 5)) w
  | _ => .unassignedEncoding .function w

/-- Major 0x39 (R26). -/
def decodeSs (w : BitVec 32) : Instr :=
  match (w.extractLsb' 0 7).toNat with
  | 0 => accept ((w.extractLsb' 7 8) == 0) (.ssopen (w.getLsbD 31) (w.extractLsb' 20 5) (w.extractLsb' 15 5)) w
  | 1 => accept ((w.extractLsb' 7 3) == 0) (.ssld (w.getLsbD 31) (w.extractLsb' 20 5) (w.extractLsb' 15 5) (w.extractLsb' 10 5)) w
  | 2 => accept ((w.extractLsb' 7 3) == 0) (.sscm (w.getLsbD 31) (w.extractLsb' 20 5) (w.extractLsb' 15 5) (w.extractLsb' 10 5)) w
  | 3 => accept ((w.extractLsb' 7 3) == 0) (.ssroll (w.getLsbD 31) (w.extractLsb' 20 5) (w.extractLsb' 15 5) (w.extractLsb' 10 5)) w
  | 4 => accept ((w.extractLsb' 7 3) == 0) (.ssfork (w.getLsbD 31) (w.extractLsb' 20 5) (w.extractLsb' 15 5) (w.extractLsb' 10 5)) w
  | 5 => accept ((w.extractLsb' 7 3) == 0) (.sspin (w.getLsbD 31) (w.extractLsb' 20 5) (w.extractLsb' 15 5) (w.extractLsb' 10 5)) w
  | 6 => accept ((w.extractLsb' 7 3) == 0) (.ssunpin (w.getLsbD 31) (w.extractLsb' 20 5) (w.extractLsb' 15 5) (w.extractLsb' 10 5)) w
  | 7 => accept ((w.extractLsb' 7 3) == 0) (.ssq (w.getLsbD 31) (w.extractLsb' 20 5) (w.extractLsb' 15 5) (w.extractLsb' 10 5)) w
  | 8 => accept ((w.extractLsb' 7 8) == 0) (.ssclose (w.getLsbD 31) (w.extractLsb' 20 5) (w.extractLsb' 15 5)) w
  | _ => .unassignedEncoding .function w

/-- Major 0x3B (R26). -/
def decodeStream (w : BitVec 32) : Instr :=
  match (w.extractLsb' 0 7).toNat with
  | 0 => accept ((w.extractLsb' 7 3) == 0) (.sbind (w.getLsbD 31) (w.extractLsb' 20 5) (w.extractLsb' 15 5) (w.extractLsb' 10 5)) w
  | 1 => accept ((w.extractLsb' 7 8) == 0) (.sunb (w.getLsbD 31) (w.extractLsb' 20 5) (w.extractLsb' 15 5)) w
  | 2 => accept ((w.extractLsb' 7 8) == 0) (.sq (w.getLsbD 31) (w.extractLsb' 20 5) (w.extractLsb' 15 5)) w
  | _ => .unassignedEncoding .function w

/-- Major 0x3C (R26). -/
def decodeAcct (w : BitVec 32) : Instr :=
  match (w.extractLsb' 0 7).toNat with
  | 0 => accept ((w.extractLsb' 7 8) == 0) (.acctrd (w.getLsbD 31) (w.extractLsb' 20 5) (w.extractLsb' 15 5)) w
  | 1 => accept ((w.extractLsb' 20 5) == 0 && (w.extractLsb' 7 8) == 0) (.mark (w.getLsbD 31) (w.extractLsb' 15 5)) w
  | 2 => accept ((w.extractLsb' 20 5) == 0 && (w.extractLsb' 7 8) == 0) (.acctclr (w.getLsbD 31) (w.extractLsb' 15 5)) w
  | _ => .unassignedEncoding .function w

/-- Major 0x3E (R28, R241): the second word `p` is the payload, and it is not examined for an unassigned sub. -/
def decodeWide (w p : BitVec 32) : Instr :=
  match (w.extractLsb' 20 5).toNat with
  | 0 => accept ((w.extractLsb' 0 15) == 0) (.lix (w.getLsbD 31) (w.extractLsb' 15 5) p) w
  | 1 => accept ((w.extractLsb' 0 15) == 0) (.lixh (w.getLsbD 31) (w.extractLsb' 15 5) p) w
  | 2 => accept ((w.extractLsb' 0 5) == 0) (.mcmd (w.getLsbD 31) (w.extractLsb' 15 5) (w.extractLsb' 10 5) (w.extractLsb' 5 5) p) w
  | 3 => accept ((w.extractLsb' 0 5) == 0) (.mdist (w.getLsbD 31) (w.extractLsb' 15 5) (w.extractLsb' 10 5) (w.extractLsb' 5 5) p) w
  | _ => .unassignedEncoding .function w

/-- The instruction of the first word `w`, with `p` the word that follows it. Total: every word decodes (R30). -/
def decode (w p : BitVec 32) : Instr :=
  match majorOf w with
  | 0x00 => decodeSys w
  | 0x01 => decodeSpec w
  | 0x02 => decodeAlu w
  | 0x03 => accept (true) (.addi (w.getLsbD 31) (w.extractLsb' 20 5) (w.extractLsb' 15 5) (w.extractLsb' 0 15)) w
  | 0x04 => accept (true) (.andi (w.getLsbD 31) (w.extractLsb' 20 5) (w.extractLsb' 15 5) (w.extractLsb' 0 15)) w
  | 0x05 => accept (true) (.ori (w.getLsbD 31) (w.extractLsb' 20 5) (w.extractLsb' 15 5) (w.extractLsb' 0 15)) w
  | 0x06 => accept (true) (.xori (w.getLsbD 31) (w.extractLsb' 20 5) (w.extractLsb' 15 5) (w.extractLsb' 0 15)) w
  | 0x07 => decodeShi w
  | 0x08 => accept (true) (.li (w.getLsbD 31) (w.extractLsb' 20 5) (w.extractLsb' 0 20)) w
  | 0x09 => accept (true) (.lsh (w.getLsbD 31) (w.extractLsb' 20 5) (w.extractLsb' 0 20)) w
  | 0x0A => accept (true) (.addpc (w.getLsbD 31) (w.extractLsb' 20 5) (w.extractLsb' 0 20)) w
  | 0x0B => decodeSet w
  | 0x0C => decodeSeti w
  | 0x0D => decodeBf w
  | 0x0E => decodePtr w
  | 0x10 => decodeBrz w
  | 0x11 => decodeBrr w
  | 0x12 => accept (true) (.jal (w.getLsbD 31) (w.extractLsb' 0 25)) w
  | 0x13 => accept (true) (.j (w.getLsbD 31) (w.extractLsb' 0 25)) w
  | 0x14 => decodeJr w
  | 0x15 => accept ((w.extractLsb' 15 5) == 0) (.dbnz (w.getLsbD 31) (w.extractLsb' 20 5) (w.extractLsb' 0 15)) w
  | 0x16 => accept ((w.extractLsb' 15 5) == 0) (.ldp (w.getLsbD 31) (w.extractLsb' 20 5) (w.extractLsb' 13 2) (w.extractLsb' 0 13)) w
  | 0x18 => decodeLd w
  | 0x19 => decodeSt w
  | 0x1A => decodeLdq w
  | 0x1B => decodeAmo w
  | 0x1C => accept ((w.extractLsb' 0 4) == 0) (.cas (w.getLsbD 31) (w.extractLsb' 20 5) (w.extractLsb' 15 5) (w.extractLsb' 10 5) (w.extractLsb' 7 3) (w.extractLsb' 4 3)) w
  | 0x1D => decodeFe w
  | 0x1E => accept ((w.extractLsb' 15 10) == 0 && (w.extractLsb' 0 8) == 0) (.fence (w.getLsbD 31) (w.extractLsb' 12 3) (w.extractLsb' 8 4)) w
  | 0x1F => decodeCache w
  | 0x20 => accept ((w.extractLsb' 0 10) == 0) (.setl (w.getLsbD 31) (w.extractLsb' 20 5) (w.extractLsb' 15 5) (w.extractLsb' 10 5)) w
  | 0x21 => accept (true) (.strip (w.getLsbD 31) (w.extractLsb' 20 5) (w.extractLsb' 15 5) (w.extractLsb' 12 3) (w.extractLsb' 9 3) (w.extractLsb' 6 3) (w.extractLsb' 3 3) (w.extractLsb' 0 3)) w
  | 0x22 => decodeVld w
  | 0x23 => decodeVst w
  | 0x24 => decodeVint w
  | 0x25 => decodeVints w
  | 0x26 => decodeVfp w
  | 0x27 => decodeVfps w
  | 0x28 => decodeVcmp w
  | 0x29 => accept (true) (.vcvt (w.getLsbD 31) (w.extractLsb' 20 5) (w.extractLsb' 15 5) (w.extractLsb' 10 5) (w.extractLsb' 6 4) (w.getLsbD 5) (w.getLsbD 4) (w.getLsbD 3) (w.extractLsb' 0 3)) w
  | 0x2A => decodeVmov w
  | 0x2B => decodeVperm w
  | 0x2C => decodeVred w
  | 0x2D => decodeVsm w
  | 0x2E => decodeMask w
  | 0x2F => decodeScale w
  | 0x30 => decodeMtx w
  | 0x32 => decodeTok w
  | 0x33 => decodeAwait w
  | 0x34 => decodeStrand w
  | 0x35 => decodeChain w
  | 0x36 => decodeBar w
  | 0x37 => decodeGang w
  | 0x38 => decodeGcp w
  | 0x39 => decodeSs w
  | 0x3A => accept ((w.extractLsb' 0 10) == 0) (.launch (w.getLsbD 31) (w.extractLsb' 20 5) (w.extractLsb' 15 5) (w.extractLsb' 10 5)) w
  | 0x3B => decodeStream w
  | 0x3C => decodeAcct w
  | 0x3E => decodeWide w p
  | _ => .unassignedEncoding .major w

/-- Whether the word is the first of two (R13, R30): a `WIDE` word with an assigned sub. -/
def isWide (w : BitVec 32) : Bool := majorOf w == 0x3E && (w.extractLsb' 20 5).toNat < 4

/-- Four bytes as a little-endian word (R13). -/
def wordOfBytes (b0 b1 b2 b3 : Byte) : BitVec 32 := b3 ++ (b2 ++ (b1 ++ b0))

/-- The first instruction of a byte string, with the bytes that follow it; none when the bytes end before it does. -/
def decodeBytes : List Byte → Option (Instr × List Byte)
  | b0 :: b1 :: b2 :: b3 :: rest =>
    let w := wordOfBytes b0 b1 b2 b3
    if isWide w then
      match rest with
      | c0 :: c1 :: c2 :: c3 :: rest' => some (decode w (wordOfBytes c0 c1 c2 c3), rest')
      | _ => none
    else some (decode w 0, rest)
  | _ => none

/-- `n` bytes of a number, least significant first. -/
def bytesOfNat : Nat → Nat → List Byte
  | 0, _ => []
  | n + 1, x => BitVec.ofNat 8 x :: bytesOfNat n (x / 256)

/-- The instruction that the decoder reads from the bits `w` of an opcode-table row: the first word is bits 31 to 0, the
payload of a `WIDE` word bits 63 to 32, and the bits above `nbits` are zero. -/
def decodeTableWord (nbits w : Nat) : Option Instr :=
  (decodeBytes (bytesOfNat 8 (w % 2 ^ nbits))).map Prod.fst

/-- The words of an instruction, first word first, from R15 and R26-R28; none for a step that has no word. -/
def encode : Instr → Option (List (BitVec 32))
  | .deviceReset => none
  | .powerUp _ _ => none
  | .shockEvent _ => none
  | .pendingResultReturn _ _ => none
  | .ldqReply _ => none
  | .tokenSignalArrival _ => none
  | .tokenFailArrival _ => none
  | .depositArrival _ => none
  | .resumeDecision _ => none
  | .preemptRequest _ _ => none
  | .suspendedImageMove _ _ => none
  | .cleanRowCopy _ _ => none
  | .preemptLift _ _ => none
  | .trapDelivery _ => none
  | .trapSlotFreed _ => none
  | .imageUncorrectable _ _ => none
  | .cellUncorrectable _ _ => none
  | .parkTimeout _ => none
  | .fimetUnpark _ => none
  | .vectorExecute _ => none
  | .debugStopTakesEffect _ => none
  | .streamFillArrival _ _ _ => none
  | .streamDrainComplete _ _ => none
  | .matrixCommandExecute _ => none
  | .remoteMatrixCommand _ => none
  | .feBankAnswer _ => none
  | .waiterWake _ => none
  | .waiterTableTimeout _ _ => none
  | .waitLimitExpiry _ _ => none
  | .bankModeChange _ => none
  | .barrierArrival _ => none
  | .gondolaCopyComplete _ _ => none
  | .barrierCellError _ _ _ => none
  | .gondolaEngineFailure _ _ => none
  | .coreFailure _ => none
  | .slotTableSwap _ => none
  | .messagePacketArrival _ _ _ _ _ => none
  | .memoryRequest _ => none
  | .responseArrival _ => none
  | .reduceAddArrival _ => none
  | .l2BankFailure _ _ _ => none
  | .rowActivateHint _ => none
  | .patrolScrub _ _ => none
  | .linkRetrainStart _ => none
  | .linkRetrainComplete _ => none
  | .linkDownTimeout _ => none
  | .moraineRequest _ => none
  | .moraineMovementComplete _ _ => none
  | .moraineMetadataError _ _ => none
  | .faultBatchWrite => none
  | .engineFaultReport _ => none
  | .migrationStart => none
  | .migrationCopyStep _ => none
  | .migrationFinish _ => none
  | .dumpStart => none
  | .dumpPageCopy => none
  | .dumpComplete => none
  | .launchPortWrite _ _ _ _ => none
  | .launchAdmission => none
  | .dependencyReport _ _ => none
  | .launchPlacement _ _ _ => none
  | .itemStart _ => none
  | .launchFinish _ => none
  | .cancelComplete _ => none
  | .couloirPublicationDelivery _ => none
  | .podRemoteAccess _ => none
  | .pathDownTimeout _ => none
  | .remoteControlMessage _ => none
  | .netDoorbellAcquire _ => none
  | .netPacketArrival _ _ => none
  | .netRetransmitTimeout _ => none
  | .placementRequest _ => none
  | .placementUpdate _ => none
  | .supplyDroop => none
  | .stretchRecovery => none
  | .rideEntry => none
  | .rideRecovery => none
  | .quiesceEntry => none
  | .quiesceComplete => none
  | .heldRestart => none
  | .thermalRide => none
  | .thermalReturn => none
  | .thermalQuiesce => none
  | .profileSwitch => none
  | .hostMemoryAccess _ _ _ _ => none
  | .attest _ _ => none
  | .extentadd _ _ => none
  | .extentrel _ => none
  | .setvec _ _ _ => none
  | .mbxProfile _ => none
  | .debugstop _ _ => none
  | .selftest _ => none
  | .wrsVtype s a => some [BitVec.ofBool s ++ (1#6 ++ (0#5 ++ (a ++ (1#1 ++ (0#2 ++ 0x006#12)))))]
  | .wrsVbank s a => some [BitVec.ofBool s ++ (1#6 ++ (0#5 ++ (a ++ (1#1 ++ (0#2 ++ 0x024#12)))))]
  | .wrsCclimit s a => some [BitVec.ofBool s ++ (1#6 ++ (0#5 ++ (a ++ (1#1 ++ (0#2 ++ 0x023#12)))))]
  | .wrsSlotpol s a => some [BitVec.ofBool s ++ (1#6 ++ (0#5 ++ (a ++ (1#1 ++ (0#2 ++ 0x841#12)))))]
  | .wrsRedcfg s a => some [BitVec.ofBool s ++ (1#6 ++ (0#5 ++ (a ++ (1#1 ++ (0#2 ++ 0x840#12)))))]
  | .wrsProfile s a => some [BitVec.ofBool s ++ (1#6 ++ (0#5 ++ (a ++ (1#1 ++ (0#2 ++ 0x880#12)))))]
  | .wrsAcctctl s a => some [BitVec.ofBool s ++ (1#6 ++ (0#5 ++ (a ++ (1#1 ++ (0#2 ++ 0x813#12)))))]
  | .wrsTrptr s a => some [BitVec.ofBool s ++ (1#6 ++ (0#5 ++ (a ++ (1#1 ++ (0#2 ++ 0x815#12)))))]
  | .wrsLcancel s a => some [BitVec.ofBool s ++ (1#6 ++ (0#5 ++ (a ++ (1#1 ++ (0#2 ++ 0x872#12)))))]
  | .wrsMigdoor s a => some [BitVec.ofBool s ++ (1#6 ++ (0#5 ++ (a ++ (1#1 ++ (0#2 ++ 0x863#12)))))]
  | .wrsDumpdoor s a => some [BitVec.ofBool s ++ (1#6 ++ (0#5 ++ (a ++ (1#1 ++ (0#2 ++ 0x864#12)))))]
  | .wrsNetreload s a => some [BitVec.ofBool s ++ (1#6 ++ (0#5 ++ (a ++ (1#1 ++ (0#2 ++ 0x8B2#12)))))]
  | .illegal s => some [BitVec.ofBool s ++ (0#6 ++ (0#18 ++ 0#7))]
  | .trap s a => some [BitVec.ofBool s ++ (0#6 ++ (0#5 ++ (a ++ (0#8 ++ 1#7))))]
  | .rett s a => some [BitVec.ofBool s ++ (0#6 ++ (0#5 ++ (a ++ (0#8 ++ 2#7))))]
  | .synci s => some [BitVec.ofBool s ++ (0#6 ++ (0#18 ++ 3#7))]
  | .mapfence s => some [BitVec.ofBool s ++ (0#6 ++ (0#18 ++ 4#7))]
  | .tlbinv s a b => some [BitVec.ofBool s ++ (0#6 ++ (0#5 ++ (a ++ (b ++ (0#3 ++ 5#7)))))]
  | .uefix s a => some [BitVec.ofBool s ++ (0#6 ++ (0#5 ++ (a ++ (0#8 ++ 6#7))))]
  | .mxsave s a => some [BitVec.ofBool s ++ (0#6 ++ (0#5 ++ (a ++ (0#8 ++ 7#7))))]
  | .mxrst s a => some [BitVec.ofBool s ++ (0#6 ++ (0#5 ++ (a ++ (0#8 ++ 8#7))))]
  | .park s a => some [BitVec.ofBool s ++ (0#6 ++ (0#5 ++ (a ++ (0#8 ++ 9#7))))]
  | .rds s d x => some [BitVec.ofBool s ++ (1#6 ++ (d ++ (0#5 ++ (0#1 ++ (0#2 ++ x)))))]
  | .wrs s a x => some [BitVec.ofBool s ++ (1#6 ++ (0#5 ++ (a ++ (1#1 ++ (0#2 ++ x)))))]
  | .add s d a b k n => some [BitVec.ofBool s ++ (2#6 ++ (d ++ (a ++ (b ++ (k ++ (BitVec.ofBool n ++ 0#7))))))]
  | .sub s d a b k n => some [BitVec.ofBool s ++ (2#6 ++ (d ++ (a ++ (b ++ (k ++ (BitVec.ofBool n ++ 1#7))))))]
  | .and s d a b k n => some [BitVec.ofBool s ++ (2#6 ++ (d ++ (a ++ (b ++ (k ++ (BitVec.ofBool n ++ 2#7))))))]
  | .or s d a b k n => some [BitVec.ofBool s ++ (2#6 ++ (d ++ (a ++ (b ++ (k ++ (BitVec.ofBool n ++ 3#7))))))]
  | .xor s d a b k n => some [BitVec.ofBool s ++ (2#6 ++ (d ++ (a ++ (b ++ (k ++ (BitVec.ofBool n ++ 4#7))))))]
  | .andn s d a b k n => some [BitVec.ofBool s ++ (2#6 ++ (d ++ (a ++ (b ++ (k ++ (BitVec.ofBool n ++ 5#7))))))]
  | .orn s d a b k n => some [BitVec.ofBool s ++ (2#6 ++ (d ++ (a ++ (b ++ (k ++ (BitVec.ofBool n ++ 6#7))))))]
  | .shl s d a b k n => some [BitVec.ofBool s ++ (2#6 ++ (d ++ (a ++ (b ++ (k ++ (BitVec.ofBool n ++ 7#7))))))]
  | .shr s d a b k n => some [BitVec.ofBool s ++ (2#6 ++ (d ++ (a ++ (b ++ (k ++ (BitVec.ofBool n ++ 8#7))))))]
  | .sra s d a b k n => some [BitVec.ofBool s ++ (2#6 ++ (d ++ (a ++ (b ++ (k ++ (BitVec.ofBool n ++ 9#7))))))]
  | .rot s d a b k n => some [BitVec.ofBool s ++ (2#6 ++ (d ++ (a ++ (b ++ (k ++ (BitVec.ofBool n ++ 10#7))))))]
  | .min s d a b k n => some [BitVec.ofBool s ++ (2#6 ++ (d ++ (a ++ (b ++ (k ++ (BitVec.ofBool n ++ 11#7))))))]
  | .max s d a b k n => some [BitVec.ofBool s ++ (2#6 ++ (d ++ (a ++ (b ++ (k ++ (BitVec.ofBool n ++ 12#7))))))]
  | .minn s d a b k n => some [BitVec.ofBool s ++ (2#6 ++ (d ++ (a ++ (b ++ (k ++ (BitVec.ofBool n ++ 13#7))))))]
  | .maxn s d a b k n => some [BitVec.ofBool s ++ (2#6 ++ (d ++ (a ++ (b ++ (k ++ (BitVec.ofBool n ++ 14#7))))))]
  | .mul s d a b k n => some [BitVec.ofBool s ++ (2#6 ++ (d ++ (a ++ (b ++ (k ++ (BitVec.ofBool n ++ 15#7))))))]
  | .mulh s d a b k n => some [BitVec.ofBool s ++ (2#6 ++ (d ++ (a ++ (b ++ (k ++ (BitVec.ofBool n ++ 16#7))))))]
  | .mulhn s d a b k n => some [BitVec.ofBool s ++ (2#6 ++ (d ++ (a ++ (b ++ (k ++ (BitVec.ofBool n ++ 17#7))))))]
  | .div s d a b k n => some [BitVec.ofBool s ++ (2#6 ++ (d ++ (a ++ (b ++ (k ++ (BitVec.ofBool n ++ 18#7))))))]
  | .divn s d a b k n => some [BitVec.ofBool s ++ (2#6 ++ (d ++ (a ++ (b ++ (k ++ (BitVec.ofBool n ++ 19#7))))))]
  | .rem s d a b k n => some [BitVec.ofBool s ++ (2#6 ++ (d ++ (a ++ (b ++ (k ++ (BitVec.ofBool n ++ 20#7))))))]
  | .remn s d a b k n => some [BitVec.ofBool s ++ (2#6 ++ (d ++ (a ++ (b ++ (k ++ (BitVec.ofBool n ++ 21#7))))))]
  | .clz s d a k n => some [BitVec.ofBool s ++ (2#6 ++ (d ++ (a ++ (0#5 ++ (k ++ (BitVec.ofBool n ++ 22#7))))))]
  | .ctz s d a k n => some [BitVec.ofBool s ++ (2#6 ++ (d ++ (a ++ (0#5 ++ (k ++ (BitVec.ofBool n ++ 23#7))))))]
  | .popc s d a k n => some [BitVec.ofBool s ++ (2#6 ++ (d ++ (a ++ (0#5 ++ (k ++ (BitVec.ofBool n ++ 24#7))))))]
  | .sext s d a b k n => some [BitVec.ofBool s ++ (2#6 ++ (d ++ (a ++ (b ++ (k ++ (BitVec.ofBool n ++ 25#7))))))]
  | .zext s d a b k n => some [BitVec.ofBool s ++ (2#6 ++ (d ++ (a ++ (b ++ (k ++ (BitVec.ofBool n ++ 26#7))))))]
  | .sel s d a b k n => some [BitVec.ofBool s ++ (2#6 ++ (d ++ (a ++ (b ++ (k ++ (BitVec.ofBool n ++ 27#7))))))]
  | .addi s d a i => some [BitVec.ofBool s ++ (3#6 ++ (d ++ (a ++ i)))]
  | .andi s d a i => some [BitVec.ofBool s ++ (4#6 ++ (d ++ (a ++ i)))]
  | .ori s d a i => some [BitVec.ofBool s ++ (5#6 ++ (d ++ (a ++ i)))]
  | .xori s d a i => some [BitVec.ofBool s ++ (6#6 ++ (d ++ (a ++ i)))]
  | .shli s d a h => some [BitVec.ofBool s ++ (7#6 ++ (d ++ (a ++ (0#2 ++ (0#7 ++ h)))))]
  | .shri s d a h => some [BitVec.ofBool s ++ (7#6 ++ (d ++ (a ++ (1#2 ++ (0#7 ++ h)))))]
  | .srai s d a h => some [BitVec.ofBool s ++ (7#6 ++ (d ++ (a ++ (2#2 ++ (0#7 ++ h)))))]
  | .roti s d a h => some [BitVec.ofBool s ++ (7#6 ++ (d ++ (a ++ (3#2 ++ (0#7 ++ h)))))]
  | .li s d i => some [BitVec.ofBool s ++ (8#6 ++ (d ++ i))]
  | .lsh s d i => some [BitVec.ofBool s ++ (9#6 ++ (d ++ i))]
  | .addpc s d i => some [BitVec.ofBool s ++ (10#6 ++ (d ++ i))]
  | .seteq s d a b k n => some [BitVec.ofBool s ++ (11#6 ++ (d ++ (a ++ (b ++ (k ++ (BitVec.ofBool n ++ 0#7))))))]
  | .setne s d a b k n => some [BitVec.ofBool s ++ (11#6 ++ (d ++ (a ++ (b ++ (k ++ (BitVec.ofBool n ++ 1#7))))))]
  | .setlt s d a b k n => some [BitVec.ofBool s ++ (11#6 ++ (d ++ (a ++ (b ++ (k ++ (BitVec.ofBool n ++ 2#7))))))]
  | .setge s d a b k n => some [BitVec.ofBool s ++ (11#6 ++ (d ++ (a ++ (b ++ (k ++ (BitVec.ofBool n ++ 3#7))))))]
  | .setltn s d a b k n => some [BitVec.ofBool s ++ (11#6 ++ (d ++ (a ++ (b ++ (k ++ (BitVec.ofBool n ++ 4#7))))))]
  | .setgen s d a b k n => some [BitVec.ofBool s ++ (11#6 ++ (d ++ (a ++ (b ++ (k ++ (BitVec.ofBool n ++ 5#7))))))]
  | .seteqi s d a i => some [BitVec.ofBool s ++ (12#6 ++ (d ++ (a ++ (0#3 ++ i))))]
  | .setnei s d a i => some [BitVec.ofBool s ++ (12#6 ++ (d ++ (a ++ (1#3 ++ i))))]
  | .setlti s d a i => some [BitVec.ofBool s ++ (12#6 ++ (d ++ (a ++ (2#3 ++ i))))]
  | .setgei s d a i => some [BitVec.ofBool s ++ (12#6 ++ (d ++ (a ++ (3#3 ++ i))))]
  | .setltni s d a i => some [BitVec.ofBool s ++ (12#6 ++ (d ++ (a ++ (4#3 ++ i))))]
  | .setgeni s d a i => some [BitVec.ofBool s ++ (12#6 ++ (d ++ (a ++ (5#3 ++ i))))]
  | .bfx s d a p w => some [BitVec.ofBool s ++ (13#6 ++ (d ++ (a ++ (0#1 ++ (0#2 ++ (p ++ w))))))]
  | .bfi s d a p w => some [BitVec.ofBool s ++ (13#6 ++ (d ++ (a ++ (1#1 ++ (0#2 ++ (p ++ w))))))]
  | .adda s d a b k n => some [BitVec.ofBool s ++ (14#6 ++ (d ++ (a ++ (b ++ (k ++ (BitVec.ofBool n ++ 0#7))))))]
  | .tagset s d a b k n => some [BitVec.ofBool s ++ (14#6 ++ (d ++ (a ++ (b ++ (k ++ (BitVec.ofBool n ++ 1#7))))))]
  | .tagget s d a k n => some [BitVec.ofBool s ++ (14#6 ++ (d ++ (a ++ (0#5 ++ (k ++ (BitVec.ofBool n ++ 2#7))))))]
  | .pdiff s d a b k n => some [BitVec.ofBool s ++ (14#6 ++ (d ++ (a ++ (b ++ (k ++ (BitVec.ofBool n ++ 3#7))))))]
  | .beqz s a o => some [BitVec.ofBool s ++ (16#6 ++ (0#4 ++ (a ++ o)))]
  | .bnez s a o => some [BitVec.ofBool s ++ (16#6 ++ (1#4 ++ (a ++ o)))]
  | .bltz s a o => some [BitVec.ofBool s ++ (16#6 ++ (2#4 ++ (a ++ o)))]
  | .bgez s a o => some [BitVec.ofBool s ++ (16#6 ++ (3#4 ++ (a ++ o)))]
  | .blez s a o => some [BitVec.ofBool s ++ (16#6 ++ (4#4 ++ (a ++ o)))]
  | .bgtz s a o => some [BitVec.ofBool s ++ (16#6 ++ (5#4 ++ (a ++ o)))]
  | .beq s a b o => some [BitVec.ofBool s ++ (17#6 ++ (0#4 ++ (a ++ (b ++ o))))]
  | .bne s a b o => some [BitVec.ofBool s ++ (17#6 ++ (1#4 ++ (a ++ (b ++ o))))]
  | .blt s a b o => some [BitVec.ofBool s ++ (17#6 ++ (2#4 ++ (a ++ (b ++ o))))]
  | .bge s a b o => some [BitVec.ofBool s ++ (17#6 ++ (3#4 ++ (a ++ (b ++ o))))]
  | .bltn s a b o => some [BitVec.ofBool s ++ (17#6 ++ (4#4 ++ (a ++ (b ++ o))))]
  | .bgen s a b o => some [BitVec.ofBool s ++ (17#6 ++ (5#4 ++ (a ++ (b ++ o))))]
  | .jal s o => some [BitVec.ofBool s ++ (18#6 ++ o)]
  | .j s o => some [BitVec.ofBool s ++ (19#6 ++ o)]
  | .jr s a => some [BitVec.ofBool s ++ (20#6 ++ (0#5 ++ (a ++ (0#8 ++ 0#7))))]
  | .jalr s d a => some [BitVec.ofBool s ++ (20#6 ++ (d ++ (a ++ (0#8 ++ 1#7))))]
  | .dbnz s d o => some [BitVec.ofBool s ++ (21#6 ++ (d ++ (0#5 ++ o)))]
  | .ldp s d w o => some [BitVec.ofBool s ++ (22#6 ++ (d ++ (0#5 ++ (w ++ o))))]
  | .ldI8 s d a o => some [BitVec.ofBool s ++ (24#6 ++ (d ++ (a ++ (0#3 ++ o))))]
  | .ldN8 s d a o => some [BitVec.ofBool s ++ (24#6 ++ (d ++ (a ++ (1#3 ++ o))))]
  | .ldI16 s d a o => some [BitVec.ofBool s ++ (24#6 ++ (d ++ (a ++ (2#3 ++ o))))]
  | .ldN16 s d a o => some [BitVec.ofBool s ++ (24#6 ++ (d ++ (a ++ (3#3 ++ o))))]
  | .ldI32 s d a o => some [BitVec.ofBool s ++ (24#6 ++ (d ++ (a ++ (4#3 ++ o))))]
  | .ldN32 s d a o => some [BitVec.ofBool s ++ (24#6 ++ (d ++ (a ++ (5#3 ++ o))))]
  | .ldI64 s d a o => some [BitVec.ofBool s ++ (24#6 ++ (d ++ (a ++ (6#3 ++ o))))]
  | .st8 s d a o => some [BitVec.ofBool s ++ (25#6 ++ (d ++ (a ++ (0#2 ++ o))))]
  | .st16 s d a o => some [BitVec.ofBool s ++ (25#6 ++ (d ++ (a ++ (1#2 ++ o))))]
  | .st32 s d a o => some [BitVec.ofBool s ++ (25#6 ++ (d ++ (a ++ (2#2 ++ o))))]
  | .st64 s d a o => some [BitVec.ofBool s ++ (25#6 ++ (d ++ (a ++ (3#2 ++ o))))]
  | .ldq s d a b => some [BitVec.ofBool s ++ (26#6 ++ (d ++ (a ++ (b ++ (0#3 ++ 0#7)))))]
  | .stq s d a b => some [BitVec.ofBool s ++ (26#6 ++ (d ++ (a ++ (b ++ (0#3 ++ 1#7)))))]
  | .amoadd s d a b p o => some [BitVec.ofBool s ++ (27#6 ++ (d ++ (a ++ (b ++ (p ++ (o ++ 0#4))))))]
  | .amoand s d a b p o => some [BitVec.ofBool s ++ (27#6 ++ (d ++ (a ++ (b ++ (p ++ (o ++ 1#4))))))]
  | .amoor s d a b p o => some [BitVec.ofBool s ++ (27#6 ++ (d ++ (a ++ (b ++ (p ++ (o ++ 2#4))))))]
  | .amoxor s d a b p o => some [BitVec.ofBool s ++ (27#6 ++ (d ++ (a ++ (b ++ (p ++ (o ++ 3#4))))))]
  | .amomin s d a b p o => some [BitVec.ofBool s ++ (27#6 ++ (d ++ (a ++ (b ++ (p ++ (o ++ 4#4))))))]
  | .amomax s d a b p o => some [BitVec.ofBool s ++ (27#6 ++ (d ++ (a ++ (b ++ (p ++ (o ++ 5#4))))))]
  | .amominn s d a b p o => some [BitVec.ofBool s ++ (27#6 ++ (d ++ (a ++ (b ++ (p ++ (o ++ 6#4))))))]
  | .amomaxn s d a b p o => some [BitVec.ofBool s ++ (27#6 ++ (d ++ (a ++ (b ++ (p ++ (o ++ 7#4))))))]
  | .amoswap s d a b p o => some [BitVec.ofBool s ++ (27#6 ++ (d ++ (a ++ (b ++ (p ++ (o ++ 8#4))))))]
  | .amofadd32 s d a b p o => some [BitVec.ofBool s ++ (27#6 ++ (d ++ (a ++ (b ++ (p ++ (o ++ 9#4))))))]
  | .amofmax32 s d a b p o => some [BitVec.ofBool s ++ (27#6 ++ (d ++ (a ++ (b ++ (p ++ (o ++ 10#4))))))]
  | .cas s d a b p o => some [BitVec.ofBool s ++ (28#6 ++ (d ++ (a ++ (b ++ (p ++ (o ++ 0#4))))))]
  | .ldfe s d a => some [BitVec.ofBool s ++ (29#6 ++ (d ++ (a ++ (0#8 ++ 0#7))))]
  | .stfe s d a => some [BitVec.ofBool s ++ (29#6 ++ (d ++ (a ++ (0#8 ++ 1#7))))]
  | .feinit s a b => some [BitVec.ofBool s ++ (29#6 ++ (0#5 ++ (a ++ (b ++ (0#3 ++ 2#7)))))]
  | .fefill s d a => some [BitVec.ofBool s ++ (29#6 ++ (d ++ (a ++ (0#8 ++ 3#7))))]
  | .feq s d a => some [BitVec.ofBool s ++ (29#6 ++ (d ++ (a ++ (0#8 ++ 4#7))))]
  | .fence s c k => some [BitVec.ofBool s ++ (30#6 ++ (0#10 ++ (c ++ (k ++ 0#8))))]
  | .pin s d a => some [BitVec.ofBool s ++ (31#6 ++ (d ++ (a ++ (0#8 ++ 0#7))))]
  | .unpin s d a => some [BitVec.ofBool s ++ (31#6 ++ (d ++ (a ++ (0#8 ++ 1#7))))]
  | .cflush s a b => some [BitVec.ofBool s ++ (31#6 ++ (0#5 ++ (a ++ (b ++ (0#3 ++ 2#7)))))]
  | .cinv s a b => some [BitVec.ofBool s ++ (31#6 ++ (0#5 ++ (a ++ (b ++ (0#3 ++ 3#7)))))]
  | .pref s a b => some [BitVec.ofBool s ++ (31#6 ++ (0#5 ++ (a ++ (b ++ (0#3 ++ 4#7)))))]
  | .bankcfg s d a b => some [BitVec.ofBool s ++ (31#6 ++ (d ++ (a ++ (b ++ (0#3 ++ 5#7)))))]
  | .setl s d a b => some [BitVec.ofBool s ++ (32#6 ++ (d ++ (a ++ (b ++ 0#10))))]
  | .strip s d a e f g h n => some [BitVec.ofBool s ++ (33#6 ++ (d ++ (a ++ (e ++ (f ++ (g ++ (h ++ n)))))))]
  | .vld s d a b m x c => some [BitVec.ofBool s ++ (34#6 ++ (d ++ (a ++ (b ++ (m ++ (BitVec.ofBool x ++ (c ++ 0#2)))))))]
  | .vlds s d a b m x c => some [BitVec.ofBool s ++ (34#6 ++ (d ++ (a ++ (b ++ (m ++ (BitVec.ofBool x ++ (c ++ 1#2)))))))]
  | .vldx s d a b m x c => some [BitVec.ofBool s ++ (34#6 ++ (d ++ (a ++ (b ++ (m ++ (BitVec.ofBool x ++ (c ++ 2#2)))))))]
  | .vldff s d a b m x c => some [BitVec.ofBool s ++ (34#6 ++ (d ++ (a ++ (b ++ (m ++ (BitVec.ofBool x ++ (c ++ 3#2)))))))]
  | .vst s d a b m x c => some [BitVec.ofBool s ++ (35#6 ++ (d ++ (a ++ (b ++ (m ++ (BitVec.ofBool x ++ (c ++ 0#2)))))))]
  | .vsts s d a b m x c => some [BitVec.ofBool s ++ (35#6 ++ (d ++ (a ++ (b ++ (m ++ (BitVec.ofBool x ++ (c ++ 1#2)))))))]
  | .vstx s d a b m x c => some [BitVec.ofBool s ++ (35#6 ++ (d ++ (a ++ (b ++ (m ++ (BitVec.ofBool x ++ (c ++ 2#2)))))))]
  | .vstra s d a b m x c => some [BitVec.ofBool s ++ (35#6 ++ (d ++ (a ++ (b ++ (m ++ (BitVec.ofBool x ++ (c ++ 3#2)))))))]
  | .vadd s d a b m x => some [BitVec.ofBool s ++ (36#6 ++ (d ++ (a ++ (b ++ (m ++ (BitVec.ofBool x ++ 0#5))))))]
  | .vsub s d a b m x => some [BitVec.ofBool s ++ (36#6 ++ (d ++ (a ++ (b ++ (m ++ (BitVec.ofBool x ++ 1#5))))))]
  | .vmul s d a b m x => some [BitVec.ofBool s ++ (36#6 ++ (d ++ (a ++ (b ++ (m ++ (BitVec.ofBool x ++ 2#5))))))]
  | .vmulh s d a b m x => some [BitVec.ofBool s ++ (36#6 ++ (d ++ (a ++ (b ++ (m ++ (BitVec.ofBool x ++ 3#5))))))]
  | .vmulhn s d a b m x => some [BitVec.ofBool s ++ (36#6 ++ (d ++ (a ++ (b ++ (m ++ (BitVec.ofBool x ++ 4#5))))))]
  | .vmin s d a b m x => some [BitVec.ofBool s ++ (36#6 ++ (d ++ (a ++ (b ++ (m ++ (BitVec.ofBool x ++ 5#5))))))]
  | .vmax s d a b m x => some [BitVec.ofBool s ++ (36#6 ++ (d ++ (a ++ (b ++ (m ++ (BitVec.ofBool x ++ 6#5))))))]
  | .vminn s d a b m x => some [BitVec.ofBool s ++ (36#6 ++ (d ++ (a ++ (b ++ (m ++ (BitVec.ofBool x ++ 7#5))))))]
  | .vmaxn s d a b m x => some [BitVec.ofBool s ++ (36#6 ++ (d ++ (a ++ (b ++ (m ++ (BitVec.ofBool x ++ 8#5))))))]
  | .vand s d a b m x => some [BitVec.ofBool s ++ (36#6 ++ (d ++ (a ++ (b ++ (m ++ (BitVec.ofBool x ++ 9#5))))))]
  | .vor s d a b m x => some [BitVec.ofBool s ++ (36#6 ++ (d ++ (a ++ (b ++ (m ++ (BitVec.ofBool x ++ 10#5))))))]
  | .vxor s d a b m x => some [BitVec.ofBool s ++ (36#6 ++ (d ++ (a ++ (b ++ (m ++ (BitVec.ofBool x ++ 11#5))))))]
  | .vshl s d a b m x => some [BitVec.ofBool s ++ (36#6 ++ (d ++ (a ++ (b ++ (m ++ (BitVec.ofBool x ++ 12#5))))))]
  | .vshr s d a b m x => some [BitVec.ofBool s ++ (36#6 ++ (d ++ (a ++ (b ++ (m ++ (BitVec.ofBool x ++ 13#5))))))]
  | .vsra s d a b m x => some [BitVec.ofBool s ++ (36#6 ++ (d ++ (a ++ (b ++ (m ++ (BitVec.ofBool x ++ 14#5))))))]
  | .vrshr s d a b m x => some [BitVec.ofBool s ++ (36#6 ++ (d ++ (a ++ (b ++ (m ++ (BitVec.ofBool x ++ 15#5))))))]
  | .vrnshr s d a b m x => some [BitVec.ofBool s ++ (36#6 ++ (d ++ (a ++ (b ++ (m ++ (BitVec.ofBool x ++ 16#5))))))]
  | .vadds s d a b m x => some [BitVec.ofBool s ++ (36#6 ++ (d ++ (a ++ (b ++ (m ++ (BitVec.ofBool x ++ 17#5))))))]
  | .vsubs s d a b m x => some [BitVec.ofBool s ++ (36#6 ++ (d ++ (a ++ (b ++ (m ++ (BitVec.ofBool x ++ 18#5))))))]
  | .vmac s d a b m x => some [BitVec.ofBool s ++ (36#6 ++ (d ++ (a ++ (b ++ (m ++ (BitVec.ofBool x ++ 19#5))))))]
  | .vdot2 s d a b m x => some [BitVec.ofBool s ++ (36#6 ++ (d ++ (a ++ (b ++ (m ++ (BitVec.ofBool x ++ 20#5))))))]
  | .vdot4 s d a b m x => some [BitVec.ofBool s ++ (36#6 ++ (d ++ (a ++ (b ++ (m ++ (BitVec.ofBool x ++ 21#5))))))]
  | .vabs s d a m x => some [BitVec.ofBool s ++ (36#6 ++ (d ++ (a ++ (0#5 ++ (m ++ (BitVec.ofBool x ++ 22#5))))))]
  | .vavg s d a b m x => some [BitVec.ofBool s ++ (36#6 ++ (d ++ (a ++ (b ++ (m ++ (BitVec.ofBool x ++ 23#5))))))]
  | .vwmul s d a b m x => some [BitVec.ofBool s ++ (36#6 ++ (d ++ (a ++ (b ++ (m ++ (BitVec.ofBool x ++ 24#5))))))]
  | .vwadd s d a b m x => some [BitVec.ofBool s ++ (36#6 ++ (d ++ (a ++ (b ++ (m ++ (BitVec.ofBool x ++ 25#5))))))]
  | .vaddG s d a b m x => some [BitVec.ofBool s ++ (37#6 ++ (d ++ (a ++ (b ++ (m ++ (BitVec.ofBool x ++ 0#5))))))]
  | .vsubG s d a b m x => some [BitVec.ofBool s ++ (37#6 ++ (d ++ (a ++ (b ++ (m ++ (BitVec.ofBool x ++ 1#5))))))]
  | .vmulG s d a b m x => some [BitVec.ofBool s ++ (37#6 ++ (d ++ (a ++ (b ++ (m ++ (BitVec.ofBool x ++ 2#5))))))]
  | .vmulhG s d a b m x => some [BitVec.ofBool s ++ (37#6 ++ (d ++ (a ++ (b ++ (m ++ (BitVec.ofBool x ++ 3#5))))))]
  | .vmulhnG s d a b m x => some [BitVec.ofBool s ++ (37#6 ++ (d ++ (a ++ (b ++ (m ++ (BitVec.ofBool x ++ 4#5))))))]
  | .vminG s d a b m x => some [BitVec.ofBool s ++ (37#6 ++ (d ++ (a ++ (b ++ (m ++ (BitVec.ofBool x ++ 5#5))))))]
  | .vmaxG s d a b m x => some [BitVec.ofBool s ++ (37#6 ++ (d ++ (a ++ (b ++ (m ++ (BitVec.ofBool x ++ 6#5))))))]
  | .vminnG s d a b m x => some [BitVec.ofBool s ++ (37#6 ++ (d ++ (a ++ (b ++ (m ++ (BitVec.ofBool x ++ 7#5))))))]
  | .vmaxnG s d a b m x => some [BitVec.ofBool s ++ (37#6 ++ (d ++ (a ++ (b ++ (m ++ (BitVec.ofBool x ++ 8#5))))))]
  | .vandG s d a b m x => some [BitVec.ofBool s ++ (37#6 ++ (d ++ (a ++ (b ++ (m ++ (BitVec.ofBool x ++ 9#5))))))]
  | .vorG s d a b m x => some [BitVec.ofBool s ++ (37#6 ++ (d ++ (a ++ (b ++ (m ++ (BitVec.ofBool x ++ 10#5))))))]
  | .vxorG s d a b m x => some [BitVec.ofBool s ++ (37#6 ++ (d ++ (a ++ (b ++ (m ++ (BitVec.ofBool x ++ 11#5))))))]
  | .vshlG s d a b m x => some [BitVec.ofBool s ++ (37#6 ++ (d ++ (a ++ (b ++ (m ++ (BitVec.ofBool x ++ 12#5))))))]
  | .vshrG s d a b m x => some [BitVec.ofBool s ++ (37#6 ++ (d ++ (a ++ (b ++ (m ++ (BitVec.ofBool x ++ 13#5))))))]
  | .vsraG s d a b m x => some [BitVec.ofBool s ++ (37#6 ++ (d ++ (a ++ (b ++ (m ++ (BitVec.ofBool x ++ 14#5))))))]
  | .vrshrG s d a b m x => some [BitVec.ofBool s ++ (37#6 ++ (d ++ (a ++ (b ++ (m ++ (BitVec.ofBool x ++ 15#5))))))]
  | .vrnshrG s d a b m x => some [BitVec.ofBool s ++ (37#6 ++ (d ++ (a ++ (b ++ (m ++ (BitVec.ofBool x ++ 16#5))))))]
  | .vaddsG s d a b m x => some [BitVec.ofBool s ++ (37#6 ++ (d ++ (a ++ (b ++ (m ++ (BitVec.ofBool x ++ 17#5))))))]
  | .vsubsG s d a b m x => some [BitVec.ofBool s ++ (37#6 ++ (d ++ (a ++ (b ++ (m ++ (BitVec.ofBool x ++ 18#5))))))]
  | .vmacG s d a b m x => some [BitVec.ofBool s ++ (37#6 ++ (d ++ (a ++ (b ++ (m ++ (BitVec.ofBool x ++ 19#5))))))]
  | .vdot2G s d a b m x => some [BitVec.ofBool s ++ (37#6 ++ (d ++ (a ++ (b ++ (m ++ (BitVec.ofBool x ++ 20#5))))))]
  | .vdot4G s d a b m x => some [BitVec.ofBool s ++ (37#6 ++ (d ++ (a ++ (b ++ (m ++ (BitVec.ofBool x ++ 21#5))))))]
  | .vavgG s d a b m x => some [BitVec.ofBool s ++ (37#6 ++ (d ++ (a ++ (b ++ (m ++ (BitVec.ofBool x ++ 23#5))))))]
  | .vwmulG s d a b m x => some [BitVec.ofBool s ++ (37#6 ++ (d ++ (a ++ (b ++ (m ++ (BitVec.ofBool x ++ 24#5))))))]
  | .vwaddG s d a b m x => some [BitVec.ofBool s ++ (37#6 ++ (d ++ (a ++ (b ++ (m ++ (BitVec.ofBool x ++ 25#5))))))]
  | .vfadd s d a b m x => some [BitVec.ofBool s ++ (38#6 ++ (d ++ (a ++ (b ++ (m ++ (BitVec.ofBool x ++ 0#5))))))]
  | .vfsub s d a b m x => some [BitVec.ofBool s ++ (38#6 ++ (d ++ (a ++ (b ++ (m ++ (BitVec.ofBool x ++ 1#5))))))]
  | .vfmul s d a b m x => some [BitVec.ofBool s ++ (38#6 ++ (d ++ (a ++ (b ++ (m ++ (BitVec.ofBool x ++ 2#5))))))]
  | .vfma s d a b m x => some [BitVec.ofBool s ++ (38#6 ++ (d ++ (a ++ (b ++ (m ++ (BitVec.ofBool x ++ 3#5))))))]
  | .vfms s d a b m x => some [BitVec.ofBool s ++ (38#6 ++ (d ++ (a ++ (b ++ (m ++ (BitVec.ofBool x ++ 4#5))))))]
  | .vfdiv s d a b m x => some [BitVec.ofBool s ++ (38#6 ++ (d ++ (a ++ (b ++ (m ++ (BitVec.ofBool x ++ 5#5))))))]
  | .vfsqrt s d a m x => some [BitVec.ofBool s ++ (38#6 ++ (d ++ (a ++ (0#5 ++ (m ++ (BitVec.ofBool x ++ 6#5))))))]
  | .vfmin s d a b m x => some [BitVec.ofBool s ++ (38#6 ++ (d ++ (a ++ (b ++ (m ++ (BitVec.ofBool x ++ 7#5))))))]
  | .vfmax s d a b m x => some [BitVec.ofBool s ++ (38#6 ++ (d ++ (a ++ (b ++ (m ++ (BitVec.ofBool x ++ 8#5))))))]
  | .vfabs s d a m x => some [BitVec.ofBool s ++ (38#6 ++ (d ++ (a ++ (0#5 ++ (m ++ (BitVec.ofBool x ++ 9#5))))))]
  | .vfneg s d a m x => some [BitVec.ofBool s ++ (38#6 ++ (d ++ (a ++ (0#5 ++ (m ++ (BitVec.ofBool x ++ 10#5))))))]
  | .vfexp2 s d a m x => some [BitVec.ofBool s ++ (38#6 ++ (d ++ (a ++ (0#5 ++ (m ++ (BitVec.ofBool x ++ 11#5))))))]
  | .vflog2 s d a m x => some [BitVec.ofBool s ++ (38#6 ++ (d ++ (a ++ (0#5 ++ (m ++ (BitVec.ofBool x ++ 12#5))))))]
  | .vfrcp s d a m x => some [BitVec.ofBool s ++ (38#6 ++ (d ++ (a ++ (0#5 ++ (m ++ (BitVec.ofBool x ++ 13#5))))))]
  | .vfrsq s d a m x => some [BitVec.ofBool s ++ (38#6 ++ (d ++ (a ++ (0#5 ++ (m ++ (BitVec.ofBool x ++ 14#5))))))]
  | .vfclass s d a m x => some [BitVec.ofBool s ++ (38#6 ++ (d ++ (a ++ (0#5 ++ (m ++ (BitVec.ofBool x ++ 15#5))))))]
  | .vfsgnj s d a b m x => some [BitVec.ofBool s ++ (38#6 ++ (d ++ (a ++ (b ++ (m ++ (BitVec.ofBool x ++ 16#5))))))]
  | .vfaddG s d a b m x => some [BitVec.ofBool s ++ (39#6 ++ (d ++ (a ++ (b ++ (m ++ (BitVec.ofBool x ++ 0#5))))))]
  | .vfsubG s d a b m x => some [BitVec.ofBool s ++ (39#6 ++ (d ++ (a ++ (b ++ (m ++ (BitVec.ofBool x ++ 1#5))))))]
  | .vfmulG s d a b m x => some [BitVec.ofBool s ++ (39#6 ++ (d ++ (a ++ (b ++ (m ++ (BitVec.ofBool x ++ 2#5))))))]
  | .vfmaG s d a b m x => some [BitVec.ofBool s ++ (39#6 ++ (d ++ (a ++ (b ++ (m ++ (BitVec.ofBool x ++ 3#5))))))]
  | .vfmsG s d a b m x => some [BitVec.ofBool s ++ (39#6 ++ (d ++ (a ++ (b ++ (m ++ (BitVec.ofBool x ++ 4#5))))))]
  | .vfdivG s d a b m x => some [BitVec.ofBool s ++ (39#6 ++ (d ++ (a ++ (b ++ (m ++ (BitVec.ofBool x ++ 5#5))))))]
  | .vfminG s d a b m x => some [BitVec.ofBool s ++ (39#6 ++ (d ++ (a ++ (b ++ (m ++ (BitVec.ofBool x ++ 7#5))))))]
  | .vfmaxG s d a b m x => some [BitVec.ofBool s ++ (39#6 ++ (d ++ (a ++ (b ++ (m ++ (BitVec.ofBool x ++ 8#5))))))]
  | .vfsgnjG s d a b m x => some [BitVec.ofBool s ++ (39#6 ++ (d ++ (a ++ (b ++ (m ++ (BitVec.ofBool x ++ 16#5))))))]
  | .vcmpeq s d a b m x g => some [BitVec.ofBool s ++ (40#6 ++ (d ++ (a ++ (b ++ (m ++ (BitVec.ofBool x ++ (BitVec.ofBool g ++ 0#4)))))))]
  | .vcmpne s d a b m x g => some [BitVec.ofBool s ++ (40#6 ++ (d ++ (a ++ (b ++ (m ++ (BitVec.ofBool x ++ (BitVec.ofBool g ++ 1#4)))))))]
  | .vcmplt s d a b m x g => some [BitVec.ofBool s ++ (40#6 ++ (d ++ (a ++ (b ++ (m ++ (BitVec.ofBool x ++ (BitVec.ofBool g ++ 2#4)))))))]
  | .vcmpge s d a b m x g => some [BitVec.ofBool s ++ (40#6 ++ (d ++ (a ++ (b ++ (m ++ (BitVec.ofBool x ++ (BitVec.ofBool g ++ 3#4)))))))]
  | .vcmpltn s d a b m x g => some [BitVec.ofBool s ++ (40#6 ++ (d ++ (a ++ (b ++ (m ++ (BitVec.ofBool x ++ (BitVec.ofBool g ++ 4#4)))))))]
  | .vcmpgen s d a b m x g => some [BitVec.ofBool s ++ (40#6 ++ (d ++ (a ++ (b ++ (m ++ (BitVec.ofBool x ++ (BitVec.ofBool g ++ 5#4)))))))]
  | .vcmpfeq s d a b m x g => some [BitVec.ofBool s ++ (40#6 ++ (d ++ (a ++ (b ++ (m ++ (BitVec.ofBool x ++ (BitVec.ofBool g ++ 6#4)))))))]
  | .vcmpfne s d a b m x g => some [BitVec.ofBool s ++ (40#6 ++ (d ++ (a ++ (b ++ (m ++ (BitVec.ofBool x ++ (BitVec.ofBool g ++ 7#4)))))))]
  | .vcmpflt s d a b m x g => some [BitVec.ofBool s ++ (40#6 ++ (d ++ (a ++ (b ++ (m ++ (BitVec.ofBool x ++ (BitVec.ofBool g ++ 8#4)))))))]
  | .vcmpfge s d a b m x g => some [BitVec.ofBool s ++ (40#6 ++ (d ++ (a ++ (b ++ (m ++ (BitVec.ofBool x ++ (BitVec.ofBool g ++ 9#4)))))))]
  | .vcmpfun s d a b m x g => some [BitVec.ofBool s ++ (40#6 ++ (d ++ (a ++ (b ++ (m ++ (BitVec.ofBool x ++ (BitVec.ofBool g ++ 10#4)))))))]
  | .vcvt s d a t m x r u c => some [BitVec.ofBool s ++ (41#6 ++ (d ++ (a ++ (t ++ (m ++ (BitVec.ofBool x ++ (BitVec.ofBool r ++ (BitVec.ofBool u ++ c))))))))]
  | .vmv s d a m x => some [BitVec.ofBool s ++ (42#6 ++ (d ++ (a ++ (0#5 ++ (m ++ (BitVec.ofBool x ++ 0#5))))))]
  | .vbrd s d b m x => some [BitVec.ofBool s ++ (42#6 ++ (d ++ (0#5 ++ (b ++ (m ++ (BitVec.ofBool x ++ 1#5))))))]
  | .vext s d a b => some [BitVec.ofBool s ++ (42#6 ++ (d ++ (a ++ (b ++ (0#5 ++ 2#5)))))]
  | .vins s d a b => some [BitVec.ofBool s ++ (42#6 ++ (d ++ (a ++ (b ++ (0#5 ++ 3#5)))))]
  | .vmrg s d a b m x => some [BitVec.ofBool s ++ (42#6 ++ (d ++ (a ++ (b ++ (m ++ (BitVec.ofBool x ++ 4#5))))))]
  | .viota s d m x => some [BitVec.ofBool s ++ (42#6 ++ (d ++ (0#10 ++ (m ++ (BitVec.ofBool x ++ 5#5)))))]
  | .vrowb s d a b m x => some [BitVec.ofBool s ++ (42#6 ++ (d ++ (a ++ (b ++ (m ++ (BitVec.ofBool x ++ 6#5))))))]
  | .vcolb s d a b m x => some [BitVec.ofBool s ++ (42#6 ++ (d ++ (a ++ (b ++ (m ++ (BitVec.ofBool x ++ 7#5))))))]
  | .vslup s d a b m x => some [BitVec.ofBool s ++ (43#6 ++ (d ++ (a ++ (b ++ (m ++ (BitVec.ofBool x ++ 0#5))))))]
  | .vsldn s d a b m x => some [BitVec.ofBool s ++ (43#6 ++ (d ++ (a ++ (b ++ (m ++ (BitVec.ofBool x ++ 1#5))))))]
  | .vsl1up s d a b m x => some [BitVec.ofBool s ++ (43#6 ++ (d ++ (a ++ (b ++ (m ++ (BitVec.ofBool x ++ 2#5))))))]
  | .vsl1dn s d a b m x => some [BitVec.ofBool s ++ (43#6 ++ (d ++ (a ++ (b ++ (m ++ (BitVec.ofBool x ++ 3#5))))))]
  | .vgath s d a b m x => some [BitVec.ofBool s ++ (43#6 ++ (d ++ (a ++ (b ++ (m ++ (BitVec.ofBool x ++ 4#5))))))]
  | .vtrn s d a m => some [BitVec.ofBool s ++ (43#6 ++ (d ++ (a ++ (0#5 ++ (m ++ (0#1 ++ 5#5))))))]
  | .vcprs s d a m x => some [BitVec.ofBool s ++ (43#6 ++ (d ++ (a ++ (0#5 ++ (m ++ (BitVec.ofBool x ++ 6#5))))))]
  | .vexpd s d a m x => some [BitVec.ofBool s ++ (43#6 ++ (d ++ (a ++ (0#5 ++ (m ++ (BitVec.ofBool x ++ 7#5))))))]
  | .vgxch s d a b m => some [BitVec.ofBool s ++ (43#6 ++ (d ++ (a ++ (b ++ (m ++ (0#1 ++ 8#5))))))]
  | .vredsum s d a m x r => some [BitVec.ofBool s ++ (44#6 ++ (d ++ (a ++ (0#5 ++ (m ++ (BitVec.ofBool x ++ (BitVec.ofBool r ++ 0#4)))))))]
  | .vredmin s d a m x r => some [BitVec.ofBool s ++ (44#6 ++ (d ++ (a ++ (0#5 ++ (m ++ (BitVec.ofBool x ++ (BitVec.ofBool r ++ 1#4)))))))]
  | .vredmax s d a m x r => some [BitVec.ofBool s ++ (44#6 ++ (d ++ (a ++ (0#5 ++ (m ++ (BitVec.ofBool x ++ (BitVec.ofBool r ++ 2#4)))))))]
  | .vredminn s d a m x r => some [BitVec.ofBool s ++ (44#6 ++ (d ++ (a ++ (0#5 ++ (m ++ (BitVec.ofBool x ++ (BitVec.ofBool r ++ 3#4)))))))]
  | .vredmaxn s d a m x r => some [BitVec.ofBool s ++ (44#6 ++ (d ++ (a ++ (0#5 ++ (m ++ (BitVec.ofBool x ++ (BitVec.ofBool r ++ 4#4)))))))]
  | .vredand s d a m x r => some [BitVec.ofBool s ++ (44#6 ++ (d ++ (a ++ (0#5 ++ (m ++ (BitVec.ofBool x ++ (BitVec.ofBool r ++ 5#4)))))))]
  | .vredor s d a m x r => some [BitVec.ofBool s ++ (44#6 ++ (d ++ (a ++ (0#5 ++ (m ++ (BitVec.ofBool x ++ (BitVec.ofBool r ++ 6#4)))))))]
  | .vredxor s d a m x r => some [BitVec.ofBool s ++ (44#6 ++ (d ++ (a ++ (0#5 ++ (m ++ (BitVec.ofBool x ++ (BitVec.ofBool r ++ 7#4)))))))]
  | .vfredo s d a m x r => some [BitVec.ofBool s ++ (44#6 ++ (d ++ (a ++ (0#5 ++ (m ++ (BitVec.ofBool x ++ (BitVec.ofBool r ++ 8#4)))))))]
  | .vfredt s d a m x r => some [BitVec.ofBool s ++ (44#6 ++ (d ++ (a ++ (0#5 ++ (m ++ (BitVec.ofBool x ++ (BitVec.ofBool r ++ 9#4)))))))]
  | .vfredmax s d a m x r => some [BitVec.ofBool s ++ (44#6 ++ (d ++ (a ++ (0#5 ++ (m ++ (BitVec.ofBool x ++ (BitVec.ofBool r ++ 10#4)))))))]
  | .vfredmin s d a m x r => some [BitVec.ofBool s ++ (44#6 ++ (d ++ (a ++ (0#5 ++ (m ++ (BitVec.ofBool x ++ (BitVec.ofBool r ++ 11#4)))))))]
  | .vsmx s d a b m x => some [BitVec.ofBool s ++ (45#6 ++ (d ++ (a ++ (b ++ (m ++ (BitVec.ofBool x ++ 0#5))))))]
  | .vsmg s d a => some [BitVec.ofBool s ++ (45#6 ++ (d ++ (a ++ (0#10 ++ 1#5))))]
  | .vsmf s d a => some [BitVec.ofBool s ++ (45#6 ++ (d ++ (a ++ (0#10 ++ 2#5))))]
  | .mand s d a b => some [BitVec.ofBool s ++ (46#6 ++ (d ++ (a ++ (b ++ (0#3 ++ 0#7)))))]
  | .mor s d a b => some [BitVec.ofBool s ++ (46#6 ++ (d ++ (a ++ (b ++ (0#3 ++ 1#7)))))]
  | .mxor s d a b => some [BitVec.ofBool s ++ (46#6 ++ (d ++ (a ++ (b ++ (0#3 ++ 2#7)))))]
  | .mandn s d a b => some [BitVec.ofBool s ++ (46#6 ++ (d ++ (a ++ (b ++ (0#3 ++ 3#7)))))]
  | .mpop s d a => some [BitVec.ofBool s ++ (46#6 ++ (d ++ (a ++ (0#8 ++ 4#7))))]
  | .mfirst s d a => some [BitVec.ofBool s ++ (46#6 ++ (d ++ (a ++ (0#8 ++ 5#7))))]
  | .mupto s d a => some [BitVec.ofBool s ++ (46#6 ++ (d ++ (a ++ (0#8 ++ 6#7))))]
  | .mbefore s d a => some [BitVec.ofBool s ++ (46#6 ++ (d ++ (a ++ (0#8 ++ 7#7))))]
  | .mscan s d a => some [BitVec.ofBool s ++ (46#6 ++ (d ++ (a ++ (0#8 ++ 8#7))))]
  | .mmov s d a => some [BitVec.ofBool s ++ (46#6 ++ (d ++ (a ++ (0#8 ++ 9#7))))]
  | .mld s d a => some [BitVec.ofBool s ++ (46#6 ++ (d ++ (a ++ (0#8 ++ 10#7))))]
  | .mst s d a => some [BitVec.ofBool s ++ (46#6 ++ (d ++ (a ++ (0#8 ++ 11#7))))]
  | .msetl s d a => some [BitVec.ofBool s ++ (46#6 ++ (d ++ (a ++ (0#8 ++ 12#7))))]
  | .cld s d a => some [BitVec.ofBool s ++ (47#6 ++ (d ++ (a ++ (0#8 ++ 0#7))))]
  | .cst s d a => some [BitVec.ofBool s ++ (47#6 ++ (d ++ (a ++ (0#8 ++ 1#7))))]
  | .cset s d a b => some [BitVec.ofBool s ++ (47#6 ++ (d ++ (a ++ (b ++ (0#3 ++ 2#7)))))]
  | .cmov s d a => some [BitVec.ofBool s ++ (47#6 ++ (d ++ (a ++ (0#8 ++ 3#7))))]
  | .mring s d a => some [BitVec.ofBool s ++ (48#6 ++ (d ++ (a ++ (0#8 ++ 0#7))))]
  | .mrcommit s d a => some [BitVec.ofBool s ++ (48#6 ++ (d ++ (a ++ (0#8 ++ 1#7))))]
  | .mma s d a => some [BitVec.ofBool s ++ (48#6 ++ (d ++ (a ++ (0#8 ++ 2#7))))]
  | .mmas s d a b => some [BitVec.ofBool s ++ (48#6 ++ (d ++ (a ++ (b ++ (0#3 ++ 3#7)))))]
  | .mzero s d => some [BitVec.ofBool s ++ (48#6 ++ (d ++ (0#13 ++ 4#7)))]
  | .mrd s d a b => some [BitVec.ofBool s ++ (48#6 ++ (d ++ (a ++ (b ++ (0#3 ++ 5#7)))))]
  | .mwr s d a b => some [BitVec.ofBool s ++ (48#6 ++ (d ++ (a ++ (b ++ (0#3 ++ 6#7)))))]
  | .mbeg s d => some [BitVec.ofBool s ++ (48#6 ++ (d ++ (0#13 ++ 7#7)))]
  | .mend s => some [BitVec.ofBool s ++ (48#6 ++ (0#18 ++ 8#7))]
  | .mrpop s d a => some [BitVec.ofBool s ++ (48#6 ++ (d ++ (a ++ (0#8 ++ 9#7))))]
  | .mrq s d a => some [BitVec.ofBool s ++ (48#6 ++ (d ++ (a ++ (0#8 ++ 10#7))))]
  | .toka s d a => some [BitVec.ofBool s ++ (50#6 ++ (d ++ (a ++ (0#8 ++ 0#7))))]
  | .tokf s a => some [BitVec.ofBool s ++ (50#6 ++ (0#5 ++ (a ++ (0#8 ++ 1#7))))]
  | .toks s a => some [BitVec.ofBool s ++ (50#6 ++ (0#5 ++ (a ++ (0#8 ++ 2#7))))]
  | .tokt s d a => some [BitVec.ofBool s ++ (50#6 ++ (d ++ (a ++ (0#8 ++ 3#7))))]
  | .tokr s d a b => some [BitVec.ofBool s ++ (50#6 ++ (d ++ (a ++ (b ++ (0#3 ++ 4#7)))))]
  | .toke s a b => some [BitVec.ofBool s ++ (50#6 ++ (0#5 ++ (a ++ (b ++ (0#3 ++ 5#7)))))]
  | .await s d a l => some [BitVec.ofBool s ++ (51#6 ++ (d ++ (a ++ (0#1 ++ (0#4 ++ l)))))]
  | .yield s l => some [BitVec.ofBool s ++ (51#6 ++ (0#10 ++ (1#1 ++ (0#4 ++ l))))]
  | .spawn s d a b => some [BitVec.ofBool s ++ (52#6 ++ (d ++ (a ++ (b ++ (0#3 ++ 0#7)))))]
  | .exit s => some [BitVec.ofBool s ++ (52#6 ++ (0#18 ++ 1#7))]
  | .hop s d a b => some [BitVec.ofBool s ++ (52#6 ++ (d ++ (a ++ (b ++ (0#3 ++ 2#7)))))]
  | .deposit s d a b => some [BitVec.ofBool s ++ (52#6 ++ (d ++ (a ++ (b ++ (0#3 ++ 3#7)))))]
  | .prio s a => some [BitVec.ofBool s ++ (52#6 ++ (0#5 ++ (a ++ (0#8 ++ 4#7))))]
  | .self s d a => some [BitVec.ofBool s ++ (52#6 ++ (d ++ (a ++ (0#8 ++ 5#7))))]
  | .pub s d a => some [BitVec.ofBool s ++ (53#6 ++ (d ++ (a ++ (0#8 ++ 0#7))))]
  | .cadv s => some [BitVec.ofBool s ++ (53#6 ++ (0#18 ++ 1#7))]
  | .item s d a => some [BitVec.ofBool s ++ (53#6 ++ (d ++ (a ++ (0#8 ++ 2#7))))]
  | .cxq s d a => some [BitVec.ofBool s ++ (53#6 ++ (d ++ (a ++ (0#8 ++ 3#7))))]
  | .bara s d a b => some [BitVec.ofBool s ++ (54#6 ++ (d ++ (a ++ (b ++ (0#3 ++ 0#7)))))]
  | .barq s d a => some [BitVec.ofBool s ++ (54#6 ++ (d ++ (a ++ (0#8 ++ 1#7))))]
  | .gang s d a => some [BitVec.ofBool s ++ (55#6 ++ (d ++ (a ++ (0#8 ++ 0#7))))]
  | .ungang s => some [BitVec.ofBool s ++ (55#6 ++ (0#18 ++ 1#7))]
  | .gshape s a b => some [BitVec.ofBool s ++ (56#6 ++ (0#5 ++ (a ++ (b ++ (0#3 ++ 0#7)))))]
  | .gcp s d a b => some [BitVec.ofBool s ++ (56#6 ++ (d ++ (a ++ (b ++ (0#3 ++ 1#7)))))]
  | .gcpm s d a b => some [BitVec.ofBool s ++ (56#6 ++ (d ++ (a ++ (b ++ (0#3 ++ 2#7)))))]
  | .gfill s d a b => some [BitVec.ofBool s ++ (56#6 ++ (d ++ (a ++ (b ++ (0#3 ++ 3#7)))))]
  | .gred s d a b => some [BitVec.ofBool s ++ (56#6 ++ (d ++ (a ++ (b ++ (0#3 ++ 4#7)))))]
  | .gq s d => some [BitVec.ofBool s ++ (56#6 ++ (d ++ (0#13 ++ 5#7)))]
  | .gcpr s d a b => some [BitVec.ofBool s ++ (56#6 ++ (d ++ (a ++ (b ++ (0#3 ++ 6#7)))))]
  | .ssopen s d a => some [BitVec.ofBool s ++ (57#6 ++ (d ++ (a ++ (0#8 ++ 0#7))))]
  | .ssld s d a b => some [BitVec.ofBool s ++ (57#6 ++ (d ++ (a ++ (b ++ (0#3 ++ 1#7)))))]
  | .sscm s d a b => some [BitVec.ofBool s ++ (57#6 ++ (d ++ (a ++ (b ++ (0#3 ++ 2#7)))))]
  | .ssroll s d a b => some [BitVec.ofBool s ++ (57#6 ++ (d ++ (a ++ (b ++ (0#3 ++ 3#7)))))]
  | .ssfork s d a b => some [BitVec.ofBool s ++ (57#6 ++ (d ++ (a ++ (b ++ (0#3 ++ 4#7)))))]
  | .sspin s d a b => some [BitVec.ofBool s ++ (57#6 ++ (d ++ (a ++ (b ++ (0#3 ++ 5#7)))))]
  | .ssunpin s d a b => some [BitVec.ofBool s ++ (57#6 ++ (d ++ (a ++ (b ++ (0#3 ++ 6#7)))))]
  | .ssq s d a b => some [BitVec.ofBool s ++ (57#6 ++ (d ++ (a ++ (b ++ (0#3 ++ 7#7)))))]
  | .ssclose s d a => some [BitVec.ofBool s ++ (57#6 ++ (d ++ (a ++ (0#8 ++ 8#7))))]
  | .launch s d a b => some [BitVec.ofBool s ++ (58#6 ++ (d ++ (a ++ (b ++ 0#10))))]
  | .sbind s d a b => some [BitVec.ofBool s ++ (59#6 ++ (d ++ (a ++ (b ++ (0#3 ++ 0#7)))))]
  | .sunb s d a => some [BitVec.ofBool s ++ (59#6 ++ (d ++ (a ++ (0#8 ++ 1#7))))]
  | .sq s d a => some [BitVec.ofBool s ++ (59#6 ++ (d ++ (a ++ (0#8 ++ 2#7))))]
  | .acctrd s d a => some [BitVec.ofBool s ++ (60#6 ++ (d ++ (a ++ (0#8 ++ 0#7))))]
  | .mark s a => some [BitVec.ofBool s ++ (60#6 ++ (0#5 ++ (a ++ (0#8 ++ 1#7))))]
  | .acctclr s a => some [BitVec.ofBool s ++ (60#6 ++ (0#5 ++ (a ++ (0#8 ++ 2#7))))]
  | .lix s d e => some [BitVec.ofBool s ++ (0x3E#6 ++ (0#5 ++ (d ++ 0#15))), e]
  | .lixh s d e => some [BitVec.ofBool s ++ (0x3E#6 ++ (1#5 ++ (d ++ 0#15))), e]
  | .mcmd s d a b e => some [BitVec.ofBool s ++ (0x3E#6 ++ (2#5 ++ (d ++ (a ++ (b ++ 0#5))))), e]
  | .mdist s d a b e => some [BitVec.ofBool s ++ (0x3E#6 ++ (3#5 ++ (d ++ (a ++ (b ++ 0#5))))), e]
  | .unassignedEncoding _ w => some [w]
  | .hopArrival _ => none
  | .hbmRefresh _ _ => none
  | .burstClockChange _ => none
  | .supplyLoss => none
  | .fuseVersionAdvance _ => none
  | .clusterSramBankFault _ _ => none
  | .cxlDeviceFailure _ => none

/-- The decoded form of an encoding: one word, or a `WIDE` word with its payload. -/
def decodeWords : List (BitVec 32) → Option Instr
  | [w] => some (decode w 0)
  | [w, p] => some (decode w p)
  | _ => none

end Sys2Proof

end
end

