-- ==== Sys2Proof/Config.lean ====
section
/-! DEFINITION. What is fixed for the part: the figures of R2 that never change at run time, and the FREE VALUES, opaque
constants with no body for what the spec leaves open. A free value that is fresh at each use is applied to the counter
`State.free`; one that is fixed for the part is applied to what it depends on. -/

namespace Sys2Proof.Config

/-- Cores of a die (R2). -/
abbrev coresPerDie : Nat := 384
/-- Clusters of a die (R2). -/
abbrev clustersPerDie : Nat := 24
/-- Cores of a cluster (R2). -/
abbrev coresPerCluster : Nat := 16
/-- Cores of the package (R2). -/
abbrev coresPerPackage : Nat := 1536
/-- Bytes of a core scratchpad (R196). -/
abbrev scratchBytes : Nat := 0x60000
/-- Bytes of a bank of cluster SRAM (R272). -/
abbrev bankBytes : Nat := 131072
/-- Dwords of a FIFO bank (R272). -/
abbrev fifoDepth : Nat := 16384
/-- Token cells of a core (R151); the last 64 are reserved for kind 5 (R153). -/
abbrev numCells : Nat := 4096
/-- First cell of the range reserved for the fault path (R153). -/
abbrev faultCells : Nat := 4032
/-- Basin home bytes (R149). -/
abbrev homeBytes : Nat := 163840
/-- Most image bytes besides the header that an entry holds (R146). -/
abbrev bodyStore : Nat := 98304

/-- FREE VALUE (DESIGN CHOICE, log 5): cycles of a wait whose length the spec does not give, applied to the fresh counter. -/
opaque freeWait : Nat → Nat
/-- FREE VALUE (DESIGN CHOICE, log 5): one of two outcomes that the spec allows, applied to the fresh counter: a stale or a current
translation (R354), a stale or a current instruction line (R259). -/
opaque freeBool : Nat → Bool
/-- FREE VALUE (DESIGN CHOICE, log 5): data that comes from outside the package (another node's memory, R436), applied to the fresh
counter. -/
opaque freeWord : Nat → Word
/-- FREE VALUE (DESIGN CHOICE, log 5): the set of a cluster cache to which a line maps (R274: not architectural). -/
opaque cacheSet : Nat → Nat
/-- FREE VALUE (DESIGN CHOICE, log 5): the DRAM bank of a stack to which a line maps (R321: the spec gives no mapping). -/
opaque dramBank : Nat → Nat
/-- FREE VALUE (DESIGN CHOICE, log 5): the CXL port behind which a line lies (R367: the interleave is not architectural). -/
opaque cxlPort : Nat → Nat
/-- FREE VALUE (DESIGN CHOICE, log 18): the dword at an offset of the status page beyond those that R419 lays out, by the boot stage that failed,
0 for none (R423: the failure is in the status page; the spec gives neither its place nor its form). -/
opaque statusRest : Nat → Nat → BitVec 64
/-- FREE VALUE (DESIGN CHOICE, log 5): the Ed25519 signature of an attestation report (R424: the keys are secret). -/
opaque signature : List Byte → BitVec 512
/-- FREE VALUE (DESIGN CHOICE, log 5): its ML-DSA-65 signature, of 3,309 bytes. -/
opaque signatureMl : List Byte → Nat
/-- FREE VALUE (DESIGN CHOICE, log 5): whether, with that many spare rows of the package used, more than half of a stack's are (R432: the spec
gives no number of spare rows). -/
opaque rowsHalfUsed : Nat → Bool
/-- FREE VALUE (DESIGN CHOICE, log 16): the bits of an element quantised by a zero E3M5 scale (R61 divides by it and states no result),
applied to the element's pattern. -/
opaque zeroScaleBits : Nat → Nat
/-- FREE VALUE (DESIGN CHOICE, log 36): whether a deposit register that the strand has written itself reads without a deposit, as the listing
of R416 needs, or is empty, as R172 says. -/
opaque localDepositReads : Bool
/-- FREE VALUE (DESIGN CHOICE, log 95): a byte of an image in a Basin home, whose layout the spec does not give, applied to the fresh counter. -/
opaque imageByte : Nat → Byte
/-- FREE VALUE (DESIGN CHOICE, log 16): the flags that such a quantisation raises. -/
opaque zeroScaleFlags : Nat → Nat

end Sys2Proof.Config
end

