-- ==== Sys2Proof/Machine/State.lean ====
section
/-! DEFINITION. The state of the machine as plain data, the reasons a step can stop, and the state right after reset.
Every piece of state that the spec names stands here; INVENTORY.md lists each with its rule and its reset value. -/

namespace Sys2Proof.Machine

/-! ## The strand -/

/-- A vector register on one core (R71, R79): 32 rows of 1,024 bits, VALID, DIRTY and BAND, and the poison marks that
stream-filled elements carry (R263), one for each 4 bits, with the address of the first element of the last block that a stream
brought and the bits from one element to the next there (R256). -/
structure VReg where
  data : BitVec 32768
  valid : Nat
  dirty : BitVec 32
  band : BitVec 16
  poison : BitVec 8192
  origin : Nat
  pitch : Nat
  deriving DecidableEq, Repr

/-- A scale register with its tag (R71, R119). -/
structure CReg where
  data : BitVec 8192
  tag : BitVec 8
  deriving DecidableEq, Repr

/-- The vector, mask and scale registers of one gang member (R71, R78, R291). -/
structure VFile where
  v : Vector VReg 32
  m : Vector (BitVec 8192) 16
  c : Vector CReg 8
  xm : BitVec 8192
  fltm : BitVec 8192
  deriving DecidableEq, Repr

/-- The causes to which a slot is charged (R179). -/
inductive Cause where
  | issue | dep | settle | vqFull | fetch | stream | chain | bank
  | engine | order | switch | basin | trap | power | stolen | idle
  deriving DecidableEq, Repr

/-- A destination write of a vector load on one member: the bits written, their data, the rows touched and the new BAND. -/
structure VWrite where
  mask : BitVec 32768
  data : BitVec 32768
  rows : BitVec 32
  band : BitVec 16
  deriving DecidableEq, Repr

/-- The scale bytes that a tile load writes beside its elements, on each member (R216). -/
structure CWrite where
  reg : BitVec 3
  mask : List (BitVec 8192)
  data : List (BitVec 8192)
  tag : BitVec 8
  deriving DecidableEq, Repr

/-- What a pending result writes (R19). The lists run over the gang members, own core first. `s` is what is left of a tile load
into vector register r once a later write of r has taken its elements (R21): the scale bytes. -/
inductive PendWrite where
  | g (r : BitVec 5) (x : Word)
  | v (r : BitVec 5) (w : List VWrite) (scale : Option CWrite)
  | m (r : BitVec 4) (x : List (BitVec 8192))
  | c (r : BitVec 3) (x : List (BitVec 8192)) (tag : BitVec 8)
  | s (r : BitVec 5) (scale : CWrite)
  deriving DecidableEq, Repr

/-- Erroneous data that arrived with a result (R24, R262): poisoned, or uncorrectable; its first byte; its elements. -/
structure DataError where
  poisoned : Bool
  addr : Word
  lanes : BitVec 8192
  deriving DecidableEq, Repr

/-- A pending deferred result (R19-R25). `token` is the handle of an `LDQ`, 0 for the others; `present` when its data has
returned; `observed` when the strand has observed the token (R22); `cancelled` under R21; `pc` and `word` are those of the
instruction (R24, R256). -/
structure Pending where
  wr : PendWrite
  token : Word
  addr : Word
  pc : Word
  word : BitVec 32
  present : Bool
  observed : Bool
  cancelled : Bool
  err : Option DataError
  deriving DecidableEq, Repr

/-- The special registers of R73 that belong to the strand, and PTROOT (R348). SAT of SFLAGS is FPSR.SAT (R63): it is
held in `fpsr` only. -/
structure Specials where
  sflags : Word
  sctl : Word
  vrows : Nat
  vcols : Nat
  vl : Nat
  vtype : BitVec 5
  fpcr : Word
  fpsr : Word
  xsel : Word
  item : Word
  lstb : Word
  wlimit : Word
  depset : Word
  gangsz : Nat
  lstn : Word
  grows : Word
  growb : Word
  gsstr : Word
  gdstr : Word
  gmcast : Word
  pwin : Vector Word 4
  self : Word
  vbank : Word
  traprec : Word
  trapvec : Word
  acctcfg : Word
  ptroot : Word
  deriving DecidableEq, Repr

/-- A stream binding of a strand (R219-R221): the register, the direction, the element type in force at `sbind`, the columns of
the shape when the current block became current, the cursor, the elements left, the elements of the current block, whether
that block has been filled; `drains` counts the drains not yet performed, `failed` is the code of one that could not be
performed, `faults` the page faults of the current fill (R360), `written` the bits of each member that local
writes have taken since the current block became current (R220). `bit` is the bit of the cursor's byte at which the block starts, and
`taken` holds the elements of the current block that have been read so far (R380): element, data, whether erroneous. -/
structure Binding where
  reg : BitVec 5
  out : Bool
  etype : BitVec 5
  cols : Nat
  cursor : Word
  bit : Nat
  remaining : Nat
  blockLen : Nat
  arrived : Bool
  drains : Nat
  failed : BitVec 8
  faults : Nat
  written : List (BitVec 32768)
  taken : List (Nat × Nat × Bool)
  deriving DecidableEq, Repr

/-- A trap that a strand takes (R249, R256, R257): cause, INFO, RCLASS and REG, the lanes, and for a settled trap the PC of
the deferred instruction and the PC at which execution continues (R258), the instruction word and payload, and the held result
(R262). -/
structure TrapInfo where
  cause : BitVec 8
  info : Word
  rclass : BitVec 3
  reg : BitVec 5
  lanes : BitVec 8192
  ecode : BitVec 8
  attempts : Nat
  settledAt : Option (Word × Word)
  word : Word
  held : Option Pending
  deriving DecidableEq, Repr

/-- What a handler strand knows of the trap it serves (R253): the slot, the cause, whether `uefix` has run, whether
`mxsave` has run, whether it has without `mxrst` after it, and whether the interrupted strand owned matrix state (R246). -/
structure HandlerCtx where
  slot : Nat
  cause : BitVec 8
  uefixed : Bool
  mxsaved : Bool
  mxowed : Bool
  matrix : Bool
  deriving DecidableEq, Repr

/-- A strand: the architectural state of R71 with the per-strand state that the other chapters give it. `gReady` holds the
registers written by a multiplication or division whose latency has not elapsed (R91). `powerTill` is the cycle in which the banks
that the instruction at the PC named have woken (R85). `reissue` and `attempts` count the faulting executions of an instance (R261);
`masked` says that the next execution performs only what FLTM marks (R260); `left` names, with their cores, the owners under which the
cells stand that the strand left behind by `HOP` (R153, R168). -/
structure Strand where
  num : Nat
  pc : Word
  g : Vector Word 32
  gdead : BitVec 32
  vdead : BitVec 32
  mdead : BitVec 16
  cdead : BitVec 8
  full : BitVec 4
  vf : VFile
  partners : List VFile
  sp : Specials
  pend : List Pending
  counters : Vector (BitVec 48) 16
  gReady : List (BitVec 5 × Nat)
  powerTill : Nat
  bindings : List Binding
  batch : Option Word
  spawnCell : Word
  launch : Option Nat
  isItem : Bool
  redCount : Nat
  attempts : Nat
  reissue : Bool
  masked : Bool
  firstRefusal : Option Nat
  handler : Option HandlerCtx
  trapDue : Option TrapInfo
  left : List (Nat × Nat)
  deriving DecidableEq, Repr

/-! ## The core -/

/-- Where a context image lives (R146, R251): in an entry, in a Basin home (R149), in a trap slot, or nowhere yet (a strand that has
never run, or has arrived by `HOP`). -/
inductive Place where
  | entry
  | basin (home : Nat)
  | slot (n : Nat)
  | fresh
  deriving DecidableEq, Repr

/-- What makes a suspended strand runnable (R162). A delivery that waits for a slot keeps the bytes of its tagged image (R251). -/
inductive Cond where
  | ready
  | cell (h : Word)
  | deposit (regs : BitVec 4) (deadline : Option Nat)
  | word (key : Nat) (toRead : Bool) (retryAt : Option Nat) (deadline : Option Nat)
  | fault (h : Word)
  | faultCell (pages : List (Nat × Nat)) (acc : BitVec 3) (first : Word)
  | parked (till : Option Nat)
  | trapped
  | slotWait (t : TrapInfo) (tagged : Nat)
  deriving DecidableEq, Repr

/-- What a strand does first when it resumes: finish an `AWAIT` (R160), reissue a faulted access (R260; `first` is the first
faulting byte address), take WAIT_LIMIT (R172, R285), or go on. -/
inductive Resume where
  | go
  | await (d : BitVec 5) (h : Word) (settleAfter : Bool)
  | fault (h first : Word)
  | waitLimit
  deriving DecidableEq, Repr

/-- A suspended strand (R145): its registers, its place, the bytes of its image and of its part outside the header, what
it waits for, its signal time, the four deposit slots, its pre-emption mark, and the tiles [7:0] and rings [15:8] that an
ACC = 1 save released (R244). -/
structure Image where
  st : Strand
  place : Place
  bytes : Nat
  cond : Cond
  resume : Resume
  sigTime : Nat
  savedAt : Nat
  slots : Vector (Option Word) 4
  preempted : Bool
  cleanCopy : Nat
  accSaved : BitVec 16
  deriving DecidableEq, Repr

/-- The state of a token cell (R152). -/
inductive CellState where
  | free
  | armed (n : Nat)
  | signalled
  | failed (e : BitVec 8)
  deriving DecidableEq, Repr

/-- A token cell (R151-R154): state, current generation and kind, the strand that allocated it, the orphan mark and the
signal time. -/
structure TokCell where
  st : CellState
  gen : BitVec 24
  kind : BitVec 3
  owner : Nat
  orphan : Bool
  sigTime : Nat
  deriving DecidableEq, Repr

/-- A vector instruction in the vector queue (R123, R124, R190): the vector registers it names, those it writes with its
mask and `g` destinations, its start, occupancy and completion, and what its retire entry records. -/
structure VQEntry where
  strand : Nat
  pc : Word
  regs : BitVec 32
  vdst : BitVec 32
  mdst : BitVec 16
  cdst : BitVec 8
  gdst : Option (BitVec 5)
  start : Nat
  t : Nat
  done : Nat
  vtype : BitVec 5
  vrows : Nat
  vcols : Nat
  popc : Nat
  first : Word
  last : Word
  acctcfg : Word
  cvpos : Nat
  flagged : Bool
  deriving DecidableEq, Repr

/-- An open convoy (R191). -/
structure Convoy where
  head : Word
  strand : Nat
  members : Nat
  done : Nat
  deriving DecidableEq, Repr

/-- A retire entry: its four dwords (R190). -/
structure RetireEntry where
  w0 : Word
  w1 : Word
  w2 : Word
  w3 : Word
  deriving DecidableEq, Repr

/-- The open run of slots of the exact trace (R188). -/
structure ChargeRun where
  cause : Cause
  ctx : Nat
  pc : Word
  next : Word
  len : Nat
  deriving DecidableEq, Repr

/-- A strand waiting at a full/empty word or FIFO port (R285): the core and strand, and whether it waits to read. -/
structure Waiter where
  core : Nat
  strand : Nat
  key : Nat
  toRead : Bool
  launch : Option Nat
  deriving DecidableEq, Repr

/-- An accumulator tile (R224): 64 × 64 words, the poison bit and the owner tag. -/
structure Tile where
  data : BitVec 131072
  poison : Bool
  owner : Option Nat
  deriving DecidableEq, Repr

/-- An operand ring (R224, R227): DEPTH 0 when unconfigured. -/
structure Ring where
  base : Word
  tag : BitVec 8
  depth : Nat
  head : BitVec 16
  tail : BitVec 16
  owner : Option Nat
  deriving DecidableEq, Repr

/-- The operations of the matrix command queue (R231). -/
inductive MOp where
  | zero (tile : BitVec 3)
  | mma (tile : BitVec 3) (qa qb : BitVec 3) (offa offb : Nat)
  | mmas (tile : BitVec 3) (qa qb : BitVec 3) (offa offb : Nat) (mask : BitVec 512)
  | pop (ring : BitVec 3) (count : Nat)
  deriving DecidableEq, Repr

/-- A queued matrix command: its owner, the batch it belongs to, or the sender's cell of a remote one (R243), the command
word and the operand read at issue (R245), and its issue cycle. -/
structure MCommand where
  op : MOp
  owner : Nat
  batch : Word
  remote : Option Word
  word : BitVec 32
  operand : Word
  issuedAt : Nat
  launch : Option Nat
  deriving DecidableEq, Repr

/-- A batch whose token has not been observed (R230, R233). -/
structure MBatch where
  handle : Word
  owner : Nat
  closed : Bool
  signalled : Bool
  flags : BitVec 5
  poisoned : Bool
  sat : Bool
  deriving DecidableEq, Repr

/-- The matrix unit of a core (R224). `freeAt` is the cycle in which the unit is next idle; `lifted` are the commands that
`mxsave` took out of the queue (R246). -/
structure Matrix where
  tiles : Vector Tile 8
  rings : Vector Ring 8
  queue : List MCommand
  batches : List MBatch
  lifted : List MCommand
  freeAt : Nat
  deriving DecidableEq, Repr

/-- A stream drain under way (R221): the bytes and bits still to be stored at `addr` for the strand named (the trapped strand, or the
`handler` under its number), the `sunb` token once the binding has ended (`last`, R222), the code of an earlier drain of the binding that
failed, and its page faults (R360). -/
structure Drain where
  strand : Nat
  handler : Bool
  reg : BitVec 5
  launch : Option Nat
  ptroot : Word
  priv : Bool
  addr : Word
  data : List Byte
  mask : List Byte
  poisoned : Bool
  token : Word
  last : Bool
  failed : BitVec 8
  faults : Nat
  deriving DecidableEq, Repr

/-- A trap slot in use (R251, R252). -/
structure TrapSlot where
  slot : Nat
  strand : Nat
  deriving DecidableEq, Repr

/-- A reply that a unit has sent to the strand's waiting instruction (R278, R334): the word of d, or the cause and INFO of the
trap that a failed check of the reply raises (R335). -/
inductive UnitReply where
  | none
  | word (x : Word)
  | moraine (x : Word) (cause : BitVec 8)
  deriving DecidableEq, Repr

/-- A core (R144): position, the running strand, the suspended strands, and everything the core-level chapters give it. `curEntry` says
whether the running strand holds a context-cache entry, `mulDone` when the last multiplication has written its result (R106), and `moved`
counts the strands that have left the core by `HOP`. -/
structure Core where
  cid : Nat
  inService : Bool
  gangHead : Option Nat
  cycle : Nat
  acct : Vector Word 16
  running : Bool
  waiting : Bool
  posted : Bool
  reply : UnitReply
  cur : Strand
  curEntry : Bool
  ir : BitVec 32
  irPayload : BitVec 32
  images : List Image
  keptNums : List Nat
  cclimit : Word
  latfix : Word
  basin : Word
  trapcfg : Word
  mxbase : Word
  mxcapl : Word
  mxcaph : Word
  mxhost : Word
  entriesOk : Nat
  bodyOk : Nat
  acctctl : Word
  trbase : Word
  trptr : Word
  rpbase : Word
  rpptr : Word
  vrsel : Word
  vrhead : BitVec 32
  retire : List (Nat × RetireEntry)
  lost : Vector Word 16
  run : Option ChargeRun
  convoy : Option Convoy
  stalecnt : Word
  cells : List (Nat × TokCell)
  vq : List VQEntry
  vuFree : Nat
  divBusy : Nat
  mulDone : Nat
  icache : List (Nat × BitVec 512)
  waiters : List Waiter
  mx : Matrix
  drains : List Drain
  channels : Nat
  trapSlots : List TrapSlot
  slotQueue : List Nat
  parkedTill : Option (Option Nat)
  stopWanted : Bool
  stopped : Bool
  copies : Nat
  spareUsed : Bool
  moved : Nat
  modes : List (Nat × Word)
  deriving DecidableEq, Repr

/-! ## The cluster -/

/-- A barrier cell (R288): PHASE, and when OPEN its count, its arrivals and their tokens with their launches. -/
structure BarCell where
  phase : BitVec 16
  n : Nat
  arrivals : List (Word × Option Nat)
  deriving DecidableEq, Repr

/-- The operations of a Gondola copy (R294). -/
inductive CopyKind where
  | copy
  | multicast (cores : BitVec 16)
  | fill (pattern : Word)
  | reduce (fmt : BitVec 5)
  | ring (q : BitVec 3) (depth : Nat) (tail0 : BitVec 16)
  deriving DecidableEq, Repr

/-- What a copy under way has done so far (R296, R380): the runs of its source that it has read (row, offset, bytes, whether erroneous), the
runs of its destinations that it has written (destination, row, offset, length), the bytes of its own source that it has overwritten, as they were,
and whether it met erroneous data. -/
structure Moves where
  got : List (Nat × Nat × List Byte × Bool)
  done : List (Nat × Nat × Nat × Nat)
  old : List (Nat × Byte × Bool)
  bad : Bool
  deriving DecidableEq, Repr

/-- A copy in flight (R294-R298): the issuing core and strand, the address space, the shape, the token, its page faults (R360), and what it
has done so far. A ring copy has one row for each tile; its `dst` is the first slot. -/
structure Copy where
  kind : CopyKind
  core : Nat
  strand : Nat
  launch : Option Nat
  ptroot : Word
  priv : Bool
  item : Word
  redN : Nat
  src : Word
  dst : Word
  rows : Nat
  bytes : Nat
  sstr : Word
  dstr : Word
  token : Word
  faults : Nat
  mv : Moves
  deriving DecidableEq, Repr

/-- A pin of a launch on a line (R281). -/
structure Pin where
  launch : Nat
  line : Nat
  count : Nat
  deriving DecidableEq, Repr

/-- A `BANKCFG` request (R278, R279). -/
structure BankReq where
  core : Nat
  strand : Nat
  mask : BitVec 64
  mode : Nat
  launch : Option Nat
  deriving DecidableEq, Repr

/-- A cluster (R272-R299). A bank in service that is in neither mask is in CACHE mode. `fifoBad` names the entries (bank, place) that an
uncorrectable error struck (R299). -/
structure Cluster where
  id : Nat
  outMask : BitVec 64
  faultMask : BitVec 64
  scrMask : BitVec 64
  fifoMask : BitVec 64
  fifos : List (Nat × List Word)
  fifoBad : List (Nat × Nat)
  waiters : List Waiter
  bars : List (Nat × BarCell)
  pins : List Pin
  lines : List Nat
  engines : Nat
  copies : List Copy
  bankReqs : List BankReq
  deriving DecidableEq, Repr

/-! ## The die -/

/-- A contribution of a reduce-add to a line (R317, R319): the launch of its strand, its contributor index, its element type, its address
and value. -/
structure Contribution where
  launch : Option Nat
  item : Word
  n : Nat
  j : Nat
  fmt : BitVec 5
  addr : Nat
  value : Word
  deriving DecidableEq, Repr

/-- A snapshot of a Moraine slot (R331): the position, the buffer (of the slot itself, or the borrowed base of another slot),
the pin count, and the token of the commit that made it. -/
structure Snapshot where
  pos : Nat
  buf : Nat
  lender : Option Nat
  pins : Nat
  maker : Word
  deriving DecidableEq, Repr

/-- An operation that a Moraine unit has accepted and not yet performed (R342): `maker` is the token of the commit whose snapshot a load
reads; `mv` is what its copy has done so far. -/
structure MoraineOp where
  slot : Nat
  gen : BitVec 24
  commit : Bool
  close : Bool
  pos : Nat
  buf : Nat
  bufSlot : Nat
  addr : Word
  token : Word
  core : Nat
  strand : Nat
  launch : Option Nat
  ptroot : Word
  priv : Bool
  cancelled : Bool
  aborted : Bool
  faults : Nat
  maker : Word
  mv : Moves
  deriving DecidableEq, Repr

/-- A Moraine slot (R329-R331). FREE when `isOpen` and `closing` are both false. -/
structure MSlot where
  isOpen : Bool
  closing : Bool
  gen : BitVec 24
  ptroot : Word
  base : Word
  size : Nat
  depth : Nat
  table : List Snapshot
  forks : List Nat
  reads : List Nat
  deriving DecidableEq, Repr

/-- The functions of `SS` (R334). -/
inductive SsFn where
  | opn | ld | cm | roll | fork | pin | unpin | query | close
  deriving DecidableEq, Repr

/-- A request to a Moraine unit (R334): the function, the three operands, the descriptor of `ssopen`, and who sent it. -/
structure SsRequest where
  fn : SsFn
  d : Word
  x : Word
  y : Word
  desc : BitVec 128
  token : Word
  core : Nat
  strand : Nat
  launch : Option Nat
  ptroot : Word
  priv : Bool
  deriving DecidableEq, Repr

/-- A memory request in the network of a die (R310): requester, target, physical address, length, and the data written. -/
structure MemRequest where
  requester : Nat
  target : Nat
  pa : Nat
  len : Nat
  data : Option (List Byte)
  line : Option (Nat × Nat)
  deriving DecidableEq, Repr

/-- A response on its way back (R310): the slot it returns and its flits. -/
structure MemResponse where
  requester : Nat
  target : Nat
  flits : Nat
  deriving DecidableEq, Repr

/-- A DRAM bank of a stack (R321): rolling activation count, the row a hint opened, and blocked activates. -/
structure DramBank where
  id : Nat
  count : Nat
  opened : Option Nat
  blocked : Bool
  rfmPending : Bool
  deriving DecidableEq, Repr

/-- A die (R304-R345): the die-wide registers, the slot tables (one table stands for every link, DESIGN CHOICE, log 9), the stores of its
agents. -/
structure Die where
  slotpol : Word
  slotpolNext : Option (Word × Nat)
  active : List Nat
  shadow : List Nat
  redcfg : Word
  hbmrm : Word
  ecccnt : Word
  l2off : BitVec 64
  hbmStacks : Nat
  modulus : Nat
  outOfUse : Bool
  bars : List (Nat × BarCell)
  l2Lines : List Nat
  dram : List DramBank
  hints : List Nat
  detred : List Contribution
  detredBy : Bool
  slots : List (Nat × MSlot)
  slotsOut : List Nat
  ssQueue : List SsRequest
  ssOps : List MoraineOp
  requests : List MemRequest
  responses : List MemResponse
  deriving DecidableEq, Repr

/-! ## Messages in flight -/

/-- What a message in flight carries. Core numbers are `die * 384 + core`. -/
inductive MsgBody where
  | signal (h : Word)
  | fail (h : Word) (code : BitVec 8)
  | deposit (target : Word) (reg : BitVec 5) (value : Word) (sender : Nat)
  | ldqReply (core strand : Nat) (token : Word) (target : Nat) (launch : Option Nat)
  | store (core : Nat) (token : Word) (target : Nat) (value : Word) (launch : Option Nat)
  | hop (st : Strand) (core : Nat) (d : BitVec 5)
  | barrier (level unit cell n : Nat) (token : Word) (launch : Option Nat)
  | wake (core strand : Nat) (key : Nat)
  | reduce (core : Nat) (n : Nat) (items : List Contribution)
  | matrix (core : Nat) (payload : BitVec 32) (cap : BitVec 128) (token : Word) (launch : Option Nat)
  | publication (launch item : Nat) (reg : BitVec 5) (core : Nat)
  | dependency (launch k : Nat) (failed : Bool)
  deriving DecidableEq, Repr

/-- A message in flight (R155, R176): the core that sent it, the core on whose clock it is due, and the cycle in which it
arrives when the spec fixes it. -/
structure Msg where
  src : Nat
  dst : Nat
  due : Option Nat
  body : MsgBody
  deriving DecidableEq, Repr

/-- A message that arrives in packets (R312): identifier, total length, the packets placed, and the bytes received. -/
structure Assembly where
  id : Nat
  total : Nat
  got : Nat
  parts : List (Nat × List Byte)
  done : Bool
  deriving DecidableEq, Repr

/-! ## Launches -/

/-- A publication P(s, N) (R401): item, register, value, EARLY, and the cores that it has reached (R411). -/
structure Pub where
  item : Nat
  reg : BitVec 5
  value : Word
  early : Bool
  reached : List Nat
  deriving DecidableEq, Repr

/-- An item that has started (R394, R401, R408): read cursors of the eight carriable registers, and what has become of it. -/
structure ItemState where
  idx : Nat
  rank : Nat
  cursor : Vector Nat 8
  closed : Bool
  finished : Bool
  lost : Bool
  early : Bool
  deriving DecidableEq, Repr

/-- A granted position (R392, R394): its core, the item that holds it, and when it freed. -/
structure Position where
  rank : Nat
  core : Nat
  item : Option Nat
  freedAt : Nat
  deriving DecidableEq, Repr

/-- Where a launch stands (R390-R398). -/
inductive LaunchPhase where
  | waiting
  | placed
  | cancelling (code : BitVec 8)
  deriving DecidableEq, Repr

/-- An admitted launch (R386-R398): the record, the argument block, its grants, its items and its strands. -/
structure Launch where
  id : Nat
  queue : Nat
  ptroot : Word
  entry : Word
  percore : Nat
  perclu : Nat
  perdie : Nat
  dies : Nat
  items : Nat
  cls : Nat
  weight : Nat
  ordered : Bool
  carry : BitVec 8
  modes : BitVec 5
  lstn : Nat
  lstab : Word
  handler : Word
  seeds : List Word
  ctoken : Word
  pwin : Vector Word 4
  deps : Vector Word 4
  depReported : BitVec 4
  depDone : BitVec 4
  depFailed : BitVec 4
  caddr : Word
  report : Word
  spgrant : Nat
  clugrant : BitVec 64
  bargrant : Word
  pinq : Nat
  phase : LaunchPhase
  shape : Word
  cores : List Nat
  positions : List Position
  itemStates : List ItemState
  nextItem : Nat
  turn : Nat
  earlyExit : Option Nat
  victims : List (Nat × Nat)
  pubs : List Pub
  trapRecord : List Byte
  deriving DecidableEq, Repr

/-- A record in a launch queue (R383, R385), with the queue's entry as it stood when the record arrived: PTROOT, and the dword of MAXCLASS
and MODEOK. -/
structure QueuedRecord where
  record : BitVec 512
  ptroot : Word
  rights : Word
  deriving DecidableEq, Repr

/-- A launch queue that is not in its reset state (R384, R385): QOVF, QERR and the queued records. -/
structure LaunchQueue where
  q : Nat
  ovf : Bool
  err : Bool
  recs : List QueuedRecord
  deriving DecidableEq, Repr

/-! ## The package -/

/-- A fault batch that waits for the page-sorting unit or for room in the fault queue (R358, R359): the token, the pages
with their levels, and the fields of dword 1. -/
structure FaultBatch where
  token : Word
  pages : List (Nat × Nat)
  sup : Bool
  acc : BitVec 3
  eng : Bool
  asid : BitVec 12
  attempt : Nat
  deriving DecidableEq, Repr

/-- An operation of an engine (R360): a stream fill or drain of a strand, a Gondola copy or a Moraine movement by its token. -/
inductive EngineId where
  | fill (core strand : Nat) (reg : BitVec 5)
  | drain (core strand : Nat) (reg : BitVec 5)
  | copy (token : Word)
  | moraine (token : Word)
  deriving DecidableEq, Repr

/-- An engine's operation stopped at a V = 0 entry (R360): the core whose kind-5 cell waits for the page service, the operation,
the token, and the lowest page reported. -/
structure EngineFault where
  core : Nat
  op : EngineId
  token : Word
  page : Nat
  deriving DecidableEq, Repr

/-- A migration under way (R363). -/
structure Migration where
  asid : BitVec 12
  va : Nat
  leafPa : Nat
  oldFrame : Nat
  newFrame : Nat
  progress : Nat
  token : Word
  failed : Bool
  deriving DecidableEq, Repr

/-- The running dump (R365, R366): address space, its page table, range, destination, bitmap, token, the pieces not yet copied, those of them for which a store waits,
whether a copied line was poisoned, and whether a write of the copy failed. -/
structure Dump where
  asid : BitVec 12
  root : Word
  start : Nat
  len : Nat
  dest : Nat
  bitmap : Nat
  token : Word
  pieces : List Nat
  wanted : List Nat
  poisoned : Bool
  failed : Bool
  deriving DecidableEq, Repr

/-- What a cached translation is (R349-R352, R354): a 64 KiB leaf, a 1 GiB leaf, a level-2 pointer, a root pointer, or the group
translation of a uniform leaf line. -/
inductive TlbKind where
  | page | block | mid | root | group
  deriving DecidableEq, Repr

/-- Bytes of address space that an entry covers. -/
def TlbKind.size : TlbKind → Nat
  | .page => 2 ^ 16
  | .block => 2 ^ 30
  | .mid => 2 ^ 30
  | .root => 2 ^ 44
  | .group => 2 ^ 19

/-- A cached translation (R354): address space, kind, the number of the piece of the address space that it covers, the entry as
memory held it (entry 0 of a group), and the STEP of a group (R352). -/
structure TlbEntry where
  asid : BitVec 12
  kind : TlbKind
  page : Nat
  entry : Nat
  step : Nat
  deriving DecidableEq, Repr

/-- A boot stage reached, the measurement registers and the fuses (R423). -/
structure Boot where
  stage : Nat
  failed : Option Nat
  meas : Vector (BitVec 512) 3
  fuse : Nat
  version : Nat
  lossLogged : Nat
  deriving DecidableEq, Repr

/-- Fimet's mailbox (R422): request, response, doorbell, and the command passed to Fimet. -/
structure Mailbox where
  request : BitVec 512
  response : BitVec 512
  busy : Bool
  last : BitVec 8
  deriving DecidableEq, Repr

/-- A host notification vector (R420). -/
structure IrqVector where
  addr : Word
  data : BitVec 32
  deriving DecidableEq, Repr

/-- A request that the remote-memory engine has sent and that is not complete (R444, R445): OP, local VA, length, token, first
and last PSN, and the response packets received. -/
structure SentRequest where
  op : Nat
  va : Word
  len : Nat
  token : Word
  first : BitVec 24
  last : BitVec 24
  got : Nat
  deriving DecidableEq, Repr

/-- A queue pair of the remote-memory engine that is not in RESET (R442-R445): state, the context of R443, the indices, the
packet sequence numbers, the retries of the oldest packet, whether a NAK has been sent, the bytes received of the present SEND,
and the requests that are not complete. -/
structure QueuePair where
  id : Nat
  st : Nat
  ctx : BitVec 512
  sqCons : Nat
  rqCons : Nat
  sqProd : Nat
  rqProd : Nat
  nextPsn : BitVec 24
  expPsn : BitVec 24
  retries : Nat
  naked : Bool
  received : Nat
  sent : List SentRequest
  deriving DecidableEq, Repr

/-- The placement unit (R446, R447): requests taken from the ring; its own appends whose result has not been written (ring index,
SEQID, BLOCK); at the sequencer, the updates decided and not yet applied to its replica, with their tokens, and those not yet applied
to every other replica, by number. -/
structure PlaceUnit where
  ringCons : Nat
  own : List (Nat × BitVec 32 × BitVec 32)
  decided : List (PlaceUpdate × Word)
  unapplied : List (Nat × Word)
  deriving DecidableEq, Repr

/-- The state of a link (R430). -/
inductive LinkState where
  | retraining
  | down
  deriving DecidableEq, Repr

/-- Package-wide state (R346-R450). `frozen` holds, while a link retrains, the cycle of each core at which its WLIMIT counts
stopped (R430), `stayHeld` the strands (core, number) that were pre-empted before a quiesce (R429), `rowSpares` the rows replaced by spare ones
(R433), and `hostReply` the bytes of the last read of the host (R419). -/
structure Package where
  fqbase : Word
  fqptr : Word
  fqcfg : Word
  fqSeq : BitVec 32
  batches : List FaultBatch
  engineFaults : List EngineFault
  migQueue : List Nat
  migrations : List Migration
  dumpQueue : List Nat
  dump : Option Dump
  bars : List (Nat × BarCell)
  qtbase : Word
  queues : List LaunchQueue
  admitCursor : Nat
  nextLaunch : Nat
  launches : List Launch
  profile : Word
  profileNext : Option (BitVec 2)
  burstFast : Bool
  rides : BitVec 16
  quiesces : BitVec 16
  pwr : Nat
  stayHeld : List (Nat × Nat)
  thermalRide : Bool
  health : Word
  rowSpares : Nat
  shocks : Nat
  shockLog : List Nat
  shocksTested : Nat
  tested : Bool
  cxlPorts : Nat
  extents : List (Nat × Nat)
  cxlFailed : List Nat
  hostBacked : List (Nat × Nat)
  podcap : Word
  podexp : Vector Word 32
  links : List (Nat × LinkState)
  frozen : Option (List (Nat × Nat))
  nodesDown : List Nat
  netqpt : Word
  netmrt : Word
  qps : List QueuePair
  placecfg : Word
  place : PlaceUnit
  mailbox : Mailbox
  vectors : Vector IrqVector 4
  notes : List IrqVector
  hostReply : List Byte
  boot : Boot
  assemblies : List Assembly
  deriving DecidableEq, Repr

/-- One move of the machine (DESIGN CHOICE, log 4): a core takes its next step, or a step of the device takes place. -/
inductive Turn where
  | run (core : Nat)
  | event (i : Instr)
  | tearDown (asid : BitVec 12)
  deriving DecidableEq, Repr

/-- The machine. `core` is the core whose turn it is and `others` every other core that is not in its reset state; a core,
cluster, slot, cell or queue that a list does not hold is in its reset state. `mem` holds bytes under one key space: global
memory by physical address, then the scratchpads, then the cluster SRAM (DESIGN CHOICE, log 3). `fullWords` are the keys of the full words
(R282), `poison` and `ue` the numbers (key / 64) of poisoned and of uncorrectable lines. `turns` and `free` are the MODEL's own
(DESIGN CHOICE, log 4, DESIGN CHOICE, log 5): what moves next, and the counter behind fresh free values. -/
structure State where
  core : Core
  others : List Core
  clusters : List Cluster
  dies : Vector Die 4
  pkg : Package
  mem : List Host.Cell
  fullWords : List Nat
  poison : List Nat
  ue : List Nat
  tlb : List TlbEntry
  flight : List Msg
  turns : List Turn
  free : Nat
  deriving DecidableEq, Repr

/-- Why the machine stops. DEDUCED: log 37. -/
inductive Fault where
  /-- Raised by `DEVICE_RESET`'s counterpart `POWER_UP` when a boot stage fails its verification: "the package stays in
  reset" (R423). SAFE: nothing runs afterwards. -/
  | heldInReset
  /-- Raised by a step when the clocks are stopped (HELD, R429) and no turn is given: no slot passes. SAFE. -/
  | clocksStopped
  deriving DecidableEq, Repr

/-- Why a step has no meaning. -/
inductive Refusal where
  /-- Raised by no instruction once all have their meaning. SAFE. -/
  | notModelled (mnemonic : String)
  /-- Raised by a device step whose precondition does not hold in the state (no such message, no such operation): the device
  does not take that step there. SAFE: such a turn says nothing. -/
  | notEnabled (mnemonic : String)
  deriving DecidableEq, Repr

/-! ## Reset -/

/-- A vector register at reset or outside a live set (R72, R82): VALID 0, BAND 1.0. -/
def VReg.reset : VReg := { data := 0, valid := 0, dirty := 0, band := 0x3F80#16, poison := 0, origin := 0, pitch := 0 }

/-- A scale register at reset (R72). -/
def CReg.reset : CReg := { data := 0, tag := 0 }

/-- The registers of a gang member at reset (R72, R291). -/
def VFile.reset : VFile :=
  { v := Vector.replicate 32 VReg.reset, m := Vector.replicate 16 0, c := Vector.replicate 8 CReg.reset, xm := 0, fltm := 0 }

/-- The specials of a new strand (R73); "launch" values are 0 until a launch defines them. -/
def Specials.reset : Specials :=
  { sflags := 0, sctl := 0, vrows := 32, vcols := 32, vl := 1024, vtype := 0x10, fpcr := 0x0000000100000000#64,
    fpsr := 0, xsel := 0, item := 0, lstb := 0, wlimit := 0x00100000#64, depset := 0, gangsz := 1, lstn := 0, grows := 0,
    growb := 0, gsstr := 0, gdstr := 0, gmcast := 0, pwin := Vector.replicate 4 0, self := 0, vbank := 0, traprec := 0,
    trapvec := 0, acctcfg := 0, ptroot := 0 }

/-- A strand in the state of R72: everything zero and dead. -/
def Strand.reset : Strand :=
  { num := 0, pc := 0, g := Vector.replicate 32 0, gdead := 0xFFFFFFFE#32, vdead := 0xFFFFFFFF#32, mdead := 0xFFFE#16,
    cdead := 0xFF#8, full := 0, vf := VFile.reset, partners := [], sp := Specials.reset, pend := [],
    counters := Vector.replicate 16 0, gReady := [], powerTill := 0, bindings := [], batch := none, spawnCell := 0, launch := none,
    isItem := false, redCount := 0, attempts := 0, reissue := false, masked := false, firstRefusal := none, handler := none,
    trapDue := none, left := [] }

/-- An accumulator tile at reset (R224). -/
def Tile.reset : Tile := { data := 0, poison := false, owner := none }

/-- An unconfigured ring (R224). -/
def Ring.reset : Ring := { base := 0, tag := 0, depth := 0, head := 0, tail := 0, owner := none }

/-- The matrix unit at reset (R224). -/
def Matrix.reset : Matrix :=
  { tiles := Vector.replicate 8 Tile.reset, rings := Vector.replicate 8 Ring.reset, queue := [], batches := [], lifted := [], freeAt := 0 }

/-- Token cell at reset (R152): FREE; its first generation is a DESIGN CHOICE (log 6). -/
def TokCell.reset : TokCell := { st := .free, gen := 1, kind := 0, owner := 255, orphan := false, sigTime := 0 }

/-- Core `cid` at reset. BASIN, TRAPCFG and MXBASE are "cfg" (DESIGN CHOICE, log 2): the homes, trap slots and save slots of core `cid`
lie one after another at the figures of log 2. -/
def Core.reset (cid : Nat) : Core :=
  { cid := cid, inService := true, gangHead := none, cycle := 0, acct := Vector.replicate 16 0,
    running := false, waiting := false, posted := false, reply := .none, cur := Strand.reset, curEntry := false, ir := 0, irPayload := 0,
    images := [], keptNums := [], cclimit := 48, latfix := 0,
    basin := 0xFF00000000000000#64 ||| BitVec.ofNat 64 ((0x10000 + 40 * cid) * 2 ^ 20),
    trapcfg := 0x0800000000000000#64 ||| BitVec.ofNat 64 ((0xB00000000 + 2 * cid) * 2 ^ 20),
    mxbase := 0xFF00000000000000#64 ||| BitVec.ofNat 64 ((0x20000 + 34 * cid) * 2 ^ 20), mxcapl := 0, mxcaph := 0, mxhost := 0,
    entriesOk := 48, bodyOk := 768, acctctl := 10, trbase := 0, trptr := 0, rpbase := 0, rpptr := 0, vrsel := 0, vrhead := 0,
    retire := [], lost := Vector.replicate 16 0, run := none, convoy := none, stalecnt := 0, cells := [], vq := [], vuFree := 0,
    divBusy := 0, mulDone := 0, icache := [], waiters := [], mx := Matrix.reset, drains := [], channels := 0, trapSlots := [], slotQueue := [],
    parkedTill := none, stopWanted := false, stopped := false, copies := 0, spareUsed := false, moved := 0, modes := [] }

/-- Cluster `id` at reset: every bank in service in CACHE mode (R272). -/
def Cluster.reset (id : Nat) : Cluster :=
  { id := id, outMask := 0, faultMask := 0, scrMask := 0, fifoMask := 0, fifos := [], fifoBad := [], waiters := [], bars := [], pins := [],
    lines := [], engines := 4, copies := [], bankReqs := [] }

/-- A barrier cell at reset: IDLE, PHASE 0 (DESIGN CHOICE, log 1). -/
def BarCell.reset : BarCell := { phase := 0, n := 0, arrivals := [] }

/-- A Moraine slot at reset: FREE. The generation is a DESIGN CHOICE (log 6): the first open makes it 1. -/
def MSlot.reset : MSlot :=
  { isOpen := false, closing := false, gen := 0, ptroot := 0, base := 0, size := 0, depth := 0, table := [],
    forks := [], reads := [] }

/-- A slot table that obeys the reset SLOTPOL (R306-R308; DESIGN CHOICE, log 9): eight entries of each VC, the VC2 entries spread evenly,
the rest SHARED. -/
def slotTableReset : List Nat :=
  (List.range 64).map fun i => if i % 8 = 0 then 3 else if i % 8 = 1 then 1 else if i % 8 = 2 then 2 else if i % 8 = 3 then 4 else 0

/-- A die at reset: three stacks, 61 banks, SLOTPOL 8 8 8 8. HBMRM is "cfg" (DESIGN CHOICE, log 2). -/
def Die.reset : Die :=
  { slotpol := 0x08080808#64, slotpolNext := none, active := slotTableReset, shadow := slotTableReset, redcfg := 0,
    hbmrm := 0x0000004000800040#64, ecccnt := 0, l2off := 0, hbmStacks := 3, modulus := 61, outOfUse := false, bars := [],
    l2Lines := [], dram := [], hints := [], detred := [], detredBy := false, slots := [], slotsOut := [], ssQueue := [], ssOps := [], requests := [],
    responses := [] }

/-- The package at reset: no launch, no fault, NORMAL, NOMINAL, one node (DESIGN CHOICE, log 2), every stage booted (DESIGN CHOICE, log 7). -/
def Package.reset : Package :=
  { fqbase := 0, fqptr := 0, fqcfg := 6, fqSeq := 0, batches := [], engineFaults := [], migQueue := [], migrations := [],
    dumpQueue := [], dump := none, bars := [], qtbase := 0, queues := [], admitCursor := 0, nextLaunch := 0, launches := [],
    profile := 0, profileNext := none, burstFast := false, rides := 0, quiesces := 0, pwr := 0, stayHeld := [],
    thermalRide := false, health := 0, rowSpares := 0, shocks := 0, shockLog := [], shocksTested := 0, tested := true,
    cxlPorts := 8, extents := [], cxlFailed := [], hostBacked := [(0x200000000000, 0x100000000000)],
    podcap := (1#64 <<< 43) ||| (16#64 <<< 38) ||| (4#64 <<< 35), podexp := Vector.replicate 32 0, links := [], frozen := none, nodesDown := [],
    netqpt := 0, netmrt := 0, qps := [], placecfg := 0, place := { ringCons := 0, own := [], decided := [], unapplied := [] },
    mailbox := { request := 0, response := 0, busy := false, last := 0 },
    vectors := Vector.replicate 4 { addr := 0, data := 0 }, notes := [], hostReply := [],
    boot := { stage := 3, failed := none, meas := Vector.replicate 3 0, fuse := 0, version := 0, lossLogged := 0 },
    assemblies := [] }

/-- The machine right after reset (R9): every field at its Reset value, memory with nothing listed. -/
def State.reset : State :=
  { core := Core.reset 0, others := [], clusters := [], dies := Vector.replicate 4 Die.reset, pkg := Package.reset, mem := [],
    fullWords := [], poison := [], ue := [], tlb := [], flight := [], turns := [], free := 0 }

end Sys2Proof.Machine
end

