-- ==== Sys2Proof/Machine/Regs.lean ====
section
/-! DEFINITION. The registers of a strand: reads, writes, dead marks, full bits, the geometry of the vector registers and
the live sets (R18, R21, R48, R71-R83, R172). Every read and write of a register goes through this file. -/

namespace Sys2Proof.Machine

/-! ## Element types (R42, R44, R77) -/

/-- Whether a type code names an element type (R42, R44). -/
def isType (t : BitVec 5) : Bool :=
  (1 ≤ t.toNat && t.toNat ≤ 10) || (16 ≤ t.toNat && t.toNat ≤ 23)

/-- Whether a type code names an integer type (R42). -/
def isIntType (t : BitVec 5) : Bool := 1 ≤ t.toNat && t.toNat ≤ 10

/-- Whether an integer type is signed (R42). -/
def isSigned (t : BitVec 5) : Bool := t.toNat % 2 == 1

/-- Container width w of a type in bits (R48, R77). -/
def width (t : BitVec 5) : Nat :=
  match t.toNat with
  | 1 | 2 => 8
  | 3 | 4 => 16
  | 5 | 6 => 32
  | 7 | 8 => 64
  | 9 | 10 => 4
  | 16 => 32
  | 17 | 18 => 16
  | 19 | 20 | 21 | 22 => 8
  | 23 => 4
  | _ => 8

/-- Memory width e of a type in bits (R49, R201): 6 for E3M2 and E2M3, else the container width. -/
def memWidth (t : BitVec 5) : Nat :=
  match t.toNat with
  | 21 | 22 => 6
  | _ => width t

/-! ## Pending results that a write cancels (R21) -/

/-- Whether a pending result writes `g` register `r`. -/
def PendWrite.isG (w : PendWrite) (r : BitVec 5) : Bool :=
  match w with
  | .g q _ => q == r
  | _ => false

/-- Whether a pending result writes vector register `r`. -/
def PendWrite.isV (w : PendWrite) (r : BitVec 5) : Bool :=
  match w with
  | .v q _ _ => q == r
  | _ => false

/-- Whether a pending result writes mask register `r`. -/
def PendWrite.isM (w : PendWrite) (r : BitVec 4) : Bool :=
  match w with
  | .m q _ => q == r
  | _ => false

/-- Whether a pending result writes scale register `r` as its destination. -/
def PendWrite.isC (w : PendWrite) (r : BitVec 3) : Bool :=
  match w with
  | .c q _ _ => q == r
  | .s _ sc => sc.reg == r
  | _ => false

/-- A tile load without its scale bytes, when they name register `r`. -/
def PendWrite.dropScale (w : PendWrite) (r : BitVec 3) : PendWrite :=
  match w with
  | .v q ws (some sc) => if sc.reg == r then .v q ws none else w
  | _ => w

/-- What a later write of vector register `r` leaves of a pending result (R21): a tile load keeps the scale bytes that it writes to
another register, the other results for `r` are cancelled. -/
def Pending.takenV (r : BitVec 5) (e : Pending) : Pending :=
  match e.wr with
  | .v q _ (some sc) => if q == r then { e with wr := .s q sc } else e
  | .v q _ none => if q == r then { e with cancelled := true } else e
  | _ => e

/-- The pending results after a write of the registers that `p` picks: those results are cancelled (R21). -/
def cancelIf (p : PendWrite → Bool) (l : List Pending) : List Pending :=
  l.map fun e => if p e.wr then { e with cancelled := true } else e

/-! ## Scalar registers -/

/-- The number of a register field as an index of a file of 32. -/
abbrev ix5 (r : BitVec 5) : Fin 32 := ⟨r.toNat, r.isLt⟩

/-- Whether `r` is deposit-capable (R18). -/
def isDepositReg (r : BitVec 5) : Bool := 24 ≤ r.toNat && r.toNat ≤ 27

/-- The place of a deposit-capable register among g24-g27. -/
def depositIx (r : BitVec 5) : BitVec 2 := r.extractLsb' 0 2

/-- Reading a `g` register: `g0` reads 0 (R18). -/
def Strand.readG (t : Strand) (r : BitVec 5) : Word := if r = 0 then 0 else t.g[ix5 r]

/-- The value that lands in register `r`, with no effect on pending results or full bits. -/
def Strand.putG (t : Strand) (r : BitVec 5) (x : Word) : Strand :=
  if r = 0 then t
  else { t with g := t.g.set r.toNat x r.isLt, gdead := t.gdead &&& ~~~(1#32 <<< r.toNat) }

/-- A local write of a `g` register: `g0` discards it (R18), a pending result is cancelled (R21), a full bit is cleared
(R172), the dead mark ends (R83), and a latency that runs for the register ends. -/
def Strand.writeG (t : Strand) (r : BitVec 5) (x : Word) : Strand :=
  if r = 0 then t
  else
    { t.putG r x with
      pend := cancelIf (·.isG r) t.pend
      full := if isDepositReg r then t.full &&& ~~~(1#4 <<< (depositIx r).toNat) else t.full
      gReady := t.gReady.filter (·.1 != r) }

/-- A deposit into a `g` register (R170, R172): the value, the full bit, the cancelled result, the ended dead mark. -/
def Strand.depositG (t : Strand) (r : BitVec 5) (x : Word) : Strand :=
  { t.putG r x with
    pend := cancelIf (·.isG r) t.pend
    full := t.full ||| (1#4 <<< (depositIx r).toNat)
    gReady := t.gReady.filter (·.1 != r) }

/-- Whether a `g` register is dead (R83): `g0` never is. -/
def Strand.deadG (t : Strand) (r : BitVec 5) : Bool := r != 0 && t.gdead.getLsbD r.toNat

/-- Whether a `g` register is an empty deposit register (R172): its full bit is clear. Whether it still is one when the strand has written
it itself is free, because R172 and R416 disagree. DESIGN CHOICE: log 36. -/
def Strand.emptyG (t : Strand) (r : BitVec 5) : Bool :=
  isDepositReg r && !t.full.getLsbD (depositIx r).toNat && (t.gdead.getLsbD r.toNat || !Config.localDepositReads)

/-! ## Vector registers -/

/-- The bits of a vector register as they read: a row at or above VALID reads zero (R79). -/
def VReg.bits (v : VReg) : BitVec 32768 := v.data &&& BitVec.ofNat 32768 (2 ^ (1024 * v.valid) - 1)

/-- The poison marks that cover the written bits, one for each 4 bits (R263). -/
def nibbles (mask : BitVec 32768) : BitVec 8192 :=
  (List.range 8192).foldl (fun acc i => if mask.getLsbD (4 * i) then acc ||| (1#8192 <<< i) else acc) 0

/-- A write of elements to a vector register (R79): the rows below are zero-filled, VALID and DIRTY grow, BAND is set. A
write of no element changes nothing. DEDUCED: log 77. -/
def VReg.write (v : VReg) (w : VWrite) : VReg :=
  if w.rows = 0 then v
  else
    { v with
      data := (v.bits &&& ~~~w.mask) ||| (w.data &&& w.mask)
      valid := max v.valid (w.rows.toNat.log2 + 1)
      dirty := v.dirty ||| w.rows
      band := w.band
      poison := if v.poison = 0 then 0 else v.poison &&& ~~~(nibbles w.mask) }

/-- The register files of the gang, in member order; `o` is the member that the strand's own core is (R78, R291). -/
def Strand.files (t : Strand) (o : Nat) : List VFile := t.partners.take o ++ t.vf :: t.partners.drop o

/-- The strand with the register files of its gang replaced. -/
def Strand.setFiles (t : Strand) (o : Nat) (fs : List VFile) : Strand :=
  { t with vf := fs[o]?.getD VFile.reset, partners := fs.eraseIdx o }

/-- Vector register `r` of one member. -/
def VFile.getV (f : VFile) (r : BitVec 5) : VReg := f.v[ix5 r]

/-- One member with vector register `r` replaced. -/
def VFile.setV (f : VFile) (r : BitVec 5) (x : VReg) : VFile := { f with v := f.v.set r.toNat x r.isLt }

/-- A local write of an in register whose block has not arrived stays when it arrives (R220): its bits are noted. -/
def Binding.noteWrite (b : Binding) (r : BitVec 5) (ws : List VWrite) : Binding :=
  if b.reg = r ∧ ¬b.out ∧ ¬b.arrived then { b with written := ws.zipIdx.map fun p => p.1.mask ||| b.written[p.2]?.getD 0 } else b

/-- Each member's part of a vector write that lands (R79, R83). -/
def Strand.putV (t : Strand) (o : Nat) (r : BitVec 5) (ws : List VWrite) : Strand :=
  { t.setFiles o ((t.files o).zipIdx.map fun (f, i) =>
      match ws[i]? with
      | some w => f.setV r ((f.getV r).write w)
      | none => f) with
    vdead := t.vdead &&& ~~~(1#32 <<< r.toNat)
    bindings := t.bindings.map (·.noteWrite r ws) }

/-- A vector instruction's write of register `r` (R21, R79, R83). One that writes no element is a later writer too: it cancels the
pending result and ends the dead mark (DESIGN CHOICE, log 84). -/
def Strand.writeV (t : Strand) (o : Nat) (r : BitVec 5) (ws : List VWrite) : Strand :=
  { t.putV o r ws with pend := t.pend.map (·.takenV r) }

/-- Whether a vector register is dead (R83). -/
def Strand.deadV (t : Strand) (r : BitVec 5) : Bool := t.vdead.getLsbD r.toNat

/-! ## Mask registers -/

/-- Mask register `r` of one member: `m0` reads all ones (R18). -/
def VFile.getM (f : VFile) (r : BitVec 4) : BitVec 8192 :=
  if r = 0 then BitVec.allOnes 8192 else f.m[r.toNat]'(r.isLt)

/-- One member with mask register `r` replaced: `m0` ignores it (R18). -/
def VFile.setM (f : VFile) (r : BitVec 4) (x : BitVec 8192) : VFile :=
  if r = 0 then f else { f with m := f.m.set r.toNat x r.isLt }

/-- A mask write that lands, one value for each member. -/
def Strand.putM (t : Strand) (o : Nat) (r : BitVec 4) (xs : List (BitVec 8192)) : Strand :=
  if r = 0 then t
  else
    { t.setFiles o ((t.files o).zipIdx.map fun (f, i) =>
        match xs[i]? with
        | some x => f.setM r x
        | none => f) with
      mdead := t.mdead &&& ~~~(1#16 <<< r.toNat) }

/-- An instruction's write of a mask register; `m0` ignores it and cancels nothing (R19, R21). -/
def Strand.writeM (t : Strand) (o : Nat) (r : BitVec 4) (xs : List (BitVec 8192)) : Strand :=
  if r = 0 then t else { t.putM o r xs with pend := cancelIf (·.isM r) t.pend }

/-- Whether a mask register is dead (R82: `m0` never is). -/
def Strand.deadM (t : Strand) (r : BitVec 4) : Bool := r != 0 && t.mdead.getLsbD r.toNat

/-! ## Scale registers -/

/-- Scale register `r` of one member. -/
def VFile.getC (f : VFile) (r : BitVec 3) : CReg := f.c[r.toNat]'(r.isLt)

/-- One member with scale register `r` replaced. -/
def VFile.setC (f : VFile) (r : BitVec 3) (x : CReg) : VFile := { f with c := f.c.set r.toNat x r.isLt }

/-- A scale write that lands, one value for each member. -/
def Strand.putC (t : Strand) (o : Nat) (r : BitVec 3) (xs : List CReg) : Strand :=
  { t.setFiles o ((t.files o).zipIdx.map fun (f, i) =>
      match xs[i]? with
      | some x => f.setC r x
      | none => f) with
    cdead := t.cdead &&& ~~~(1#8 <<< r.toNat) }

/-- An instruction's write of a scale register (R21). -/
def Strand.writeC (t : Strand) (o : Nat) (r : BitVec 3) (xs : List CReg) : Strand :=
  { t.putC o r xs with
    pend := (cancelIf (·.isC r) t.pend).map fun e => { e with wr := e.wr.dropScale r } }

/-- Whether a scale register is dead (R82). -/
def Strand.deadC (t : Strand) (r : BitVec 3) : Bool := t.cdead.getLsbD r.toNat

/-- The scale bytes of a tile load that land (R216): only the bytes that the mask names, with the new tag. -/
def Strand.putScale (t : Strand) (o : Nat) (w : CWrite) : Strand :=
  t.putC o w.reg ((t.files o).zipIdx.map fun (f, i) =>
    let m := w.mask[i]?.getD 0
    { data := ((f.getC w.reg).data &&& ~~~m) ||| (w.data[i]?.getD 0 &&& m), tag := w.tag })

/-! ## Landing a pending result (R20, R83) -/

/-- The strand once a pending result's write has landed; a cancelled one writes nothing. -/
def Strand.land (t : Strand) (o : Nat) (e : Pending) : Strand :=
  if e.cancelled then t
  else
    match e.wr with
    | .g r x => { t.putG r x with full := if isDepositReg r then t.full &&& ~~~(1#4 <<< (depositIx r).toNat) else t.full }
    | .v r ws sc =>
      let t := t.putV o r ws
      match sc with
      | some w => t.putScale o w
      | none => t
    | .m r xs => t.putM o r xs
    | .c r xs tag => t.putC o r (xs.map fun x => { data := x, tag := tag })
    | .s _ w => t.putScale o w

/-! ## Element geometry (R77, R78) -/

/-- Element (row, column) of a vector register on the member that holds it, as a natural number below 2^w. -/
def VReg.elem (v : VReg) (w row col : Nat) : Nat :=
  if row < v.valid then (v.data.extractLsb' (1024 * row + w * col) w).toNat else 0

/-- Element `j` of register `r` over the gang, in the shape of `vcols` columns of `w` bits (R78). -/
def elemAt (fs : List VFile) (r : BitVec 5) (w vcols j : Nat) : Nat :=
  let row := j / vcols
  match fs[row / 32]? with
  | some f => (f.getV r).elem w (row % 32) (j % vcols)
  | none => 0

/-- Bit of a mask (one value for each member) that governs element `j` (R78). -/
def maskAt (ms : List (BitVec 8192)) (vcols j : Nat) : Bool :=
  let row := j / vcols
  match ms[row / 32]? with
  | some m => m.getLsbD ((row % 32) * vcols + j % vcols)
  | none => false

/-- A mask over the gang from a predicate on elements below `n`; the other bits come from `base`. -/
def buildMask (base : List (BitVec 8192)) (vcols n : Nat) (p : Nat → Option Bool) : List (BitVec 8192) :=
  (List.range n).foldl
    (fun ms j =>
      match p j with
      | none => ms
      | some b =>
        let row := j / vcols
        let k := (row % 32) * vcols + j % vcols
        ms.modify (row / 32) fun m => if b then m ||| (1#8192 <<< k) else m &&& ~~~(1#8192 <<< k))
    base

/-- The empty write, with BAND 1.0 (R79). -/
def VWrite.none : VWrite := { mask := 0, data := 0, rows := 0, band := 0x3F80#16 }

/-- A write with one more element of `w` bits at (row, column) of its member. -/
def VWrite.add (x : VWrite) (w row col value : Nat) : VWrite :=
  let p := 1024 * row + w * col
  { x with
    mask := x.mask ||| BitVec.ofNat 32768 ((2 ^ w - 1) <<< p)
    data := (x.data &&& ~~~(BitVec.ofNat 32768 ((2 ^ w - 1) <<< p))) ||| BitVec.ofNat 32768 ((value % 2 ^ w) <<< p)
    rows := x.rows ||| (1#32 <<< row) }

/-- The writes of a list of elements (index, value) over `n` members, in order: a later one wins. -/
def buildWrites (n w vcols : Nat) (es : List (Nat × Nat)) : List VWrite :=
  es.foldl
    (fun ws (j, x) =>
      let row := j / vcols
      ws.modify (row / 32) fun m => m.add w (row % 32) (j % vcols) x)
    (List.replicate n VWrite.none)

/-! ## Live sets (R81, R82) -/

/-- GMASK of a live-set entry. -/
def liveG (e : BitVec 128) : BitVec 32 := e.extractLsb' 0 32
/-- VMASK of a live-set entry. -/
def liveV (e : BitVec 128) : BitVec 32 := e.extractLsb' 32 32
/-- MMASK of a live-set entry. -/
def liveM (e : BitVec 128) : BitVec 16 := e.extractLsb' 64 16
/-- CMASK of a live-set entry. -/
def liveC (e : BitVec 128) : BitVec 8 := e.extractLsb' 80 8
/-- ACC of a live-set entry. -/
def liveAcc (e : BitVec 128) : Bool := e.getLsbD 88

/-- Every reserved bit of a live-set entry is zero (R81). -/
def liveOk (e : BitVec 128) : Bool := e.extractLsb' 89 39 == 0

/-- The `g` registers kept: those named, g0, g24-g27, and the destinations of pending `LDQ` results (R82). -/
def Strand.keptG (t : Strand) (e : BitVec 128) : BitVec 32 :=
  t.pend.foldl
    (fun m p => match p.wr with
      | .g r _ => if p.token = 0 then m else m ||| (1#32 <<< r.toNat)
      | _ => m)
    (liveG e ||| 0x0F000001#32)

/-- The vector registers kept: those named and those bound to a stream (R222). -/
def Strand.keptV (t : Strand) (e : BitVec 128) : BitVec 32 :=
  t.bindings.foldl (fun m b => m ||| (1#32 <<< b.reg.toNat)) (liveV e)

/-- One member after the kill of R82. -/
def VFile.kill (f : VFile) (kv : BitVec 32) (km : BitVec 16) (kc : BitVec 8) : VFile :=
  { f with
    v := Vector.ofFn fun i => if kv.getLsbD i.val then f.v[i] else VReg.reset
    m := Vector.ofFn fun i => if km.getLsbD i.val then f.m[i] else 0
    c := Vector.ofFn fun i => if kc.getLsbD i.val then f.c[i] else CReg.reset }

/-- The strand after the kill of R82: every register outside the live set reads 0 and is dead, on every member (R292). -/
def Strand.kill (t : Strand) (e : BitVec 128) : Strand :=
  let kg := t.keptG e
  let kv := t.keptV e
  let km := liveM e ||| 1#16
  let kc := liveC e
  { t with
    g := Vector.ofFn fun i => if kg.getLsbD i.val then t.g[i] else 0
    gdead := t.gdead ||| ~~~kg
    vdead := t.vdead ||| ~~~kv
    mdead := t.mdead ||| ~~~km
    cdead := t.cdead ||| ~~~kc
    gReady := t.gReady.filter fun p => kg.getLsbD p.1.toNat
    vf := t.vf.kill kv km kc
    partners := t.partners.map fun f => f.kill kv km kc }

/-! ## Power banks (R84, R85) -/

/-- State of the power bank that holds vector register `r`: 0 ON, 1 RETAIN, 2 OFF (R84). -/
def Strand.bankOf (t : Strand) (r : BitVec 5) : Nat := (t.sp.vbank.extractLsb' (2 * (r.toNat / 8)) 2).toNat

/-- A register file whose bank `b` has lost its contents (R85). -/
def VFile.loseBank (f : VFile) (b : Nat) : VFile :=
  { f with v := Vector.ofFn fun i => if i.val / 8 = b then VReg.reset else f.v[i] }

/-- The strand with bank `b` ON: a bank that was OFF comes up with every register VALID 0 and BAND 1.0 (R85). -/
def Strand.wakeBank (t : Strand) (b : Nat) : Strand :=
  let off := (t.sp.vbank.extractLsb' (2 * b) 2).toNat == 2
  let t := { t with sp := { t.sp with vbank := t.sp.vbank &&& ~~~(3#64 <<< (2 * b)) } }
  if off then { t with vf := t.vf.loseBank b, partners := t.partners.map (·.loseBank b) } else t

/-- The wake of the banks of the registers named (R85): the wait in cycles, the longest of theirs, and the strand after. -/
def Strand.wake (t : Strand) (rs : List (BitVec 5)) : Nat × Strand :=
  rs.foldl
    (fun (n, t) r =>
      match t.bankOf r with
      | 0 => (n, t)
      | 1 => (max n 12, t.wakeBank (r.toNat / 8))
      | _ => (max n 40, t.wakeBank (r.toNat / 8)))
    (0, t)

end Sys2Proof.Machine
end

