-- ==== Sys2Proof/Machine/Num.lean ====
section
/-! DEFINITION. Numbers (R42-R70): the floating-point formats, exact values, rounding with its flags, the arithmetic of two
or more terms, and the correctly rounded functions. A finite value is sign, natural mantissa and exponent; a result that is
not a finite binary fraction carries a mark that its true magnitude lies strictly above the mantissa given. -/

namespace Sys2Proof.Machine

/-! ## Flags (R63) -/

/-- NV of FPSR. -/
abbrev fNV : Nat := 1
/-- DZ of FPSR. -/
abbrev fDZ : Nat := 2
/-- OF of FPSR. -/
abbrev fOF : Nat := 4
/-- UF of FPSR. -/
abbrev fUF : Nat := 8
/-- NX of FPSR. -/
abbrev fNX : Nat := 16
/-- SAT of FPSR. -/
abbrev fSAT : Nat := 32

/-- A bit pattern with the flags raised on the way to it. -/
structure Rounded where
  bits : Nat
  flags : Nat
  deriving DecidableEq, Repr

/-! ## Formats (R44) -/

/-- What the top exponent of a format holds: infinities and NaNs, one NaN (E4M3), or finite values only. -/
inductive TopKind where
  | ieee
  | e4m3
  | finite
  deriving DecidableEq, Repr

/-- A floating-point format: exponent and mantissa bits, bias, and its top exponent. -/
structure Fmt where
  e : Nat
  m : Nat
  bias : Nat
  top : TopKind
  deriving DecidableEq, Repr

/-- FP32 (R44). -/
def fp32 : Fmt := ⟨8, 23, 127, .ieee⟩
/-- BF16 (R44). -/
def bf16 : Fmt := ⟨8, 7, 127, .ieee⟩
/-- FP16 (R44). -/
def fp16 : Fmt := ⟨5, 10, 15, .ieee⟩

/-- The format of a floating-point type code (R44). -/
def fmtOf (t : BitVec 5) : Option Fmt :=
  match t.toNat with
  | 16 => some fp32
  | 17 => some bf16
  | 18 => some fp16
  | 19 => some ⟨4, 3, 7, .e4m3⟩
  | 20 => some ⟨5, 2, 15, .ieee⟩
  | 21 => some ⟨3, 2, 3, .finite⟩
  | 22 => some ⟨2, 3, 1, .finite⟩
  | 23 => some ⟨2, 1, 1, .finite⟩
  | _ => none

/-- Whether a type is FP32, BF16 or FP16, the types that FZ flushes (R60). -/
def isWideFp (t : BitVec 5) : Bool := 16 ≤ t.toNat && t.toNat ≤ 18

/-- The value of a pattern (R45, R46): a finite one is `mant * 2^ex` with its sign. -/
inductive FV where
  | nan (signalling : Bool)
  | inf (neg : Bool)
  | fin (neg : Bool) (mant : Nat) (ex : Int)
  deriving DecidableEq, Repr

/-- Reading a pattern of a format (R44-R46). -/
def Fmt.decode (f : Fmt) (x : Nat) : FV :=
  let neg := x.testBit (f.e + f.m)
  let ef := (x >>> f.m) % 2 ^ f.e
  let mf := x % 2 ^ f.m
  let top := ef = 2 ^ f.e - 1
  let finite :=
    if ef = 0 then FV.fin neg mf (1 - (f.bias : Int) - f.m)
    else FV.fin neg (2 ^ f.m + mf) ((ef : Int) - f.bias - f.m)
  match f.top with
  | .ieee => if top then (if mf = 0 then .inf neg else .nan (!mf.testBit (f.m - 1))) else finite
  | .e4m3 => if top ∧ mf = 2 ^ f.m - 1 then .nan false else finite
  | .finite => finite

/-- The sign bit of a format, in place. -/
def Fmt.sign (f : Fmt) (neg : Bool) : Nat := if neg then 2 ^ (f.e + f.m) else 0

/-- The canonical NaN (R46); a format without one gives +0 (R58). -/
def Fmt.nan (f : Fmt) : Nat :=
  match f.top with
  | .ieee => (2 ^ f.e - 1) * 2 ^ f.m + 2 ^ (f.m - 1)
  | .e4m3 => 2 ^ (f.e + f.m) - 1
  | .finite => 0

/-- The infinity of a format that has one. -/
def Fmt.inf (f : Fmt) (neg : Bool) : Nat := f.sign neg + (2 ^ f.e - 1) * 2 ^ f.m

/-- The largest finite pattern. -/
def Fmt.largest (f : Fmt) (neg : Bool) : Nat :=
  f.sign neg +
    match f.top with
    | .ieee => (2 ^ f.e - 1) * 2 ^ f.m - 1
    | .e4m3 => 2 ^ (f.e + f.m) - 2
    | .finite => 2 ^ (f.e + f.m) - 1

/-- Exponent of the unit of the smallest normal and of the subnormals. -/
def Fmt.qmin (f : Fmt) : Int := 1 - (f.bias : Int) - f.m

/-- Exponent of the unit at the largest finite value. -/
def Fmt.qmax (f : Fmt) : Int :=
  match f.top with
  | .ieee => (2 : Int) ^ f.e - 2 - f.bias - f.m
  | _ => (2 : Int) ^ f.e - 1 - f.bias - f.m

/-- The largest finite value in units of `qmax`. -/
def Fmt.kmax (f : Fmt) : Nat :=
  match f.top with
  | .e4m3 => 2 ^ (f.m + 1) - 2
  | _ => 2 ^ (f.m + 1) - 1

/-! ## Rounding (R56-R60) -/

/-- The rounding modes of R56; SR carries the r of its step (R59). -/
inductive RMode where
  | rne | rz | rdn | rup | rna
  | sr (r : Nat)
  deriving DecidableEq, Repr

/-- The mode of FPCR.RM (R62). -/
def rmOf (fpcr : Word) : RMode :=
  match (fpcr.extractLsb' 0 3).toNat with
  | 0 => .rne
  | 1 => .rz
  | 2 => .rdn
  | 3 => .rup
  | _ => .rna

/-- A magnitude `n * 2^e`, or one strictly between it and `(n + 1) * 2^e` when `sticky`. -/
structure Mag where
  n : Nat
  e : Int
  sticky : Bool
  deriving DecidableEq, Repr

/-- Rounds a magnitude to a multiple of 2^q (R56 step 3): the multiple, and whether it is inexact. -/
def Mag.toUnit (x : Mag) (mode : RMode) (neg : Bool) (q : Int) : Nat × Bool :=
  if q ≤ x.e then (x.n <<< (x.e - q).toNat, x.sticky)
  else
    let sh := (q - x.e).toNat
    let k := x.n >>> sh
    let rem := x.n % 2 ^ sh
    let half := 2 ^ (sh - 1)
    if rem = 0 ∧ x.sticky = false then (k, false)
    else
      let up : Bool :=
        match mode with
        | .rne => if rem = half ∧ x.sticky = false then k % 2 == 1 else decide (half ≤ rem)
        | .rna => decide (half ≤ rem)
        | .rz => false
        | .rdn => neg
        | .rup => !neg
        | .sr r => decide (r < (rem <<< 16) >>> sh)
      (if up then k + 1 else k, true)

/-- The pattern of the multiple `k` of 2^q, with `k` below 2^(m+1), or equal to it after a carry. -/
def Fmt.pack (f : Fmt) (neg : Bool) (k : Nat) (q : Int) : Nat :=
  let (k, q) := if k = 2 ^ (f.m + 1) then (2 ^ f.m, q + 1) else (k, q)
  f.sign neg + if k < 2 ^ f.m then k else (q + f.m + f.bias).toNat * 2 ^ f.m + (k - 2 ^ f.m)

/-- The result of an overflow (R57). -/
def Fmt.overflow (f : Fmt) (mode : RMode) (satm neg : Bool) : Rounded :=
  match f.top with
  | .finite => ⟨f.largest neg, fOF + fNX + fSAT⟩
  | .e4m3 => if satm then ⟨f.largest neg, fOF + fNX + fSAT⟩ else ⟨f.nan, fOF + fNX⟩
  | .ieee =>
    if satm then ⟨f.largest neg, fOF + fNX + fSAT⟩
    else
      let toInf :=
        match mode with
        | .rz => false
        | .rdn => neg
        | .rup => !neg
        | _ => true
      ⟨if toInf then f.inf neg else f.largest neg, fOF + fNX⟩

/-- round(x, mode, fmt) of a magnitude with its sign (R56, R57). -/
def Fmt.round (f : Fmt) (mode : RMode) (satm neg : Bool) (x : Mag) : Rounded :=
  if x.n = 0 ∧ x.sticky = false then ⟨f.sign neg, 0⟩
  else
    let qu : Int := x.e + (x.n.log2 : Int) - f.m
    let q := max qu f.qmin
    let (k, inexact) := x.toUnit mode neg q
    let ovf := decide (f.qmax < q ∨ (q = f.qmax ∧ f.kmax < k))
    if ovf then f.overflow mode satm neg
    else if inexact then
      let (ku, _) := x.toUnit mode neg qu
      let tiny := qu < f.qmin ∧ ¬(qu = f.qmin - 1 ∧ ku = 2 ^ (f.m + 1))
      ⟨f.pack neg k q, fNX + if tiny then fUF else 0⟩
    else ⟨f.pack neg k q, 0⟩

/-- Whether a pattern is a nonzero subnormal. -/
def Fmt.subnormal (f : Fmt) (x : Nat) : Bool := (x >>> f.m) % 2 ^ f.e == 0 && x % 2 ^ f.m != 0

/-- A result under FZ (R60): a subnormal becomes the zero of its sign, raising UF and NX. -/
def Fmt.flushOut (f : Fmt) (fz : Bool) (r : Rounded) : Rounded :=
  if fz && f.subnormal r.bits then ⟨f.sign (r.bits.testBit (f.e + f.m)), r.flags ||| fUF ||| fNX⟩ else r

/-- An input under FZ (R60): a subnormal reads as the zero of its sign. -/
def Fmt.flushIn (f : Fmt) (fz : Bool) (x : Nat) : Nat :=
  if fz && f.subnormal x then f.sign (x.testBit (f.e + f.m)) else x

/-- How an operation rounds: format, mode, SATM and FZ. -/
structure RCtx where
  f : Fmt
  mode : RMode
  satm : Bool
  fz : Bool

/-- An exact result with the flags raised so far. -/
structure Ev where
  v : FV
  sticky : Bool
  flags : Nat

/-- The pattern of an exact result, as an arithmetic instruction writes it (R46, R56-R58, R60). -/
def RCtx.finish (c : RCtx) (x : Ev) : Rounded :=
  match x.v with
  | .nan _ => if c.f.top = .finite then ⟨0, x.flags ||| fNV⟩ else ⟨c.f.nan, x.flags⟩
  | .inf neg =>
    match c.f.top with
    | .ieee => ⟨c.f.inf neg, x.flags⟩
    | .e4m3 => if c.satm then ⟨c.f.largest neg, x.flags ||| fSAT⟩ else ⟨c.f.nan, x.flags⟩
    | .finite => ⟨c.f.largest neg, x.flags ||| fSAT⟩
  | .fin neg n e =>
    let r := c.f.flushOut c.fz (c.f.round c.mode c.satm neg ⟨n, e, x.sticky⟩)
    ⟨r.bits, x.flags ||| r.flags⟩

/-- A value with no flag. -/
def FV.ev (v : FV) : Ev := ⟨v, false, 0⟩

/-- NV for a signalling NaN (R46). -/
def FV.nanFlag (v : FV) : Nat :=
  match v with
  | .nan true => fNV
  | _ => 0

/-! ## Arithmetic on values (R46, R47, R68) -/

/-- The value with its sign inverted. -/
def FV.neg (v : FV) : FV :=
  match v with
  | .nan s => .nan s
  | .inf n => .inf (!n)
  | .fin n m e => .fin (!n) m e

/-- An exact product: 0 × ∞ is invalid. -/
def FV.mul (a b : FV) : Ev :=
  let fl := a.nanFlag ||| b.nanFlag
  match a, b with
  | .nan _, _ => ⟨.nan false, false, fl⟩
  | _, .nan _ => ⟨.nan false, false, fl⟩
  | .inf s, .inf t => ⟨.inf (s != t), false, fl⟩
  | .inf s, .fin t m _ => if m = 0 then ⟨.nan false, false, fl ||| fNV⟩ else ⟨.inf (s != t), false, fl⟩
  | .fin s m _, .inf t => if m = 0 then ⟨.nan false, false, fl ||| fNV⟩ else ⟨.inf (s != t), false, fl⟩
  | .fin s m e, .fin t n f => ⟨.fin (s != t) (m * n) (e + f), false, fl⟩

/-- A signed mantissa in units of 2^e. -/
def scaled (neg : Bool) (m : Nat) (ex e : Int) : Int :=
  let n : Int := (m <<< (ex - e).toNat : Nat)
  if neg then -n else n

/-- The exact sum of finite terms: least exponent, total. -/
def sumFinite (ts : List (Bool × Nat × Int)) : Int × Int :=
  let e := ts.foldl (fun e t => min e t.2.2) (match ts with | [] => 0 | t :: _ => t.2.2)
  (ts.foldl (fun acc t => acc + scaled t.1 t.2.1 t.2.2 e) 0, e)

/-- The exact sum of any number of terms, with the zero signs of R47: `rdn` when the rounding is toward −∞. -/
def sumFV (rdn : Bool) (ts : List FV) (flags : Nat) : Ev :=
  let fl := ts.foldl (fun acc t => acc ||| t.nanFlag) flags
  if ts.any fun t => match t with | .nan _ => true | _ => false then ⟨.nan false, false, fl⟩
  else
    let pos := ts.any fun t => match t with | .inf false => true | _ => false
    let neg := ts.any fun t => match t with | .inf true => true | _ => false
    if pos && neg then ⟨.nan false, false, fl ||| fNV⟩
    else if pos then ⟨.inf false, false, fl⟩
    else if neg then ⟨.inf true, false, fl⟩
    else
      let fs := ts.filterMap fun t => match t with | .fin n m e => some (n, m, e) | _ => none
      let (x, e) := sumFinite fs
      if x = 0 then
        let allNeg := fs.all fun t => t.1 && t.2.1 == 0
        let allPos := fs.all fun t => !t.1 && t.2.1 == 0
        ⟨.fin (if allNeg && !fs.isEmpty then true else if allPos then false else rdn) 0 0, false, fl⟩
      else ⟨.fin (x < 0) x.natAbs e, false, fl⟩

/-- Whether a mode rounds toward −∞. -/
def RMode.isRdn (m : RMode) : Bool := m == .rdn

/-- round(x + z). -/
def RCtx.add (c : RCtx) (a b : FV) : Rounded := c.finish (sumFV c.mode.isRdn [a, b] 0)

/-- round(x × z). -/
def RCtx.mul (c : RCtx) (a b : FV) : Rounded := c.finish (a.mul b)

/-- round(x × z + d), fused (R68). -/
def RCtx.fma (c : RCtx) (a b d : FV) : Rounded :=
  let p := a.mul b
  c.finish (sumFV c.mode.isRdn [p.v, d] p.flags)

/-- An exact quotient of magnitudes, to more bits than any format holds, with the mark for a remainder. -/
def quotient (m n : Nat) (e f : Int) : Mag :=
  let k := 128 + n.log2
  ⟨(m <<< k) / n, e - f - k, (m <<< k) % n != 0⟩

/-- The value of a quotient (R116). -/
def FV.div (a b : FV) : Ev :=
  let fl := a.nanFlag ||| b.nanFlag
  match a, b with
  | .nan _, _ => ⟨.nan false, false, fl⟩
  | _, .nan _ => ⟨.nan false, false, fl⟩
  | .inf _, .inf _ => ⟨.nan false, false, fl ||| fNV⟩
  | .inf s, .fin t _ _ => ⟨.inf (s != t), false, fl⟩
  | .fin s _ _, .inf t => ⟨.fin (s != t) 0 0, false, fl⟩
  | .fin s m e, .fin t n f =>
    if n = 0 then
      if m = 0 then ⟨.nan false, false, fl ||| fNV⟩ else ⟨.inf (s != t), false, fl ||| fDZ⟩
    else
      let q := quotient m n e f
      ⟨.fin (s != t) q.n q.e, q.sticky, fl⟩

/-- The integer square root below 2^k, bit by bit. -/
def isqrtLoop (n : Nat) : Nat → Nat → Nat
  | 0, r => r
  | k + 1, r =>
    let r' := r + 2 ^ k
    isqrtLoop n k (if r' * r' ≤ n then r' else r)

/-- The integer square root. -/
def isqrt (n : Nat) : Nat := isqrtLoop n (n.log2 / 2 + 1) 0

/-- The value of a square root (R116). -/
def FV.sqrt (a : FV) : Ev :=
  match a with
  | .nan s => ⟨.nan false, false, if s then fNV else 0⟩
  | .inf false => ⟨.inf false, false, 0⟩
  | .inf true => ⟨.nan false, false, fNV⟩
  | .fin s m e =>
    if m = 0 then ⟨.fin s 0 0, false, 0⟩
    else if s then ⟨.nan false, false, fNV⟩
    else
      let (m, e) := if e % 2 = 0 then (m, e) else (2 * m, e - 1)
      let x := m <<< 128
      let r := isqrt x
      ⟨.fin false r (e / 2 - 64), r * r != x, 0⟩

/-- The value of a reciprocal (R67). -/
def FV.rcp (a : FV) : Ev :=
  match a with
  | .fin s m e => if m = 0 then ⟨.inf s, false, fDZ⟩ else (FV.fin false 1 0).div (.fin s m e)
  | _ => (FV.fin false 1 0).div a

/-- The value of a reciprocal square root (R67). -/
def FV.rsq (a : FV) : Ev :=
  match a with
  | .nan s => ⟨.nan false, false, if s then fNV else 0⟩
  | .inf false => ⟨.fin false 0 0, false, 0⟩
  | .inf true => ⟨.nan false, false, fNV⟩
  | .fin s m e =>
    if m = 0 then ⟨.inf s, false, fDZ⟩
    else if s then ⟨.nan false, false, fNV⟩
    else
      let (m, e) := if e % 2 = 0 then (m, e) else (2 * m, e - 1)
      let p := 2 * (64 + m.log2)
      let r := isqrt (2 ^ p / m)
      ⟨.fin false r (-(e / 2) - (p / 2 : Nat)), r * r * m != 2 ^ p, 0⟩

/-! ## Fixed-point series for exp2 and log2 (R67)

Both results are irrational for every operand at which they are not exact, so no rounding boundary is met; 320 fraction bits
place the result on its side of every boundary of the formats concerned (DEDUCED, log 11). -/

/-- Fraction bits of the series. -/
abbrev seriesBits : Nat := 320

/-- Sum of z^(2k+1) / (2k+1) over `fuel` terms, for a fixed-point z; `p` is the current power. -/
def atanhLoop (z2 : Nat) : Nat → Nat → Nat → Nat → Nat
  | 0, _, _, acc => acc
  | fuel + 1, p, k, acc => atanhLoop z2 fuel ((p * z2) >>> seriesBits) (k + 2) (acc + p / k)

/-- ln(m / 2^s) for 1 ≤ m / 2^s < 2, in fixed point. -/
def lnFixed (m s : Nat) : Nat :=
  let z := ((m - 2 ^ s) <<< seriesBits) / (m + 2 ^ s)
  2 * atanhLoop ((z * z) >>> seriesBits) 110 z 1 0

/-- ln 2 in fixed point. -/
def ln2Fixed : Nat := lnFixed 2 0

/-- Sum of y^k / k! over `fuel` terms, for a fixed-point y. -/
def expLoop (y : Nat) : Nat → Nat → Nat → Nat → Nat
  | 0, _, _, acc => acc
  | fuel + 1, term, k, acc => expLoop y fuel (((term * y) >>> seriesBits) / (k + 1)) (k + 1) (acc + term)

/-- 2^x of a finite value (R67). -/
def exp2Fin (neg : Bool) (m : Nat) (e : Int) : Ev :=
  if m = 0 then ⟨.fin false 1 0, false, 0⟩
  else if 16 ≤ e + (m.log2 : Int) then
    ⟨.fin false 1 (if neg then -100000 else 100000), true, 0⟩
  else
    let x : Int := if 0 ≤ e then (m <<< (e.toNat + seriesBits) : Nat)
      else ((m <<< seriesBits) >>> (-e).toNat : Nat)
    let x := if neg then -x else x
    let k := x / 2 ^ seriesBits
    let f := (x % 2 ^ seriesBits).toNat
    if f = 0 then ⟨.fin false 1 k, false, 0⟩
    else ⟨.fin false (expLoop ((f * ln2Fixed) >>> seriesBits) 90 (2 ^ seriesBits) 0 0) (k - seriesBits), true, 0⟩

/-- The value of exp2 (R67). -/
def FV.exp2 (a : FV) : Ev :=
  match a with
  | .nan s => ⟨.nan false, false, if s then fNV else 0⟩
  | .inf true => ⟨.fin false 0 0, false, 0⟩
  | .inf false => ⟨.inf false, false, 0⟩
  | .fin s m e => exp2Fin s m e

/-- The value of log2 (R67). -/
def FV.log2 (a : FV) : Ev :=
  match a with
  | .nan s => ⟨.nan false, false, if s then fNV else 0⟩
  | .inf false => ⟨.inf false, false, 0⟩
  | .inf true => ⟨.nan false, false, fNV⟩
  | .fin s m e =>
    if m = 0 then ⟨.inf true, false, fDZ⟩
    else if s then ⟨.nan false, false, fNV⟩
    else
      let k : Int := e + (m.log2 : Int)
      if m = 2 ^ m.log2 then ⟨.fin (k < 0) k.natAbs 0, false, 0⟩
      else
        let fr : Int := ((lnFixed m m.log2 <<< seriesBits) / ln2Fixed : Nat)
        let x := k * 2 ^ seriesBits + fr
        ⟨.fin (x < 0) x.natAbs (-(seriesBits : Int)), true, 0⟩

/-! ## Comparison, minimum and maximum (R47) -/

/-- a < b for values that are not NaN; zeros are equal. -/
def FV.lt (a b : FV) : Bool :=
  match a, b with
  | .nan _, _ => false
  | _, .nan _ => false
  | .inf s, .inf t => s && !t
  | .inf s, .fin _ _ _ => s
  | .fin _ _ _, .inf t => !t
  | .fin s m e, .fin t n f =>
    let g := min e f
    decide (scaled s m e g < scaled t n f g)

/-- a = b for values that are not NaN; zeros are equal. -/
def FV.eq (a b : FV) : Bool :=
  match a, b with
  | .nan _, _ => false
  | _, .nan _ => false
  | a, b => !a.lt b && !b.lt a

/-- Whether a value is a NaN. -/
def FV.isNan (a : FV) : Bool :=
  match a with
  | .nan _ => true
  | _ => false

/-- Whether a value has its sign set. -/
def FV.isNeg (a : FV) : Bool :=
  match a with
  | .nan _ => false
  | .inf s => s
  | .fin s _ _ => s

/-- minimumNumber (`big` false) or maximumNumber of two patterns (R47); −0 is below +0. -/
def Fmt.minmax (f : Fmt) (big : Bool) (x z : Nat) : Rounded :=
  let a := f.decode x
  let b := f.decode z
  let fl := a.nanFlag ||| b.nanFlag
  if a.isNan && b.isNan then ⟨f.nan, fl⟩
  else if a.isNan then ⟨z, fl⟩
  else if b.isNan then ⟨x, fl⟩
  else
    let less := a.lt b || (a.eq b && a.isNeg && !b.isNeg)
    ⟨if less == big then z else x, fl⟩

/-! ## Integers (R43) -/

/-- The integer value of a container under a type's signedness. -/
def intVal (signed : Bool) (w x : Nat) : Int :=
  if signed && x.testBit (w - 1) then (x : Int) - 2 ^ w else x

/-- The ends of the range of an integer type. -/
def intRange (signed : Bool) (w : Nat) : Int × Int :=
  if signed then (-(2 ^ (w - 1)), 2 ^ (w - 1) - 1) else (0, 2 ^ w - 1)

/-- The low bits of an integer. -/
def wrapInt (w : Nat) (x : Int) : Nat := (x % 2 ^ w).toNat

/-- Clamping into an integer type: SAT when the exact value does not fit (R43). -/
def clampInt (signed : Bool) (w : Nat) (x : Int) : Rounded :=
  let (lo, hi) := intRange signed w
  if x < lo then ⟨wrapInt w lo, fSAT⟩ else if hi < x then ⟨wrapInt w hi, fSAT⟩ else ⟨wrapInt w x, 0⟩

/-- Conversion of a value into an integer type (R43). -/
def toIntType (mode : RMode) (signed : Bool) (w : Nat) (x : Ev) : Rounded :=
  let (lo, hi) := intRange signed w
  match x.v with
  | .nan _ => ⟨0, x.flags ||| fNV ||| fSAT⟩
  | .inf neg => ⟨wrapInt w (if neg then lo else hi), x.flags ||| fNV ||| fSAT⟩
  | .fin neg n e =>
    let (k, inexact) := (Mag.mk n e x.sticky).toUnit mode neg 0
    let r := clampInt signed w (if neg then -(k : Int) else k)
    ⟨r.bits, x.flags ||| r.flags ||| if inexact && r.flags == 0 then fNX else 0⟩

/-- The value of an integer. -/
def intFV (x : Int) : FV := .fin (x < 0) x.natAbs 0

/-! ## Scales and block formats (R50-R53) -/

/-- The element type of a block format code (R51). -/
def blockElem (f : BitVec 5) : Option (BitVec 5) :=
  match f.toNat with
  | 0x18 => some 0x13
  | 0x19 => some 0x14
  | 0x1A => some 0x15
  | 0x1B => some 0x16
  | 0x1C => some 0x17
  | 0x1D => some 0x17
  | 0x1E => some 0x01
  | _ => none

/-- Whether BLK is allowed for FMT (R54). -/
def blkOk (f : BitVec 5) (blk : BitVec 3) : Bool :=
  if f = 0x1D then blk.toNat = 3 || blk.toNat = 4
  else if 0x18 ≤ f.toNat && f.toNat ≤ 0x1E then 4 ≤ blk.toNat && blk.toNat ≤ 6
  else blk = 0

/-- Elements of a tile row (R52). -/
def tileCols (f : BitVec 5) : Nat := if f = 0x1C ∨ f = 0x1D then 256 else 128

/-- Bytes of a tile row in memory (R52). -/
def tileRowBytes (f : BitVec 5) : Nat := if f = 0x1A ∨ f = 0x1B then 96 else 128

/-- Header bytes of a tile (R52). -/
def tileHeader (f : BitVec 5) (blk : BitVec 3) : Nat :=
  let n := 64 * (tileCols f / 2 ^ blk.toNat)
  if f = 0x1D then n + 64 else n

/-- Bytes of a tile (R52). -/
def tileBytes (f : BitVec 5) (blk : BitVec 3) : Nat := tileHeader f blk + 64 * tileRowBytes f

/-- The value of an E8M0 scale: 0xFF is a NaN that raises NV where it is used (R50, R53). -/
def e8m0 (x : Nat) : FV := if x = 255 then .nan true else .fin false 1 ((x : Int) - 127)

/-- The value of an E3M5 scale (R50). -/
def e3m5 (x : Nat) : FV :=
  let e := x / 32
  let m := x % 32
  if e = 0 then .fin false m (-7) else .fin false (32 + m) ((e : Int) - 8)

/-- The value of a block scale byte under a block format. -/
def blockScale (f : BitVec 5) (x : Nat) : FV := if f = 0x1D then e3m5 x else e8m0 x

/-- The value of an element of a type; INT8 inside MX-INT8 counts in units of 2^-6 (R51). -/
def elemFV (t : BitVec 5) (x : Nat) : FV :=
  match fmtOf t with
  | some f => f.decode x
  | none => intFV (intVal (isSigned t) (width t) x)

/-- The exact value of a FINE4 element under an infinite band scale (R53): infinite for a nonzero element, whatever its block scale,
NaN with NV for a zero one. -/
def underInf (neg : Bool) (el p : Ev) : Ev :=
  match el.v, p.v with
  | _, .nan _ => ⟨.nan false, false, p.flags⟩
  | .fin s m _, _ => if m = 0 then ⟨.nan false, false, p.flags ||| fNV⟩ else ⟨.inf (s != neg), false, p.flags⟩
  | v, _ => ⟨v, false, p.flags⟩

/-- The exact value of a block element (R53): element, scale and band; a NaN band raises NV. -/
def blockValue (f : BitVec 5) (x scale : Nat) (band : BitVec 16) : Ev :=
  let el := blockElem f
  let v :=
    match el with
    | some t => if f = 0x1E then (match elemFV t x with | .fin s m e => FV.fin s m (e - 6) | v => v) else elemFV t x
    | none => FV.fin false 0 0
  let p := v.mul (blockScale f scale)
  if f = 0x1D then
    match bf16.decode band.toNat with
    | .nan _ => let q := p.v.mul (FV.nan true); ⟨q.v, false, p.flags ||| q.flags⟩
    | .inf neg => underInf neg v.ev p
    | b => let q := p.v.mul b; ⟨q.v, false, p.flags ||| q.flags⟩
  else p

end Sys2Proof.Machine
end

