-- ==== Sys2Proof/Machine/Mem.lean ====
section
/-! DEFINITION. Storage: the canonical list of bytes, the places that hold them (R196, R197, R346), the poison marks (R325),
the full bits (R282), the reduce-add arithmetic and the DETRED buffers (R217, R317-R319), and the page a physical address
names inside and outside the package (R346, R436). -/

namespace Sys2Proof.Machine

/-! ## The canonical list -/

/-- The byte at a key; an unlisted key reads 0 (DESIGN CHOICE, log 3). -/
def Memory.get : List Host.Cell → Nat → Byte
  | [], _ => 0
  | (a, b) :: m, k => if a = k then b else if k < a then 0 else Memory.get m k

/-- Writing a byte; writing 0 removes the entry. -/
def Memory.put : List Host.Cell → Nat → Byte → List Host.Cell
  | [], k, x => if x = 0 then [] else [(k, x)]
  | (a, b) :: m, k, x =>
    if k < a then (if x = 0 then (a, b) :: m else (k, x) :: (a, b) :: m)
    else if k = a then (if x = 0 then m else (k, x) :: m)
    else (a, b) :: Memory.put m k x

/-- The canonical form: keys strictly rising above `lo`, no byte equal to what an unlisted key reads as. -/
def Memory.wfFrom : Nat → List Host.Cell → Bool
  | _, [] => true
  | lo, (a, b) :: m => decide (lo ≤ a) && b != 0 && Memory.wfFrom (a + 1) m

/-- The canonical form of a memory. -/
def Memory.wf (m : List Host.Cell) : Bool := Memory.wfFrom 0 m

/-- `n` bytes from a key, read little-endian (R4). -/
def Memory.getN (m : List Host.Cell) (k : Nat) : Nat → Nat
  | 0 => 0
  | n + 1 => (Memory.get m k).toNat + 256 * Memory.getN m (k + 1) n

/-- `n` bytes of a value written little-endian from a key. -/
def Memory.putN (m : List Host.Cell) (k : Nat) : Nat → Nat → List Host.Cell
  | 0, _ => m
  | n + 1, v => Memory.putN (Memory.put m k (BitVec.ofNat 8 v)) (k + 1) n (v / 256)

/-- `n` bytes from a key, in address order. -/
def Memory.bytes (m : List Host.Cell) (k : Nat) : Nat → List Byte
  | 0 => []
  | n + 1 => Memory.get m k :: Memory.bytes m (k + 1) n

/-- Bytes written from a key, in address order. -/
def Memory.putBytes (m : List Host.Cell) : Nat → List Byte → List Host.Cell
  | _, [] => m
  | k, x :: xs => Memory.putBytes (Memory.put m k x) (k + 1) xs

/-- The little-endian value of a list of bytes. -/
def leValue : List Byte → Nat
  | [] => 0
  | x :: xs => x.toNat + 256 * leValue xs

/-- The `n` little-endian bytes of a value. -/
def leBytes : Nat → Nat → List Byte
  | 0, _ => []
  | n + 1, v => BitVec.ofNat 8 v :: leBytes n (v / 256)

/-- Bits [p + w - 1 : p] of a pattern replaced. -/
def putBits {n : Nat} (x : BitVec n) (p w v : Nat) : BitVec n :=
  (x &&& ~~~BitVec.ofNat n ((2 ^ w - 1) * 2 ^ p)) ||| BitVec.ofNat n (v % 2 ^ w * 2 ^ p)

/-! ## Keys (DESIGN CHOICE, log 3) -/

/-- The key of a byte of a core scratchpad (R196). -/
def scratchKey (core off : Nat) : Nat := 2 ^ 52 + core * 2 ^ 19 + off

/-- The key of a byte of a bank of cluster SRAM (R197, R272). -/
def sramKey (cluster bank byte : Nat) : Nat := 2 ^ 53 + (cluster * 64 + bank) * 2 ^ 17 + byte

/-- Whether a key names a byte of global memory. -/
def isGlobalKey (k : Nat) : Bool := k < 2 ^ 52

/-! ## Other cores, clusters and dies -/

/-- The common clock (R2, R5): the cycle of the core that is furthest behind. -/
def State.now (s : State) : Nat := s.others.foldl (fun n c => min n c.cycle) s.core.cycle

/-- Whether no core is behind the focus, which may then take a step (R2; DEDUCED, log 97). -/
def State.inTime (s : State) : Bool := decide (s.core.cycle ≤ s.now)

/-- The core that steps next: the focus, unless another is behind it. -/
def State.slowest (s : State) : Nat :=
  if s.inTime then s.core.cid else ((s.others.find? fun c => decide (c.cycle ≤ s.now)).map (·.cid)).getD s.core.cid

/-- A core that nothing has touched since reset: every slot so far is charged to IDLE, the account's last cause (R179, R181). -/
def Core.untouched (c n : Nat) : Core :=
  let r := Core.reset c
  { r with cycle := n, acct := r.acct.setIfInBounds 15 (BitVec.ofNat 64 n) }

/-- A core by number: the focus, one that is listed, or one that nothing has touched. -/
def State.coreOf (s : State) (c : Nat) : Core :=
  if s.core.cid = c then s.core else (s.others.find? (·.cid == c)).getD (Core.untouched c s.now)

/-- Replacing a core. -/
def State.setCore (s : State) (x : Core) : State :=
  if s.core.cid = x.cid then { s with core := x }
  else { s with others := x :: s.others.filter (·.cid != x.cid) }

/-- Changing a core by number. -/
def State.onCore (s : State) (c : Nat) (f : Core → Core) : State := s.setCore (f (s.coreOf c))

/-- Making a core the focus. -/
def State.focusOn (s : State) (c : Nat) : State :=
  if s.core.cid = c then s
  else { s with core := s.coreOf c, others := s.core :: s.others.filter fun x => x.cid != c && x.cid != s.core.cid }

/-- The cluster of a core, numbered over the package. -/
def clusterOf (core : Nat) : Nat := core / Config.coresPerDie * Config.clustersPerDie + core % Config.coresPerDie / Config.coresPerCluster

/-- The die of a core. -/
def dieOf (core : Nat) : Nat := core / Config.coresPerDie

/-- The first core of a cluster. -/
def firstCoreOf (cluster : Nat) : Nat :=
  cluster / Config.clustersPerDie * Config.coresPerDie + cluster % Config.clustersPerDie * Config.coresPerCluster

/-- A cluster by number. -/
def State.clusterAt (s : State) (c : Nat) : Cluster := (s.clusters.find? (·.id == c)).getD (Cluster.reset c)

/-- Replacing a cluster. -/
def State.setCluster (s : State) (x : Cluster) : State :=
  { s with clusters := x :: s.clusters.filter (·.id != x.id) }

/-- Changing a cluster by number. -/
def State.onCluster (s : State) (c : Nat) (f : Cluster → Cluster) : State := s.setCluster (f (s.clusterAt c))

/-- A die by number; the numbers are 0-3. -/
def State.dieAt (s : State) (d : Nat) : Die := s.dies[d]?.getD Die.reset

/-- Changing a die. -/
def State.onDie (s : State) (d : Nat) (f : Die → Die) : State :=
  { s with dies := Vector.ofFn fun i => if i.val = d then f s.dies[i] else s.dies[i] }

/-- Changing the package-wide state. -/
def State.onPkg (s : State) (f : Package → Package) : State := { s with pkg := f s.pkg }

/-! ## The physical map (R346, R436) -/

/-- Whether a physical address is in the HBM range of a die that has the stack. -/
def State.inHbm (s : State) (pa : Nat) : Bool :=
  pa < 2 ^ 40 && pa % 2 ^ 38 < (s.dieAt (pa / 2 ^ 38)).hbmStacks * 2 ^ 36

/-- Whether a physical address is in the CXL tier. -/
def isCxl (pa : Nat) : Bool := 0x100000000000 ≤ pa && pa < 0x180000000000

/-- Whether a physical address is in the host window. -/
def isHost (pa : Nat) : Bool := 0x200000000000 ≤ pa && pa < 0x300000000000

/-- Whether ranges (first, length) hold an address. -/
def inRanges (rs : List (Nat × Nat)) (x : Nat) : Bool := rs.any fun r => decide (r.1 ≤ x) && decide (x < r.1 + r.2)

/-- Whether a row of R346 backs a local physical address. -/
def State.backed (s : State) (pa : Nat) : Bool :=
  s.inHbm pa || (isCxl pa && inRanges s.pkg.extents (pa - 0x100000000000)) || (isHost pa && inRanges s.pkg.hostBacked pa)

/-- The home die of a local line (R346). -/
def homeDie (pa : Nat) : Nat := if pa < 2 ^ 40 then pa / 2 ^ 38 else pa / 2 ^ 12 % 4

/-! ## Links (R421, R430, DESIGN CHOICE, log 28) -/

/-- The number of the link between two dies. -/
def dieLink (a b : Nat) : Nat := 25 + if min a b = 0 then max a b - 1 else a + b

/-- Whether R430 speaks of a link: every link but those of the Ethernet ports. -/
def freezes (link : Nat) : Bool := link < 31

/-- Whether a link carries traffic; one that retrains does so when `paused` asks it. -/
def State.linkUp (s : State) (paused : Bool) (n : Nat) : Bool :=
  match s.pkg.links.find? (·.1 == n) with
  | none => true
  | some (_, .retraining) => paused
  | some (_, .down) => false

/-- Whether a link is down. -/
def State.linkDown (s : State) (n : Nat) : Bool := !s.linkUp true n

/-- Whether a link retrains. -/
def State.linkPaused (s : State) (n : Nat) : Bool := s.linkUp true n && !s.linkUp false n

/-- Whether links join two dies, over other dies too (R312). -/
def State.diesJoined (s : State) (paused : Bool) (a b : Nat) : Bool :=
  let next := fun (l : List Nat) => (List.range 4).filter fun d => l.any fun e => e == d || s.linkUp paused (dieLink e d)
  (next (next (next [a]))).contains b

/-- The link of the CXL port behind which a line lies. -/
def cxlLink (pa : Nat) : Nat := 16 + Config.cxlPort (pa / 64) % 8

/-- Whether every UALink port in service retrains (R441). -/
def State.podPaused (s : State) : Bool := decide (s.pkg.podcap.extractLsb' 38 5 ≠ 0) && ((List.range 16).all fun n => !s.linkUp false n)

/-- The die of the port behind which a local address lies (R421): the host link is on die 0, CXL ports 2d and 2d + 1 are on die d. -/
def portDie (pa : Nat) : Option Nat := if isCxl pa then some (Config.cxlPort (pa / 64) % 8 / 2) else if isHost pa then some 0 else none

/-- Whether links join the home die of a local address and the die of its port (R421). -/
def State.portJoined (s : State) (paused : Bool) (pa : Nat) : Bool :=
  s.pkg.links.isEmpty || (portDie pa).all fun d => s.diesJoined paused (homeDie pa) d

/-- Whether a die has a way to a UALink port (R421): ports 4d to 4d + 3 are on die d. -/
def State.podWay (s : State) (paused : Bool) (die : Nat) : Bool :=
  s.pkg.links.isEmpty || (List.range 16).any fun n => s.linkUp paused n && s.diesJoined paused die (n / 4)

/-- Where a byte that an access reaches is held. -/
inductive Home where
  /-- In this package, under its key. -/
  | here (k : Nat)
  /-- In the memory of another node of the pod, whose contents are not this package's state. -/
  | remote (pa : Nat)
  /-- Nowhere that can be reached: a read is poisoned, a store is dropped (R436). -/
  | lost
  /-- Behind a link that is down or a device that has failed: a read is poisoned, a store is dropped, and the line reads
  poisoned afterwards (R367). -/
  | dead (k : Nat)
  deriving DecidableEq, Repr

/-- This package's node number (R435). -/
def State.node (s : State) : Nat := (s.pkg.podcap.extractLsb' 54 10).toNat

/-- Nodes of the pod (R435). -/
def State.nodes (s : State) : Nat := (s.pkg.podcap.extractLsb' 43 11).toNat

/-- Whether another node can be reached: it is in the pod and its path is up (R436, R441). -/
def State.reachable (s : State) (node : Nat) : Bool :=
  node < s.nodes && !s.pkg.nodesDown.contains node && (s.pkg.podcap.extractLsb' 38 5 != 0)

/-- A local address reached for its data: a line behind a failed CXL device or a link that is down is lost (R367, R430). -/
def State.localHome (s : State) (pa : Nat) : Home :=
  if isCxl pa && (s.pkg.cxlFailed.contains (Config.cxlPort (pa / 64) % 8) || s.linkDown (cxlLink pa)) then .dead pa
  else if (isHost pa && s.linkDown 24) || !s.portJoined true pa then .dead pa
  else .here pa

/-- Whether the way to a local address is a link that retrains (R430). -/
def State.localPaused (s : State) (pa : Nat) : Bool :=
  (isCxl pa && s.linkPaused (cxlLink pa)) || (isHost pa && s.linkPaused 24) || (s.portJoined true pa && !s.portJoined false pa)

/-- Whether a quiesce holds the engine threads, which issue no more requests (R429). -/
def State.engineStop (s : State) : Bool := decide (3 ≤ s.pkg.pwr)

/-- The local address that EXP and OFFSET of a pod address name on this package, if it backs one (R436, R437). -/
def State.podLocal (s : State) (exported : Bool) (off : Nat) : Option Nat :=
  if exported then
    let w := s.pkg.podexp[off / 2 ^ 35]?.getD 0
    let pa := (w.extractLsb' 35 17).toNat * 2 ^ 35 + off % 2 ^ 35
    if w.getLsbD 63 && (isCxl pa || isHost pa) && s.backed pa then some pa else none
  else if s.inHbm off then some off else none

/-- Where a physical address leads (R346, R436). -/
def State.homeOf (s : State) (pa : Nat) : Home :=
  if pa < 2 ^ 51 then s.localHome pa
  else
    let node := pa / 2 ^ 41 % 2 ^ 10
    if node = s.node then
      match s.podLocal (pa.testBit 40) (pa % 2 ^ 40) with
      | some p => s.localHome p
      | none => .lost
    else if s.reachable node then .remote pa
    else .lost

/-! ## Reduce-adds (R217, R317-R319) -/

/-- Bytes of an element that `vstra` or `gred` adds. -/
def addSize (t : BitVec 5) : Nat := width t / 8

/-- The sum of an element in memory and a contribution: wrapping for integers, RNE without flushing for FP32 (R217). -/
def addElem (t : BitVec 5) (old y : Nat) : Nat :=
  if t = 0x10 then
    (RCtx.add ⟨fp32, .rne, false, false⟩ (fp32.decode (old % 2 ^ 32)) (fp32.decode (y % 2 ^ 32))).bits
  else (old + y) % 2 ^ width t

/-- One contribution added into its element. -/
def Contribution.apply (m : List Host.Cell) (c : Contribution) : List Host.Cell :=
  Memory.putN m c.addr (addSize c.fmt) (addElem c.fmt (Memory.getN m c.addr (addSize c.fmt)) c.value.toNat)

/-- The order of contributor indices (R319). -/
def Contribution.before (a b : Contribution) : Bool :=
  if a.item ≠ b.item then a.item.toNat < b.item.toNat
  else if a.n ≠ b.n then a.n < b.n
  else a.j < b.j

/-- Insertion by contributor index; equal indices keep their arrival order. -/
def insertContribution (c : Contribution) : List Contribution → List Contribution
  | [] => [c]
  | x :: xs => if c.before x then c :: x :: xs else x :: insertContribution c xs

/-- Contributions in ascending index. -/
def sortContributions (l : List Contribution) : List Contribution := l.foldl (fun acc c => insertContribution c acc) []

/-- Draining the contributions that the buffers of a die hold for the lines that `p` picks (R319). -/
def State.drainDie (s : State) (d : Nat) (p : Nat → Bool) : State :=
  let die := s.dieAt d
  let now := sortContributions (die.detred.filter fun c => p (c.addr / 64))
  { s.onDie d fun x => { x with detred := x.detred.filter fun c => !p (c.addr / 64) } with
    mem := now.foldl Contribution.apply s.mem }

/-- The L2 bank of a die, counted among those in service, that is the home of a line (R313). -/
def Die.logicalBank (d : Die) (line : Nat) : Nat := line % max d.modulus 1

/-- The line contributions among element contributions (R319): what one instruction adds to one line counts once. -/
def lineParts (l : List Contribution) : List (Option Nat × Word × Nat × Nat) := (l.map fun c => (c.launch, c.item, c.n, c.addr / 64)).eraseDups

/-- Line contributions that a list holds for a line. -/
def countLine (l : List Contribution) (line : Nat) : Nat := (lineParts (l.filter fun c => c.addr / 64 == line)).length

/-- The line with the most buffered contributions of a list. -/
def fullestLine (l : List Contribution) : Nat :=
  l.foldl (fun best c => if countLine l best < countLine l (c.addr / 64) then c.addr / 64 else best) ((l.head?.map fun c => c.addr / 64).getD 0)

/-- A contribution reaches its home (R317-R319): it is added, or buffered under DETRED; a full buffer drains the line with the
most contributions first and sets DETOVF. Windows of cores and clusters have no such buffer (DEDUCED, log 22). -/
def State.addContribution (s : State) (c : Contribution) : State :=
  let d := homeDie c.addr
  let die := s.dieAt d
  if isGlobalKey c.addr && die.redcfg.getLsbD 63 then
    let held := die.detred.filter fun x => die.logicalBank (x.addr / 64) == die.logicalBank (c.addr / 64)
    let s :=
      if (lineParts held).length < 4096 ∨ (lineParts held).contains (c.launch, c.item, c.n, c.addr / 64) then s
      else (s.drainDie d fun l => l == fullestLine held).onDie d fun x => { x with redcfg := x.redcfg ||| (1#64 <<< 62) }
    s.onDie d fun x => { x with detred := x.detred ++ [c] }
  else { s with mem := c.apply s.mem }

/-- A list in a free order. -/
def freeOrder {α : Type} (seed : Nat) : List α → List α
  | [] => []
  | x :: xs =>
    let r := freeOrder (seed + 1) xs
    let n := Config.freeWait seed % (r.length + 1)
    r.take n ++ x :: r.drop n

/-- A contribution merged into one for the same element, or kept apart: a free choice (R317). -/
def mergeInto (seed : Nat) (c : Contribution) : List Contribution → List Contribution
  | [] => [c]
  | x :: xs =>
    if x.addr = c.addr ∧ Config.freeBool seed then
      { x with value := BitVec.ofNat 64 (addElem x.fmt x.value.toNat c.value.toNat) } :: xs
    else x :: mergeInto (seed + 1) c xs

/-- Merges on the way to the home, `n` routers long. -/
def mergeWays : Nat → Nat → List Contribution → List Contribution
  | 0, _, l => l
  | n + 1, seed, l => mergeWays n (seed + 2 ^ 32) (l.foldr (fun c r => mergeInto (seed + 2 ^ 16 * r.length) c r) [])

/-- The contributions of one instruction as they meet at their home (R317): those to one element in any order, some of them merged;
under DETRED none is. -/
def State.onTheWay (s : State) (l : List Contribution) : List Contribution :=
  let seed := s.free * 2 ^ 64
  if (l.map (·.addr)).Nodup ∨ (l.any fun c => isGlobalKey c.addr && (s.dieAt (homeDie c.addr)).redcfg.getLsbD 63) then l
  else mergeWays l.length seed (freeOrder (seed + 2 ^ 63) l)

/-- The reduce-add packets of one instruction reach their homes. -/
def State.addPackets (s : State) (l : List Contribution) : State := (s.onTheWay l).foldl State.addContribution s

/-- Whether a message may be delivered: no cycle is stated for it, or that cycle has passed on the clock it is counted on (an
instruction that issues in the same cycle comes first, R160, R173). -/
def State.arrived (s : State) (m : Msg) : Bool :=
  match m.due with
  | none => true
  | some t => decide (t < (s.coreOf m.dst).cycle)

/-- Whether a message is a reduce-add packet with a contribution to a line that `p` picks. -/
def Msg.reducesTo (m : Msg) (p : Nat → Bool) : Bool :=
  match m.body with
  | .reduce _ _ items => items.any fun c => p (c.addr / 64)
  | _ => false

/-- The contributions of a message. -/
def Msg.contributions (m : Msg) : List Contribution :=
  match m.body with
  | .reduce _ _ items => items
  | _ => []

/-- The reduce-add packets in flight to the lines that `p` picks arrive, in their order of issue. -/
def State.arriveReduces (s : State) (p : Nat → Bool) : State :=
  if s.flight.any (·.reducesTo p) then
    (s.flight.filter (·.reducesTo p)).foldl (fun s m => s.addPackets m.contributions) { s with flight := s.flight.filter fun m => !m.reducesTo p }
  else s

/-- The lines `[a, b]` are about to be accessed: the reduce-add packets in flight to them arrive before the access (DESIGN CHOICE, log 20), and
contributions buffered for them are added first (R319). -/
def State.drainLines (s : State) (a b : Nat) : State :=
  let p := fun l => decide (a ≤ l) && decide (l ≤ b)
  let s := s.arriveReduces p
  if s.dies.toList.all fun d => d.detred.isEmpty then s
  else (((s.drainDie 0 p).drainDie 1 p).drainDie 2 p).drainDie 3 p

/-- Before any access but a reduce-add to `n` bytes from a key, the buffered contributions of their lines are added. -/
def State.touch (s : State) (k n : Nat) : State := s.drainLines (k / 64) ((k + n - 1) / 64)

/-! ## Loads and stores at a key -/

/-- Erroneous data in `n` bytes from a key (R262, R324, R325): poisoned or uncorrectable, and the first such byte. A line of
global memory with an uncorrectable error is delivered marked poisoned. -/
def State.badAt (s : State) (k n : Nat) : Option (Bool × Nat) :=
  if s.poison.isEmpty && s.ue.isEmpty then none
  else
    ((List.range ((k + n - 1) / 64 - k / 64 + 1)).find? fun i => s.poison.contains (k / 64 + i) || s.ue.contains (k / 64 + i)).map
      fun i => (s.poison.contains (k / 64 + i) || isGlobalKey k, max k ((k / 64 + i) * 64))

/-- The lines that `n` bytes from a key cover whole. -/
def wholeLine (k n l : Nat) : Bool := decide (k ≤ l * 64) && decide (l * 64 + 64 ≤ k + n)

/-- A single write of `n` bytes clears the marks of the lines that it covers whole (R325). -/
def State.cleanLines (s : State) (k n : Nat) : State :=
  if s.poison.isEmpty && s.ue.isEmpty then s
  else { s with poison := s.poison.filter fun l => !wholeLine k n l, ue := s.ue.filter fun l => !wholeLine k n l }

/-- `n` dwords that come from outside the package: free values. -/
def freeData (seed : Nat) : Nat → Nat
  | 0 => 0
  | n + 1 => (Config.freeWord (seed + n)).toNat + 2 ^ 64 * freeData seed n

/-- `n` bytes at a home, little-endian. Data of another node is a free value; a lost read gives 0, poisoned. -/
def State.homeLoad (s : State) (h : Home) (n : Nat) : Nat :=
  match h with
  | .here k => Memory.getN s.mem k n
  | .remote pa => freeData (s.free * 2 ^ 64 + pa) (n / 8 + 1) % 2 ^ (8 * n)
  | .lost => 0
  | .dead _ => 0

/-- Whether another node refuses an address that it does not back, or whose export window is closed there (R436, R450): a free value, for its
memory map is not this package's state. -/
def State.refusedThere (s : State) (pa : Nat) : Bool := Config.freeBool (s.free * 2 ^ 64 + 2 ^ 63 + pa)

/-- Erroneous data at a home (R262, R436): the offset of its first byte from the first byte read. -/
def State.homeBad (s : State) (h : Home) (n : Nat) : Option (Bool × Nat) :=
  match h with
  | .here k => (s.badAt k n).map fun (p, b) => (p, b - k)
  | .remote pa => if s.refusedThere pa then some (true, 0) else none
  | .lost => some (true, 0)
  | .dead _ => some (true, 0)

/-- Marking the lines of `n` bytes from a key poisoned (R263). -/
def State.markPoison (s : State) (k n : Nat) : State :=
  { s with poison := ((List.range ((k + n - 1) / 64 - k / 64 + 1)).map (k / 64 + ·)).foldl (fun p l => if p.contains l then p else l :: p) s.poison }

/-- `n` bytes of a value written at a home. -/
def State.homeStore (s : State) (h : Home) (n v : Nat) : State :=
  match h with
  | .here k => { (s.touch k n).cleanLines k n with mem := Memory.putN (s.touch k n).mem k n v }
  | .remote _ => s
  | .lost => s
  | .dead k => s.markPoison k n

/-- Before a load at a home: buffered reduce-adds of its lines are added. -/
def State.homeTouch (s : State) (h : Home) (n : Nat) : State :=
  match h with
  | .here k => s.touch k n
  | _ => s

/-- Where a physical address of this package leads (R367). -/
def State.paHome (s : State) (pa : Nat) : Home := if pa < 2 ^ 51 then s.localHome pa else .here pa

/-- A little-endian number at a physical address of this package, with the reduce-adds on their way to it (R319). A line that cannot be
reached is delivered poisoned (R367), with data that the spec does not give: a free value (DESIGN CHOICE, log 5). -/
def State.loadPa (s : State) (pa n : Nat) : Nat :=
  match s.paHome pa with
  | .here k => Memory.getN (s.touch k n).mem k n
  | _ => freeData (s.free * 2 ^ 64 + pa) (n / 8 + 1) % 2 ^ (8 * n)

/-- A little-endian number written at a physical address of this package; a line that cannot be reached reads poisoned afterwards (R367). -/
def State.storePa (s : State) (pa n v : Nat) : State := s.homeStore (s.paHome pa) n v

/-- Bytes written at a key by an agent in one access. -/
def State.storeBytes (s : State) (k : Nat) (bs : List Byte) : State :=
  { (s.touch k bs.length).cleanLines k bs.length with mem := Memory.putBytes (s.touch k bs.length).mem k bs }

/-! ## Full bits (R282) -/

/-- Whether the word at a key is full. -/
def State.isFull (s : State) (k : Nat) : Bool := s.fullWords.contains k

/-- Making the word at a key full or empty. -/
def State.setFull (s : State) (k : Nat) (b : Bool) : State :=
  { s with fullWords := if b then (if s.fullWords.contains k then s.fullWords else k :: s.fullWords) else s.fullWords.filter (· != k) }

end Sys2Proof.Machine
end

