-- ==== Sys2Proof/Machine/Health.lean ====
section
/-! DEFINITION. Notifications to the host (R420) and the health state (R432, R433). -/

namespace Sys2Proof.Machine

/-- A notification to the host; a vector whose address is 0 is not sent (R420). -/
def State.notify (s : State) (v : Nat) : State :=
  match s.pkg.vectors[v]? with
  | some x => if x.addr = 0 then s else s.onPkg fun p => { p with notes := p.notes ++ [x] }
  | none => s

/-- Cores that are not in their reset state. -/
def State.cores (s : State) : List Core := s.core :: s.others

/-- The cluster of each core that is out of service. -/
def State.lostCores (s : State) : List Nat := (s.cores.filter fun c => !c.inService).map fun c => clusterOf c.cid

/-- Whether a unit whose loss makes the part DEGRADED is out of service (R432). -/
def State.degraded (s : State) : Bool :=
  !s.lostCores.isEmpty || (s.dies.toList.any fun d => decide (d.modulus < 61) || !d.slotsOut.isEmpty) ||
  (s.clusters.any fun c => c.outMask != 0 || decide (c.engines < 4)) || decide (s.pkg.cxlPorts < 8) ||
  decide ((s.pkg.podcap.extractLsb' 38 5).toNat < 16) || decide ((s.pkg.podcap.extractLsb' 35 3).toNat < 4) ||
  Config.rowsHalfUsed s.pkg.rowSpares

/-- Whether a loss makes the part due for replacement (R432). -/
def State.mustReplace (s : State) : Bool :=
  (s.dies.toList.any fun d => d.outOfUse || decide (d.hbmStacks < 3)) || s.lostCores.any fun k => decide (2 < s.lostCores.count k)

/-- STATE of HEALTH: it only falls (R432). `badLink` is a link down that a self-test has not recovered. -/
def State.healthState (s : State) (badLink : Bool) : Nat :=
  max (s.pkg.health.extractLsb' 0 2).toNat (if badLink || s.mustReplace then 2 else if s.degraded then 1 else 0)

/-- Whether a self-test is due at power-up (R431): the shock count has changed since the last passed test, or none has passed. -/
def Package.testDue (p : Package) : Bool := p.shocks != p.shocksTested || !p.tested

/-- Whether SELFTEST has been requested and not performed (R422, R431). -/
def Package.testAsked (p : Package) : Bool := p.mailbox.busy && p.mailbox.last == 7#8

/-- HEALTH as the units in service give it (R433). REPLREQ goes with REPLACE. -/
def State.healthWord (s : State) (badLink : Bool) : Word :=
  let st := s.healthState badLink
  BitVec.ofNat 64
    ((if s.pkg.testDue ∨ s.pkg.testAsked then 2 ^ 33 else 0) + (if st = 2 ∨ s.pkg.health.getLsbD 32 then 2 ^ 32 else 0) +
      min 255 s.pkg.rowSpares * 2 ^ 24 + s.lostCores.eraseDups.length * 2 ^ 16 +
      (s.cores.filter (·.spareUsed)).length % 256 * 2 ^ 8 + st)

/-- HBM rows replaced by spare rows (R324, R433). -/
def Package.spareRows (p : Package) (n : Nat) : Package := { p with rowSpares := p.rowSpares + n }

/-- HEALTH is evaluated again; a change is notified (R420, R432). While the package is HELD it waits for the restart (R434). -/
def State.reHealth (s : State) (badLink : Bool := false) : State :=
  let w := s.healthWord badLink
  if s.pkg.pwr = 4 ∨ w = s.pkg.health then s else (s.onPkg fun p => { p with health := w }).notify 2

end Sys2Proof.Machine
end

