-- ==== Sys2Proof/Machine/Acct.lean ====
section
/-! DEFINITION. Issue-slot accounting (R179-R194): charging slots to a cause, a context and a PC, the exact trace and its
ring, the vector queue with its retire entries and convoys. All of it acts on the focus core. -/

namespace Sys2Proof.Machine

/-- The code of a cause (R179). -/
def Cause.code : Cause → Nat
  | .issue => 0 | .dep => 1 | .settle => 2 | .vqFull => 3 | .fetch => 4 | .stream => 5 | .chain => 6 | .bank => 7
  | .engine => 8 | .order => 9 | .switch => 10 | .basin => 11 | .trap => 12 | .power => 13 | .stolen => 14 | .idle => 15

/-- A counter of a file of sixteen, with `n` added modulo its width. -/
def bump {w : Nat} (v : Vector (BitVec w) 16) (i n : Nat) : Vector (BitVec w) 16 :=
  v.setIfInBounds i (v[i]?.getD 0 + BitVec.ofNat w n)

/-- Changing the focus core. -/
def State.onFocus (s : State) (f : Core → Core) : State := { s with core := f s.core }

/-- The running strand. -/
abbrev State.cur (s : State) : Strand := s.core.cur

/-- Changing the running strand. -/
def State.onCur (s : State) (f : Strand → Strand) : State := { s with core := { s.core with cur := f s.core.cur } }

/-- Changing the specials of the running strand. -/
def State.onSp (s : State) (f : Specials → Specials) : State := s.onCur fun t => { t with sp := f t.sp }

/-! ## The trace ring (R186-R189) -/

/-- ACCT_EXACT mode (R186). -/
def Core.exact (c : Core) : Bool := c.acctctl.getLsbD 63
/-- Resume records are written (R193). -/
def Core.rlog (c : Core) : Bool := c.acctctl.getLsbD 62
/-- Replay mode (R194). -/
def Core.replay (c : Core) : Bool := c.acctctl.getLsbD 61
/-- Records in the ring at its size (R186). -/
def Core.ringSize (c : Core) : Nat := 2 ^ (c.acctctl.extractLsb' 0 5).toNat

/-- Whether the trace ring is full (R186). -/
def Core.ringFull (c : Core) : Bool :=
  (c.trptr.extractLsb' 0 32 - c.trptr.extractLsb' 32 32).toNat == c.ringSize

/-- A trace record as its 16 bytes read little-endian (R187). -/
def traceRecord (type cause ctx pc val : Nat) : Nat :=
  type % 16 * 2 ^ 124 + cause % 16 * 2 ^ 120 + ctx % 256 * 2 ^ 112 + pc % 2 ^ 56 * 2 ^ 48 + val % 2 ^ 48

/-- A record placed in a ring with room: the bytes first, then WR (R186). -/
def State.putRecord (s : State) (r : Nat) : State :=
  let wr := (s.core.trptr.extractLsb' 0 32).toNat
  let s := s.storePa ((s.core.trbase.extractLsb' 6 50).toNat * 64 + 16 * (wr % s.core.ringSize)) 16 r
  s.onFocus fun c => { c with trptr := c.trptr.extractLsb' 32 32 ++ (c.trptr.extractLsb' 0 32 + 1) }

/-- The unattributed records of nonzero lost counts, in ascending cause, while the ring has room (R189). -/
def State.putLost (s : State) : Nat → State
  | 0 => s
  | n + 1 =>
    let s := s.putLost n
    let v := s.core.lost[n]?.getD 0
    if v = 0 ∨ s.core.ringFull then s
    else (s.putRecord (traceRecord 1 n 0 0 v.toNat)).onFocus fun c => { c with lost := c.lost.setIfInBounds n 0 }

/-- Writing a record, or losing it at a full ring: OVR is set, and a charge record's length joins the lost count (R189). R189 does not name
the time record: it is lost with OVR alone (DESIGN CHOICE, log 106). -/
def State.trace (s : State) (type cause ctx pc val : Nat) : State :=
  let s := s.putLost 16
  if s.core.ringFull then
    s.onFocus fun c =>
      { c with
        acctctl := c.acctctl ||| (1#64 <<< 59)
        lost := if type = 0 then bump c.lost cause val else c.lost }
  else s.putRecord (traceRecord type cause ctx pc val)

/-- Writing the record of the open run, if there is one (R188). -/
def State.closeRun (s : State) : State :=
  match s.core.run with
  | none => s
  | some r => (s.trace 0 r.cause.code r.ctx r.pc.toNat r.len).onFocus fun c => { c with run := none }

/-- The slots join the open run or start a new one (R188); `next` is the PC that follows an issued instruction. -/
def State.runSlots (s : State) (cause : Cause) (ctx : Nat) (pc next : Word) (n : Nat) : State :=
  if s.core.exact then
    match s.core.run with
    | some r =>
      if r.cause = cause ∧ r.ctx = ctx ∧ (if cause = .issue then r.next = pc else r.pc = pc) then
        s.onFocus fun c => { c with run := some { r with len := r.len + n, next := next } }
      else s.closeRun.onFocus fun c => { c with run := some ⟨cause, ctx, pc, next, n⟩ }
    | none => s.onFocus fun c => { c with run := some ⟨cause, ctx, pc, next, n⟩ }
  else s

/-! ## Charging (R180-R183) -/

/-- A strand's counters with `n` slots more for a cause, modulo 2^48 (R182). -/
def Strand.count (t : Strand) (cause : Cause) (n : Nat) : Strand :=
  { t with counters := bump t.counters cause.code n }

/-- Whether an image lies in a trap slot. -/
def Image.inSlot (i : Image) : Bool :=
  match i.place with
  | .slot _ => true
  | _ => false

/-- The first image of a strand number that is not the trapped image behind a handler, changed. -/
def onImage (num : Nat) (f : Image → Image) : List Image → List Image
  | [] => []
  | i :: is =>
    if i.st.num = num ∧ i.inSlot = false then f i :: is else i :: onImage num f is

/-- Charging `n` slots to a cause, a context (`none` is pseudo-context 255) and a PC (R179, R181, R182). -/
def State.charge (s : State) (cause : Cause) (ctx : Option Nat) (pc next : Word) (n : Nat) : State :=
  if n = 0 then s
  else
    let s := s.runSlots cause (ctx.getD 255) (if ctx.isSome then pc else 0) next n
    s.onFocus fun c =>
      let c := { c with cycle := c.cycle + n, acct := bump c.acct cause.code n }
      match ctx with
      | none => c
      | some num =>
        if c.running ∧ c.cur.num = num then { c with cur := c.cur.count cause n }
        else { c with images := onImage num (fun i => { i with st := i.st.count cause n }) c.images }

/-- Slots in which the running strand's instruction at PC waits (R180 rule 4). -/
def State.stall (s : State) (cause : Cause) (n : Nat) : State :=
  s.charge cause (some s.cur.num) s.cur.pc s.cur.pc n

/-- A wait of unstated length of the running strand's instruction: a free value (DESIGN CHOICE, log 5). DESIGN CHOICE: log 80. -/
def State.freeStall (s : State) (cause : Cause) : State :=
  { s.stall cause (Config.freeWait s.free) with free := s.free + 1 }

/-- Whether a message is a reduce-add packet of a core. -/
def Msg.reduceOf (m : Msg) (core : Nat) : Bool :=
  match m.body with
  | .reduce c _ _ => c == core
  | _ => false

/-- The reduce-add packets of the core in flight are performed, in their order of issue. -/
def State.performReduces (s : State) : State :=
  (s.flight.filter (·.reduceOf s.core.cid)).foldl (fun s m => s.addPackets m.contributions)
    { s with flight := s.flight.filter fun m => !m.reduceOf s.core.cid }

/-- The wait until the earlier stores of the strand are performed (R211, R212, R355, R356), reduce-adds among them. -/
def State.orderWait (s : State) : State := s.performReduces.freeStall .order

/-- A wait of at least one slot and unstated length, of an instruction that has not issued (DESIGN CHOICE, log 5). -/
def State.waitSlots (s : State) (cause : Cause) : State :=
  { s.stall cause (Config.freeWait s.free + 1) with free := s.free + 1 }

/-! ## The vector queue (R123-R125, R190, R191) -/

/-- Closing the open convoy: its record is written when the strand and the core ask for it as it closes (R191). -/
def State.closeConvoy (s : State) : State :=
  match s.core.convoy with
  | none => s
  | some v =>
    (if s.cur.sp.acctcfg.getLsbD 1 && s.core.exact then s.trace 5 0 v.strand v.head.toNat v.members else s).onFocus fun c => { c with convoy := none }

/-- The retire entry of a completed vector instruction (R190). -/
def VQEntry.retired (e : VQEntry) : RetireEntry :=
  { w0 := BitVec.ofNat 8 e.strand ++ e.pc.extractLsb' 0 56
    w1 := e.vtype ++ (BitVec.ofNat 3 e.cvpos ++ (BitVec.ofNat 10 e.vrows ++ (BitVec.ofNat 10 e.vcols ++ (0#22 ++ BitVec.ofNat 14 e.popc))))
    w2 := e.first
    w3 := e.last }

/-- Completion of the entry at the head of the vector queue. -/
def Core.retireHead (c : Core) (e : VQEntry) (rest : List VQEntry) : Core :=
  let c := { c with vq := rest }
  if e.acctcfg.getLsbD 0 then
    let k := (c.vrhead.toNat) % 256
    { c with retire := (k, e.retired) :: c.retire.filter (·.1 != k), vrhead := c.vrhead + 1 }
  else c

/-- Completion of every entry of the vector queue whose completion cycle has passed, in program order (R123, R190). An entry keeps its
place in the queue until then (DESIGN CHOICE, log 104). -/
def Core.retireUpTo (c : Core) (now : Nat) : List VQEntry → Core
  | [] => { c with vq := [] }
  | e :: rest => if e.done < now then (c.retireHead e rest).retireUpTo now rest else { c with vq := e :: rest }

/-- The vector queue at the present cycle. -/
def State.vqNow (s : State) : State := s.onFocus fun c => c.retireUpTo c.cycle c.vq

/-- When the last entry of the vector queue completes. -/
def Core.vqDone (c : Core) : Nat := c.vq.foldl (fun m e => max m e.done) 0

/-- Waiting until every entry that `p` picks has completed, charged to a cause. The waiter goes on in the cycle after the completion, as
in the example of R268 (DEDUCED, log 90). -/
def State.vqWait (s : State) (cause : Cause) (p : VQEntry → Bool) : State :=
  let till := (s.core.vq.filter p).foldl (fun m e => max m (e.done + 1)) 0
  (s.stall cause (till - s.core.cycle)).vqNow

/-- The drain of the vector queue (R125): every entry completes, and the open convoy closes (R191). -/
def State.vqDrain (s : State) (cause : Cause) : State := (s.vqWait cause fun _ => true).closeConvoy

/-- A set of register numbers as a mask. -/
def regMask (n : Nat) {k : Nat} (l : List (BitVec k)) : BitVec n := l.foldl (fun m r => m ||| (1#n <<< r.toNat)) 0

/-- A vector instruction as it enters the queue: the registers it names, its sources, its destinations, T and λ. -/
structure VIssue where
  regs : BitVec 32
  vsrc : BitVec 32
  msrc : BitVec 16
  csrc : BitVec 8
  vdst : BitVec 32
  mdst : BitVec 16
  cdst : BitVec 8
  gdst : Option (BitVec 5)
  t : Nat
  lam : Nat
  popc : Nat
  first : Word
  last : Word
  flagged : Bool

/-- λ of a queued entry. -/
def VQEntry.lam (e : VQEntry) : Nat := e.done + 1 - e.start - e.t

/-- The time at which the sources of a new instruction are readable: λ after the start of each writer (R124). -/
def Core.sourcesAt (c : Core) (vsrc : BitVec 32) (msrc : BitVec 16) (csrc : BitVec 8) : Nat :=
  c.vq.foldl
    (fun m e => if (e.vdst &&& vsrc) != 0 || (e.mdst &&& msrc) != 0 || (e.cdst &&& csrc) != 0 then max m (e.start + e.lam) else m) 0

/-- The start of a new instruction (R124): when the unit is free and its sources are readable; in its own issue slot when both hold then
(DESIGN CHOICE, log 105). -/
def Core.startOf (c : Core) (vsrc : BitVec 32) (msrc : BitVec 16) (csrc : BitVec 8) : Nat :=
  max (max c.vuFree c.cycle) (c.sourcesAt vsrc msrc csrc)

/-- Whether an instruction that starts then joins the open convoy (R191). -/
def Core.joins (c : Core) (start : Nat) : Bool :=
  match c.convoy with
  | some w => decide (start ≤ w.done) && decide (w.members < 8) && w.strand == c.cur.num
  | none => false

/-- Entering the vector queue in the present slot (R123, R124): start, completion, and the place in a convoy (R191). -/
def State.vqPush (s : State) (v : VIssue) : State :=
  let c := s.core
  let start := c.startOf v.vsrc v.msrc v.csrc
  let done := start + v.t - 1 + v.lam
  let s := if c.joins start then s else s.closeConvoy
  let pos := match s.core.convoy with
    | some w => w.members
    | none => 0
  let e : VQEntry :=
    { strand := c.cur.num, pc := c.cur.pc, regs := v.regs, vdst := v.vdst, mdst := v.mdst, cdst := v.cdst, gdst := v.gdst,
      start := start, t := v.t, done := done, vtype := c.cur.sp.vtype, vrows := c.cur.sp.vrows, vcols := c.cur.sp.vcols,
      popc := v.popc, first := v.first, last := v.last, acctcfg := c.cur.sp.acctcfg, cvpos := pos, flagged := v.flagged }
  let s := s.onFocus fun c =>
    { c with
      vq := c.vq ++ [e]
      vuFree := start + v.t
      convoy := some (match c.convoy with
        | some w => { w with members := w.members + 1, done := done }
        | none => ⟨c.cur.pc, c.cur.num, 1, done⟩) }
  if pos = 7 then s.closeConvoy else s

end Sys2Proof.Machine
end

