-- ==== Sys2Proof/Machine/Xlate.lean ====
section
/-! DEFINITION. Addresses: page tables and cached translations (R348-R354), migration routing and dump holds (R363, R366), the
windows of regions 0xC and 0xD with the launch's grants (R196-R199, R275), and where an access of an agent leads. -/

namespace Sys2Proof.Machine

/-- What an access does to its page (R353). -/
inductive AccKind where
  | read | write | atomic | fetch
  deriving DecidableEq, Repr

/-- Who makes an access: the core, the launch whose grants bound it, its address space and its privilege. -/
structure Agent where
  core : Nat
  launch : Option Nat
  ptroot : Word
  priv : Bool
  deriving DecidableEq, Repr

/-- SCTL.PRIV (R75). -/
def Strand.priv (t : Strand) : Bool := t.sp.sctl.getLsbD 4

/-- The running strand as an agent. -/
def State.agent (s : State) : Agent := ⟨s.core.cid, s.cur.launch, s.cur.sp.ptroot, s.cur.priv⟩

/-! ## Page tables (R349-R353) -/

/-- What a walk finds. A leaf is a word in the 1 GiB layout of R350 with bits [51:16] naming the 64 KiB frame. -/
inductive Walk where
  | leaf (w : Word)
  | bad
  | absent (level : Nat)
  deriving DecidableEq, Repr

/-- Whether a page table may lie at a physical address (R349). -/
def State.tableAt (s : State) (pa : Nat) : Bool := (s.inHbm pa || isCxl pa) && s.backed pa

/-- A 56-bit leaf entry as a leaf word (R351). -/
def leafOf56 (e : Nat) : Word :=
  BitVec.ofNat 64 ((e >>> 49) % 64 * 2 ^ 56 + 2 ^ 63 + e % 2 ^ 36 * 2 ^ 16)

/-- The leaf word of a 64 KiB page within a 1 GiB leaf entry (R350). -/
def leafOfBlock (e va : Nat) : Word := BitVec.ofNat 64 (e - 2 ^ 62 + va % 2 ^ 30 / 2 ^ 16 * 2 ^ 16)

/-- Whether a 56-bit entry is a leaf that a walk may use (R351, R353). -/
def isLeaf (e : Nat) : Bool := e.testBit 55 && (e >>> 36) % 2 ^ 13 == 0

/-- Whether a dword is a 1 GiB leaf that a walk may use: MIG = 1 makes it malformed (R350, R364). -/
def isBlock (e : Nat) : Bool := e.testBit 63 && e.testBit 62 && (e >>> 52) % 16 == 0 && e % 2 ^ 30 == 0 && !e.testBit 56

/-- Whether a dword is a pointer entry that a walk may use (R350). -/
def isPointer (e : Nat) : Bool := e.testBit 63 && !e.testBit 62 && (e >>> 52) % 16 == 0 && e % 2 ^ 17 == 0

/-- Whether a dword is a level-2 pointer that a walk may use: MIG = 1 makes it malformed (R364). DEDUCED: log 99. -/
def isMidPointer (e : Nat) : Bool := isPointer e && !e.testBit 56

/-- The table that a pointer entry names. -/
def tableOf (e : Nat) : Nat := e % 2 ^ 52

/-- The root table of an address space (R348). -/
def rootTable (ptroot : Word) : Nat := (ptroot.extractLsb' 15 37).toNat * 2 ^ 15

/-- The root entry of an address (R349), when a page table may lie there. -/
def State.rootEntry (s : State) (ptroot : Word) (va : Nat) : Option Nat :=
  let p := rootTable ptroot + 8 * (va / 2 ^ 44 % 2 ^ 12)
  if s.tableAt p then some (s.loadPa p 8) else none

/-- The level-2 entry of an address (R349). -/
def State.midEntry (s : State) (table va : Nat) : Option Nat :=
  let p := table + 8 * (va / 2 ^ 30 % 2 ^ 14)
  if s.tableAt p then some (s.loadPa p 8) else none

/-- The leaf line of an address (R351). -/
def leafLine (table va : Nat) : Nat := table + 64 * (va / 2 ^ 19 % 2 ^ 11)

/-- The 64 KiB leaf entry of an address (R349, R351). -/
def State.leafEntry (s : State) (table va : Nat) : Option Nat :=
  if s.tableAt (leafLine table va) then some (s.loadPa (leafLine table va + 7 * (va / 2 ^ 16 % 8)) 7) else none

/-- The level-1 read of a walk (R349, R351): the entry of one 64 KiB page in its leaf line. -/
def State.walkLeaf (s : State) (table va : Nat) : Walk :=
  match s.leafEntry table va with
  | none => .bad
  | some e => if !e.testBit 55 then .absent 0 else if isLeaf e then .leaf (leafOf56 e) else .bad

/-- The level-2 read of a walk (R349, R350): a pointer, or a 1 GiB leaf. -/
def State.walkMid (s : State) (table va : Nat) : Walk :=
  match s.midEntry table va with
  | none => .bad
  | some e =>
    if !e.testBit 63 then .absent 1
    else if isBlock e then .leaf (leafOfBlock e va)
    else if isMidPointer e then s.walkLeaf (tableOf e) va
    else .bad

/-- A walk of a virtual address (R349). -/
def State.walk (s : State) (ptroot : Word) (va : Nat) : Walk :=
  match s.rootEntry ptroot va with
  | none => .bad
  | some e => if !e.testBit 63 then .absent 2 else if isPointer e then s.walkMid (tableOf e) va else .bad

/-- ASID of an address space (R348). -/
def asidOf (ptroot : Word) : BitVec 12 := ptroot.extractLsb' 52 12

/-! ## Cached translations (R354) -/

/-- Whether a cached translation covers an address of an address space. -/
def TlbEntry.covers (e : TlbEntry) (asid : BitVec 12) (va : Nat) : Bool := e.asid == asid && e.page == va / e.kind.size

/-- The frames and permissions of the `i`-th page of a group whose entry 0 is `e` (R352). -/
def groupEntry (e step i : Nat) : Nat := e / 2 ^ 36 * 2 ^ 36 + (e % 2 ^ 36 + i * step) % 2 ^ 36

/-- Where a walk that goes on from a cached entry ends. -/
def State.walkFrom (s : State) (e : TlbEntry) (va : Nat) : Walk :=
  match e.kind with
  | .page => .leaf (leafOf56 e.entry)
  | .block => .leaf (leafOfBlock e.entry va)
  | .mid => s.walkLeaf (tableOf e.entry) va
  | .root => s.walkMid (tableOf e.entry) va
  | .group => .leaf (leafOf56 (groupEntry e.entry e.step (va / 2 ^ 16 % 8)))

/-- What distinguishes a cached entry from others that cover the same address. -/
def TlbEntry.code (e : TlbEntry) : Nat :=
  (e.entry * 2 ^ 36 + e.step) * 8 + match e.kind with
    | .page => 0
    | .block => 1
    | .mid => 2
    | .root => 3
    | .group => 4

/-- The walk that an access uses (R354): an entry cached for the address may be used though memory no longer holds it, a free
choice of each access. An access lies within one line, and its checks and its performance make the same choice. -/
def State.walkCached (s : State) (ptroot : Word) (va : Nat) : Walk :=
  (s.tlb.filter fun e => e.covers (asidOf ptroot) va).foldl
    (fun w e =>
      let old := s.walkFrom e va
      if old = w then w else if Config.freeBool ((s.free * 2 ^ 64 + va / 64) * 2 ^ 128 + e.code) then old else w) (s.walk ptroot va)

/-- The group translation of a leaf line, when its summary word may be relied on (R352). -/
def State.groupOf (s : State) (line : Nat) : Option (Nat × Nat) :=
  let w := s.loadPa (line + 56) 8
  let es := (List.range 8).map fun i => s.loadPa (line + 7 * i) 7
  let e0 := es.headD 0
  let step := w % 2 ^ 36
  if w.testBit 63 && es.zipIdx.all fun (e, i) => isLeaf e && e == groupEntry e0 step i then some (e0, step) else none

/-- The entries with V = 1 that a walk of an address reads, as a cache may hold them (R354). -/
def State.walkEntries (s : State) (ptroot : Word) (va : Nat) : List TlbEntry :=
  let entry := fun (k : TlbKind) (e step : Nat) => (⟨asidOf ptroot, k, va / k.size, e, step⟩ : TlbEntry)
  match s.rootEntry ptroot va with
  | none => []
  | some r =>
    if !isPointer r then []
    else entry .root r 0 ::
      match s.midEntry (tableOf r) va with
      | none => []
      | some m =>
        if isBlock m then [entry .block m 0]
        else if !isMidPointer m then []
        else entry .mid m 0 ::
          match s.leafEntry (tableOf m) va with
          | none => []
          | some l =>
            if !isLeaf l then []
            else entry .page l 0 :: ((s.groupOf (leafLine (tableOf m) va)).map fun g => entry .group g.1 g.2).toList

/-- Where a virtual address leads: a physical address (`held` when a dump holds stores to its piece, R366), a violation, or a
V = 0 entry with its level. -/
inductive Xl where
  | ok (pa : Nat) (held : Bool)
  | denied
  | absent (level : Nat)
  deriving DecidableEq, Repr

/-- Whether a leaf permits an access (R353). -/
def leafAllows (w : Word) (priv : Bool) (k : AccKind) : Bool :=
  (match k with
    | .read => w.getLsbD 61
    | .write => w.getLsbD 60
    | .atomic => w.getLsbD 61 && w.getLsbD 60
    | .fetch => w.getLsbD 59) && (!w.getLsbD 58 || priv)

/-- The physical byte of a leaf; while the page migrates, the frame depends on the progress pointer (R363). -/
def State.frameByte (s : State) (asid : BitVec 12) (w : Word) (va : Nat) : Nat :=
  let frame := (w.extractLsb' 16 36).toNat * 2 ^ 16
  let off := va % 2 ^ 16
  if w.getLsbD 56 then
    match s.pkg.migrations.find? fun m => m.asid == asid && m.va / 2 ^ 16 == va / 2 ^ 16 && m.oldFrame == frame with
    | some m => if off < m.progress then m.newFrame + off else frame + off
    | none => frame + off
  else frame + off

/-- Whether a dump still has to copy the piece of a page whose COW is 1 (R366). -/
def State.dumpHolds (s : State) (asid : BitVec 12) (w : Word) (va : Nat) : Bool :=
  w.getLsbD 57 &&
    match s.pkg.dump with
    | some d => d.asid == asid && d.pieces.contains (va / 2 ^ 16 * 2 ^ 16)
    | none => false

/-- Translation with its checks (R353). Pod-window frames are backed by their target (R436). -/
def State.xlate (s : State) (ptroot : Word) (priv : Bool) (k : AccKind) (va : Nat) : Xl :=
  match s.walkCached ptroot va with
  | .bad => .denied
  | .absent l => .absent l
  | .leaf w =>
    let pa := s.frameByte (asidOf ptroot) w va
    if leafAllows w priv k && (s.backed pa || decide (2 ^ 51 ≤ pa)) then .ok pa (s.dumpHolds (asidOf ptroot) w va) else .denied

/-- The reduce-adds on their way to an entry that a walk reads are added first (R319). -/
def State.touchEntry (s : State) (pa n : Nat) : State := if s.tableAt pa then s.touch pa n else s

/-- The reduce-adds on their way to the entries of a walk are added first (R319). -/
def State.touchWalk (s : State) (ptroot : Word) (va : Nat) : State :=
  let s := s.touchEntry (rootTable ptroot + 8 * (va / 2 ^ 44 % 2 ^ 12)) 8
  match s.rootEntry ptroot va with
  | none => s
  | some r =>
    if !isPointer r then s
    else
      let s := s.touchEntry (tableOf r + 8 * (va / 2 ^ 30 % 2 ^ 14)) 8
      match s.midEntry (tableOf r) va with
      | none => s
      | some m => if isMidPointer m then s.touchEntry (leafLine (tableOf m) va) 64 else s

/-- The entries of a walk become cached (R354), beside older ones that no `tlbinv` has taken away: each access may use either. -/
def State.cachePage (s : State) (ptroot : Word) (va : Nat) : State :=
  let t := s.touchWalk ptroot va
  { t with tlb := ((t.walkEntries ptroot va).filter fun e => !t.tlb.contains e) ++ t.tlb }

/-- The cached translations that cover an address dropped, as by `tlbinv` of scope 0 (R356). -/
def State.dropPage (s : State) (asid : BitVec 12) (va : Nat) : State := { s with tlb := s.tlb.filter fun e => !e.covers asid va }

/-! ## The windows (R196-R199, R275) -/

/-- A launch by its number. -/
def State.launchOf (s : State) (l : Nat) : Option Launch := s.pkg.launches.find? (·.id == l)

/-- Scratchpad bytes that a launch is granted on a core (R387). A strand without a launch is not bounded (DESIGN CHOICE, log 12). -/
def State.scratchGrant (s : State) (l : Option Nat) (core : Nat) : Nat :=
  match l with
  | none => Config.scratchBytes
  | some i =>
    match s.launchOf i with
    | none => 0
    | some x => if x.cores.contains core then (if x.spgrant = 0 then Config.scratchBytes else x.spgrant) else 0

/-- Banks of cluster SRAM that a launch is granted in a cluster (R387). -/
def State.bankGrant (s : State) (l : Option Nat) (cluster : Nat) : BitVec 64 :=
  let inService := ~~~((s.clusterAt cluster).outMask)
  match l with
  | none => inService
  | some i =>
    match s.launchOf i with
    | none => 0
    | some x =>
      if x.cores.any fun c => clusterOf c == cluster then (if x.clugrant = 0 then inService else x.clugrant) else 0

/-- The key of `n` bytes of region 0xD, or `none` when R199 refuses them (R196). -/
def State.scratchAt (s : State) (a : Agent) (va n : Nat) : Option Nat :=
  let c := va / 2 ^ 41 % 2 ^ 9
  let core := if c = 0x1FF then a.core else va / 2 ^ 50 % 4 * Config.coresPerDie + c
  let off := va % 2 ^ 19
  if (c = 0x1FF ∨ c < Config.coresPerDie) ∧ va / 2 ^ 19 % 2 ^ 22 = 0 ∧ off + n ≤ s.scratchGrant a.launch core
  then some (scratchKey core off) else none

/-- The bank and byte of an offset of the SCRATCH window whose banks are `bs` (R275). -/
def scratchBank (bs : List Nat) (o : Nat) : Option (Nat × Nat) :=
  let k := bs.length.log2
  let row := o / 2 ^ (k + 6) % 2 ^ 11
  let l := if k = 0 then 0 else (o / 2 ^ 6 % 2 ^ k) ^^^ (row % 2 ^ k)
  (bs[l]?).map fun b => (b, row * 64 + o % 64)

/-- The numbers of the bits that a mask sets. -/
def bitsOf {n : Nat} (m : BitVec n) : List Nat := (List.range n).filter fun i => m.getLsbD i

/-- The key of `n` bytes of region 0xC within one line, or `none` when R199 refuses them (R197, R275). -/
def State.sramAt (s : State) (a : Agent) (va n : Nat) : Option Nat :=
  let c := va / 2 ^ 45 % 2 ^ 5
  let cl := if c = 0x1F then clusterOf a.core else va / 2 ^ 50 % 4 * Config.clustersPerDie + c
  let o := va % 2 ^ 23
  let bs := bitsOf (s.clusterAt cl).scrMask
  if (c = 0x1F ∨ c < Config.clustersPerDie) ∧ va / 2 ^ 23 % 2 ^ 22 = 0 ∧ o + n ≤ bs.length * Config.bankBytes then
    match scratchBank bs o with
    | some (b, off) => if (s.bankGrant a.launch cl).getLsbD b then some (sramKey cl b off) else none
    | none => none
  else none

/-! ## Where an access leads -/

/-- Region of an address (R195). -/
def region (va : Nat) : Nat := va / 2 ^ 52 % 16

/-- Whether an address lies in the global regions. -/
def isGlobal (va : Nat) : Bool := region va < 12

/-- Where `n` bytes within one 64-byte line lead (R195, R199, R353). `held` is a store that a dump holds back (R366),
or an access whose way is a link that retrains (R430). -/
inductive Loc where
  | at (h : Home)
  | held
  | denied
  | bounds
  | absent (level : Nat)
  deriving DecidableEq, Repr

/-- The die at which a key is held. -/
def keyDie (k : Nat) : Nat :=
  if k < 2 ^ 52 then homeDie k else if k < 2 ^ 53 then (k - 2 ^ 52) / 2 ^ 19 / Config.coresPerDie else (k - 2 ^ 53) / 2 ^ 23 / Config.clustersPerDie

/-- The way of a core to a home (R430, R441): an access behind a link that retrains is held, one behind a link that is down is
lost. -/
def State.way (s : State) (core : Nat) (h : Home) : Loc :=
  if s.pkg.links.isEmpty then .at h
  else
    match h with
    | .here k =>
      if !s.diesJoined true (dieOf core) (keyDie k) then .at (.dead k)
      else if !s.diesJoined false (dieOf core) (keyDie k) || s.localPaused k then .held
      else .at h
    | .remote _ => if !s.podWay true (dieOf core) then .at .lost else if s.podPaused || !s.podWay false (dieOf core) then .held else .at h
    | _ => .at h

/-- Locating `n` bytes within one line for an agent. -/
def State.locate (s : State) (a : Agent) (k : AccKind) (va n : Nat) : Loc :=
  if isGlobal va then
    match s.xlate a.ptroot a.priv k va with
    | .ok pa held => if held && k != .read && k != .fetch then .held else s.way a.core (s.homeOf pa)
    | .denied => .denied
    | .absent l => .absent l
  else if region va = 12 then
    match s.sramAt a va n with
    | some key => s.way a.core (.here key)
    | none => .bounds
  else if region va = 13 then
    match s.scratchAt a va n with
    | some key => s.way a.core (.here key)
    | none => .bounds
  else .denied

/-- The physical address or window key that an `LDQ` or `STQ` in flight has translated its address to. -/
def Msg.translated (m : Msg) : Option Nat :=
  match m.body with
  | .ldqReply _ _ _ k _ => some k
  | .store _ _ k _ _ => some k
  | _ => none

/-- Whether an `LDQ` or `STQ` in flight reaches one of `n` bytes from a physical address. -/
def State.inFlightTo (s : State) (pa n : Nat) : Bool :=
  s.flight.any fun m => m.translated.any fun k => decide (k < pa + n) && decide (pa < k + 8)

/-- A run of bytes cut at 64-byte lines: (address, length) pieces; addresses wrap within 56 bits (R200). -/
def linePieces : Nat → Nat → Nat → List (Nat × Nat)
  | 0, _, _ => []
  | fuel + 1, va, n =>
    if n = 0 then []
    else
      let k := min n (64 - va % 64)
      (va, k) :: linePieces fuel ((va + k) % 2 ^ 56) (n - k)

/-- The pieces of `n` bytes from an address. -/
def pieces (va n : Nat) : List (Nat × Nat) := linePieces (n / 64 + 2) va n

/-- A page of an ASID that a store waits for, put behind the pages of the dump that are waited for already (R366). -/
def Dump.want (d : Dump) (asid : BitVec 12) (page : Nat) : Dump :=
  if d.asid = asid ∧ d.pieces.contains page ∧ !d.wanted.contains page then { d with wanted := d.wanted ++ [page] } else d

/-- A store of `n` bytes waits for the pieces of a dump that it reaches: the engine copies those next (R366). -/
def State.want (s : State) (a : Agent) (va n : Nat) : State :=
  (pieces va n).foldl
    (fun s p =>
      if isGlobal p.1 then
        s.onPkg fun k => { k with dump := k.dump.map fun d => d.want (asidOf a.ptroot) (p.1 / 2 ^ 16 * 2 ^ 16) }
      else s) s

/-- The translations that an access used become cached. -/
def State.cacheFor (s : State) (a : Agent) (va : Nat) : State :=
  if isGlobal va then s.cachePage a.ptroot va else s

end Sys2Proof.Machine
end

