-- ==== Sys2Proof/Machine/Cells.lean ====
section
/-! DEFINITION. Token handles and cells (R151-R158), the messages that carry signals, fails and deposits (R155, R170, R176),
and what a change of a cell does to the strands that wait on it (R162). -/

namespace Sys2Proof.Machine

/-! ## Handles (R151) -/

/-- A handle from its fields. -/
def mkHandle (node core cell : Nat) (gen : BitVec 24) (kind : BitVec 3) : Word :=
  BitVec.ofNat 10 node ++ (BitVec.ofNat 2 (dieOf core) ++ (BitVec.ofNat 9 (core % Config.coresPerDie) ++ (BitVec.ofNat 12 cell ++ (gen ++ (kind ++ 0#4)))))

/-- GEN of a handle; 0 is the null handle. -/
def hGen (h : Word) : BitVec 24 := h.extractLsb' 7 24
/-- CELL of a handle. -/
def hCell (h : Word) : Nat := (h.extractLsb' 31 12).toNat
/-- KIND of a handle. -/
def hKind (h : Word) : BitVec 3 := h.extractLsb' 4 3
/-- NODE of a handle, or of a target in SELF format. -/
def hNode (h : Word) : Nat := (h.extractLsb' 54 10).toNat
/-- DIE and CORE of a handle as a core number, if there is such a core. -/
def hCore (h : Word) : Option Nat :=
  let c := (h.extractLsb' 43 9).toNat
  if c < Config.coresPerDie then some ((h.extractLsb' 52 2).toNat * Config.coresPerDie + c) else none

/-- Bits [63:43] of a handle and of SELF (R157). -/
def hPrefix (h : Word) : BitVec 21 := h.extractLsb' 43 21

/-- SELF of a strand number on a core (R73). -/
def mkSelf (node core num : Nat) : Word :=
  BitVec.ofNat 10 node ++ (BitVec.ofNat 2 (dieOf core) ++ (BitVec.ofNat 9 (core % Config.coresPerDie) ++ (0#35 ++ BitVec.ofNat 8 num)))

/-! ## Cells (R152-R154) -/

/-- A cell of a core. -/
def Core.cell (c : Core) (i : Nat) : TokCell := ((c.cells.find? (·.1 == i)).map (·.2)).getD TokCell.reset

/-- Replacing a cell. -/
def Core.setCell (c : Core) (i : Nat) (x : TokCell) : Core := { c with cells := (i, x) :: c.cells.filter (·.1 != i) }

/-- The generation after one more use: from 0xFF_FFFF to 1. -/
def nextGen (g : BitVec 24) : BitVec 24 := if g = 0xFFFFFF#24 then 1 else g + 1

/-- Whether a handle matches its cell (R151). -/
def Core.hMatches (c : Core) (h : Word) : Bool :=
  let x := c.cell (hCell h)
  hGen h != 0 && hGen h == x.gen && hKind h == x.kind && h.extractLsb' 0 4 == 0

/-- The status of a handle on its own core (R158). -/
def Core.status (c : Core) (h : Word) : Word :=
  if c.hMatches h then
    match (c.cell (hCell h)).st with
    | .free => 2
    | .armed _ => 1
    | .signalled => 0
    | .failed e => 0x100 + e.setWidth 64
  else 2

/-- Whether a suspended strand's condition has arisen at a cell (R162). -/
def Image.cellMet (c : Core) (i : Image) : Bool :=
  match i.cond with
  | .cell h => c.status h != 1
  | .fault h => c.status h != 1
  | _ => false

/-- The strands whose cell has left ARMED, or changed its generation, become runnable (R160, R162). -/
def Core.wakeCells (c : Core) : Core :=
  { c with images := c.images.map fun i => if i.cellMet c then { i with cond := .ready, sigTime := c.cycle } else i }

/-- Freeing a cell: the generation advances (R151). -/
def Core.freeCell (c : Core) (i : Nat) : Core :=
  let x := c.cell i
  (c.setCell i { x with st := .free, gen := nextGen x.gen, orphan := false }).wakeCells

/-- A cell enters SIGNALLED or FAILED: the signal time is recorded, and an orphan is freed (R152, R153). -/
def Core.settleCell (c : Core) (i : Nat) (st : CellState) : Core :=
  let x := c.cell i
  if x.orphan then c.freeCell i else (c.setCell i { x with st := st, sigTime := c.cycle }).wakeCells

/-- A counter of STALECNT with one more message, saturating (R156): field at `lo` of `w` bits. -/
def satField (x : Word) (lo w : Nat) : Word :=
  if (x.extractLsb' lo w).toNat = 2 ^ w - 1 then x else x + (1#64 <<< lo)

/-- A mismatched or undeliverable message is counted (R155). -/
def Core.countStale (c : Core) : Core := { c with stalecnt := satField c.stalecnt 0 24 }
/-- A late message is counted (R152). -/
def Core.countLate (c : Core) : Core := { c with stalecnt := satField c.stalecnt 24 24 }
/-- A discarded deposit is counted (R171). -/
def Core.countDropped (c : Core) : Core := { c with stalecnt := satField c.stalecnt 48 16 }

/-- A signal at the cell's core (R152, R155). -/
def Core.signal (c : Core) (h : Word) : Core :=
  if c.hMatches h then
    match (c.cell (hCell h)).st with
    | .free => c.countStale
    | .armed n => if n ≤ 1 then c.settleCell (hCell h) .signalled else c.setCell (hCell h) { c.cell (hCell h) with st := .armed (n - 1) }
    | _ => c.countLate
  else c.countStale

/-- A fail at the cell's core (R152, R155). -/
def Core.fail (c : Core) (h : Word) (e : BitVec 8) : Core :=
  if c.hMatches h then
    match (c.cell (hCell h)).st with
    | .free => c.countStale
    | .armed _ => c.settleCell (hCell h) (.failed e)
    | _ => c.countLate
  else c.countStale

/-- The lowest FREE cell from `i` on, among `n` cells (R153). -/
def Core.firstFree (c : Core) : Nat → Nat → Option Nat
  | 0, _ => none
  | n + 1, i => if (c.cell i).st = .free then some i else c.firstFree n (i + 1)

/-- Arming a cell with a count; a count of 0 gives SIGNALLED (R152). -/
def armState (n : Nat) : CellState := if n = 0 then .signalled else .armed n

/-- Allocating a cell among `n` from `lo` with a kind and a count (R153): the handle and the core, or none when all are taken. -/
def Core.alloc (c : Core) (node lo n : Nat) (kind : BitVec 3) (count : Nat) (owner : Nat) : Option (Word × Core) :=
  match c.firstFree n lo with
  | none => none
  | some i =>
    let g := (c.cell i).gen
    some (mkHandle node c.cid i g kind,
      c.setCell i { st := armState count, gen := g, kind := kind, owner := owner, orphan := false, sigTime := c.cycle })

/-- Observing a token (R154): a cell of kinds 1-6 is freed; kinds 0 and 7 stay. -/
def Core.observe (c : Core) (h : Word) : Core :=
  if hKind h = 0 ∨ hKind h = 7 then c else c.freeCell (hCell h)

/-- The cells of a strand that has ended (R153): those of kinds 1-6 that are ARMED become orphans, the others are freed. -/
def Core.orphanCells (c : Core) (num : Nat) : Core :=
  let own := c.cells.filter fun p => p.2.owner == num && p.2.kind != 0 && p.2.kind != 7
  own.foldl
    (fun c p =>
      match p.2.st with
      | .free => c
      | .armed _ => c.setCell p.1 { p.2 with orphan := true }
      | _ => c.freeCell p.1)
    c

/-! ## Allocation by the running strand -/

/-- Allocating among cells 0-4,031 for the running strand (R153). -/
def State.allocCell (s : State) (kind : BitVec 3) (count : Nat) : Option (Word × State) :=
  match s.core.alloc s.node 0 Config.faultCells kind count s.cur.num with
  | none => none
  | some (h, c) => some (h, { s with core := c })

/-! ## Messages (R155, R170, R176) -/

/-- LATFIX.EN (R175). -/
def Core.latEn (c : Core) : Bool := c.latfix.getLsbD 63
/-- LATFIX.L (R175). -/
def Core.latL (c : Core) : Nat := (c.latfix.extractLsb' 0 16).toNat

/-- The sender of a deposit (R170): its core, and its strand number, or the owner number of its cells once it has left the core by `HOP`
(R168). -/
def senderKey (core num : Nat) : Nat := core * 2 ^ 32 + num

/-- The deposits in flight of a strand that gets another core or number stay those of the same strand (R170). -/
def State.renameSender (s : State) (was now : Nat) : State :=
  { s with flight := s.flight.map fun m => match m.body with
    | .deposit t r x n => if n = was then { m with body := .deposit t r x now } else m
    | _ => m }

/-- Sending a message from the focus core. -/
def State.post (s : State) (due : Option Nat) (body : MsgBody) : State :=
  { s with flight := s.flight ++ [⟨s.core.cid, s.core.cid, due, body⟩] }

/-- A message that a unit sends, due on the clock of a core. -/
def State.postAt (s : State) (dst : Nat) (due : Option Nat) (body : MsgBody) : State :=
  { s with flight := s.flight ++ [⟨s.core.cid, dst, due, body⟩] }

/-- When a message from the focus core arrives (R155, R170, R176, R439): 2 cycles later on the own core; L cycles later under
LATFIX, on another node only when L is at least 20,000; else not stated. -/
def State.arrival (s : State) (node : Nat) (target : Nat) : Option Nat :=
  if node = s.node ∧ target = s.core.cid then some (s.core.cycle + 2)
  else if s.core.latEn && (node == s.node || decide (20000 ≤ s.core.latL)) then some (s.core.cycle + s.core.latL)
  else none

/-- Sending a signal or a fail to a handle (R155): an undeliverable one is discarded and counted at the sender. -/
def State.sendTo (s : State) (h : Word) (body : MsgBody) : State :=
  match hCore h with
  | none => s.onFocus Core.countStale
  | some c =>
    if s.nodes ≤ hNode h then s.onFocus Core.countStale
    else if hNode h ≠ s.node ∧ ¬s.reachable (hNode h) then s.onFocus Core.countStale
    else s.post (s.arrival (hNode h) c) body

/-- An engine's or unit's signal to a handle (R155). -/
def State.signalTo (s : State) (h : Word) : State := s.sendTo h (.signal h)

/-- An engine's or unit's fail to a handle (R155). -/
def State.failTo (s : State) (h : Word) (e : BitVec 8) : State := s.sendTo h (.fail h e)

/-- A `toks` or `toke` of the running strand: an own-core message is checked as it issues, and a mismatch, a FREE cell included
(R152), sets STALE (R155). -/
def State.strandSend (s : State) (h : Word) (body : MsgBody) : State :=
  if hNode h = s.node ∧ hCore h = some s.core.cid ∧ s.core.status h = 2 then
    (s.onFocus Core.countStale).onSp fun p => { p with sflags := p.sflags ||| 8#64 }
  else s.sendTo h body

/-- Setting SFLAGS.STALE (R74). -/
def State.setStale (s : State) : State := s.onSp fun p => { p with sflags := p.sflags ||| 8#64 }

/-! ## Cells of other cores -/

/-- A signal delivered at the core that the handle names. -/
def State.signalAt (s : State) (h : Word) : State :=
  match hCore h with
  | some c => s.onCore c (·.signal h)
  | none => s

/-- A fail delivered at the core that the handle names. -/
def State.failAt (s : State) (h : Word) (e : BitVec 8) : State :=
  match hCore h with
  | some c => s.onCore c (·.fail h e)
  | none => s

end Sys2Proof.Machine
end

