-- ==== Sys2Proof/Machine/MatrixUnit.lean ====
section
/-! DEFINITION. The matrix unit at work (R224-R239, R247): ring formats, the values of ring tiles, the commands of the queue,
batches, ownership and its release. The instructions that feed it are in `Matrix.lean`. -/

namespace Sys2Proof.Machine

/-! ## Formats of ring tiles (R228) -/

/-- The classes of R228. -/
inductive MClass where
  | f16 | f8 | f4 | i8 | i4
  deriving DecidableEq, Repr

/-- FMT of a tag (R54). -/
def tagFmt (tag : BitVec 8) : BitVec 5 := tag.extractLsb' 3 5
/-- BLK of a tag (R54). -/
def tagBlk (tag : BitVec 8) : BitVec 3 := tag.extractLsb' 0 3

/-- Whether a format code is a block format (R51). -/
def isBlockFmt (f : BitVec 5) : Bool := 0x18 ≤ f.toNat && f.toNat ≤ 0x1E

/-- The class of a ring tag, if R228 lists it. -/
def ringClass (tag : BitVec 8) : Option MClass :=
  if blkOk (tagFmt tag) (tagBlk tag) then
    match (tagFmt tag).toNat with
    | 0x11 | 0x12 => some .f16
    | 0x13 | 0x14 | 0x15 | 0x16 | 0x18 | 0x19 | 0x1A | 0x1B | 0x1E => some .f8
    | 0x17 | 0x1C | 0x1D => some .f4
    | 0x01 | 0x02 => some .i8
    | 0x09 | 0x0A => some .i4
    | _ => none
  else none

/-- Elements of a tile row (R228). -/
def MClass.k : MClass → Nat
  | .f16 => 64 | .f8 => 128 | .f4 => 256 | .i8 => 128 | .i4 => 256

/-- Positions of a K-step (R69). -/
def MClass.kb : MClass → Nat
  | .f16 => 2 | .f8 => 4 | .f4 => 8 | .i8 => 4 | .i4 => 8

/-- Whether the class sums integers. -/
def MClass.isInt : MClass → Bool
  | .i8 => true | .i4 => true | _ => false

/-- The element type of a ring tag. -/
def ringElem (tag : BitVec 8) : BitVec 5 := (blockElem (tagFmt tag)).getD (tagFmt tag)

/-- Bytes of a ring tile (R228). -/
def ringTileBytes (tag : BitVec 8) : Nat :=
  if isBlockFmt (tagFmt tag) then tileBytes (tagFmt tag) (tagBlk tag)
  else if memWidth (tagFmt tag) = 6 then 6144 else 8192

/-- Whether every tile slot of a ring lies in the scratchpad (R229). -/
def ringFits (base : Word) (tag : BitVec 8) (depth : Nat) : Bool :=
  (base.extractLsb' 0 19).toNat + depth * ringTileBytes tag ≤ Config.scratchBytes

/-- Occupancy of a ring (R228). -/
def Ring.occupancy (r : Ring) : Nat := (r.tail - r.head).toNat

/-- The value of element `k` of row `r` of a tile, whose bytes are a little-endian number (R53, R236). -/
def tileValue (tag : BitVec 8) (tile r k : Nat) : Ev :=
  let f := tagFmt tag
  if isBlockFmt f then
    let l := 2 ^ (tagBlk tag).toNat
    let e := memWidth (ringElem tag)
    let x := (tile >>> (8 * (tileHeader f (tagBlk tag) + r * tileRowBytes f) + k * e)) % 2 ^ e
    let sc := (tile >>> (8 * (r * (tileCols f / l) + k / l))) % 256
    let band := (tile >>> (8 * (64 * (tileCols f / l)))) % 2 ^ 16
    blockValue f x sc (BitVec.ofNat 16 band)
  else
    let e := memWidth f
    let row := if e = 6 then 96 else 128
    (elemFV f ((tile >>> (8 * r * row + k * e)) % 2 ^ e)).ev

/-! ## The unit -/

/-- Ring `q` of a matrix unit. -/
def Matrix.ring (m : Matrix) (q : BitVec 3) : Ring := m.rings[q.toNat]'(q.isLt)
/-- Replacing a ring. -/
def Matrix.setRing (m : Matrix) (q : BitVec 3) (r : Ring) : Matrix := { m with rings := m.rings.set q.toNat r q.isLt }
/-- Tile `t` of a matrix unit. -/
def Matrix.tile (m : Matrix) (t : BitVec 3) : Tile := m.tiles[t.toNat]'(t.isLt)
/-- Replacing a tile. -/
def Matrix.setTile (m : Matrix) (t : BitVec 3) (x : Tile) : Matrix := { m with tiles := m.tiles.set t.toNat x t.isLt }

/-- The owner tag of a unit after strand `n` takes it (R225). -/
def takeTile (x : Tile) (n : Nat) : Tile := { x with owner := some (x.owner.getD n) }

/-- The tile of a command passes to strand `n` when it is unowned (R225, R243). -/
def Matrix.takeFor (m : Matrix) (n : Nat) (o : MOp) : Matrix :=
  match o with
  | .zero t => m.setTile t (takeTile (m.tile t) n)
  | .mma t _ _ _ _ => m.setTile t (takeTile (m.tile t) n)
  | .mmas t _ _ _ _ _ => m.setTile t (takeTile (m.tile t) n)
  | .pop _ _ => m

/-- Whether an owner tag names another strand than `n`. -/
def ownedByOther (o : Option Nat) (n : Nat) : Bool :=
  match o with
  | none => false
  | some m => m != n

/-- A command names a tile. -/
def MOp.namesTile (o : MOp) (t : BitVec 3) : Bool :=
  match o with
  | .zero x => x == t
  | .mma x _ _ _ _ => x == t
  | .mmas x _ _ _ _ _ => x == t
  | .pop _ _ => false

/-- A command names a ring. -/
def MOp.namesRing (o : MOp) (q : BitVec 3) : Bool :=
  match o with
  | .zero _ => false
  | .mma _ a b _ _ => a == q || b == q
  | .mmas _ a b _ _ _ => a == q || b == q
  | .pop x _ => x == q

/-- Cycles that a command occupies the unit (R231). -/
def MOp.cycles : MOp → Nat
  | .zero _ => 8
  | .pop _ _ => 1
  | _ => 128

/-- Whether the rings hold the tiles that a command waits for (R232). -/
def Matrix.ready (m : Matrix) (o : MOp) : Bool :=
  match o with
  | .zero _ => true
  | .mma _ a b oa ob => decide (oa < (m.ring a).occupancy) && decide (ob < (m.ring b).occupancy)
  | .mmas _ a b oa ob _ => decide (oa + 1 < (m.ring a).occupancy) && decide (ob < (m.ring b).occupancy)
  | .pop q c => decide (c ≤ (m.ring q).occupancy)

/-- The key of the tile at an offset of a ring of a core (R228). -/
def Ring.slotKey (r : Ring) (core off : Nat) : Nat :=
  scratchKey core ((r.base.extractLsb' 0 19).toNat + ringTileBytes r.tag * ((r.head.toNat + off) % (max r.depth 1)))

/-- One K-step of one output element (R69, R236): the new accumulator and the flags. -/
def kStep (isInt : Bool) (acc : Nat) (terms : List Ev) : Nat × Nat :=
  if isInt then
    let t := terms.foldl (fun x e => match e.v with
      | .fin n m _ => x + (if n then -(m : Int) else (m : Int))
      | _ => x) (intVal true 32 acc)
    let r := clampInt true 32 t
    (r.bits, r.flags)
  else
    let fl := terms.foldl (fun f e => f ||| e.flags) 0
    let r := RCtx.finish ⟨fp32, .rne, false, false⟩ (sumFV false (fp32.decode acc :: terms.map (·.v)) fl)
    (r.bits, r.flags)

/-- The positions of one K-step as (A tile, A position, B column), in order (R236, R237). -/
def stepTerms (va : Nat → Nat → Ev) (vb : Nat → Ev) (ps : List (Nat × Nat × Nat)) : List Ev :=
  ps.map fun (t, ka, kb) =>
    let a := va t ka
    let b := vb kb
    let p := a.v.mul b.v
    ⟨p.v, false, a.flags ||| b.flags ||| p.flags⟩

/-- The K-steps of a dense product: position k is column k of both tiles. -/
def denseSteps (c : MClass) : List (List (Nat × Nat × Nat)) :=
  (List.range (c.k / c.kb)).map fun i => (List.range c.kb).map fun j => (0, i * c.kb + j, i * c.kb + j)

/-- The number of mask bits set below position `k` (R237). -/
def prefixSum (mask : BitVec 512) (k : Nat) : Nat := ((List.range k).filter fun i => mask.getLsbD i).length

/-- The K-steps of a sparse product (R237): A position by uncompressed position, B column by prefix sum. -/
def sparseSteps (c : MClass) (mask : BitVec 512) : List (List (Nat × Nat × Nat)) :=
  (List.range (2 * c.k / c.kb)).map fun i =>
    (List.range c.kb).filterMap fun j =>
      let k := i * c.kb + j
      if mask.getLsbD k then some (k / c.k, k % c.k, prefixSum mask k) else none

/-- The word of a tile at (row, column). -/
def tileWord (d : BitVec 131072) (i j : Nat) : Nat := (d.extractLsb' (32 * (64 * i + j)) 32).toNat

/-- A tile from its words, row by row. -/
def tileOf (f : Nat → Nat → Nat) : BitVec 131072 :=
  (List.range 4096).foldl (fun d n => d ||| (BitVec.ofNat 131072 (f (n / 64) (n % 64) % 2 ^ 32) <<< (32 * n))) 0

/-- The product of tiles added into an accumulator (R236, R237): the new words and the flags. -/
def mmaTile (isInt : Bool) (acc : BitVec 131072) (va : Nat → Nat → Nat → Ev) (vb : Nat → Nat → Ev)
    (steps : List (List (Nat × Nat × Nat))) : BitVec 131072 × Nat :=
  (List.range 4096).foldl
    (fun (d, fl) n =>
      let i := n / 64
      let j := n % 64
      let (x, f) := steps.foldl
        (fun (x, f) ps =>
          let (y, g) := kStep isInt x (stepTerms (va i) (vb j) ps)
          (y, f ||| g)) (tileWord acc i j, fl)
      (d ||| (BitVec.ofNat 131072 x <<< (32 * n)), f))
    (0, 0)

/-- What a command leaves: the unit, the flags, and whether it read erroneous data. -/
structure MDone where
  unit : Matrix
  flags : Nat
  bad : Bool

/-- Executing a command on a core's unit; `owner` is the strand on whose behalf it runs. -/
def State.runCommand (s : State) (core : Nat) (m : Matrix) (o : MOp) : MDone :=
  match o with
  | .zero t => ⟨m.setTile t { m.tile t with data := 0, poison := false }, 0, false⟩
  | .pop q c => ⟨m.setRing q { m.ring q with head := (m.ring q).head + BitVec.ofNat 16 c }, 0, false⟩
  | .mma t qa qb oa ob =>
    let ra := m.ring qa
    let rb := m.ring qb
    let cls := (ringClass ra.tag).getD .f16
    let ka := ra.slotKey core oa
    let kb := rb.slotKey core ob
    let ta := Memory.getN s.mem ka (ringTileBytes ra.tag)
    let tb := Memory.getN s.mem kb (ringTileBytes rb.tag)
    let bad := (s.badAt ka (ringTileBytes ra.tag)).isSome || (s.badAt kb (ringTileBytes rb.tag)).isSome
    let (d, fl) := mmaTile cls.isInt (m.tile t).data (fun i _ k => tileValue ra.tag ta i k) (fun j k => tileValue rb.tag tb j k) (denseSteps cls)
    ⟨m.setTile t { m.tile t with data := d, poison := (m.tile t).poison || bad }, fl, bad⟩
  | .mmas t qa qb oa ob mask =>
    let ra := m.ring qa
    let rb := m.ring qb
    let cls := (ringClass ra.tag).getD .f16
    let ka := ra.slotKey core oa
    let ka' := ra.slotKey core (oa + 1)
    let kb := rb.slotKey core ob
    let n := ringTileBytes ra.tag
    let ta := Memory.getN s.mem ka n
    let ta' := Memory.getN s.mem ka' n
    let tb := Memory.getN s.mem kb (ringTileBytes rb.tag)
    let bad := (s.badAt ka n).isSome || (s.badAt ka' n).isSome || (s.badAt kb (ringTileBytes rb.tag)).isSome
    let (d, fl) := mmaTile cls.isInt (m.tile t).data (fun i h k => tileValue ra.tag (if h = 0 then ta else ta') i k)
      (fun j k => tileValue rb.tag tb j k) (sparseSteps cls mask)
    ⟨m.setTile t { m.tile t with data := d, poison := (m.tile t).poison || bad }, fl, bad⟩

/-! ## Batches (R230, R233) -/

/-- Changing the batch with a handle. -/
def onBatch (h : Word) (f : MBatch → MBatch) (l : List MBatch) : List MBatch := l.map fun b => if b.handle = h then f b else b

/-- The flags and the poison of a completed command join its batch (R233). -/
def MBatch.absorb (b : MBatch) (d : MDone) : MBatch :=
  { b with
    flags := b.flags ||| BitVec.ofNat 5 (d.flags % 32)
    sat := b.sat || d.flags.testBit 5
    poisoned := b.poisoned || d.bad }

/-- A closed batch with no command left is signalled, or failed with POISON (R233). -/
def Core.endBatches (c : Core) : Core :=
  (c.mx.batches.filter fun b => b.closed && !b.signalled && !(c.mx.queue ++ c.mx.lifted).any (·.batch == b.handle)).foldl
    (fun c b =>
      let c := if b.poisoned then c.fail b.handle 3 else c.signal b.handle
      { c with mx := { c.mx with batches := onBatch b.handle (fun b => { b with signalled := true }) c.mx.batches } })
    c

/-- A change of a core that takes effect in a given cycle. -/
def Core.atCycle (c : Core) (t : Nat) (f : Core → Core) : Core := { f { c with cycle := t } with cycle := c.cycle }

/-- Releasing every tile and ring of a strand (R225). -/
def Matrix.release (m : Matrix) (n : Nat) : Matrix :=
  { m with
    tiles := Vector.ofFn fun i => if m.tiles[i].owner = some n then Tile.reset else m.tiles[i]
    rings := Vector.ofFn fun i => if m.rings[i].owner = some n then Ring.reset else m.rings[i] }

/-- Whether a strand owns tiles or rings. -/
def Matrix.ownsUnits (m : Matrix) (n : Nat) : Bool :=
  m.tiles.toList.any (·.owner == some n) || m.rings.toList.any (·.owner == some n)

/-- Whether a strand owns matrix state (R244). -/
def Core.ownsMatrix (c : Core) (t : Strand) : Bool :=
  c.mx.ownsUnits t.num || t.batch.isSome || c.mx.queue.any fun k => k.owner == t.num && k.remote == none

/-- The state of ended strands is released once the last command under their number has completed, one that another core sent for them
included, and their numbers are freed (R247). -/
def Core.sweepKept (c : Core) : Core :=
  let done := c.keptNums.filter fun n => !c.mx.queue.any fun k => k.owner == n
  { c with
    mx := done.foldl (fun m n => m.release n) c.mx
    keptNums := c.keptNums.filter fun n => !done.contains n }

/-! ## The queue (R231, R232) -/

/-- When the head command completes, if it can start: start and completion (R231). -/
def Matrix.headTimes (m : Matrix) : Option (MCommand × Nat × Nat) :=
  match m.queue with
  | [] => none
  | k :: _ =>
    if m.ready k.op then
      let start := max m.freeAt (k.issuedAt + 1)
      some (k, start, start + k.op.cycles - 1)
    else none

/-- The answer to a command of another core, `t` cycles into this core's count (R243): L cycles later under the LATFIX of the core that
issued the command, whose cell the handle names, in cycles of that core (R176); on the own core 2 cycles later; else not stated. That a command
for the issuing core itself takes L under LATFIX, too, is a DESIGN CHOICE, log 115. -/
def State.answerRemote (s : State) (h : Word) (t : Nat) (body : MsgBody) : State :=
  match hCore h with
  | none => s.onFocus Core.countStale
  | some c =>
    let x := s.coreOf c
    s.postAt c (if x.latEn then some (x.cycle + t + x.latL - s.core.cycle) else if c = s.core.cid then some (t + 2) else none) body

/-- Executing the head command of the focus core's queue, with its batch or its sender told (R231-R233, R243). -/
def State.matrixHead (s : State) : Option State :=
  match s.core.mx.headTimes with
  | none => none
  | some (k, _, done) =>
    let d := s.runCommand s.core.cid s.core.mx k.op
    let m := { d.unit with queue := s.core.mx.queue.tail, freeAt := done + 1 }
    match k.remote with
    | none =>
      some (s.onFocus fun c => c.atCycle (done + 1) fun c =>
        (({ c with mx := { m with batches := onBatch k.batch (·.absorb d) m.batches } }).endBatches).sweepKept)
    | some h =>
      let s := s.onFocus fun c => ({ c with mx := m }).sweepKept
      some (s.answerRemote h done (if d.bad then .fail h 3 else .signal h))

/-- Executing the commands whose completion has come. -/
def State.matrixNow (s : State) : Nat → State
  | 0 => s
  | n + 1 =>
    match s.core.mx.headTimes with
    | some (_, _, done) => if done < s.core.cycle then match s.matrixHead with
        | some s' => s'.matrixNow n
        | none => s
      else s
    | none => s

/-- Tiles become committed in a ring of the focus core (R229, R296): a command that waited for them starts no earlier than the
next cycle (R231). -/
def State.commitRing (s : State) (q : BitVec 3) (c : Nat) : State :=
  let s := s.matrixNow (s.core.mx.queue.length)
  let waited := !s.core.mx.queue.isEmpty && s.core.mx.headTimes.isNone
  s.onFocus fun x =>
    let r := x.mx.ring q
    let m := x.mx.setRing q { r with tail := r.tail + BitVec.ofNat 16 c }
    { x with mx := if waited && m.headTimes.isSome then { m with freeAt := max m.freeAt (x.cycle + 1) } else m }

/-- Executing commands until none that `p` picks is queued. The result says whether the queue is blocked before that (R232). -/
def State.matrixDrain (s : State) (p : MCommand → Bool) : Nat → State × Bool
  | 0 => (s, true)
  | n + 1 =>
    if s.core.mx.queue.any p then
      match s.matrixHead with
      | some s' => s'.matrixDrain p n
      | none => (s, false)
    else (s, true)

/-- Waiting until every queued command that `p` picks has completed, charged to a cause; `none` when the queue is blocked by
a commit that has not come (R232). -/
def State.matrixWait (s : State) (cause : Cause) (p : MCommand → Bool) : Option State :=
  let (s', ok) := s.matrixDrain p (s.core.mx.queue.length + 1)
  if ok then some (s'.stall cause (if s.core.mx.queue.any p then s'.core.mx.freeAt - s'.core.cycle else 0)) else none

/-- The flags of a batch join FPSR when its token is observed, and the batch is forgotten (R233). -/
def State.observeBatch (s : State) (h : Word) : State :=
  match s.core.mx.batches.find? (·.handle == h) with
  | none => s
  | some b =>
    (s.onSp fun p => { p with fpsr := p.fpsr ||| b.flags.setWidth 64 ||| (if b.sat then 32#64 else 0) }).onFocus fun c =>
      { c with mx := { c.mx with batches := c.mx.batches.filter (·.handle != h) } }

end Sys2Proof.Machine
end

