-- ==== Sys2Proof/Machine/Ctx.lean ====
section
/-! DEFINITION. Context images (R145-R150, R266): their sizes, the context cache and the Basin, saving and restoring a strand,
and the resume decision with its log and replay (R162, R163, R193, R194). -/

namespace Sys2Proof.Machine

/-! ## Sizes (R145, R266) -/

/-- Number of bits set. -/
def popCount {n : Nat} (x : BitVec n) : Nat := (bitsOf x).length

/-- Division rounding up. -/
def ceilDiv (a b : Nat) : Nat := (a + b - 1) / b

/-- Bytes of XM and FLTM in an image. -/
def VFile.maskBytes (f : VFile) : Nat := (if f.xm = 0 then 0 else 1024) + (if f.fltm = 0 then 0 else 1024)

/-- Rows below VALID of the vector registers that a mask names. -/
def VFile.validRows (f : VFile) (m : BitVec 32) : Nat :=
  (bitsOf m).foldl (fun n i => n + ((f.v[i]?.map (·.valid)).getD 0)) 0

/-- Rows below VALID with DIRTY set of the vector registers that a mask names. -/
def VFile.dirtyRows (f : VFile) (m : BitVec 32) : Nat :=
  (bitsOf m).foldl (fun n i => n + match f.v[i]? with
    | some v => popCount (v.dirty &&& BitVec.ofNat 32 (2 ^ v.valid - 1))
    | none => 0) 0

/-- Bytes of an image that keeps the registers named, with `rows` vector rows. -/
def Strand.partBytes (t : Strand) (g m c : Nat) (rows : Nat) : Nat :=
  1024 + t.vf.maskBytes + 8 * g + 1024 * (m + c) + 128 * rows

/-- Bytes of the image of an `AWAIT` or `YIELD` (R145): the registers that the live set names. -/
def Strand.liveBytes (t : Strand) (e : BitVec 128) : Nat :=
  t.partBytes (popCount (liveG e &&& 0xF0FFFFFE#32)) (popCount (liveM e &&& 0xFFFE#16)) (popCount (liveC e))
    (t.vf.validRows (t.keptV e))

/-- Bytes that the save of an `AWAIT` or `YIELD` writes (R79, R146): only dirty rows. -/
def Strand.liveWritten (t : Strand) (e : BitVec 128) : Nat :=
  t.partBytes (popCount (liveG e &&& 0xF0FFFFFE#32)) (popCount (liveM e &&& 0xFFFE#16)) (popCount (liveC e))
    (t.vf.dirtyRows (t.keptV e))

/-- Bytes of an image with every register (R145). -/
def Strand.fullBytes (t : Strand) : Nat := t.partBytes 31 15 8 (t.vf.validRows 0xFFFFFFFF#32)

/-- Bytes that a save of every register writes: only dirty rows. -/
def Strand.fullWritten (t : Strand) : Nat := t.partBytes 31 15 8 (t.vf.dirtyRows 0xFFFFFFFF#32)

/-- Bytes of the tagged partial image (R266): the registers that are not dead, and the dirty rows. -/
def Strand.taggedBytes (t : Strand) : Nat :=
  t.partBytes (popCount (~~~t.gdead)) (popCount (~~~t.mdead &&& 0xFFFE#16)) (popCount (~~~t.cdead)) (t.vf.dirtyRows 0xFFFFFFFF#32)

/-- Bytes of the image that a tagged save leaves, clean rows included (R266). -/
def Strand.taggedWhole (t : Strand) : Nat :=
  t.partBytes (popCount (~~~t.gdead)) (popCount (~~~t.mdead &&& 0xFFFE#16)) (popCount (~~~t.cdead)) (t.vf.validRows 0xFFFFFFFF#32)

/-- Every DIRTY bitmap cleared, as a save leaves it (R79), and no wake of banks under way (R85). -/
def Strand.cleaned (t : Strand) : Strand :=
  { t with powerTill := 0, vf := { t.vf with v := Vector.ofFn fun i => { t.vf.v[i] with dirty := 0 } } }

/-! ## Choice among strands (R162, R163) -/

/-- Whether a suspended strand is runnable. -/
def Image.runnable (i : Image) : Bool := i.cond == .ready && !i.preempted && !i.inSlot

/-- Whether every tile and ring that an ACC = 1 save released is unowned (R244). -/
def Matrix.unitsFree (m : Matrix) (x : BitVec 16) : Bool :=
  x == 0 || ((List.range 8).all fun i =>
    (!x.getLsbD i || (m.tile (BitVec.ofNat 3 i)).owner.isNone) && (!x.getLsbD (8 + i) || (m.ring (BitVec.ofNat 3 i)).owner.isNone))

/-- Whether a suspended strand of a core may be resumed (R162, R163, R244): the cycle in which it became runnable has passed. -/
def Core.canRun (c : Core) (i : Image) : Bool := i.runnable && decide (i.sigTime < c.cycle) && c.mx.unitsFree i.accSaved

/-- SCTL.PRIO (R75). -/
def Strand.prio (t : Strand) : Nat := (t.sp.sctl.extractLsb' 0 2).toNat

/-- Whether `a` comes before `b` in the resume order of R163. -/
def Image.before (a b : Image) : Bool :=
  if a.st.prio ≠ b.st.prio then b.st.prio < a.st.prio
  else if a.sigTime ≠ b.sigTime then a.sigTime < b.sigTime
  else a.st.num < b.st.num

/-- The first of a list under an order. -/
def pick (lt : Image → Image → Bool) : List Image → Option Image
  | [] => none
  | i :: is =>
    match pick lt is with
    | none => some i
    | some j => if lt j i then some j else some i

/-- The runnable strand that R163 chooses. -/
def Core.choice (c : Core) : Option Image := pick Image.before (c.images.filter c.canRun)

/-! ## The context cache (R146, R147) -/

/-- Whether an image lies in an entry. -/
def Image.inEntry (i : Image) : Bool := i.place == .entry

/-- Body bytes of an image, rounded to granules (R146). -/
def granules (body : Nat) : Nat := ceilDiv body 128 * 128

/-- Whether an image holds an entry: it lies in one, or its clean rows are still being copied out of one (R266). -/
def Image.holdsEntry (i : Image) : Bool := i.inEntry || i.cleanCopy != 0

/-- Entries held by suspended strands. -/
def Core.heldEntries (c : Core) : Nat := (c.images.filter (·.holdsEntry)).length

/-- Body store held by suspended strands. -/
def Core.heldBody (c : Core) : Nat := (c.images.filter (·.holdsEntry)).foldl (fun n i => n + granules (i.bytes - 1024)) 0

/-- Entries and body store that the core may use (R146, R150). -/
def Core.entryLimit (c : Core) : Nat := min c.cclimit.toNat c.entriesOk

/-- The victim of an eviction (R147): among those not runnable, the most recent suspension; else the last in resume order. -/
def victim (is : List Image) : Option Image :=
  match is.filter (!·.runnable) with
  | [] => pick (fun a b => b.before a) is
  | ws => pick (fun a b => if a.savedAt ≠ b.savedAt then b.savedAt < a.savedAt else b.st.num < a.st.num) ws

/-- Removing a suspended strand that is not behind a handler. -/
def dropImage (num : Nat) (is : List Image) : List Image := is.filter fun i => i.st.num != num || i.inSlot

/-- A Basin transfer of `n` bytes with a fixed part (R148): its slots, and outside LATFIX an excess of unstated length. -/
def State.basinCharge (s : State) (fixed n num : Nat) (pc : Word) : State :=
  let s := s.charge .basin (some num) pc pc (fixed + ceilDiv n 64)
  if s.core.latEn then s
  else { s.charge .basin (some num) pc pc (Config.freeWait s.free) with free := s.free + 1 }

/-- Address of a Basin home of a core (R149). -/
def Core.homeBase (c : Core) (h : Nat) : Nat := (c.basin.extractLsb' 20 36).toNat * 2 ^ 20 + Config.homeBytes * h

/-- The lowest Basin home of a core that holds no image (R149; DEDUCED: log 95). The spec does not say what happens when more images lie in
the Basin than HOMES: the model hands out the number at or above HOMES (DESIGN CHOICE, log 107). -/
def Core.freeHome (c : Core) : Nat :=
  ((List.range (c.images.length + 1)).find? fun h => !c.images.any fun i => i.place == .basin h).getD 0

/-- `n` bytes of an image written into a Basin home of memory (R149). The spec gives their layout nowhere: they are free bytes
(DESIGN CHOICE, log 95). -/
def State.fillHome (s : State) (h n : Nat) : State :=
  let pa := s.core.homeBase h
  if s.backed pa then
    { s.storeBytes pa ((List.range n).map fun i => Config.imageByte (s.free * 2 ^ 64 + i)) with free := s.free + 1 }
  else s

/-- Evicting an image to the Basin (R147, R148). -/
def State.evict (s : State) (i : Image) : State :=
  ((s.basinCharge 8 i.bytes i.st.num i.st.pc).fillHome s.core.freeHome i.bytes).onFocus fun c =>
    { c with images := onImage i.st.num (fun i => { i with place := .basin c.freeHome }) c.images }

/-- Whether no eviction gives an image body its room in the body store: a large image (R146, R150). -/
def Core.tooLarge (c : Core) (body : Nat) : Bool := decide (Config.bodyStore < body) || decide (c.bodyOk * 128 < granules body)

/-- The images of a strand number once its clean rows have been copied (R266). -/
def copyEnded (num : Nat) (l : List Image) : List Image := l.map fun i => if i.st.num = num then { i with cleanCopy := 0 } else i

/-- A movement that needs an entry waits for the copy of clean rows that holds one (R266), for an unstated time (DESIGN CHOICE,
log 5). -/
def State.endRowCopy (s : State) (i : Image) : State :=
  (s.basinCharge 0 0 i.st.num i.st.pc).onFocus fun c => { c with images := copyEnded i.st.num c.images }

/-- More evictions than a core has entries. -/
abbrev makeRoomFuel : Nat := 128

/-- Making room for an entry with `body` bytes (R146, R147). `self` is the image being saved, which may itself be the victim;
the result says whether the entry was obtained. -/
def State.makeRoom (s : State) (body : Nat) (self : Option Image) : Nat → State × Bool
  | 0 => (s, false)
  | n + 1 =>
    if s.core.tooLarge body then (s, false)
    else if s.core.heldEntries < s.core.entryLimit ∧ s.core.heldBody + granules body ≤ s.core.bodyOk * 128 then (s, true)
    else
      match s.core.images.find? (·.cleanCopy != 0) with
      | some i => (s.endRowCopy i).makeRoom body self n
      | none =>
        match victim ((s.core.images.filter (·.inEntry)) ++ self.toList) with
        | none => (s, false)
        | some v =>
          match self with
          | some i => if v.st.num = i.st.num then (s, false) else (s.evict v).makeRoom body self n
          | none => (s.evict v).makeRoom body self n

/-- The excess over CCLIMIT leaves the context cache at a context movement (R147), with `own` entries held beside those of suspended
strands. -/
def State.trim (s : State) (own : Nat) : Nat → State
  | 0 => s
  | n + 1 =>
    if s.core.heldEntries + own ≤ s.core.entryLimit then s
    else
      match s.core.images.find? (·.cleanCopy != 0) with
      | some i => (s.endRowCopy i).trim own n
      | none =>
        match victim (s.core.images.filter (·.inEntry)) with
        | none => s
        | some v => (s.evict v).trim own n

/-! ## Saving (R145-R148) -/

/-- A new image of the running strand. -/
def Strand.image (t : Strand) (bytes : Nat) (cond : Cond) (resume : Resume) (now : Nat) : Image :=
  { st := t, place := .entry, bytes := bytes, cond := cond, resume := resume, sigTime := now, savedAt := now,
    slots := Vector.replicate 4 none, preempted := false, cleanCopy := 0, accSaved := 0 }

/-- The running strand gives up the core with this image. -/
def State.leave (s : State) (i : Image) : State :=
  s.onFocus fun c =>
    ({ c with
      images := i :: c.images
      running := false
      waiting := false
      posted := false
      curEntry := false
      reply := .none }).wakeCells

/-- Saving the running strand into an entry, or into the Basin when it gets none (R146-R148): `written` bytes are moved, the
image has `bytes`. -/
def State.save (s : State) (written bytes : Nat) (cond : Cond) (resume : Resume) (accSaved : BitVec 16) : State :=
  let probe := s.cur.image bytes cond resume s.core.cycle
  let (s, ok) := s.makeRoom (bytes - 1024) (some probe) makeRoomFuel
  let s :=
    if ok then s.charge .switch (some s.cur.num) s.cur.pc s.cur.pc (2 + ceilDiv written 256)
    else ((s.trim 0 makeRoomFuel).basinCharge 8 written s.cur.num s.cur.pc).fillHome s.core.freeHome bytes
  s.leave { s.cur.cleaned.image bytes cond resume probe.savedAt with
    place := if ok then .entry else .basin s.core.freeHome
    accSaved := accSaved }

/-- Saving every register, as at an empty deposit read or a refused full/empty access (R145). -/
def State.saveFull (s : State) (cond : Cond) (resume : Resume) : State :=
  s.save s.cur.fullWritten s.cur.fullBytes cond resume 0

/-- Saving every register with the tagged image of R266, as the page-fault path does (R260). -/
def State.saveTagged (s : State) (cond : Cond) (resume : Resume) : State :=
  s.save s.cur.taggedBytes s.cur.taggedWhole cond resume 0

/-- The clean rows below VALID of the running strand that a tagged save leaves in its entry (R266). -/
def State.cleanRows (s : State) : Nat :=
  if s.core.curEntry then s.cur.vf.validRows 0xFFFFFFFF#32 - s.cur.vf.dirtyRows 0xFFFFFFFF#32 else 0

/-- The excess over CCLIMIT leaves at a tagged save (R147); the entry out of which clean rows will be copied stays held (R266). -/
def State.trimSaving (s : State) : State := s.trim (if s.cleanRows = 0 then 0 else 1) makeRoomFuel

/-- The tagged save into the strand's Basin home (R265, R266), charged to a cause. -/
def State.saveBasin (s : State) (cause : Cause) (cond : Cond) (resume : Resume) (preempted : Bool) : State :=
  let now := s.core.cycle
  let s := s.trimSaving
  let s := s.stall cause (8 + ceilDiv s.cur.taggedBytes 64)
  let s := if s.core.latEn then s else s.freeStall cause
  let s := s.fillHome s.core.freeHome s.cur.taggedWhole
  s.leave { s.cur.cleaned.image s.cur.taggedWhole cond resume now with
    place := .basin s.core.freeHome
    preempted := preempted
    cleanCopy := s.cleanRows }

/-! ## Restoring (R148) -/

/-- The deposit slots of an image override the saved registers (R170). -/
def Image.deposited (i : Image) : Strand :=
  (List.range 4).foldl
    (fun t k => match i.slots[k]?.join with
      | some x => t.depositG (BitVec.ofNat 5 (24 + k)) x
      | none => t) i.st

/-- The movement that brings a strand onto the core (R146, R148): a fresh strand holds no entry, an image keeps its entry or gets
one, a large image gets one for its header. -/
def State.restore (s : State) (i : Image) : State :=
  let s := s.onFocus fun c => { c with images := dropImage i.st.num c.images, running := true, waiting := false, cur := i.deposited }
  let body := i.bytes - 1024
  let fromEntry := fun (s : State) => s.charge .switch (some i.st.num) i.st.pc i.st.pc (2 + ceilDiv i.bytes 256)
  match i.place with
  | .fresh =>
    ((s.trim 0 makeRoomFuel).charge .switch (some i.st.num) i.st.pc i.st.pc 2).onFocus fun c => { c with curEntry := false }
  | .entry => (fromEntry (s.makeRoom body none makeRoomFuel).1).onFocus fun c => { c with curEntry := true }
  | _ =>
    let (s, ok) := s.makeRoom body none makeRoomFuel
    let s :=
      if ok then fromEntry (s.basinCharge 30 i.bytes i.st.num i.st.pc)
      else (s.makeRoom 0 none makeRoomFuel).1.basinCharge 30 i.bytes i.st.num i.st.pc
    s.onFocus fun c => { c with curEntry := true }

/-- The banks into which a restore wrote a register are ON (R86): those of every register that is not dead, be it VALID or not
(DESIGN CHOICE, log 87). -/
def Strand.restoredBanks (t : Strand) : Strand :=
  { t with sp := { t.sp with
      vbank := (List.range 32).foldl (fun b r => if t.vdead.getLsbD r then b else b &&& ~~~(3#64 <<< (2 * (r / 8)))) t.sp.vbank } }

/-! ## Resume log and replay (R193, R194) -/

/-- The next type-6 record of the replay ring, with the records before it skipped: its context and PC (R194). The ring has the size
of ACCTCTL.RSIZE (DESIGN CHOICE, log 92). -/
def Core.replayNext (c : Core) (mem : List Host.Cell) : Nat → Nat → Option (Nat × Nat × Nat)
  | 0, _ => none
  | n + 1, rd =>
    if rd % 2 ^ 32 = (c.rpptr.extractLsb' 0 32).toNat then none
    else
      let r := Memory.getN mem ((c.rpbase.extractLsb' 6 50).toNat * 64 + 16 * (rd % c.ringSize)) 16
      if r / 2 ^ 124 = 6 then some (rd + 1, r / 2 ^ 112 % 256, r / 2 ^ 48 % 2 ^ 56) else c.replayNext mem n (rd + 1)

/-- What the core does at a decision: resume a strand, wait a slot, or leave replay and decide again. -/
inductive Decision where
  | take (i : Image) (rd : Option Nat)
  | none
  | idle
  | diverge
  | replayEnds
  deriving DecidableEq, Repr

/-- The decision of R163, or of R194 while REPLAY is 1. -/
def State.decision (s : State) : Decision :=
  if s.core.replay then
    match s.core.replayNext s.mem (s.core.ringSize + 1) (s.core.rpptr.extractLsb' 32 32).toNat with
    | .none => .replayEnds
    | some (rd, ctx, pc) =>
      match s.core.images.find? fun i => i.st.num == ctx && !i.inSlot with
      | .none => .diverge
      | some i =>
        if (i.st.pc.toNat) % 2 ^ 56 ≠ pc then .diverge
        else if s.core.canRun i then .take i (some rd)
        else .idle
  else
    match s.core.choice with
    | some i => .take i .none
    | .none => .none

/-- Whether a decision waits (R193): the trace ring has no room for its resume record beside the lost counts that come first (R189). -/
def State.resumeWaits (s : State) : Bool := s.core.rlog && (s.putLost 16).core.ringFull

/-- The resume record of a decision (R193): the decision lies in the cycle before the movement (R163). -/
def State.logResume (s : State) (i : Image) : State :=
  if s.core.rlog then s.trace 6 0 i.st.num i.st.pc.toNat (s.core.cycle - 1) else s

/-- REPLAY ends, because it diverged or because the ring is empty (R194). -/
def State.endReplay (s : State) (diverged : Bool) : State :=
  s.onFocus fun c => { c with acctctl := (c.acctctl &&& ~~~(1#64 <<< 61)) ||| (if diverged then 1#64 <<< 60 else 0) }

/-- The decision carried through the end of a replay: the chosen strand, with the replay record that names it. -/
def State.decideNow (s : State) : State × Option (Image × Option Nat) :=
  match s.decision with
  | .take i rd => (s, some (i, rd))
  | .diverge => (s.endReplay true, s.core.choice.map fun i => (i, Option.none))
  | .replayEnds => (s.endReplay false, s.core.choice.map fun i => (i, Option.none))
  | _ => (s, Option.none)

/-- RD of the replay ring advanced (R194). It passes the records skipped before the one taken, and stays where it is when REPLAY ends
(DESIGN CHOICE, log 108). -/
def State.replayTo (s : State) (rd : Option Nat) : State :=
  match rd with
  | none => s
  | some n => s.onFocus fun c => { c with rpptr := BitVec.ofNat 32 n ++ c.rpptr.extractLsb' 0 32 }

end Sys2Proof.Machine
end

