-- ==== Sys2Proof/Machine/Couloir.lean ====
section
/-! DEFINITION. Ordered items and Couloir forwarding (R400-R411): publications, cursors, their release, and what becomes of an
item when its strand ends. The instructions are in `Chain.lean`. -/

namespace Sys2Proof.Machine

/-- Changing a launch by its number. -/
def State.onLaunch (s : State) (l : Nat) (f : Launch → Launch) : State :=
  s.onPkg fun p => { p with launches := p.launches.map fun x => if x.id = l then f x else x }

/-- The state of a started item. -/
def Launch.item (l : Launch) (j : Nat) : Option ItemState := l.itemStates.find? (·.idx == j)

/-- Changing the state of an item. -/
def Launch.onItem (l : Launch) (j : Nat) (f : ItemState → ItemState) : Launch :=
  { l with itemStates := l.itemStates.map fun x => if x.idx = j then f x else x }

/-- The publication P(s, N) (R401). -/
def Launch.pub (l : Launch) (s : Nat) (r : BitVec 5) : Option Pub := l.pubs.find? fun p => p.item == s && p.reg == r

/-- The MODES bits (R386): EXCL. -/
def Launch.excl (l : Launch) : Bool := l.modes.getLsbD 3

/-- MODES bit DETRED. -/
def Launch.detred (l : Launch) : Bool := l.modes.getLsbD 2

/-- Whether items of a launch remain to be started (R394, R408). -/
def Launch.moreItems (l : Launch) : Bool :=
  decide (l.nextItem < l.items) && match l.earlyExit with
    | some t => decide (l.nextItem ≤ t)
    | none => true

/-- Whether a launch holds a position on a core (R394). -/
def Launch.holds (l : Launch) (core : Nat) : Bool := l.positions.any fun p => p.core == core && (p.item.isSome || l.moreItems)

/-- An item that will never start (R408): it lies above an early exit and has not started. -/
def Launch.never (l : Launch) (j : Nat) : Bool :=
  (l.item j).isNone && match l.earlyExit with
    | some t => decide (t < j)
    | none => false

/-- CUR(j, N) of a started item (R401). -/
def ItemState.cur (i : ItemState) (r : BitVec 5) : Nat := i.cursor[r.toNat % 8]'(Nat.mod_lt _ (by decide))

/-- Whether the reader of P(s, N) at distance d is done with it (R401). -/
def Launch.readerDone (l : Launch) (s : Nat) (r : BitVec 5) (d : Nat) : Bool :=
  decide (l.items ≤ s + d) || l.never (s + d) ||
    match l.item (s + d) with
    | some i => decide (i.cur r < d) || i.closed || i.lost
    | none => false

/-- Whether P(s, N) has been released (R401). -/
def Launch.released (l : Launch) (s : Nat) (r : BitVec 5) : Bool :=
  l.readerDone s r 1 && l.readerDone s r 2 && l.readerDone s r 3

/-- Whether the forwarding slot of P(j, N) is free (R401). -/
def Launch.slotFree (l : Launch) (j : Nat) (r : BitVec 5) : Bool := decide (j < 4) || l.released (j - 4) r

/-- The carried registers of a launch (R400). -/
def Launch.carried (l : Launch) : List (BitVec 5) := (bitsOf l.carry).map fun i => BitVec.ofNat 5 (16 + i)

/-- Whether a register is carried. -/
def Launch.carries (l : Launch) (r : BitVec 5) : Bool := decide (16 ≤ r.toNat) && decide (r.toNat ≤ 23) && l.carry.getLsbD (r.toNat - 16)

/-- The ordered launch whose item a strand is (R400). -/
def State.orderedOf (s : State) (t : Strand) : Option Launch :=
  if t.isItem && t.handler.isNone then
    match t.launch with
    | some i => (s.launchOf i).filter (·.ordered)
    | none => none
  else none

/-- The item index of a strand. -/
def Strand.itemIx (t : Strand) : Nat := t.sp.item.toNat

/-- The cores on which a strand of a launch may read its publications: those on which it was placed, and those where a strand of it is. -/
def State.readerCores (s : State) (l : Launch) : List Nat :=
  (l.cores ++ ((s.core :: s.others).filter fun c =>
    (c.running && c.cur.launch == some l.id) || c.images.any fun i => i.st.launch == some l.id).map (·.cid)).eraseDups

/-- Making a publication (R401, R405, R411): it is held for the launch, and travels to its readers' cores: 2 cycles on the own core, L cycles
under the publisher's LATFIX, else unstated. A launch that is being cancelled publishes nothing (R412). -/
def State.publish (s : State) (l : Launch) (j : Nat) (r : BitVec 5) (x : Word) (early : Bool) : State :=
  if l.phase ≠ .placed then s
  else
    let s := s.onLaunch l.id fun l => { l with pubs := ⟨j, r, x, early, []⟩ :: l.pubs }
    ((s.core.cid :: (s.readerCores l).filter (· != s.core.cid)).eraseDups).foldl
      (fun s c => s.post (s.arrival s.node c) (.publication l.id j r c)) s

/-- The registers that item `j` has not published, ascending. -/
def Launch.unpublished (l : Launch) (j : Nat) : List (BitVec 5) := l.carried.filter fun r => (l.pub j r).isNone

/-- Whether every publication that closing item `j` makes finds its slot free (R405). -/
def Launch.canClose (l : Launch) (j : Nat) : Bool := (l.unpublished j).all fun r => l.slotFree j r

/-- Closing the chain of an item (R405, R408): the missing publications, then every cursor at 0. -/
def State.closeChain (s : State) (t : Strand) (l : Launch) (early : Bool) : State :=
  let j := t.itemIx
  let s := (l.unpublished j).foldl (fun s r => s.publish l j r (t.readG r) early) s
  s.onLaunch l.id fun l => l.onItem j fun i => { i with closed := true, cursor := Vector.replicate 8 0 }

/-- A strand's item has finished (R394, R395): its position frees. -/
def State.finishItem (s : State) (t : Strand) (lost : Bool) : State :=
  if t.isItem then
    match t.launch with
    | none => s
    | some i =>
      s.onLaunch i fun l =>
        { l.onItem t.itemIx fun x => { x with finished := true, lost := x.lost || lost } with
          positions := l.positions.map fun p => if p.item = some t.itemIx then { p with item := none, freedAt := s.core.cycle } else p }
  else s

/-- Whether the exit of a strand has to wait for a forwarding slot (R401, R408). -/
def State.exitBlocked (s : State) (t : Strand) : Bool :=
  match s.orderedOf t with
  | none => false
  | some l =>
    match l.item t.itemIx with
    | none => false
    | some i => !i.closed && !l.canClose t.itemIx

/-- The exit of a strand's item (R408): an item that has not closed its chain closes it with EARLY, and no item above starts. -/
def State.exitItem (s : State) (t : Strand) : State :=
  let s :=
    match s.orderedOf t with
    | none => s
    | some l =>
      match l.item t.itemIx with
      | none => s
      | some i =>
        if i.closed then s
        else
          (s.closeChain t l true).onLaunch l.id fun l =>
            { l.onItem t.itemIx fun x => { x with early := true } with
              earlyExit := some (match l.earlyExit with
                | some e => min e t.itemIx
                | none => t.itemIx) }
  s.finishItem t false

/-- L, the lowest unfinished item (R406). -/
def Launch.lowest (l : Launch) : Nat :=
  ((List.range l.nextItem).find? fun j => match l.item j with
    | some i => !i.finished
    | none => !l.never j).getD l.nextItem

/-- H, the highest started item (R406). -/
def Launch.highest (l : Launch) : Nat := l.itemStates.foldl (fun m i => max m i.idx) 0

/-- seed(N, p) (R403). -/
def Launch.seed (l : Launch) (r : BitVec 5) (p : Nat) : Word := l.seeds[(r.toNat - 16) * 3 + (p - 1)]?.getD 0

/-! ## Chain operands (R402) -/

/-- What a chain read meets. -/
inductive ChainRead where
  | value (x : Word) (early : Bool)
  | wait
  | trap (cause : BitVec 8)

/-- Whether a publication has reached the core of the reader (R407, R411). DEDUCED: log 79. -/
def State.chainHere (s : State) (p : Pub) : Bool := p.reached.contains s.core.cid

/-- Whether an item is lost (R408). -/
def Launch.isLost (l : Launch) (j : Nat) : Bool :=
  match l.item j with
  | some i => i.lost
  | none => false

/-- Reading ^k.gN (R402). In a handler it is a double trap (R254). -/
def State.chainRead (s : State) (r : BitVec 5) (k : Nat) : ChainRead :=
  if s.cur.handler.isSome then .trap 0x01
  else
    match s.orderedOf s.cur with
    | none => .trap 0x1D
    | some l =>
      let j := s.cur.itemIx
      match l.item j with
      | none => .trap 0x1D
      | some i =>
        if !l.carries r then .trap 0x1D
        else if i.closed || decide (i.cur r < k) then .trap 0x1E
        else if j < k then .value (l.seed r (k - j)) false
        else
          match l.pub (j - k) r with
          | some p => if s.chainHere p then .value p.value p.early else .wait
          | none => if l.isLost (j - k) then .trap 0x1F else .wait

end Sys2Proof.Machine
end

