-- ==== Sys2Proof/Machine/Dump.lean ====
section
/-! DEFINITION. Leaves in memory (R349-R351), copies between physical addresses (R363, R366), and the copy of one piece of a dump (R366),
which a store that reaches the piece brings about. -/

namespace Sys2Proof.Machine

/-! ## Leaves in memory (R349-R351) -/

/-- A leaf entry in memory: its address, whether it is a 1 GiB leaf, and the walk's leaf word. -/
structure LeafAt where
  pa : Nat
  big : Bool
  leaf : Word

/-- The leaf entry that a walk of an address ends at. -/
def State.leafAt (s : State) (ptroot : Word) (va : Nat) : Option LeafAt :=
  match s.walk ptroot va with
  | .leaf w =>
    let e := s.loadPa ((ptroot.extractLsb' 15 37).toNat * 2 ^ 15 + 8 * (va / 2 ^ 44 % 2 ^ 12)) 8
    let p := e % 2 ^ 52 + 8 * (va / 2 ^ 30 % 2 ^ 14)
    let m := s.loadPa p 8
    if m.testBit 62 then some ⟨p, true, w⟩ else some ⟨m % 2 ^ 52 + 64 * (va / 2 ^ 19 % 2 ^ 11) + 7 * (va / 2 ^ 16 % 8), false, w⟩
  | _ => none

/-- One bit of a leaf's last byte set or cleared, indivisibly: MIG (bit 0 of the 1 GiB layout's last byte), COW (bit 1). -/
def State.setLeafBit (s : State) (l : LeafAt) (k : Nat) (v : Bool) : State :=
  let a := if l.big then l.pa + 7 else l.pa + 6
  let b := if l.big then k else k + 1
  let x := s.loadPa a 1
  s.storePa a 1 (if v then x ||| 2 ^ b else x - (x &&& 2 ^ b))

/-! ## Copies -/

/-- What a copy between physical addresses met: poisoned lines, and lines that could not be written (R367). -/
structure PaCopy where
  poisoned : Bool
  failed : Bool

/-- Bytes copied between physical addresses of the package, line by line; poisoned lines are copied poisoned (R263, R363), and lines
that cannot be written read poisoned afterwards (R367). -/
def State.copyPa (s : State) (src dst n : Nat) : State × PaCopy :=
  (pieces src n).foldl
    (fun (s, r) p =>
      let h := s.homeOf p.1
      let s := s.homeTouch h p.2
      let b := (s.homeBad h p.2).isSome
      let bs := leBytes p.2 (s.homeLoad h p.2)
      match s.homeOf (dst + (p.1 - src)) with
      | .here k =>
        let s := s.storeBytes k bs
        (if b then s.markPoison k p.2 else s, { r with poisoned := r.poisoned || b })
      | .dead k => (s.markPoison k p.2, { poisoned := r.poisoned || b, failed := true })
      | _ => (s, { poisoned := r.poisoned || b, failed := true })) (s, ⟨false, false⟩)

/-- One bit of a bitmap in memory. -/
def State.setBitmap (s : State) (pa i : Nat) (v : Bool) : State :=
  let x := s.loadPa (pa + i / 8) 1
  s.storePa (pa + i / 8) 1 (if v then x ||| 2 ^ (i % 8) else x - (x &&& 2 ^ (i % 8)))

/-- A marked piece of the running dump is copied, its bit set, and COW cleared, on a 1 GiB leaf after its last piece (R366). -/
def State.dumpPiece (s : State) (asid : BitVec 12) (va : Nat) : State :=
  let p := va / 2 ^ 16 * 2 ^ 16
  match s.pkg.dump with
  | none => s
  | some x =>
    if x.asid ≠ asid ∨ !x.pieces.contains p then s
    else
      let rest := x.pieces.filter (· != p)
      let upd := fun (s : State) (r : PaCopy) => s.onPkg fun k =>
        { k with dump := some { x with pieces := rest, wanted := x.wanted.filter (· != p), poisoned := x.poisoned || r.poisoned, failed := x.failed || r.failed } }
      match s.leafAt x.root p with
      | none => upd s ⟨false, false⟩
      | some l =>
        let (s, r) := s.copyPa ((l.leaf.extractLsb' 16 36).toNat * 2 ^ 16) (x.dest + (p - x.start)) (2 ^ 16)
        let s := s.setBitmap x.bitmap ((p - x.start) / 2 ^ 16) true
        let done := !l.big || !rest.any fun q => q / 2 ^ 30 == p / 2 ^ 30
        upd (if done then (s.setLeafBit l 1 false).dropPage x.asid p else s) r

end Sys2Proof.Machine
end

