-- ==== Sys2Proof/Machine/Ops.lean ====
section
/-! DEFINITION. The shared operations of a strand: accesses by virtual address, the settle (R20-R25), taking a trap (R249-R258)
and returning from one (R259), ending a strand (R167, R254, R398), the suspensions, and the frame in which every instruction
issues (R31, R83, R85, R91, R123, R172, R180). -/

namespace Sys2Proof.Machine

/-- Steps of an outcome that is a next state. -/
abbrev Out := Host.Outcome State Fault Refusal

/-! ## Bytes by virtual address -/

/-- Where `n` bytes within one line lead, a link that retrains on the way or not (R430). -/
def State.reach (s : State) (a : Agent) (k : AccKind) (va n : Nat) : Option Home :=
  match s.locate a k va n with
  | .at h => some h
  | .held =>
    if isGlobal va then
      match s.xlate a.ptroot a.priv k va with
      | .ok pa _ => some (s.homeOf pa)
      | _ => none
    else if region va = 12 then (s.sramAt a va n).map .here
    else (s.scratchAt a va n).map .here
  | _ => none

/-- Bytes stored by an agent, line by line, each once the dump engine has copied a piece that it reaches (R366). A line behind a link that is
down or a failed device reads poisoned afterwards (R367), one that cannot be reached otherwise is lost (DESIGN CHOICE, log 13). -/
def State.storeVa (s : State) (a : Agent) (va : Nat) (bs : List Byte) : State :=
  (pieces va bs.length).foldl
    (fun s (p, n) =>
      let s := if s.pkg.dump.isSome && s.locate a .write p n == .held then s.dumpPiece (asidOf a.ptroot) p else s
      match s.reach a .write p n with
      | some (.here k) => s.storeBytes k ((bs.drop (p - va)).take n)
      | some (.dead k) => s.markPoison k n
      | _ => s) s

/-- Bytes loaded by an agent, line by line, with the reduce-adds on their way to them (R319, R370); a line that cannot be reached reads 0
(DESIGN CHOICE, log 13). -/
def State.loadVa (s : State) (a : Agent) (va n : Nat) : List Byte :=
  (pieces va n).flatMap fun (p, k) =>
    match s.reach a .read p k with
    | some h => leBytes k ((s.homeTouch h k).homeLoad h k)
    | none => List.replicate k 0

/-! ## What a message does where it arrives (R155, R164, R165, R176) -/

/-- A word address as INFO records it. DEDUCED: log 78. -/
def infoAt (a : Nat) : Word := BitVec.ofNat 64 a

/-- The cycle of a core in which a message arrives: the stated one on its own clock, else the present one. -/
def State.arrivalCycle (s : State) (m : Msg) (core : Nat) : Nat :=
  match m.due with
  | some t => if m.dst = core then t else (s.coreOf core).cycle
  | none => (s.coreOf core).cycle

/-- A change of a core in the cycle in which a message arrives. An `LDQ` reply due inside a movement of its context signals in its due
cycle, though R164 holds its data until the move ends (DESIGN CHOICE, log 114). -/
def State.arriveAt (s : State) (m : Msg) (core : Nat) (f : Core → Core) : State :=
  let t := s.arrivalCycle m core
  s.onCore core fun c => c.atCycle t f

/-- Where the target of an engine operation leads now. -/
def State.targetHome (s : State) (k : Nat) : Home := if k < 2 ^ 52 then s.homeOf k else .here k

/-- Whether the target of an engine operation cannot be reached: a pod address (R436, R440), one that its node refuses (R450), or for a write
a line behind a failed device or a link that is down (R367). -/
def State.unreachable (s : State) (write : Bool) (k : Nat) : Bool :=
  decide (k < 2 ^ 52) && match s.homeOf k with
    | .lost => true
    | .dead _ => write
    | .remote pa => s.refusedThere pa
    | _ => false

/-- Whether a target in this package lies beyond links that are down, seen from a core (R430). -/
def State.cutOff (s : State) (core k : Nat) : Bool :=
  !s.pkg.links.isEmpty && (decide (k < 2 ^ 51) || decide (2 ^ 52 ≤ k)) && !s.diesJoined true (dieOf core) (keyDie k)

/-- The pending results without an `LDQ` result whose target cannot be reached (R208). -/
def dropReply (h : Word) (l : List Pending) : List Pending := l.filter (·.token != h)

/-- A change of the pending results of the strand that holds an `LDQ` result. -/
def Core.onReply (c : Core) (h : Word) (f : List Pending → List Pending) : Core :=
  { c with
    cur := { c.cur with pend := if c.cur.pend.any (·.token == h) then f c.cur.pend else c.cur.pend }
    images := c.images.map fun i => if i.st.pend.any (·.token == h) then { i with st := { i.st with pend := f i.st.pend } } else i }

/-- An `LDQ` reply at its core, then its signal (R164, R208). -/
def State.replyAt (s : State) (m : Msg) (core : Nat) (h : Word) (k : Nat) : State :=
  if s.unreachable false k || s.cutOff core k then (s.onCore core (·.onReply h (dropReply h))).arriveAt m core (·.fail h 4)
  else
    let home := s.targetHome k
    let s := s.homeTouch home 8
    let x := BitVec.ofNat 64 (s.homeLoad home 8)
    let err := (s.homeBad home 8).map fun (p, off) => ({ poisoned := p, addr := infoAt off, lanes := 1 } : DataError)
    let s := { s with free := s.free + 1 }
    s.arriveAt m core fun c => (c.onReply h fun l => l.map fun e =>
      if e.token = h then
        { e with
          wr := (match e.wr with | .g r _ => .g r x | w => w)
          present := true
          err := err.map fun d => { d with addr := e.addr + d.addr } }
      else e).signal h

/-- The store of an `STQ` at its home, then its signal; a target that cannot be reached fails its token, and its line reads poisoned
afterwards (R208, R367). -/
def State.storeArrives (s : State) (m : Msg) (core : Nat) (h : Word) (k : Nat) (x : Word) : State :=
  if s.cutOff core k then (s.markPoison k 8).arriveAt m core (·.fail h 4)
  else
    let gone := s.unreachable true k
    (s.homeStore (s.targetHome k) 8 x.toNat).arriveAt m core (if gone then (·.fail h 4) else (·.signal h))

/-- The reply of an `LDQ` of the running strand, awaited: it arrives in its stated cycle, or after an unstated wait (DESIGN CHOICE,
log 5). -/
def State.awaitReply (s : State) (cause : Cause) (h : Word) : State :=
  match s.flight.find? fun m => match m.body with | .ldqReply _ _ t _ _ => t == h | _ => false with
  | none => s
  | some m =>
    match m.body with
    | .ldqReply c _ _ k _ =>
      let s := match m.due with
        | some t => s.stall cause (t - s.core.cycle)
        | none => s.freeStall cause
      ({ s with flight := s.flight.filter (· != m) }).replyAt m c h k
    | _ => s

/-! ## Settling (R20-R25) -/

/-- The register member index of the running strand's own core in its gang (R291). -/
def State.own (s : State) : Nat := s.core.cid % Config.coresPerCluster % (max s.cur.sp.gangsz 1)

/-- Whether a settle point takes a pending result: an `LDQ` result only once its token has been observed (R22). -/
def Pending.due (e : Pending) : Bool := e.token == 0 || e.observed

/-- The pending results after a settle: those not yet due, and the erroneous ones after the first (R262). -/
def remaining (bad : Option Pending) (l : List Pending) : List Pending :=
  match bad with
  | none => l.filter (!·.due)
  | some b => (l.filter fun e => !e.due || e.err.isSome).erase b

/-- The vector registers that a pending result writes. -/
def PendWrite.vregs : PendWrite → List (BitVec 5)
  | .v r _ _ => [r]
  | _ => []

/-- A settle waits for the `LDQ` replies that are due and have not arrived (R20, R22): such a token has been signalled early. -/
def State.awaitReplies (s : State) (cause : Cause) : State :=
  (s.cur.pend.filter fun e => e.due && e.token != 0 && !e.present).foldl (fun s e => s.awaitReply cause e.token) s

/-- settle() (R20): it waits until every due result is present, wakes the banks they land in (R84), writes the correct ones,
and answers the first erroneous one (R262). The wait is charged to the cause given. -/
def State.settle (s : State) (cause : Cause) : State × Option Pending :=
  let s := s.awaitReplies cause
  let due := s.cur.pend.filter (·.due)
  let s := if due.any (!·.present) then s.freeStall cause else s
  let bad := due.find? (·.err.isSome)
  let good := due.filter fun e => e.err.isNone && !e.cancelled
  let (n, t) := s.cur.wake (good.flatMap (·.wr.vregs))
  let s := (s.onCur fun _ => t).stall .power n
  (s.onCur fun t => { good.foldl (fun t e => t.land s.own e) t with pend := remaining bad t.pend }, bad)

/-- RCLASS and REG of a pending result (R257). -/
def PendWrite.named : PendWrite → BitVec 3 × BitVec 5
  | .g r _ => (1, r)
  | .v r _ _ => (2, r)
  | .m r _ => (3, r.setWidth 5)
  | .c r _ _ => (4, r.setWidth 5)
  | .s r _ => (2, r)

/-- A precise trap with a cause and INFO. -/
def mkTrap (cause : BitVec 8) (info : Word) : TrapInfo :=
  { cause := cause, info := info, rclass := 0, reg := 0, lanes := 0, ecode := 0, attempts := 0, settledAt := none, word := 0, held := none }

/-- The trap of an erroneous deferred result (R24, R262): execution continues at `resume` (R258). -/
def Pending.trap (e : Pending) (resume : Word) : TrapInfo :=
  match e.err with
  | none => mkTrap 0x0F 0
  | some x =>
    { mkTrap (if x.poisoned then 0x0F else 0x0E) x.addr with
      rclass := e.wr.named.1, reg := e.wr.named.2, lanes := x.lanes, settledAt := some (e.pc, resume), word := e.word.setWidth 64, held := some e }

/-- A token that the strand observes makes its `LDQ` result settle at the next settle point (R22). -/
def Strand.observed (t : Strand) (h : Word) : Strand :=
  { t with pend := t.pend.map fun e => if e.token = h ∧ h ≠ 0 then { e with observed := true } else e }

/-- Observing a token as the running strand (R154, R22, R233): an `LDQ` result becomes due when its token is SIGNALLED (R22).
DEDUCED: log 47. -/
def State.observe (s : State) (h : Word) : State :=
  let t := (s.onFocus (·.observe h)).observeBatch h
  if s.core.status h = 0 then t.onCur (·.observed h) else t

/-- Before a save: the vector queue completes (R125), and every issued instruction has written its result, a division or
multiplication in progress included (R106). -/
def State.quiesce (s : State) (cause : Cause) : State :=
  let s := s.vqDrain cause
  s.stall cause (max s.core.divBusy s.core.mulDone - s.core.cycle)

/-- The drain and the settle before a save, charged to its cause: to TRAP when the settle finds an erroneous result, because the save that
follows is then that of its trap (R183). -/
def State.drainSettle (s : State) (cause : Cause) : State × Option Pending :=
  match (s.quiesce cause).settle cause with
  | (_, some _) => (s.quiesce .trap).settle .trap
  | r => r

/-! ## The end of a strand (R153, R166, R167, R247, R254) -/

/-- Whether another strand of the core holds the gang with a strand: its child (R166) or its creator. -/
def Core.gangShared (c : Core) (t : Strand) : Bool :=
  (c.running && c.cur.num != t.num && decide (1 < c.cur.sp.gangsz)) || c.images.any fun i => i.st.num != t.num && decide (1 < i.st.sp.gangsz)

/-- The partners of a gang are released (R291), unless another strand of the core holds them too. -/
def State.freeGang (s : State) (t : Strand) : State :=
  if t.sp.gangsz ≤ 1 ∨ s.core.gangShared t then s
  else
    let first := s.core.cid - s.core.cid % Config.coresPerCluster % t.sp.gangsz
    (List.range t.sp.gangsz).foldl
      (fun s i => if first + i = s.core.cid then s else s.onCore (first + i) fun c => { c with gangHead := none }) s

/-- The channels of a strand's streams (R222): those without a drain under way are freed; the others free when it finishes. -/
def State.dropStreams (s : State) (t : Strand) : State :=
  s.onFocus fun c =>
    { c with
      channels := c.channels - (t.bindings.filter fun b => b.drains = 0).length
      drains := c.drains.map fun d =>
        if d.strand = t.num ∧ d.handler = t.handler.isSome ∧ t.bindings.any (·.reg == d.reg) then { d with last := true } else d }

/-- The parts of a strand's end that every way of ending shares: its spawn cell is told, its cells become orphans, those left
behind by `HOP` (R168) too, its number is freed or kept for its matrix state, its waiters, gang and channels are released (R153, R166, R222, R247, R285, R291). -/
def State.endStrand (s : State) (t : Strand) (code : Option (BitVec 8)) : State :=
  let s := if hGen t.spawnCell = 0 then s else match code with
    | none => s.signalTo t.spawnCell
    | some e => s.failTo t.spawnCell e
  let s := (s.freeGang t).dropStreams t
  let s := t.left.foldl (fun s p => s.onCore p.1 (·.orphanCells p.2)) s
  let s := s.onCluster (clusterOf s.core.cid) fun cl =>
    { cl with waiters := cl.waiters.filter fun w => !(w.core == s.core.cid && w.strand == t.num) }
  s.onFocus fun c =>
    let c := { c with waiters := c.waiters.filter fun w => !(w.core == c.cid && w.strand == t.num) }
    let c := { c with mx := { c.mx with lifted := c.mx.lifted.filter fun k => k.owner != t.num } }
    let c := match t.batch with
      | none => c
      | some h => ({ c with mx := { c.mx with batches := onBatch h (fun b => { b with closed := true }) c.mx.batches } }).endBatches
    let c := c.orphanCells t.num
    let c := if c.mx.ownsUnits t.num ∨ (c.mx.queue.any fun k => k.owner == t.num) then { c with keptNums := t.num :: c.keptNums } else c
    c.sweepKept

/-- The running strand is gone from the core, with its entry. -/
def State.vacate (s : State) : State :=
  s.onFocus fun c => { c with running := false, waiting := false, posted := false, curEntry := false, reply := .none, cur := Strand.reset }

/-- A launch begins its cancellation with a code (R254, R255, R398), unless it has finished or is already being cancelled. -/
def State.cancelLaunch (s : State) (l : Option Nat) (code : BitVec 8) (record : List Byte) : State :=
  match l with
  | none => s
  | some i =>
    s.onLaunch i fun x =>
      match x.phase with
      | .placed => { x with phase := .cancelling code, trapRecord := record }
      | .waiting => { x with phase := .cancelling code, trapRecord := record }
      | _ => x

/-! ## Taking a trap (R249-R258) -/

/-- Base address of trap slot `n` of a core (R252). -/
def Core.slotBase (c : Core) (n : Nat) : Nat := (c.trapcfg.extractLsb' 20 36).toNat * 2 ^ 20 + 163840 * n

/-- Trap slots of a core (R252). -/
def Core.slotCount (c : Core) : Nat := (c.trapcfg.extractLsb' 56 8).toNat

/-- The lowest free trap slot (R251). -/
def Core.freeSlot (c : Core) : Option Nat := (List.range c.slotCount).find? fun n => !c.trapSlots.any (·.slot == n)

/-- Whether the word at issue is `WIDE` (R13). -/
def wideWord (w : BitVec 32) : Bool := w.extractLsb' 25 6 == 0x3E

/-- PC + 4, or PC + 8 for `WIDE` (R256). -/
def nextPc (pc : Word) (w : BitVec 32) : Word := pc + if wideWord w then 8 else 4

/-- STATUS of a trap record (R257). -/
def statusWord (t : TrapInfo) (strand : Nat) (uefixed : Bool) : Word :=
  0#8 ++ (t.ecode ++ (BitVec.ofNat 8 t.attempts ++ (BitVec.ofNat 8 strand ++ (0#8 ++ (BitVec.ofBool uefixed ++ (BitVec.ofBool t.settledAt.isSome ++
    (t.rclass ++ (t.reg ++ (0#6 ++ t.cause)))))))))

/-- SFLAGS as it reads: SAT is the bit of FPSR (R63, R74). -/
def Specials.sflagsRead (p : Specials) : Word := (p.sflags &&& ~~~4#64) ||| (if p.fpsr.getLsbD 5 then 4#64 else 0#64)

/-- The dwords of the SPEC area of a trap record (R256). -/
def Specials.specArea (p : Specials) : List Word :=
  [p.fpcr, p.fpsr, p.sflagsRead, p.sctl, p.wlimit, p.xsel, p.vbank, p.acctcfg]

/-- Bytes of a list of dwords. -/
def dwords (l : List Word) : List Byte := l.flatMap fun x => leBytes 8 x.toNat

/-- The PC at which a strand continues after a trap (R256, R258). -/
def TrapInfo.resume (t : TrapInfo) (st : Strand) : Word :=
  match t.settledAt with
  | some (_, r) => r
  | none => if t.cause = 0x1C then nextPc st.pc (t.word.extractLsb' 0 32) else st.pc

/-- PC of a trap record (R256): 0 for CONTEXT_LOST. -/
def TrapInfo.pcOf (t : TrapInfo) (st : Strand) : Word :=
  match t.settledAt with
  | some (p, _) => p
  | none => if t.cause = 0x13 then 0 else st.pc

/-- The trap record of a strand (R256): PC, NEXTPC, RESUMEPC and the contents as the trap finds them. -/
def trapRecordBytes (t : TrapInfo) (st : Strand) : List Byte :=
  let pc := t.pcOf st
  let next := nextPc pc (t.word.extractLsb' 0 32)
  dwords ([statusWord t st.num false, pc, next, t.info, t.word, t.resume st, st.gdead.setWidth 64, 0] ++
    (0#64 :: (List.range 31).map fun i => st.readG (BitVec.ofNat 5 (i + 1))) ++ st.sp.specArea ++ List.replicate 80 0#64) ++
  leBytes 1024 t.lanes.toNat

/-- Supervisor access in the address space of the running strand. -/
def State.supervisor (s : State) : Agent := { s.agent with priv := true }

/-- The handler strand of R253, with the trapping strand's number and counters. -/
def handlerStrand (st : Strand) (record : Nat) (h : HandlerCtx) (self : Word) : Strand :=
  { Strand.reset with
    num := st.num
    pc := st.sp.trapvec
    sp := { Specials.reset with
      sctl := 0x13, item := st.sp.item, lstb := st.sp.lstb, lstn := st.sp.lstn, pwin := st.sp.pwin, depset := st.sp.depset,
      trapvec := st.sp.trapvec, traprec := BitVec.ofNat 64 record, self := self, ptroot := st.sp.ptroot }
    counters := st.counters
    launch := st.launch
    handler := some h }

/-- A change of the state whose slots are charged at a PC of the running strand (R180 rule 3). -/
def State.atPc (s : State) (pc : Word) (f : State → State) : State :=
  (f (s.onCur fun t => { t with pc := pc })).onCur fun t => { t with pc := s.cur.pc }

/-- Completing a delivery into a free slot (R251, R253): the trapped image goes to the slot with the record, and the handler
takes the core at once. The trapped strand is the running one. -/
def State.deliver (s : State) (t : TrapInfo) (slot bytes : Nat) : State :=
  let st := s.cur
  let s := s.atPc (t.resume st) fun s => s.stall .trap (8 + ceilDiv (bytes + 2048) 64)
  let base := s.core.slotBase slot
  let s := (s.storeVa s.supervisor base (trapRecordBytes t s.cur)).trimSaving
  let img := { s.cur.cleaned.image s.cur.taggedWhole .trapped .go s.core.cycle with place := .slot slot, cleanCopy := s.cleanRows }
  let img := { img with st := { img.st with trapDue := some t } }
  let h := handlerStrand s.cur base ⟨slot, t.cause, false, false, false, s.core.ownsMatrix st⟩ st.sp.self
  let s := s.onFocus fun c =>
    { c with
      images := img :: c.images
      trapSlots := ⟨slot, st.num⟩ :: c.trapSlots
      curEntry := false
      waiting := false
      reply := .none
      cur := h }
  s.charge .switch (some st.num) h.pc h.pc 2

/-- An unhandled trap (R255): the strand ends and its launch is cancelled with UNHANDLED. -/
def State.unhandled (s : State) (t : TrapInfo) : State :=
  let st := s.cur
  let report := trapRecordBytes t st
  let s := ((s.endStrand st (some 7)).finishItem st true).vacate
  s.cancelLaunch st.launch 0x21 report

/-- A double trap of the handler strand `st` (R254): no handler starts; handler and trapped image are discarded, the record's SECOND
area is written and the record becomes the cancellation report of the launch. -/
def State.doubleTrapOf (s : State) (st : Strand) (t : TrapInfo) (h : HandlerCtx) : State :=
  let base := s.core.slotBase h.slot
  let a : Agent := ⟨s.core.cid, st.launch, st.sp.ptroot, true⟩
  let second := dwords [statusWord t st.num false, t.pcOf st, t.info, t.word]
  let s := s.storeVa a (base + 384) second
  let report := s.loadVa a base 2048
  let trapped := (s.core.images.find? fun i => i.place == .slot h.slot).map (·.st)
  let s := s.onFocus fun c =>
    { c with
      images := c.images.filter fun i => i.st.num != st.num
      trapSlots := c.trapSlots.filter (·.slot != h.slot) }
  let s := (s.freeGang st).dropStreams st
  let who := trapped.getD st
  ((s.endStrand who (some 7)).finishItem who true).cancelLaunch st.launch 0x22 report

/-- A double trap of the running strand. -/
def State.doubleTrap (s : State) (t : TrapInfo) (h : HandlerCtx) : State := (s.doubleTrapOf s.cur t h).vacate

/-- Taking a trap (R251): the vector queue completes, settle() runs, and the trap is delivered. An erroneous result found by
that settle is delivered instead (R262, R269). In a handler it is a double trap (R254); with no handler PC it is unhandled
(R255); with no free slot the strand waits in its Basin home (R251). -/
def State.takeTrap (s : State) (t : TrapInfo) : State :=
  let t := if t.settledAt.isSome then t else
    { t with word := s.core.irPayload ++ s.core.ir, attempts := if t.attempts = 0 ∧ s.cur.reissue then s.cur.attempts else t.attempts }
  let s := s.atPc (t.resume s.cur) (·.quiesce .trap)
  let (s, bad) := if t.settledAt.isSome then (s, none) else
    let r := (s.onCur fun c => { c with pc := t.resume c }).settle .trap
    (r.1.onCur fun c => { c with pc := s.cur.pc }, r.2)
  let t := match bad with
    | some e => e.trap s.cur.pc
    | none => t
  let s := s.onCur fun c => { c with reissue := false, attempts := 0, firstRefusal := none }
  match s.cur.handler with
  | some h => s.doubleTrap t h
  | none =>
    if s.cur.sp.trapvec = 0 then s.unhandled t
    else
      match s.core.freeSlot with
      | some n => s.deliver t n s.cur.taggedBytes
      | none =>
        let num := s.cur.num
        (s.saveBasin .trap (.slotWait t s.cur.taggedBytes) .go false).onFocus fun c => { c with slotQueue := c.slotQueue ++ [num] }

/-- The handler of a lost strand (R177, R253): its record, with no image, and a handler strand that is runnable from the
cycle in which the loss was found. -/
def State.lostHandler (s : State) (st : Strand) (t : TrapInfo) (slot found : Nat) (preempted : Bool) : State :=
  let base := s.core.slotBase slot
  let a : Agent := ⟨s.core.cid, st.launch, st.sp.ptroot, true⟩
  let s := s.storeVa a base (trapRecordBytes t { Strand.reset with num := st.num })
  let h := handlerStrand st base ⟨slot, t.cause, false, false, false, s.core.ownsMatrix st⟩ st.sp.self
  s.onFocus fun c =>
    { c with
      images := { h.image 1024 .ready .go found with place := .fresh, preempted := preempted } :: c.images
      trapSlots := ⟨slot, st.num⟩ :: c.trapSlots }

/-- Completing a delivery that waited for a slot (R251): the image, of `tagged` bytes, is copied from the Basin home to the slot. A lost
strand has no image. -/
def State.deliverWaiting (s : State) (i : Image) (t : TrapInfo) (tagged slot : Nat) : State :=
  let s := s.onFocus fun c =>
    { c with
      images := c.images.filter fun j => !(j.st.num == i.st.num && !j.inSlot)
      slotQueue := c.slotQueue.filter (· != i.st.num) }
  if t.cause = 0x13 then s.lostHandler i.st t slot i.savedAt i.preempted
  else (s.onFocus fun c => { c with running := true, curEntry := i.cleanCopy != 0, cur := i.deposited }).deliver t slot tagged

/-! ## Returning from a trap (R259) -/

/-- Dword `i` of a list of record bytes. -/
def recWord (b : List Byte) (i : Nat) : Word := BitVec.ofNat 64 (leValue ((b.drop (8 * i)).take 8))

/-- The trapped image comes back to the core, and its slot is freed (R259). -/
def State.resumeTrapped (s : State) (i : Image) (t : Strand) (slot : Nat) : State :=
  let s := s.onFocus fun c =>
    { c with
      images := c.images.filter fun j => !(j.place == .slot slot)
      trapSlots := c.trapSlots.filter (·.slot != slot)
      waiting := false
      reply := .none
      cur := { t with counters := c.cur.counters, trapDue := none }
      curEntry := false }
  (s.trim 0 makeRoomFuel).basinCharge 30 i.bytes t.num t.pc

/-! ## Results of an instruction -/

/-- What the body of an instruction answers: it completed, it completed and chose the next PC of a taken branch, it traps, it
waits before it issues, or it took the strand off the core. -/
inductive Res where
  | ok (s : State)
  | jump (s : State) (pc : Word)
  | trap (s : State) (t : TrapInfo)
  | wait (s : State) (c : Cause)
  | left (s : State)

/-- A precise trap of the instruction. -/
def State.raise (s : State) (cause : BitVec 8) (info : Word) : Res := .trap s (mkTrap cause info)

/-- ILLEGAL (R30, R76). -/
def State.illegal (s : State) : Res := s.raise 0x01 0

/-- The slot of an instruction that issues (R180): charged to ISSUE, the PC moves on, the instance is over (R261, R285). -/
def State.slot (s : State) (next : Word) : State :=
  (s.charge .issue (some s.cur.num) s.cur.pc next 1).onCur fun t =>
    { t with pc := next, attempts := 0, reissue := false, masked := false, firstRefusal := none }

/-- The settle of an instruction whose S bit is 1 (R14, R20, R24). -/
def State.settleAfter (s : State) (st : Bool) : State :=
  if st then
    let s := s.vqWait .settle fun _ => true
    match s.settle .settle with
    | (s, none) => s
    | (s, some e) => s.takeTrap (e.trap s.cur.pc)
  else s

/-- An instruction of `len` bytes completes: its slot, then its settle. -/
def State.complete (s : State) (st : Bool) (len : Nat) : State :=
  (s.slot (s.cur.pc + BitVec.ofNat 64 len)).settleAfter st

/-- A taken branch or jump completes: its slot, the slot charged to FETCH (R92) in which the instruction at the target waits (R180
rule 4; DEDUCED: log 93), the settle (R93). -/
def State.completeJump (s : State) (st : Bool) (pc : Word) : State :=
  let s := (s.slot pc).closeRun
  (s.charge .fetch (some s.cur.num) pc pc 1).settleAfter st

/-- The instruction has not issued: the slots are charged, and it is tried again (R106). -/
def State.retry (s : State) (c : Cause) : State := (s.waitSlots c).onFocus fun x => { x with waiting := true }

/-- The instruction waits no longer, and no unit owes it an answer. -/
def State.unwait (s : State) : State := s.onFocus fun c => { c with waiting := false, posted := false, reply := .none }

/-- The state after an instruction of `len` bytes with settle marker `st`. -/
def Res.finish (r : Res) (st : Bool) (len : Nat) : State :=
  match r with
  | .ok s => s.unwait.complete st len
  | .jump s pc => s.unwait.completeJump st pc
  | .trap s t => s.unwait.takeTrap t
  | .wait s c => s.retry c
  | .left s => s

/-- An instruction of 4 bytes that has issued, after which the next instruction waits for a unit's reply, for an unstated time
(R334, R389). -/
def State.replyWait (s : State) (st : Bool) (cause : Cause) : Res := .left (((s.unwait.slot (s.cur.pc + 4)).freeStall cause).settleAfter st)

/-! ## Suspensions (R145, R172, R260) -/

/-- The cause of a save of `bytes` (R148): into an entry, or into the Basin. -/
def State.saveCause (s : State) (bytes : Nat) (cond : Cond) (resume : Resume) : Cause :=
  if (s.makeRoom (bytes - 1024) (some (s.cur.image bytes cond resume s.core.cycle)) makeRoomFuel).2 then .switch else .basin

/-- The drain and settle before a save of an image of `bytes`, charged to the cause of the save that follows them (R183). -/
def State.settleToSave (s : State) (bytes : Strand → Nat) (cond : Cond) (resume : Resume) : State × Option Pending :=
  let t := (s.drainSettle .switch).1
  if t.saveCause (bytes t.cur) cond resume = .switch then s.drainSettle .switch else s.drainSettle .basin

/-- A suspension with every register kept (R20, R145): drain, settle, save. An erroneous result is delivered instead (R258). -/
def State.suspendFull (s : State) (cond : State → Cond) (resume : Resume) : State :=
  match s.settleToSave Strand.fullBytes (cond s) resume with
  | (s, some e) => s.takeTrap (e.trap s.cur.pc)
  | (s, none) => s.saveFull (cond s) resume

/-- The deadline of WLIMIT from a cycle; WLIMIT 0 is no bound (R172, R286). -/
def Strand.deadline (t : Strand) (from_ : Nat) : Option Nat :=
  let w := (t.sp.wlimit.extractLsb' 0 32).toNat
  if w = 0 then none else some (from_ + w)

/-- A read of empty deposit registers (R172): WLIMIT counts from the suspension. -/
def State.suspendDeposit (s : State) (regs : BitVec 4) : State :=
  s.suspendFull (fun s => .deposit regs (s.cur.deadline s.core.cycle)) .go

/-- The distinct pages of a fault, ascending, at most 384 (R359). -/
def sortPages (l : List (Nat × Nat)) : List (Nat × Nat) :=
  let ins := fun (acc : List (Nat × Nat)) (p : Nat × Nat) =>
    if acc.any (·.1 == p.1) then acc else (acc.filter (·.1 < p.1)) ++ p :: acc.filter (p.1 < ·.1)
  (l.foldl ins []).take 384

/-- The batch of a strand's fault (R358). -/
def Strand.faultBatch (t : Strand) (token : Word) (pages : List (Nat × Nat)) (acc : BitVec 3) : FaultBatch :=
  { token := token, pages := sortPages pages, sup := t.priv, acc := acc, eng := false, asid := asidOf t.sp.ptroot, attempt := t.attempts }

/-- The page-fault path (R260): `pages` are (page address, level) of the V = 0 entries met, `lanes` is FLTM for FAULT_REPEAT,
`first` the first faulting byte address. -/
def State.faultPath (s : State) (pages : List (Nat × Nat)) (acc : BitVec 3) (first : Word) : State :=
  let s := s.onCur fun t => { t with attempts := if t.reissue then t.attempts + 1 else 1 }
  if s.cur.attempts = 8 then
    s.takeTrap { mkTrap 0x16 first with lanes := s.cur.vf.fltm, attempts := 8 }
  else
    let n := s.cur.attempts
    match s.settleToSave Strand.taggedWhole (.faultCell pages acc first) .go with
    | (s, some e) => s.takeTrap (e.trap s.cur.pc)
    | (s, none) =>
      let s := s.onCur fun t => { t with attempts := n }
      match s.core.alloc s.node Config.faultCells (Config.numCells - Config.faultCells) 5 1 s.cur.num with
      | none => s.saveTagged (.faultCell pages acc first) .go
      | some (h, c) =>
        let s := { s with core := c }
        let s := s.onPkg fun p => { p with batches := p.batches ++ [s.cur.faultBatch h pages acc] }
        s.saveTagged (.fault h) (.fault h first)

/-- Strands that wait for a kind-5 cell get one when it frees, in the order of their suspension (R260). -/
def State.grantFaultCells (s : State) : Nat → State
  | 0 => s
  | n + 1 =>
    match s.core.images.reverse.find? fun i => match i.cond with | .faultCell _ _ _ => true | _ => false with
    | none => s
    | some i =>
      match i.cond with
      | .faultCell pages acc first =>
        match s.core.alloc s.node Config.faultCells (Config.numCells - Config.faultCells) 5 1 i.st.num with
        | none => s
        | some (h, c) =>
          let s := { s with core := { c with images := onImage i.st.num (fun j => { j with cond := .fault h, resume := .fault h first }) c.images } }
          (s.onPkg fun p => { p with batches := p.batches ++ [i.st.faultBatch h pages acc] }).grantFaultCells n
      | _ => s

/-! ## The frame in which an instruction issues -/

/-- What an instruction names: whether it needs PRIV = 1, its source registers by class, every vector register it writes or names
beside them, its chain operand (R90), the pending results it creates, whether the vector unit performs it and whether the divider
does. `vref` holds vector registers that it names as sources without reading their elements, `vnew` those that it names as
destinations without writing them, `glate` the `g` registers that it reads without naming them. `holds` tells whether a wait of its own charged to CHAIN is unmet (R153, R405, R407). -/
structure Use where
  priv : Bool := false
  g : List (BitVec 5) := []
  v : List (BitVec 5) := []
  m : List (BitVec 4) := []
  c : List (BitVec 3) := []
  vd : List (BitVec 5) := []
  md : List (BitVec 4) := []
  vref : List (BitVec 5) := []
  vnew : List (BitVec 5) := []
  chain : Option (BitVec 5 × BitVec 2) := none
  holds : State → Bool := fun _ => false
  glate : List (BitVec 5) := []
  pends : Nat := 0
  vec : Bool := false
  div : Bool := false

/-- The vector registers that an instruction names (R85). -/
def Use.banks (u : Use) : List (BitVec 5) := u.v ++ u.vd ++ u.vref ++ u.vnew

/-- Whether a register is bound to an in stream whose current block has not arrived: a read of it waits (R220). DEDUCED: log 44. -/
def Strand.awaitsBlock (t : Strand) (r : BitVec 5) : Bool := t.bindings.any fun b => !b.out && b.reg == r && !b.arrived

/-- The dead source that DEAD_READ names, if there is one (R83): RCLASS and REG. A stream register whose block has not arrived is
none: its read waits (R220). Among several dead sources it names the first `g`, else the first `v`, `m`, `c` (DESIGN CHOICE, log 103). -/
def Strand.deadSource (t : Strand) (u : Use) : Option (BitVec 3 × BitVec 5) :=
  if t.sp.sctl.getLsbD 2 then
    match u.g.find? t.deadG with
    | some r => some (1, r)
    | none =>
      match (u.v ++ u.vref).find? fun r => t.deadV r && !t.awaitsBlock r with
      | some r => some (2, r)
      | none =>
        match u.m.find? t.deadM with
        | some r => some (3, r.setWidth 5)
        | none => (u.c.find? t.deadC).map fun r => (4, r.setWidth 5)
  else none

/-- The empty deposit registers among the sources (R172). -/
def Strand.emptySources (t : Strand) (u : Use) : BitVec 4 :=
  u.g.foldl (fun m r => if t.emptyG r then m ||| (1#4 <<< (depositIx r).toNat) else m) 0

/-- Whether the instruction waits for CHAIN (R180): its chain operand has no value yet (R90, R402), or its own condition is unmet. -/
def State.chainWaits (s : State) (u : Use) : Bool :=
  u.holds s || match u.chain with
  | none => false
  | some (r, k) => match s.chainRead r k.toNat with
    | .wait => true
    | _ => false

/-- Cycles until the latencies of the scalar sources have elapsed, and until the divider is free when it is needed (R91). -/
def State.depWait (s : State) (u : Use) : Nat :=
  (s.cur.gReady.filter fun p => (u.g ++ u.glate).contains p.1).foldl (fun m p => max m p.2) (if u.div then s.core.divBusy else 0) - s.core.cycle

/-- Whether a queued vector instruction writes a register that an instruction outside the vector unit reads (R123), or a `g`
register that any instruction reads. FPSR and SFLAGS are no such registers (DESIGN CHOICE, log 89). -/
def Use.readsFrom (u : Use) (e : VQEntry) : Bool :=
  (match e.gdst with
    | some r => (u.g ++ u.glate).contains r
    | none => false) ||
  (!u.vec && ((u.v.any fun r => e.vdst.getLsbD r.toNat) || (u.m.any fun r => e.mdst.getLsbD r.toNat) || (u.c.any fun r => e.cdst.getLsbD r.toNat)))

/-- Cycles until the completion cycles of the queued vector instructions for which an instruction waits have passed (R123): those that it
reads from, those whose flags a TE bit asks for, and at a full queue of 8 the first. -/
def Core.queueWait (c : Core) (u : Use) : Nat :=
  (c.vq.filter fun e => u.readsFrom e || e.flagged).foldl (fun m e => max m (e.done + 1))
    (if u.vec ∧ 8 ≤ c.vq.length then (c.vq.head?.map (·.done + 1)).getD 0 else 0) - c.cycle

/-- An in binding whose block has not arrived, or an out binding whose drain has not read the register (R220). DEDUCED: log 44. -/
def Strand.streamBlocks (t : Strand) (u : Use) : Bool :=
  t.bindings.any fun b => if b.out then u.vd.contains b.reg && b.drains != 0 else u.v.contains b.reg && !b.arrived

/-- Whether a vector instruction would open a convoy while a debug stop is wanted (R192): the boundary comes first. -/
def Core.stopFirst (c : Core) (u : Use) : Bool :=
  u.vec && c.stopWanted && !c.joins (c.startOf (regMask 32 u.v) (regMask 16 u.m) (regMask 8 u.c))

/-- The waits that follow the settle of R23, in the order of R180: latencies, queued vector instructions, the boundary of a debug
stop (R192), streams. Each slot of a wait is a step of its own, after which the instruction is tried again (R106), so that a trap or
pre-emption ends the wait where it is delivered (R180). DEDUCED: log 94. -/
def State.whenReady (s : State) (u : Use) (body : State → Res) : Res :=
  let s := s.vqNow
  if s.depWait u ≠ 0 then .left (s.stall .dep 1)
  else if s.core.queueWait u ≠ 0 then .left (s.stall .vqFull 1)
  else if s.core.stopFirst u then .left (s.vqDrain .vqFull)
  else if s.cur.streamBlocks u then .wait s .stream
  else body s

/-- The limit of R23 on pending results: a settle, after which the instruction is tried again, or PENDING_FULL when it does not
help. -/
def State.withRoom (s : State) (u : Use) (body : State → Res) : Res :=
  if s.cur.pend.length + u.pends ≤ 16 then body s
  else
    match s.settle .settle with
    | (s, some e) => .trap s (e.trap s.cur.pc)
    | (s, none) => if s.cur.pend.length + u.pends ≤ 16 then .left s else s.raise 0x20 0

/-- The banks of these registers are ON (R85): a wake begins, or goes on for one slot more, or is over. -/
def State.powered (s : State) (regs : List (BitVec 5)) : Option State :=
  let (n, t) := s.cur.wake regs
  if n ≠ 0 then some ((s.onCur fun _ => { t with powerTill := s.core.cycle + n }).stall .power 1)
  else if s.core.cycle < s.cur.powerTill then some (s.stall .power 1)
  else none

/-- The frame of an instruction (R31): privilege, empty deposit registers, the wake of banks (R85, R126), dead sources, the waits
in the order of R180, the limit on pending results, then its own effect. The spec gives no order among an empty deposit register, a
dead source and the faults of a chain operand: the model takes them in this order (DESIGN CHOICE, log 86). -/
def State.gate (s : State) (u : Use) (body : State → Res) : Res :=
  if u.priv && !s.cur.priv then s.raise 0x02 0
  else
    let e := s.cur.emptySources u
    if e ≠ 0 then .left (s.suspendDeposit e)
    else
      match s.powered u.banks with
      | some s => .left s
      | none =>
        match s.cur.deadSource u with
        | some (k, r) => .trap s { mkTrap 0x08 0 with rclass := k, reg := r }
        | none =>
          if s.chainWaits u then .wait s .chain
          else s.withRoom u fun s => s.whenReady u body

/-- An instruction of `len` bytes: its frame, its effect, its completion. -/
def issue (st : Bool) (len : Nat) (u : Use) (body : State → Res) (s : State) : Out :=
  .next ((s.gate u body).finish st len)

/-- The traps of an instruction that name a special register (R256, R257): RCLASS 5, and INFO the index. -/
def Res.naming (r : Res) (x : BitVec 12) : Res :=
  match r with
  | .trap s t => if t.rclass = 0 ∧ t.info = 0 ∧ t.settledAt = none then .trap s { t with rclass := 5, info := x.setWidth 64 } else .trap s t
  | r => r

/-- An `RDS` or `WRS` word: its frame, its effect, its completion. -/
def issueSpecial (st : Bool) (u : Use) (x : BitVec 12) (body : State → Res) (s : State) : Out :=
  .next (((s.gate u body).naming x).finish st 4)

/-- Forbidden in a handler strand: a double trap (R254). -/
def State.notInHandler (s : State) (k : Res) : Res := if s.cur.handler.isSome then s.illegal else k

/-! ## Shorthands of the meanings -/

/-- Reading a `g` register of the running strand. -/
def State.rg (s : State) (r : BitVec 5) : Word := s.cur.readG r

/-- Writing a `g` register of the running strand. -/
def State.wg (s : State) (r : BitVec 5) (x : Word) : State := s.onCur (·.writeG r x)

/-- The register files of the gang. -/
def State.files (s : State) : List VFile := s.cur.files s.own

/-- Adding a pending result (R20). An earlier pending result for the same register is cancelled (R21). -/
def State.defer (s : State) (e : Pending) : State :=
  s.onCur fun t =>
    let p := match e.wr with
      | .g r _ => if r = 0 then t.pend else cancelIf (·.isG r) t.pend
      | .v r _ sc =>
        let p := t.pend.map (·.takenV r)
        match sc with
        | some w => (cancelIf (·.isC w.reg) p).map fun e => { e with wr := e.wr.dropScale w.reg }
        | none => p
      | .m r _ => if r = 0 then t.pend else cancelIf (·.isM r) t.pend
      | .c r _ _ => (cancelIf (·.isC r) t.pend).map fun e => { e with wr := e.wr.dropScale r }
      | .s _ w => (cancelIf (·.isC w.reg) t.pend).map fun e => { e with wr := e.wr.dropScale w.reg }
    { t with pend := p ++ [e] }

end Sys2Proof.Machine
end

