-- ==== Sys2Proof/Machine/Flags.lean ====
section
/-! DEFINITION. Flags (R63-R66, R111): the sticky flags of FPSR and SFLAGS, the capture of a class in XM, and the precise
FP_EXCEPTION. -/

namespace Sys2Proof.Machine

/-- What one element or row raised: its lane in a trap record (R256), its member and bit of XM (R65, R78), and its flags. -/
structure Raised where
  lane : Nat
  mem : Nat
  bit : Nat
  flags : Nat

/-- The flags whose TE bit is 1 (R62), coded as in FPSR. -/
def teFlags (fpcr : Word) : Nat := (fpcr.extractLsb' 7 5).toNat

/-- Whether flags hold the class that XSEL selects (R64). EMPTYROW is no flag. -/
def classHit (xsel : Word) (flags : Nat) : Bool :=
  match (xsel.extractLsb' 0 4).toNat with
  | 1 => flags &&& fNV != 0
  | 2 => flags &&& fDZ != 0
  | 3 => flags &&& fOF != 0
  | 4 => flags &&& fUF != 0
  | 5 => flags &&& fNX != 0
  | 6 => flags &&& fSAT != 0
  | 8 => flags &&& (fNV + fDZ + fOF + fUF) != 0
  | _ => false

/-- ORing flags into FPSR (R63). -/
def State.orFlags (s : State) (flags : Nat) : State :=
  s.onSp fun p => { p with fpsr := p.fpsr ||| BitVec.ofNat 64 (flags % 64) }

/-- Setting bits of XM, given as (member, bit) (R65). -/
def State.captureXm (s : State) (bits : List (Nat × Nat)) : State :=
  if bits.isEmpty then s
  else
    let o := s.own
    s.onCur fun t => t.setFiles o ((t.files o).zipIdx.map fun (f, i) =>
      { f with xm := bits.foldl (fun x (m, b) => if m = i then x ||| (1#8192 <<< b) else x) f.xm })

/-- A set of lanes as a mask. -/
def laneMask (l : List Nat) : BitVec 8192 := l.foldl (fun m j => m ||| (1#8192 <<< j)) 0

/-- The FP_EXCEPTION trap that raised flags cause, if TE enables one of them (R66): INFO the enabled flags, LANES the
elements. -/
def State.fpTrap (s : State) (l : List Raised) : Option TrapInfo :=
  let te := teFlags s.cur.sp.fpcr
  match l.filter fun r => r.flags &&& te != 0 with
  | [] => none
  | bad =>
    some { mkTrap 0x0D (BitVec.ofNat 64 (bad.foldl (fun f r => f ||| r.flags) 0 &&& te)) with lanes := laneMask (bad.map (·.lane)) }

/-- The flags of the elements reach FPSR and XM (R111). -/
def State.noteFlags (s : State) (l : List Raised) : State :=
  let xsel := s.cur.sp.xsel
  (s.orFlags (l.foldl (fun f r => f ||| r.flags) 0)).captureXm
    ((l.filter fun r => classHit xsel r.flags).map fun r => (r.mem, r.bit))

/-- Setting SFLAGS bits (R74). -/
def State.setSflags (s : State) (x : Word) : State := s.onSp fun p => { p with sflags := p.sflags ||| x }

end Sys2Proof.Machine
end

