-- ==== Sys2Proof/Machine/Operands.lean ====
section
/-! DEFINITION. Operand forms: immediates and effective addresses (R16, R200), chain operands (R402), the checks of a scalar
access in the order of R223, deferred scalar results (R19), descriptors that an instruction reads itself (R81, R262), and the
frame of a vector instruction: shape, active elements, poisoned sources, occupancy (R77, R78, R107-R111, R124). -/

namespace Sys2Proof.Machine

/-! ## Immediates and addresses -/

/-- A signed immediate as a 64-bit pattern. -/
def sx {n : Nat} (x : BitVec n) : Word := x.signExtend 64

/-- `adda` (R101, R200): the address wraps within 56 bits and the tag is kept. -/
def adda (x off : Word) : Word := x.extractLsb' 56 8 ++ (x + off).extractLsb' 0 56

/-- The address part of a pointer. -/
def addrOf (x : Word) : Nat := (x.extractLsb' 0 56).toNat

/-- The format tag of a pointer (R54). -/
def ptrTag (x : Word) : BitVec 8 := x.extractLsb' 56 8

/-- FMT of a pointer. -/
def ptrFmt (x : Word) : BitVec 5 := tagFmt (ptrTag x)

/-! ## Chain operands (R402) -/

/-- What the read does once its instruction issues (R402): the consumption, and CX. -/
def State.chainTake (s : State) (r : BitVec 5) (k : Nat) (n early : Bool) : State :=
  let s := if early then s.setSflags 2#64 else s
  if n then
    match s.cur.launch with
    | none => s
    | some i => s.onLaunch i fun l => l.onItem s.cur.itemIx fun x => { x with cursor := x.cursor.set (r.toNat % 8) (k - 1) (Nat.mod_lt _ (by decide)) }
  else s

/-- Operand a of an `ALU`, `SET` or `PTR` word (R17, R90): the register, or the chain operand. -/
def State.withA (s : State) (a : BitVec 5) (k : BitVec 2) (n : Bool) (body : Word → State → Res) : Res :=
  if k = 0 then body (s.rg a) s
  else
    match s.chainRead a k.toNat with
    | .value x early => body x (s.chainTake a k.toNat n early)
    | .wait => .wait s .chain
    | .trap c => s.raise c 0

/-- What such a word names: with k ≠ 0, register a is not read, and its chain operand is. -/
def srcA (a : BitVec 5) (k : BitVec 2) (rest : List (BitVec 5)) (div : Bool := false) : Use :=
  if k = 0 then { g := a :: rest, div := div } else { g := rest, chain := some (a, k), div := div }

/-! ## Scalar accesses (R200-R202, R223) -/

/-- What the checks of an access find. -/
inductive Acc where
  | go (h : Home)
  | trap (cause : BitVec 8) (info : Word)
  | fault (level : Nat)
  | hold

/-- The tag check of an access of `n` bytes (R55, R200): RAW, or an integer type of that width; `fp` admits FP32. -/
def scalarTagOk (n : Nat) (fp : Bool) (x : Word) : Bool :=
  let f := ptrFmt x
  tagBlk (ptrTag x) == 0 && (f == 0 || (isIntType f && width f == 8 * n) || (fp && f == 0x10))

/-- The first of `n` bytes from an address that R199 refuses. -/
def State.firstBound (s : State) (a : Agent) (k : AccKind) (va n : Nat) : Nat :=
  va + ((List.range n).find? fun i => s.locate a k (va + i) 1 == .bounds).getD 0

/-- The checks of `n` bytes at an address after its tag, in the order ACCESS, MISALIGN, BOUNDS, translation (R223). -/
def State.checkAt (s : State) (a : Agent) (k : AccKind) (n va : Nat) : Acc :=
  if 14 ≤ region va then .trap 0x07 (infoAt va)
  else
    match (pieces va n).find? fun p => s.locate a k p.1 p.2 == .denied with
    | some p => .trap 0x07 (infoAt p.1)
    | none =>
      if va % n ≠ 0 then .trap 0x04 (infoAt va)
      else
        match s.locate a k va n with
        | .at h => .go h
        | .held => .hold
        | .denied => .trap 0x07 (infoAt va)
        | .bounds => .trap 0x06 (infoAt (s.firstBound a k va n))
        | .absent l => .fault l

/-- The checks of a scalar or atomic access through a pointer (R206, R209). -/
def State.scalarAcc (s : State) (k : AccKind) (n : Nat) (fp : Bool) (ea : Word) : Acc :=
  if !scalarTagOk n fp ea then .trap 0x05 (infoAt (addrOf ea)) else s.checkAt s.agent k n (addrOf ea)

/-- ACC of a fault batch (R358): bit 2 fetch, bit 1 write, bit 0 read. -/
def accBits : AccKind → BitVec 3
  | .read => 1
  | .write => 2
  | .atomic => 3
  | .fetch => 4

/-- The 64 KiB page of an address. -/
def pageOf (va : Nat) : Nat := va / 2 ^ 16 * 2 ^ 16

/-- An access that has passed its checks goes on at its home; a fault takes the fault path (R260); a store that a dump holds
back waits (R366). -/
def State.withAcc (s : State) (k : AccKind) (n va : Nat) (acc : Acc) (body : Home → State → Res) : Res :=
  match acc with
  | .go h => body h ((s.cacheFor s.agent va).homeTouch h n)
  | .trap c i => s.raise c i
  | .fault l => .left (s.faultPath [(pageOf va, l)] (accBits k) (infoAt va))
  | .hold => .wait (if k = .read then s else s.want s.agent va n) .order

/-- Erroneous data that a scalar access of `n` bytes at `va` meets (R262). -/
def State.scalarErr (s : State) (h : Home) (n va : Nat) : Option DataError :=
  (s.homeBad h n).map fun (p, off) => { poisoned := p, addr := infoAt (va + off), lanes := 1 }

/-- A deferred result of the running instruction (R19): its data has not returned yet. -/
def State.deferred (s : State) (wr : PendWrite) (va : Nat) (err : Option DataError) : State :=
  s.defer { wr := wr, token := 0, addr := infoAt va, pc := s.cur.pc, word := s.core.ir, present := false, observed := false, cancelled := false, err := err }

/-! ## Descriptors read by an instruction itself (R262) -/

/-- Reading `n` bytes that the instruction uses before it completes: the first failing piece decides. -/
def State.readPieces (s : State) (a : Agent) : List (Nat × Nat) → Nat → Nat → (Nat → State → Res) → Res
  | [], _, acc, body => body acc s
  | (va, n) :: rest, sh, acc, body =>
    match s.locate a .read va n with
    | .at h =>
      let s := (s.cacheFor a va).homeTouch h n
      match s.homeBad h n with
      | some (p, off) => s.raise (if p then 0x0F else 0x0E) (infoAt (va + off))
      | none => s.readPieces a rest (sh + 8 * n) (acc + s.homeLoad h n * 2 ^ sh) body
    | .bounds => s.raise 0x06 (infoAt (s.firstBound a .read va n))
    | .absent l => .left (s.faultPath [(pageOf va, l)] (accBits .read) (infoAt va))
    | .held => .wait s .order
    | _ => s.raise 0x07 (infoAt va)

/-- `n` bytes at a virtual address, little-endian, read by the running strand. -/
def State.readDesc (s : State) (va n : Nat) (body : Nat → State → Res) : Res := s.readPieces s.agent (pieces va n) 0 0 body

/-- The live-set entry of an `AWAIT`, `YIELD` or `HOP` (R81). -/
def State.liveEntry (s : State) (ix : Nat) (body : BitVec 128 → State → Res) : Res :=
  if s.cur.sp.lstn.toNat ≤ ix then s.raise 0x0A 0
  else s.readDesc ((addrOf s.cur.sp.lstb + 16 * ix) % 2 ^ 56) 16 fun x s =>
    let e := BitVec.ofNat 128 x
    if liveOk e then body e s else s.raise 0x0A 0

/-! ## Vector shapes and elements (R77, R78) -/

/-- Element type in force. -/
def State.vt (s : State) : BitVec 5 := s.cur.sp.vtype
/-- Container width in force. -/
def State.vw (s : State) : Nat := width s.cur.sp.vtype
/-- VCOLS. -/
def State.vcols (s : State) : Nat := s.cur.sp.vcols
/-- VROWS. -/
def State.vrows (s : State) : Nat := s.cur.sp.vrows
/-- VL. -/
def State.vl (s : State) : Nat := s.cur.sp.vl

/-- The member that holds element `j` (R78). -/
def memOf (vcols j : Nat) : Nat := j / vcols / 32
/-- The mask bit of element `j` on its member (R78). -/
def bitOf (vcols j : Nat) : Nat := j / vcols % 32 * vcols + j % vcols

/-- The active elements under a governing mask, ascending (R78). -/
def State.active (s : State) (m : BitVec 4) : List Nat :=
  let ms := s.files.map (·.getM m)
  let c := s.vcols
  (List.range s.vl).filter fun j => maskAt ms c j

/-- Element `j` of a vector register in containers of `w` bits. -/
def State.elt (s : State) (r : BitVec 5) (w j : Nat) : Nat := elemAt s.files r w s.vcols j

/-- The elements of a list on one member. -/
def onMember (vcols i : Nat) (js : List Nat) : List Nat := js.filter fun j => memOf vcols j == i

/-- A, the active elements of the core that has most of them (R124). -/
def State.density (s : State) (js : List Nat) : Nat :=
  (List.range (max 1 s.cur.sp.gangsz)).foldl (fun a i => max a (onMember s.vcols i js).length) 0

/-- The elementary occupancy of R124 for the widest container `W`: by columns, or by density. -/
def State.occ (s : State) (x : Bool) (f wmax : Nat) (js : List Nat) : Nat :=
  if x then 3 + f * ceilDiv (s.density js * wmax) 4096 else f * ceilDiv (s.vcols * wmax) 128

/-- Writes of elements in containers of `w` bits at their rows and columns, over the gang. -/
def State.writes (s : State) (w : Nat) (es : List (Nat × Nat)) : List VWrite := buildWrites s.files.length w s.vcols es

/-- A vector register written with elements (R79, R110). -/
def State.putElems (s : State) (d : BitVec 5) (w : Nat) (es : List (Nat × Nat)) : State :=
  let ws := s.writes w es
  let o := s.own
  s.onCur (·.writeV o d ws)

/-- A mask register written on every member. -/
def State.putMask (s : State) (d : BitVec 4) (xs : List (BitVec 8192)) : State :=
  let o := s.own
  s.onCur (·.writeM o d xs)

/-- The masks of the gang with the bits of the elements given, all others 0. -/
def State.maskOf (s : State) (js : List Nat) : List (BitVec 8192) :=
  let c := s.vcols
  s.files.zipIdx.map fun (_, i) => (onMember c i js).foldl (fun m j => m ||| (1#8192 <<< bitOf c j)) 0

/-! ## Poisoned sources (R262, R263) -/

/-- Whether element (row, column) of a vector register is poisoned. -/
def VReg.bad (v : VReg) (w row col : Nat) : Bool :=
  v.poison != 0 && v.poison.extractLsb' ((1024 * row + w * col) / 4) (max 1 (w / 4)) != 0

/-- The poisoned elements of a source among those read. -/
def State.badElems (s : State) (r : BitVec 5) (w : Nat) (js : List Nat) : List Nat :=
  let c := s.vcols
  let fs := s.files
  if fs.all fun f => (f.getV r).poison == 0 then []
  else js.filter fun j => match fs[memOf c j]? with
    | some f => (f.getV r).bad w (j / c % 32) (j % c)
    | none => false

/-- The address from which a stream brought element `j` of a vector register (R256). -/
def State.elOrigin (s : State) (r : BitVec 5) (j : Nat) : Nat := (s.cur.vf.getV r).origin + j * (s.cur.vf.getV r).pitch / 8

/-- The POISONED trap of the first source with a poisoned element (R262): INFO is the address from which the first one came (R256). -/
def State.poisonTrap (s : State) (reads : List (BitVec 5 × Nat × List Nat)) : Option TrapInfo :=
  (reads.find? fun (r, w, js) => !(s.badElems r w js).isEmpty).map fun (r, w, js) =>
    { mkTrap 0x0F (infoAt (s.elOrigin r ((s.badElems r w js).headD 0))) with rclass := 2, reg := r, lanes := laneMask (s.badElems r w js) }

/-! ## The vector queue entry of an instruction -/

/-- What a vector instruction names and how long it takes (R123, R124, R190). -/
structure VQ where
  v : List (BitVec 5) := []
  vd : List (BitVec 5) := []
  m : List (BitVec 4) := []
  md : List (BitVec 4) := []
  c : List (BitVec 3) := []
  cd : List (BitVec 3) := []
  gd : Option (BitVec 5) := none
  t : Nat
  lam : Nat
  js : List Nat := []
  fp : Bool := false
  first : Nat := 0
  last : Nat := 0

/-- The instruction enters the vector queue. -/
def State.enqueue (s : State) (q : VQ) : State :=
  s.vqPush
    { regs := regMask 32 (q.v ++ q.vd), vsrc := regMask 32 q.v, msrc := regMask 16 q.m, csrc := regMask 8 q.c
      vdst := regMask 32 q.vd, mdst := regMask 16 q.md, cdst := regMask 8 q.cd, gdst := q.gd, t := q.t, lam := q.lam
      popc := (onMember s.vcols s.own q.js).length, first := infoAt q.first, last := infoAt q.last
      flagged := q.fp && teFlags s.cur.sp.fpcr != 0 }

/-- The sources of a vector instruction's frame: registers, the governing mask, destinations. -/
def vuse (g v vd : List (BitVec 5)) (m : List (BitVec 4)) : Use := { g := g, v := v, vd := vd, m := m, vec := true }

end Sys2Proof.Machine
end

