-- ==== Sys2Proof/Machine/Windows.lean ====
section
/-! DEFINITION. Region 0xE (R277, R419): the FIFO ports, the launch window with its queues (R383-R385), Fimet's mailbox (R422)
and the status page; and the FE-class accesses at a bank (R282-R285): full bits, waiters, wakes, refusals. -/

namespace Sys2Proof.Machine

/-! ## Launch queues (R383-R385) -/

/-- The queue-table entry of queue `q`: its two dwords (R383); the first is the PTROOT of its launches, whose reserved bits read as
zero (R10, R348). -/
def State.queueEntry (s : State) (q : Nat) : Word × Word :=
  let b := (s.pkg.qtbase.extractLsb' 4 48).toNat * 16 + 16 * q
  (BitVec.ofNat 64 (s.loadPa b 8 / 2 ^ 15 * 2 ^ 15), BitVec.ofNat 64 (s.loadPa (b + 8) 8))

/-- EN of a queue. -/
def State.queueEn (s : State) (q : Nat) : Bool := (s.queueEntry q).2.getLsbD 63
/-- MAXCLASS of a queue. -/
def State.queueMaxClass (s : State) (q : Nat) : Nat := ((s.queueEntry q).2.extractLsb' 60 3).toNat
/-- MODEOK of a queue. -/
def State.queueModeOk (s : State) (q : Nat) : BitVec 5 := (s.queueEntry q).2.extractLsb' 55 5

/-- A queue by number. -/
def Package.queue (p : Package) (q : Nat) : LaunchQueue := (p.queues.find? (·.q == q)).getD { q := q, ovf := false, err := false, recs := [] }

/-- Changing a queue. -/
def State.onQueue (s : State) (q : Nat) (f : LaunchQueue → LaunchQueue) : State :=
  s.onPkg fun p => { p with queues := f (p.queue q) :: p.queues.filter (·.q != q) }

/-- QSTAT of a queue (R384). -/
def State.qstat (s : State) (q : Nat) : Word :=
  let x := s.pkg.queue q
  BitVec.ofBool x.ovf ++ (BitVec.ofBool x.err ++ (BitVec.ofBool (s.queueEn q) ++ (0#52 ++ BitVec.ofNat 9 x.recs.length)))

/-- A record with the entry of its queue, which the dispatcher reads when the record arrives (R383). -/
def State.queued (s : State) (q : Nat) (r : BitVec 512) : QueuedRecord := ⟨r, (s.queueEntry q).1, (s.queueEntry q).2⟩

/-- A write of `size` bytes at offset `off` of port `q` (R385). -/
def State.portWrite (s : State) (q off size : Nat) (data : BitVec 512) : State :=
  if size = 64 ∧ off = 0 ∧ s.queueEn q then
    if (s.pkg.queue q).recs.length < 256 then s.onQueue q fun x => { x with recs := x.recs ++ [s.queued q data] }
    else s.onQueue q fun x => { x with ovf := true }
  else s.onQueue q fun x => { x with err := true }

/-- A write to a QSTAT word: QOVF and QERR are W1C (R384, R419). -/
def State.qstatWrite (s : State) (q : Nat) (v : Word) : State :=
  s.onQueue q fun x => { x with ovf := x.ovf && !v.getLsbD 63, err := x.err && !v.getLsbD 62 }

/-! ## Device windows (R419, R422) -/

/-- Bytes of a device window; 0 when the kind names none. -/
def winSize (kind : Nat) : Nat :=
  match kind with
  | 1 => 0x200000
  | 2 => 0x1000
  | 3 => 0x1000
  | _ => 0

/-- The mailbox's doorbell as it reads (R422). -/
def Mailbox.doorbell (m : Mailbox) : Word := BitVec.ofBool m.busy ++ (0#55 ++ m.last)

/-- PWRSTAT (R428). -/
def Package.pwrstat (p : Package) : Word := p.rides ++ (p.quiesces ++ BitVec.ofNat 32 p.pwr)

/-- An offset of a window to which the spec gives no contents: it reads a free value (DESIGN CHOICE, log 18). -/
def State.winFree (s : State) (off : Nat) : Word := Config.freeWord (s.free * 2 ^ 64 + off)

/-- The 8-byte word at an 8-byte-aligned offset of a window; the status page shows a failed boot stage (R423). DEDUCED: log 42. -/
def State.winRead (s : State) (kind off : Nat) : Word :=
  match kind with
  | 1 =>
    if off < 0x100000 then 0
    else if off < 0x120000 then s.qstat ((off - 0x100000) / 8)
    else s.winFree off
  | 2 =>
    if off < 0x40 then s.pkg.mailbox.request.extractLsb' (8 * off) 64
    else if off < 0x80 then s.pkg.mailbox.response.extractLsb' (8 * (off - 0x40)) 64
    else if off = 0x80 then s.pkg.mailbox.doorbell
    else s.winFree off
  | _ =>
    if off = 0 then s.pkg.health
    else if off = 8 then s.pkg.pwrstat
    else if off = 16 then BitVec.ofNat 64 s.pkg.shocks
    else Config.statusRest off (s.pkg.boot.failed.getD 0)

/-- Ringing the doorbell (R422): the request passes to Fimet, unless BUSY is 1. The last command code is the low byte of the
request (PRESUMED, log 19). -/
def Mailbox.ring (m : Mailbox) : Mailbox := if m.busy then m else { m with busy := true, last := m.request.extractLsb' 0 8 }

/-- A doorbell write; a requested self-test shows in HEALTH (R433). -/
def State.ringMailbox (s : State) : State := (s.onPkg fun p => { p with mailbox := p.mailbox.ring }).reHealth

/-- An 8-byte write at an 8-byte-aligned offset of a window. DEDUCED: log 43. -/
def State.winWrite (s : State) (kind off : Nat) (v : Word) : State :=
  match kind with
  | 1 =>
    if off < 0x100000 then s.portWrite (off / 64) (off % 64) 8 0
    else if off < 0x120000 then s.qstatWrite ((off - 0x100000) / 8) v
    else s
  | 2 =>
    if off < 0x40 then s.onPkg fun p => { p with mailbox := { p.mailbox with request := putBits p.mailbox.request (8 * off) 64 v.toNat } }
    else if off = 0x80 then s.ringMailbox
    else s
  | _ => s

/-! ## FIFO ports (R277) -/

/-- A FIFO port: its cluster and bank, and whether it is STATUS. -/
structure Port where
  cluster : Nat
  bank : Nat
  status : Bool
  deriving DecidableEq, Repr

/-- The port at an address of region 0xE with KIND 0, or none when R277 refuses it. -/
def State.portAt (s : State) (a : Agent) (va : Nat) : Option Port :=
  let c := va / 2 ^ 43 % 2 ^ 5
  let cl := if c = 0x1F then clusterOf a.core else va / 2 ^ 48 % 4 * Config.clustersPerDie + c
  let b := va / 2 ^ 37 % 64
  if (c = 0x1F ∨ c < Config.clustersPerDie) ∧ va / 16 % 2 ^ 33 = 0 ∧ (s.clusterAt cl).fifoMask.getLsbD b ∧
      (s.bankGrant a.launch cl).getLsbD b then some ⟨cl, b, va.testBit 3⟩
  else none

/-- KIND of an address of region 0xE. -/
def winKind (va : Nat) : Nat := va / 2 ^ 50 % 4
/-- Window offset of an address of region 0xE. -/
def winOff (va : Nat) : Nat := va % 2 ^ 50

/-- The entries of a FIFO bank, oldest first. -/
def Cluster.fifo (c : Cluster) (b : Nat) : List Word := ((c.fifos.find? (·.1 == b)).map (·.2)).getD []

/-- Replacing the entries of a FIFO bank. -/
def Cluster.setFifo (c : Cluster) (b : Nat) (l : List Word) : Cluster := { c with fifos := (b, l) :: c.fifos.filter (·.1 != b) }

/-- A FIFO bank loses its entries. -/
def Cluster.clearFifo (c : Cluster) (b : Nat) : Cluster := { c.setFifo b [] with fifoBad := c.fifoBad.filter (·.1 != b) }

/-- The oldest entry of a FIFO bank leaves it. -/
def Cluster.popFifo (c : Cluster) (b : Nat) : Cluster :=
  { c.setFifo b (c.fifo b).tail with
    fifoBad := (c.fifoBad.filter (· != (b, 0))).map fun p => if p.1 = b then (b, p.2 - 1) else p }

/-- The error of the oldest entry of a FIFO bank, which an uncorrectable error has poisoned (R262, R299). -/
def Cluster.fifoErr (c : Cluster) (b va : Nat) : Option DataError :=
  if c.fifoBad.contains (b, 0) then some { poisoned := true, addr := infoAt va, lanes := 1 } else none

/-- The key under which strands wait at a FIFO port. -/
def Port.key (p : Port) : Nat := sramKey p.cluster p.bank 0

/-- Entries of a port's FIFO. -/
def State.portCount (s : State) (p : Port) : Nat := ((s.clusterAt p.cluster).fifo p.bank).length

/-- STATUS of a port as `ld.i64` reads it. -/
def State.portStatus (s : State) (p : Port) : Word := BitVec.ofNat 64 (Config.fifoDepth * 2 ^ 16 + s.portCount p)

/-! ## Waiters (R285) -/

/-- The core whose scratchpad holds a key. -/
def keyCore (k : Nat) : Nat := (k - 2 ^ 52) / 2 ^ 19
/-- The cluster whose SRAM holds a key. -/
def keyCluster (k : Nat) : Nat := (k - 2 ^ 53) / 2 ^ 17 / 64
/-- The bank of its cluster that holds a key of cluster SRAM. -/
def keyBank (k : Nat) : Nat := (k - 2 ^ 53) / 2 ^ 17 % 64
/-- Whether a key names cluster SRAM. -/
def isSramKey (k : Nat) : Bool := 2 ^ 53 ≤ k

/-- The waiters in the table of the bank that holds a key. -/
def State.waiterTable (s : State) (k : Nat) : List Waiter :=
  if isSramKey k then (s.clusterAt (keyCluster k)).waiters.filter fun w => keyBank w.key == keyBank k
  else (s.coreOf (keyCore k)).waiters

/-- Changing the waiters of the cluster or scratchpad that holds a key. -/
def State.onWaiters (s : State) (k : Nat) (f : List Waiter → List Waiter) : State :=
  if isSramKey k then s.onCluster (keyCluster k) fun c => { c with waiters := f c.waiters }
  else s.onCore (keyCore k) fun c => { c with waiters := f c.waiters }

/-- Waking the strands that wait at a key to read, or to write (R283, R285): a wake travels to each, and its record ends. -/
def State.wakeWaiters (s : State) (k : Nat) (toRead : Bool) : State :=
  let p := fun (w : Waiter) => w.key == k && w.toRead == toRead
  let ws := (s.waiterTable k).filter p
  if ws.isEmpty then s
  else
    let s := s.onWaiters k fun l => l.filter fun w => !p w
    { s with flight := s.flight ++ ws.map fun w => ⟨s.core.cid, w.core, none, .wake w.core w.strand k⟩ }

/-- The word at a key becomes full. -/
def State.fillWord (s : State) (k : Nat) : State := (s.setFull k true).wakeWaiters k true

/-- The word at a key becomes empty. -/
def State.emptyWord (s : State) (k : Nat) : State := (s.setFull k false).wakeWaiters k false

/-- A refused FE-class access (R285): a waiter is recorded while the table has room, and the strand suspends with every
register kept. -/
def State.refuse (s : State) (k : Nat) (toRead : Bool) : State :=
  let room := decide ((s.waiterTable k).length < 64)
  let first := s.cur.firstRefusal.getD s.core.cycle
  let num := s.cur.num
  let s := s.onCur fun t => { t with firstRefusal := some first }
  let s := if room then s.onWaiters k fun l => ⟨s.core.cid, num, k, toRead, s.cur.launch⟩ :: l else s
  let s := s.suspendFull (fun s => .word k toRead none (s.cur.deadline first)) .go
  if room then s
  else
    s.onFocus fun c =>
      { c with images := onImage num (fun i => match i.cond with
          | .word k r _ d => { i with cond := .word k r (some (i.savedAt + 64)) d }
          | _ => i) c.images }

/-- Whether a `BANKCFG` under way names the bank of a key (R279). -/
def State.bankChanging (s : State) (k : Nat) : Bool :=
  isSramKey k && (s.clusterAt (keyCluster k)).bankReqs.any fun r => r.mask.getLsbD (keyBank k)

/-- The wait for a bank's answer (R284). -/
def State.bankWait (s : State) (k : Nat) : State :=
  if isSramKey k then
    if keyCluster k = clusterOf s.core.cid then s.stall .bank 10 else s.freeStall .bank
  else if keyCore k = s.core.cid then s.stall .bank 3
  else s.freeStall .bank

/-- An FE-class access at its bank (R284, R285): it waits while the bank changes its mode; it is accepted when the word or port
is ready, else refused. -/
def State.atBank (s : State) (k : Nat) (toRead : Bool) (ready : State → Bool) (perform : State → Res) : Res :=
  if s.bankChanging k then .wait (s.onFocus fun c => { c with posted := true }) .bank
  else
    let s := s.bankWait k
    if ready s then perform s else .left (s.refuse k toRead)

/-- An FE-class access that never waits for the word or port. -/
def State.atBankNow (s : State) (k : Nat) (perform : State → Res) : Res := s.atBank k true (fun _ => true) perform

/-- A deferred result whose data came with the bank's acceptance (R284). -/
def State.deferredNow (s : State) (wr : PendWrite) (va : Nat) (err : Option DataError) : State :=
  s.defer { wr := wr, token := 0, addr := infoAt va, pc := s.cur.pc, word := s.core.ir, present := true, observed := false, cancelled := false, err := err }

/-- Popping a port into register d (R277): it waits while the FIFO is empty. A poisoned entry is an erroneous result (R299). -/
def State.portPop (s : State) (p : Port) (d : BitVec 5) (va : Nat) : Res :=
  s.atBank p.key true (fun s => s.portCount p != 0) fun s =>
    match (s.clusterAt p.cluster).fifo p.bank with
    | [] => .ok s
    | x :: _ =>
      let err := (s.clusterAt p.cluster).fifoErr p.bank va
      .ok (((s.onCluster p.cluster fun c => c.popFifo p.bank).wakeWaiters p.key false).deferredNow (.g d x) va err)

/-- Pushing a word into a port (R277): it waits while the FIFO is full. -/
def State.portPush (s : State) (p : Port) (x : Word) : Res :=
  s.atBank p.key false (fun s => s.portCount p != Config.fifoDepth) fun s =>
    .ok ((s.onCluster p.cluster fun c => c.setFifo p.bank (c.fifo p.bank ++ [x])).wakeWaiters p.key true)

end Sys2Proof.Machine
end

