-- ==== Sys2Proof/Machine/LoadStore.lean ====
section
/-! DEFINITION. Scalar loads and stores (R104, R206, R207), the remote accesses with tokens (R208), atomics (R209-R211) and the
fence (R212). Every access is performed at the issue of its instruction (DESIGN CHOICE, log 20). -/

namespace Sys2Proof.Machine

/-! ## Loads (R206) -/

/-- `n` bytes as a register value. -/
def extendN (signed : Bool) (n x : Nat) : Word := if signed then BitVec.ofInt 64 (intVal true (8 * n) x) else BitVec.ofNat 64 x

/-- A load of `n` bytes into `d`, once the tag has been checked; regions 0x0-0xD. -/
def State.loadAt (s : State) (d : BitVec 5) (n : Nat) (signed : Bool) (va : Nat) : Res :=
  s.withAcc .read n va (s.checkAt s.agent .read n va) fun h s =>
    .ok (s.deferred (.g d (extendN signed n (s.homeLoad h n))) va (s.scalarErr h n va))

/-- `ld.i64` in region 0xE (R277, R419). -/
def State.loadWindow (s : State) (d : BitVec 5) (va : Nat) : Res :=
  if winKind va = 0 then
    match s.portAt s.agent va with
    | none => s.raise 0x07 (infoAt va)
    | some p =>
      if va % 8 ≠ 0 then s.raise 0x04 (infoAt va)
      else if p.status then .ok (s.deferred (.g d (s.portStatus p)) va none)
      else s.portPop p d va
  else if winSize (winKind va) ≤ winOff va ∨ (winKind va = 2 ∧ ¬s.cur.priv) then s.raise 0x07 (infoAt va)
  else if va % 8 ≠ 0 then s.raise 0x04 (infoAt va)
  else .ok (s.deferred (.g d (s.winRead (winKind va) (winOff va))) va none)

/-- A load of `n` bytes through a pointer: `ld.i64` alone is accepted in region 0xE (R195, R206). -/
def State.loadPtr (s : State) (d : BitVec 5) (n : Nat) (signed : Bool) (ea : Word) : Res :=
  if !scalarTagOk n false ea then s.raise 0x05 (infoAt (addrOf ea))
  else if region (addrOf ea) = 14 ∧ n = 8 then s.loadWindow d (addrOf ea)
  else s.loadAt d n signed (addrOf ea)

/-- An `LD` word: the offset counts units of the size. -/
def loadWord (st : Bool) (d a : BitVec 5) (o : BitVec 12) (n : Nat) (signed : Bool) (s : State) : Out :=
  issue st 4 { g := [a], pends := 1 } (fun s => s.loadPtr d n signed (adda (s.rg a) (sx o * BitVec.ofNat 64 n))) s

/-- `ld.i8` (R206). -/
def execLdI8 (st : Bool) (d a : BitVec 5) (o : BitVec 12) (s : State) : Out := loadWord st d a o 1 true s
/-- `ld.n8` (R206). -/
def execLdN8 (st : Bool) (d a : BitVec 5) (o : BitVec 12) (s : State) : Out := loadWord st d a o 1 false s
/-- `ld.i16` (R206). -/
def execLdI16 (st : Bool) (d a : BitVec 5) (o : BitVec 12) (s : State) : Out := loadWord st d a o 2 true s
/-- `ld.n16` (R206). -/
def execLdN16 (st : Bool) (d a : BitVec 5) (o : BitVec 12) (s : State) : Out := loadWord st d a o 2 false s
/-- `ld.i32` (R206). -/
def execLdI32 (st : Bool) (d a : BitVec 5) (o : BitVec 12) (s : State) : Out := loadWord st d a o 4 true s
/-- `ld.n32` (R206). -/
def execLdN32 (st : Bool) (d a : BitVec 5) (o : BitVec 12) (s : State) : Out := loadWord st d a o 4 false s
/-- `ld.i64` (R206). -/
def execLdI64 (st : Bool) (d a : BitVec 5) (o : BitVec 12) (s : State) : Out := loadWord st d a o 8 true s

/-- The parameter window that an `LDP` names. -/
def State.window (s : State) (w : BitVec 2) : Word := s.cur.sp.pwin[w.toNat]'w.isLt

/-- Whether an offset lies in a bound window (R88): such an `LDP` alone creates a pending result (R23). -/
def inWindow (pw : Word) (o : BitVec 13) : Bool := pw.getLsbD 63 && decide (o.toNat < (pw.extractLsb' 50 13).toNat)

/-- What an `LDP` names. -/
def ldpUse (pw : Word) (o : BitVec 13) : Use := { pends := if inWindow pw o then 1 else 0 }

/-- `ldp` (R88, R104): a parameter window; beyond SIZE it writes 0 and sets PARAMOOB. Region 0xE does not accept it (R195). -/
def execLdp (st : Bool) (d : BitVec 5) (w : BitVec 2) (o : BitVec 13) (s : State) : Out :=
  issue st 4 (ldpUse (s.window w) o)
    (fun s =>
      let pw := s.window w
      if !pw.getLsbD 63 then s.raise 0x09 0
      else if (pw.extractLsb' 50 13).toNat ≤ o.toNat then .ok ((s.wg d 0).setSflags 1#64)
      else s.loadAt d 8 true (((pw.extractLsb' 0 50).toNat * 64 + 8 * o.toNat) % 2 ^ 56)) s

/-! ## Stores (R207) -/

/-- A store of `n` bytes, once the tag has been checked; regions 0x0-0xD. -/
def State.storeAt (s : State) (x : Word) (n : Nat) (va : Nat) : Res :=
  s.withAcc .write n va (s.checkAt s.agent .write n va) fun h s => .ok (s.homeStore h n (x.toNat % 2 ^ (8 * n)))

/-- `st.64` in region 0xE (R277, R419). -/
def State.storeWindow (s : State) (x : Word) (va : Nat) : Res :=
  if winKind va = 0 then
    match s.portAt s.agent va with
    | none => s.raise 0x07 (infoAt va)
    | some p =>
      if p.status then s.raise 0x07 (infoAt va)
      else if va % 8 ≠ 0 then s.raise 0x04 (infoAt va)
      else s.portPush p x
  else if winSize (winKind va) ≤ winOff va ∨ (winKind va = 2 ∧ ¬s.cur.priv) ∨ winKind va = 3 then s.raise 0x07 (infoAt va)
  else if va % 8 ≠ 0 then s.raise 0x04 (infoAt va)
  else .ok (s.winWrite (winKind va) (winOff va) x)

/-- A store of `n` bytes through a pointer: `st.64` alone is accepted in region 0xE (R195, R207). -/
def State.storePtr (s : State) (x : Word) (n : Nat) (ea : Word) : Res :=
  if !scalarTagOk n false ea then s.raise 0x05 (infoAt (addrOf ea))
  else if region (addrOf ea) = 14 ∧ n = 8 then s.storeWindow x (addrOf ea)
  else s.storeAt x n (addrOf ea)

/-- An `ST` word. -/
def storeWord (st : Bool) (d a : BitVec 5) (o : BitVec 13) (n : Nat) (s : State) : Out :=
  issue st 4 { g := [d, a] } (fun s => s.storePtr (s.rg d) n (adda (s.rg a) (sx o * BitVec.ofNat 64 n))) s

/-- `st.8` (R207). -/
def execSt8 (st : Bool) (d a : BitVec 5) (o : BitVec 13) (s : State) : Out := storeWord st d a o 1 s
/-- `st.16` (R207). -/
def execSt16 (st : Bool) (d a : BitVec 5) (o : BitVec 13) (s : State) : Out := storeWord st d a o 2 s
/-- `st.32` (R207). -/
def execSt32 (st : Bool) (d a : BitVec 5) (o : BitVec 13) (s : State) : Out := storeWord st d a o 4 s
/-- `st.64` (R207). -/
def execSt64 (st : Bool) (d a : BitVec 5) (o : BitVec 13) (s : State) : Out := storeWord st d a o 8 s

/-! ## Remote accesses with tokens (R208) -/

/-- The key of a home, or its physical address; a home that is nowhere has one in the pod window. -/
def Home.key : Home → Nat
  | .here k => k
  | .dead k => k
  | .remote pa => pa
  | .lost => 2 ^ 51

/-- The key, or the physical address in the pod window, that an address of an agent leads to, whose checks have found home `h`: what an
engine operation carries with it after its checks. -/
def State.targetKey (s : State) (a : Agent) (k : AccKind) (va : Nat) (h : Home) : Nat :=
  if isGlobal va then
    match s.xlate a.ptroot a.priv k va with
    | .ok pa _ => pa
    | _ => h.key
  else h.key

/-- When the reply of an engine operation of the core arrives: exactly L cycles later under LATFIX (R176), else not stated. -/
def State.replyDue (s : State) : Option Nat := if s.core.latEn then some (s.core.cycle + s.core.latL) else none

/-- `ldq` (R208): the checks of `ld.i64` at issue, a kind-3 cell, the token in g b, the result pending in g d; b = d ≠ 0 is a
reserved combination. -/
def execLdq (st : Bool) (d a b : BitVec 5) (s : State) : Out :=
  if b == d && d != 0 then issue st 4 {} State.illegal s
  else issue st 4 { g := [a], pends := 1 }
    (fun s =>
      let ea := adda (s.rg a) 0
      let va := addrOf ea
      s.withAcc .read 8 va (s.scalarAcc .read 8 false ea) fun h s =>
        match s.allocCell 3 1 with
        | none => .wait s .engine
        | some (tok, s) =>
          let e : Pending :=
            { wr := .g d 0, token := tok, addr := infoAt va, pc := s.cur.pc, word := s.core.ir, present := false, observed := false, cancelled := false, err := none }
          .ok (((s.wg b tok).defer e).post s.replyDue (.ldqReply s.core.cid s.cur.num tok (s.targetKey s.agent .read va h) s.cur.launch))) s

/-- `stq` (R208): an engine thread (R380): the store, with the value read at issue, is performed at its home when its message arrives
there, and the token is then signalled; an unreachable target fails it. -/
def execStq (st : Bool) (d a b : BitVec 5) (s : State) : Out :=
  issue st 4 { g := [d, a] }
    (fun s =>
      let ea := adda (s.rg a) 0
      let va := addrOf ea
      s.withAcc .write 8 va (s.scalarAcc .write 8 false ea) fun h s =>
        match s.allocCell 3 1 with
        | none => .wait s .engine
        | some (tok, s) =>
          .ok ((s.wg b tok).post s.replyDue (.store s.core.cid tok (s.targetKey s.agent .write va h) (s.rg d) s.cur.launch))) s

/-! ## Atomics (R209-R211) -/

/-- The wait of a release order before issue (R211): its length is not stated. -/
def State.releaseWait (s : State) (p : BitVec 3) : State := if p.getLsbD 1 then s.orderWait else s

/-- The wait that an acquire order puts before later accesses (R211). -/
def State.acquireWait (s : State) (p : BitVec 3) : State := if p.getLsbD 0 then s.freeStall .order else s

/-- An atomic on `n` bytes (R209): old value to g d as a deferred result; `f old` is the value written, if any. -/
def State.atomic (s : State) (d a : BitVec 5) (p : BitVec 3) (n : Nat) (fp : Bool) (f : Nat → Option Nat) : Res :=
  let ea := adda (s.rg a) 0
  let va := addrOf ea
  s.withAcc .atomic n va (s.scalarAcc .atomic n fp ea) fun h s =>
    let s := s.releaseWait p
    let old := s.homeLoad h n
    let err := s.scalarErr h n va
    let s := match f old with
      | some x => s.homeStore h n (x % 2 ^ (8 * n))
      | none => s
    .ok ((s.deferred (.g d (BitVec.ofNat 64 old)) va err).acquireWait p)

/-- f(old, y) of an `AMO` operation on 8 bytes (R209). -/
def amoWordOf : AmoOp → Word → Word → Word
  | .add, x, y => x + y
  | .and, x, y => x &&& y
  | .or, x, y => x ||| y
  | .xor, x, y => x ^^^ y
  | .min, x, y => if y.slt x then y else x
  | .max, x, y => if x.slt y then y else x
  | .minn, x, y => if y.ult x then y else x
  | .maxn, x, y => if x.ult y then y else x
  | _, _, y => y

/-- f(old, y) of an `AMO` operation on an FP32 value (R209): no flush, no flag. -/
def amoFpOf : AmoOp → Nat → Nat → Nat
  | .fadd32, x, y => addElem 0x10 x y
  | _, x, y => (fp32.minmax true x y).bits

/-- Bytes that an `AMO` operation works on. -/
def amoSize : AmoOp → Nat
  | .fadd32 => 4
  | .fmax32 => 4
  | _ => 8

/-- What an `AMO` operation writes over `old`. -/
def amoApply (op : AmoOp) (old : Nat) (y : Word) : Nat :=
  if amoSize op = 4 then amoFpOf op old (y.toNat % 2 ^ 32) else (amoWordOf op (BitVec.ofNat 64 old) y).toNat

/-- An `AMO` word on 8 bytes; `p` is its order. -/
def amoWord (st : Bool) (d a b : BitVec 5) (p : BitVec 3) (f : Word → Word → Word) (s : State) : Out :=
  issue st 4 { g := [a, b], pends := 1 }
    (fun s => let y := s.rg b; s.atomic d a p 8 false fun old => some (f (BitVec.ofNat 64 old) y).toNat) s

/-- An `AMO` word on an FP32 value. -/
def amoFp (st : Bool) (d a b : BitVec 5) (p : BitVec 3) (f : Nat → Nat → Nat) (s : State) : Out :=
  issue st 4 { g := [a, b], pends := 1 }
    (fun s => let y := (s.rg b).toNat % 2 ^ 32; s.atomic d a p 4 true fun old => some (f old y)) s

/-- `amoadd` (R209). -/
def execAmoadd (st : Bool) (d a b : BitVec 5) (_p o : BitVec 3) (s : State) : Out := amoWord st d a b o (amoWordOf .add) s
/-- `amoand` (R209). -/
def execAmoand (st : Bool) (d a b : BitVec 5) (_p o : BitVec 3) (s : State) : Out := amoWord st d a b o (amoWordOf .and) s
/-- `amoor` (R209). -/
def execAmoor (st : Bool) (d a b : BitVec 5) (_p o : BitVec 3) (s : State) : Out := amoWord st d a b o (amoWordOf .or) s
/-- `amoxor` (R209). -/
def execAmoxor (st : Bool) (d a b : BitVec 5) (_p o : BitVec 3) (s : State) : Out := amoWord st d a b o (amoWordOf .xor) s
/-- `amomin` (R209): signed. -/
def execAmomin (st : Bool) (d a b : BitVec 5) (_p o : BitVec 3) (s : State) : Out := amoWord st d a b o (amoWordOf .min) s
/-- `amomax` (R209): signed. -/
def execAmomax (st : Bool) (d a b : BitVec 5) (_p o : BitVec 3) (s : State) : Out := amoWord st d a b o (amoWordOf .max) s
/-- `amominn` (R209): natural. -/
def execAmominn (st : Bool) (d a b : BitVec 5) (_p o : BitVec 3) (s : State) : Out := amoWord st d a b o (amoWordOf .minn) s
/-- `amomaxn` (R209): natural. -/
def execAmomaxn (st : Bool) (d a b : BitVec 5) (_p o : BitVec 3) (s : State) : Out := amoWord st d a b o (amoWordOf .maxn) s
/-- `amoswap` (R209). -/
def execAmoswap (st : Bool) (d a b : BitVec 5) (_p o : BitVec 3) (s : State) : Out := amoWord st d a b o (amoWordOf .swap) s
/-- `amofadd32` (R209): RNE, no flush, no flag. -/
def execAmofadd32 (st : Bool) (d a b : BitVec 5) (_p o : BitVec 3) (s : State) : Out := amoFp st d a b o (amoFpOf .fadd32) s
/-- `amofmax32` (R209): maximumNumber (R47), no flag. -/
def execAmofmax32 (st : Bool) (d a b : BitVec 5) (_p o : BitVec 3) (s : State) : Out := amoFp st d a b o (amoFpOf .fmax32) s

/-- `cas` (R210): the comparison value is g d as read at issue. -/
def execCas (st : Bool) (d a b : BitVec 5) (_p o : BitVec 3) (s : State) : Out :=
  issue st 4 { g := [d, a, b], pends := 1 }
    (fun s =>
      let c := (s.rg d).toNat
      let y := (s.rg b).toNat
      s.atomic d a o 8 false fun old => if old = c then some y else none) s

/-- `fence` (R212): it waits until the earlier accesses of its first kinds are performed. -/
def execFence (st : Bool) (_c : BitVec 3) (_k : BitVec 4) (s : State) : Out :=
  issue st 4 {} (fun s => .ok (s.orderWait)) s

end Sys2Proof.Machine
end

