-- ==== Sys2Proof/Machine/Arrive.lean ====
section
/-! DEFINITION. What arrives at a core: signals, fails, deposits, `LDQ` replies, wakes, strands that hop (R152-R156, R164,
R168-R173, R285), and the limits of waits (R172, R285). Message `i` is the `i`-th of those in flight. -/

namespace Sys2Proof.Machine

/-! ## Strands of a core (R144, R149) -/

/-- The strand numbers in use or reserved on a core. -/
def Core.usedNums (c : Core) : List Nat := (if c.running then [c.cur.num] else []) ++ c.images.map (·.st.num) ++ c.keptNums

/-- The strands that a core holds: a trapped image and its handler are one. -/
def Core.strands (c : Core) : Nat :=
  ((if c.running then [c.cur.num] else []) ++ c.images.map (·.st.num)).eraseDups.length

/-- The most strands that a core may hold (R149). -/
def Core.strandLimit (c : Core) : Nat := min 255 (c.cclimit.toNat + (c.basin.extractLsb' 56 8).toNat)

/-- The lowest free strand number of a core that may take a strand (R144, R149). -/
def Core.freeNum (c : Core) : Option Nat :=
  if c.strands < c.strandLimit then (List.range 255).find? fun n => !c.usedNums.contains n else none

/-- Free strand numbers of a core under R149. -/
def Core.freeNums (c : Core) : Nat :=
  min (c.strandLimit - c.strands) ((List.range 255).filter fun n => !c.usedNums.contains n).length

/-- A strand that has never run on a core, runnable from a cycle on (R146, R162). -/
def Strand.arrival (t : Strand) (now : Nat) : Image := { t.image 1024 .ready .go now with place := .fresh }

/-- A core with a strand more. -/
def Core.addStrand (c : Core) (t : Strand) (now : Nat) : Core := { c with images := t.arrival now :: c.images }

/-! ## Deposits (R170-R173) -/

/-- Whether a cycle lies behind the end of a wait (R172, R285). -/
def pastLimit (d : Option Nat) (now : Nat) : Bool :=
  match d with
  | some t => decide (t < now)
  | none => false

/-- The cycle up to which the WLIMIT of a core has counted in a cycle: it stands while a link retrains (R430). -/
def State.countsTo (s : State) (core now : Nat) : Nat :=
  match s.pkg.frozen with
  | none => now
  | some l => min now ((l.find? (·.1 == core)).map (·.2) |>.getD now)

/-- A deposit reaches an image: its slot, and the wait that it ends unless the limit of the wait has passed (R170, R172). -/
def Image.deposit (i : Image) (k : BitVec 2) (x : Word) (now lim : Nat) : Image :=
  let i := { i with slots := i.slots.set k.toNat (some x) k.isLt }
  match i.cond with
  | .deposit regs d => if regs.getLsbD k.toNat && !pastLimit d lim then { i with cond := .ready, sigTime := now } else i
  | _ => i

/-- Whether the handler of a lost strand, which has no image, stands under a number. -/
def Core.lostHandlerAt (c : Core) (num : Nat) : Bool :=
  let lost := fun (t : Strand) => t.num == num && t.handler.any fun h => h.cause == 0x13#8
  (c.running && lost c.cur) || c.images.any fun i => lost i.st

/-- A deposit at its core (R170, R171, R253): the trapped image before its handler, the running strand's register, or a slot of
the image. A handler's own registers receive none, so one for a lost strand is discarded (DESIGN CHOICE, log 116). `lim` is the cycle up to
which WLIMIT has counted. -/
def Core.deposit (c : Core) (num : Nat) (r : BitVec 5) (x : Word) (lim : Nat) : Core :=
  let k := depositIx r
  if c.lostHandlerAt num then c.countDropped
  else if c.images.any fun i => i.st.num == num && i.inSlot then
    { c with images := c.images.map fun i => if i.st.num = num ∧ i.inSlot then i.deposit k x c.cycle lim else i }
  else if c.running && c.cur.num == num then { c with cur := c.cur.depositG r x }
  else if c.images.any (·.st.num == num) then { c with images := onImage num (fun i => i.deposit k x c.cycle lim) c.images }
  else c.countDropped

/-! ## Waits of full/empty accesses and deposits (R172, R285) -/

/-- A strand that waits at a word, or for a deposit, becomes runnable. -/
def Core.wakeStrand (c : Core) (num : Nat) (p : Image → Bool) (resume : Resume) : Core :=
  { c with images := onImage num (fun i => if p i then { i with cond := .ready, resume := resume, sigTime := c.cycle } else i) c.images }

/-- The key of a word or port at which an image waits. -/
def Image.waitKey (i : Image) : Option Nat :=
  match i.cond with
  | .word k _ _ _ => some k
  | _ => none

/-- An image that waits at a key, and whose wait has not passed its limit in a cycle: a wake in the cycle of expiry is applied
first (R285). -/
def Image.waitsAt (k now : Nat) (i : Image) : Bool :=
  match i.cond with
  | .word q _ _ d => q == k && !pastLimit d now
  | _ => false

/-- The cycle at which a strand refused by a full waiter table tries again. -/
def Image.retryAt (i : Image) : Option Nat :=
  match i.cond with
  | .word _ _ r _ => r
  | _ => none

/-- The cycle at which WLIMIT ends the wait of an image. -/
def Image.deadline (i : Image) : Option Nat :=
  match i.cond with
  | .word _ _ _ d => d
  | .deposit _ d => d
  | _ => none

/-- An image of a number that no trap slot holds. -/
def Core.imageOf (c : Core) (num : Nat) : Option Image := c.images.find? fun i => i.st.num == num && !i.inSlot

/-- Whether a cycle of a core has passed. -/
def Core.passed (c : Core) (t : Option Nat) : Bool :=
  match t with
  | some t => decide (t < c.cycle)
  | none => false

/-- WAITER_TABLE_TIMEOUT (R285): 64 cycles have passed since a strand was refused while its bank's waiter table was full. -/
def State.evTableTimeout (s : State) (core num : Nat) : Option State :=
  let c := s.coreOf core
  match (c.imageOf num).bind fun i => (i.retryAt).filter fun t => !pastLimit i.deadline (s.countsTo core t) with
  | none => none
  | some t => if t < c.cycle then some (s.onCore core fun c => c.atCycle t (·.wakeStrand num (fun _ => true) .go)) else none

/-- WAIT_LIMIT_EXPIRY (R172, R285): the strand becomes runnable to take WAIT_LIMIT, and its waiter record ends. -/
def State.evWaitLimit (s : State) (core num : Nat) : Option State :=
  let c := s.coreOf core
  match c.imageOf num with
  | none => none
  | some i =>
    match i.deadline with
    | none => none
    | some t =>
      if t < c.cycle ∧ s.pkg.frozen.isNone then
        let s := match i.waitKey with
          | some k => s.onWaiters k fun l => l.filter fun w => !(w.core == core && w.strand == num)
          | none => s
        some (s.onCore core fun c => c.atCycle t (·.wakeStrand num (fun _ => true) .waitLimit))
      else none

/-! ## Delivery -/

/-- DETRED on a die, for the dispatcher (R319, R397). -/
def State.setDetred (s : State) (d : Nat) : State := s.onDie d fun x => { x with redcfg := x.redcfg ||| (1#64 <<< 63), detredBy := true }

/-- A strand of a DETRED launch comes onto a die (R397). -/
def State.detredAt (s : State) (t : Strand) (d : Nat) : State :=
  if (t.launch.bind s.launchOf).any (·.detred) then s.setDetred d else s

/-- The publications of a launch follow a strand of it to a core to which they were not sent (R411): one in flight arrives there as it does
elsewhere, any other has arrived. -/
def State.pubsFollow (s : State) (launch : Option Nat) (core : Nat) : State :=
  match launch.bind s.launchOf with
  | none => s
  | some l =>
    let of_ := fun (p : Pub) (m : Msg) => match m.body with
      | .publication x j r _ => x == l.id && j == p.item && r == p.reg
      | _ => false
    let here := fun (m : Msg) => match m.body with
      | .publication _ _ _ c => c == core
      | _ => false
    l.pubs.foldl
      (fun s p =>
        let ms := s.flight.filter (of_ p)
        if p.reached.contains core || ms.any here then s
        else match ms.head? with
          | some m => { s with flight := s.flight ++ [{ m with body := .publication l.id p.item p.reg core }] }
          | none => s.onLaunch l.id fun l => { l with pubs := l.pubs.map fun (q : Pub) =>
              if q.item = p.item ∧ q.reg = p.reg then { q with reached := core :: q.reached } else q }) s

/-- The arrival of a strand that hops (R168): a new number and SELF, status 0 in d; it is started like a strand that has never
run. None while the core can take no strand. -/
def State.hopArrives (s : State) (st : Strand) (core : Nat) (d : BitVec 5) : Option State :=
  let c := s.coreOf core
  match c.freeNum with
  | none => none
  | some n =>
    let t := { st with num := n, sp := { st.sp with self := mkSelf s.node core n } }.writeG d 0
    let s := match st.left with
      | p :: _ => s.renameSender (senderKey p.1 p.2) (senderKey core n)
      | [] => s
    some (((s.detredAt st (dieOf core)).pubsFollow st.launch core).onCore core fun c => c.addStrand t c.cycle)

/-- The effect of a message whose effect is at a core. -/
def State.deliverBody (s : State) (m : Msg) : Option State :=
  match m.body with
  | .signal h => (hCore h).map fun c => s.arriveAt m c (·.signal h)
  | .fail h e => (hCore h).map fun c => s.arriveAt m c (·.fail h e)
  | .deposit t r x _ => (hCore t).map fun c => s.arriveAt m c fun k => k.deposit (t.extractLsb' 0 8).toNat r x (s.countsTo c k.cycle)
  | .ldqReply c _ h k _ => some (s.replyAt m c h k)
  | .store c h k x _ => some (s.storeArrives m c h k x)
  | .wake c n k => some (s.arriveAt m c fun x => x.wakeStrand n (Image.waitsAt k (s.countsTo c x.cycle)) .go)
  | .hop st c d => s.hopArrives st c d
  | _ => none

/-- Whether an earlier message has to arrive first: a deposit of the same strand to the same register (R170), or a publication from
the same source stop to the same destination stop (VC2, R309). -/
def Msg.before (e m : Msg) : Bool :=
  match e.body, m.body with
  | .deposit t r _ n, .deposit t' r' _ n' => t == t' && r == r' && n == n'
  | .publication _ _ _ c, .publication _ _ _ c' => clusterOf e.src == clusterOf m.src && clusterOf c == clusterOf c'
  | _, _ => false

/-- Whether the target of an `LDQ` or `STQ` in flight lies behind a link that retrains (R430, R450). -/
def State.replyHeld (s : State) : MsgBody → Bool
  | .ldqReply c _ _ k _ => !s.pkg.links.isEmpty && s.way c (s.targetHome k) == .held
  | .store c _ k _ _ => !s.pkg.links.isEmpty && s.way c (s.targetHome k) == .held
  | _ => false

/-- A message for this node. -/
def State.isLocal (s : State) : MsgBody → Bool
  | .signal h => hNode h == s.node
  | .fail h _ => hNode h == s.node
  | .deposit t _ _ _ => hNode t == s.node
  | _ => true

/-- The die at which a message arrives. -/
def MsgBody.die : MsgBody → Option Nat
  | .signal h => (hCore h).map dieOf
  | .fail h _ => (hCore h).map dieOf
  | .deposit t _ _ _ => (hCore t).map dieOf
  | .ldqReply c _ _ _ _ => some (dieOf c)
  | .store c _ _ _ _ => some (dieOf c)
  | .hop _ c _ => some (dieOf c)
  | .barrier l u _ _ _ _ => some (if l = 0 then u / Config.clustersPerDie else if l = 1 then u else 0)
  | .wake c _ _ => some (dieOf c)
  | .reduce _ _ items => items.head?.map fun c => keyDie c.addr
  | .matrix c _ _ _ _ => some (dieOf c)
  | .publication _ _ _ c => some (dieOf c)
  | .dependency _ _ _ => some 0

/-- Whether no link on the way of a message carries traffic now (R430). -/
def State.msgHeld (s : State) (m : Msg) : Bool :=
  !s.pkg.links.isEmpty && s.isLocal m.body && (m.body.die.any fun d => !s.diesJoined false (dieOf m.src) d)

/-- The core whose cells, registers or waits a message reaches. -/
def MsgBody.target : MsgBody → Option Nat
  | .signal h => hCore h
  | .fail h _ => hCore h
  | .deposit t _ _ _ => hCore t
  | .ldqReply c _ _ _ _ => some c
  | .store c _ _ _ _ => some c
  | .wake c _ _ => some c
  | _ => none

/-- The cycle of its target core in which a message takes effect, once its stated cycle has passed. -/
def State.dueCycle (s : State) (m : Msg) : Option Nat :=
  if m.due.isSome && s.isLocal m.body && s.arrived m && !s.replyHeld m.body && !s.msgHeld m then m.body.target.map (s.arrivalCycle m) else none

/-- The cycle in which the end of the head command of a core's matrix queue takes effect, once it has completed (R233). -/
def Core.matrixDue (c : Core) : Option Nat :=
  match c.mx.headTimes with
  | some (_, _, done) => if done < c.cycle then some (done + 1) else none
  | none => none

/-- Whether another event at the same core, of an earlier cycle, comes before a message (R152). -/
def State.comesLater (s : State) (m : Msg) : Bool :=
  match m.body.target, s.dueCycle m with
  | some c, some t => ((s.coreOf c).matrixDue.any fun x => decide (x < t)) || s.flight.any fun e => e.body.target == some c && (s.dueCycle e).any fun x => decide (x < t)
  | _, _ => false

/-- Delivering message `i` when it is one that `p` picks, its cycle has passed, its way is open, and nothing has to come before it. -/
def State.evMsg (s : State) (p : MsgBody → Bool) (i : Nat) : Option State :=
  match s.flight[i]? with
  | none => none
  | some m =>
    if p m.body && s.arrived m && !s.msgHeld m && !(s.flight.take i).any (·.before m) && !s.comesLater m then
      ({ s with flight := s.flight.eraseIdx i }).deliverBody m
    else none

/-- TOKEN_SIGNAL_ARRIVAL (R152, R155): the store of an `STQ` is performed first, and its token is told how it went (R208). -/
def State.evSignal (s : State) (i : Nat) : Option State :=
  s.evMsg (fun b => match b with | .signal _ => s.isLocal b | .store _ _ _ _ _ => !s.replyHeld b | _ => false) i
/-- TOKEN_FAIL_ARRIVAL (R152, R155). -/
def State.evFail (s : State) (i : Nat) : Option State := s.evMsg (fun b => match b with | .fail _ _ => s.isLocal b | _ => false) i
/-- DEPOSIT_ARRIVAL (R170-R173). -/
def State.evDeposit (s : State) (i : Nat) : Option State := s.evMsg (fun b => match b with | .deposit _ _ _ _ => s.isLocal b | _ => false) i


/-- LDQ_REPLY (R164, R165, R208). -/
def State.evReply (s : State) (i : Nat) : Option State :=
  s.evMsg (fun b => match b with | .ldqReply _ _ _ _ _ => !s.replyHeld b | _ => false) i
/-- WAITER_WAKE (R285). -/
def State.evWake (s : State) (i : Nat) : Option State := s.evMsg (fun b => match b with | .wake _ _ _ => true | _ => false) i
/-- HOP_ARRIVAL (R168). -/
def State.evHop (s : State) (i : Nat) : Option State := s.evMsg (fun b => match b with | .hop _ _ _ => true | _ => false) i

/-- The smallest second component of a list of pairs; the first of several. -/
def earliestOf {α : Type} : List (α × Nat) → Option (α × Nat)
  | [] => none
  | x :: xs =>
    match earliestOf xs with
    | some y => if y.2 < x.2 then some y else some x
    | none => some x

/-- The messages to the focus core whose stated cycle has passed, by their places in flight, with the cycles in which they take effect. -/
def State.dueHere (s : State) : List (Nat × Nat) :=
  s.flight.zipIdx.filterMap fun p => if p.1.body.target = some s.core.cid then (s.dueCycle p.1).map fun t => (p.2, t) else none

/-- The next event of the focus core that is due: the end of a matrix command, or a message, in the order of their cycles (R152, R173). -/
def State.dueNext (s : State) : Option State :=
  match earliestOf s.dueHere, s.core.matrixDue with
  | some (i, t), some m => if m < t then s.matrixHead else s.evMsg s.isLocal i
  | some (i, _), none => s.evMsg s.isLocal i
  | none, some _ => s.matrixHead
  | none, none => none

/-- The events of the focus core that are due. -/
def State.deliverDue (s : State) : Nat → State
  | 0 => s
  | n + 1 =>
    match s.dueNext with
    | none => s
    | some s' => s'.deliverDue n

/-- PENDING_RESULT_RETURN (R20): the data of a pending result of the running strand returns, and waits for its settle point. -/
def State.evPending (s : State) (core i : Nat) : Option State :=
  let c := s.coreOf core
  match (if c.running then c.cur.pend[i]? else none) with
  | none => none
  | some e =>
    if e.present || e.token != 0 then none
    else some (s.onCore core fun c => { c with cur := { c.cur with pend := c.cur.pend.modify i fun e => { e with present := true } } })

/-! ## The instructions of the arrivals -/

/-- The outcome of a device step: its next state, or a refusal when the device does not take it there. -/
def evOut (name : String) : Option State → Out
  | some s => .next s
  | none => .refused (.notEnabled name)

/-- PENDING_RESULT_RETURN (R20). -/
def execPendingResultReturn (core i : Nat) (s : State) : Out := evOut "PENDING_RESULT_RETURN" (s.evPending core i)
/-- LDQ_REPLY (R164). -/
def execLdqReply (i : Nat) (s : State) : Out := evOut "LDQ_REPLY" (s.evReply i)
/-- TOKEN_SIGNAL_ARRIVAL (R152). -/
def execTokenSignalArrival (i : Nat) (s : State) : Out := evOut "TOKEN_SIGNAL_ARRIVAL" (s.evSignal i)
/-- TOKEN_FAIL_ARRIVAL (R152). -/
def execTokenFailArrival (i : Nat) (s : State) : Out := evOut "TOKEN_FAIL_ARRIVAL" (s.evFail i)
/-- DEPOSIT_ARRIVAL (R170). -/
def execDepositArrival (i : Nat) (s : State) : Out := evOut "DEPOSIT_ARRIVAL" (s.evDeposit i)
/-- WAITER_WAKE (R285). -/
def execWaiterWake (i : Nat) (s : State) : Out := evOut "WAITER_WAKE" (s.evWake i)
/-- WAITER_TABLE_TIMEOUT (R285). -/
def execWaiterTableTimeout (core strand : Nat) (s : State) : Out := evOut "WAITER_TABLE_TIMEOUT" (s.evTableTimeout core strand)
/-- WAIT_LIMIT_EXPIRY (R285). -/
def execWaitLimitExpiry (core strand : Nat) (s : State) : Out := evOut "WAIT_LIMIT_EXPIRY" (s.evWaitLimit core strand)
/-- HOP_ARRIVAL (R168). -/
def execHopArrival (i : Nat) (s : State) : Out := evOut "HOP_ARRIVAL" (s.evHop i)

end Sys2Proof.Machine
end

