-- ==== Sys2Proof/Machine/Special.lean ====
section
/-! DEFINITION. The special registers (R73-R77, R105 and the tables of the chapters): what each index reads, which of its bits
may be written, and `RDS` and `WRS` with the writes that are rows of their own. `WRS_LCANCEL` is in `Launch.lean` and
`WRS_NETRELOAD` in `Net.lean`. -/

namespace Sys2Proof.Machine

/-! ## Reading -/

/-- The bits [hi:lo] as a mask. -/
def bits (hi lo : Nat) : Word := BitVec.ofNat 64 ((2 ^ (hi + 1 - lo) - 1) * 2 ^ lo)

/-- COORD of a core (R73). -/
def coordOf (core : Nat) : Word :=
  BitVec.ofNat 64 (dieOf core * 2 ^ 16 + core % Config.coresPerDie / Config.coresPerCluster * 2 ^ 8 + core % Config.coresPerCluster)

/-- The specials of the strand's chapter (R73). -/
def State.readStrandSp (s : State) (x : Nat) : Option Word :=
  let p := s.cur.sp
  match x with
  | 0x000 => some s.cur.pc
  | 0x001 => some p.sflagsRead
  | 0x002 => some p.sctl
  | 0x003 => some (BitVec.ofNat 64 p.vrows)
  | 0x004 => some (BitVec.ofNat 64 p.vcols)
  | 0x005 => some (BitVec.ofNat 64 p.vl)
  | 0x006 => some (p.vtype.setWidth 64)
  | 0x007 => some p.fpcr
  | 0x008 => some p.fpsr
  | 0x009 => some p.xsel
  | 0x00A => some p.item
  | 0x00B => some p.lstb
  | 0x00C => some p.wlimit
  | 0x00D => some p.depset
  | 0x00E => some (BitVec.ofNat 64 p.gangsz)
  | 0x00F => some p.lstn
  | 0x010 => some p.grows
  | 0x011 => some p.growb
  | 0x012 => some p.gsstr
  | 0x013 => some p.gdstr
  | 0x014 => some p.gmcast
  | 0x018 => some p.pwin[0]
  | 0x019 => some p.pwin[1]
  | 0x01A => some p.pwin[2]
  | 0x01B => some p.pwin[3]
  | 0x020 => some (BitVec.ofNat 64 s.core.cycle)
  | 0x021 => some p.self
  | 0x022 => some (coordOf s.core.cid)
  | 0x023 => some s.core.cclimit
  | 0x024 => some p.vbank
  | 0x030 => some p.traprec
  | 0x031 => some p.trapvec
  | 0x040 => some p.acctcfg
  | _ => none

/-- Homes of a core's Basin (R149). -/
def Core.homes (c : Core) : Nat := (c.basin.extractLsb' 56 8).toNat

/-- CTXCAP (R150). -/
def Core.ctxcap (c : Core) : Word :=
  BitVec.ofNat 64 (c.bodyOk * 2 ^ 16 + min 255 (c.entriesOk + c.homes) * 2 ^ 8 + c.entriesOk)

/-- Pins that a launch holds in a cluster (R273, R281). -/
def Cluster.pinsOf (cl : Cluster) (l : Option Nat) : Nat :=
  (cl.pins.filter fun p => some p.launch == l).foldl (fun n p => n + p.count) 0

/-- PINQ of a launch in the cluster of the focus core (R387): its record's quota, 0 standing for 65,535; none in a cluster where it was never
placed, nor without a launch (DESIGN CHOICE, log 12). -/
def State.pinQuota (s : State) (l : Option Nat) : Nat :=
  match l.bind s.launchOf with
  | some x => if !x.cores.any fun c => clusterOf c == clusterOf s.core.cid then 0 else if x.pinq = 0 then 65535 else x.pinq
  | none => 0

/-- The cluster of the focus core. -/
def State.ownCluster (s : State) : Cluster := s.clusterAt (clusterOf s.core.cid)

/-- Mask of the banks in CACHE mode (R273). -/
def Cluster.cacheMask (cl : Cluster) : BitVec 64 := ~~~(cl.outMask ||| cl.scrMask ||| cl.fifoMask)

/-- CLUCAP of the reading strand (R273). -/
def State.clucap (s : State) : Word :=
  let cl := s.ownCluster
  BitVec.ofNat 64 (s.pinQuota s.cur.launch * 2 ^ 32 + min 65535 (cl.pinsOf s.cur.launch) * 2 ^ 16 + cl.engines * 2 ^ 12 +
    (64 - popCount cl.outMask))

/-- DIECAP of a die (R314, R315). -/
def Die.diecap (d : Die) : Word :=
  BitVec.ofNat 64 (d.hbmStacks * 2 ^ 32 + ceilDiv 786432 d.modulus * 2 ^ 16 + (61 - popCount d.l2off) * 2 ^ 8 + d.modulus)

/-- Slots of a die's Moraine units in service (R332). -/
def Die.slotsOk (d : Die) : Nat := 8192 - d.slotsOut.length

/-- SSCAP of a die (R332). -/
def Die.sscap (d : Die) : Word :=
  let used := (d.slots.filter fun p => (p.2.isOpen || p.2.closing) && !d.slotsOut.contains p.1).length
  BitVec.ofNat 64 ((d.slotsOk - used) * 2 ^ 32 + d.slotsOk * 2 ^ 16 + 16 * 2 ^ 8 + 26)

/-- CXLCAP (R367). -/
def Package.cxlcap (p : Package) : Word :=
  BitVec.ofNat 64 (p.cxlPorts * 2 ^ 40 + p.extents.length * 2 ^ 24 + p.extents.foldl (fun n e => n + e.2) 0 / 2 ^ 28)

/-- LGRANT of the reading strand (R393). -/
def State.lgrant (s : State) : Word :=
  match s.cur.launch.bind s.launchOf with
  | some l => (l.shape &&& bits 63 43) ||| BitVec.ofNat 64 (l.items % 2 ^ 32)
  | none => 0

/-- The capability registers; an index without one reads 0 (R73). -/
def State.readCap (s : State) (x : Nat) : Word :=
  match x with
  | 0x101 => 0x3566
  | 0x120 => s.core.ctxcap
  | 0x122 => 0x40400808
  | 0x130 => s.ownCluster.cacheMask
  | 0x131 => s.ownCluster.scrMask
  | 0x132 => s.ownCluster.fifoMask
  | 0x133 => s.clucap
  | 0x140 => (s.dieAt (dieOf s.core.cid)).diecap
  | 0x141 => (s.dieAt (dieOf s.core.cid)).l2off
  | 0x150 => (s.dieAt (dieOf s.core.cid)).sscap
  | 0x160 => s.pkg.cxlcap
  | 0x170 => s.lgrant
  | 0x180 => s.pkg.health
  | 0x190 => s.pkg.podcap
  | _ => 0

/-- VRDATA: the dword of the retire entry that VRSEL names (R190). -/
def Core.vrdata (c : Core) : Word :=
  match c.retire.find? fun p => p.1 == (c.vrsel.extractLsb' 0 8).toNat with
  | none => 0
  | some (_, e) =>
    match (c.vrsel.extractLsb' 8 2).toNat with
    | 0 => e.w0
    | 1 => e.w1
    | 2 => e.w2
    | _ => e.w3

/-- The supervisor registers of the core. -/
def Core.readSp (c : Core) (x : Nat) : Option Word :=
  match x with
  | 0x810 => some c.latfix
  | 0x811 => some c.basin
  | 0x812 => some c.stalecnt
  | 0x813 => some c.acctctl
  | 0x814 => some c.trbase
  | 0x815 => some c.trptr
  | 0x816 => some c.rpbase
  | 0x817 => some c.rpptr
  | 0x818 => some c.vrsel
  | 0x819 => some c.vrdata
  | 0x81A => some (c.vrhead.setWidth 64)
  | 0x820 => some c.mxbase
  | 0x822 => some c.mxcapl
  | 0x823 => some c.mxcaph
  | 0x824 => some c.mxhost
  | 0x830 => some c.trapcfg
  | _ => none

/-- The die-wide and package-wide supervisor registers, and PTROOT. WO registers read 0 (R8). -/
def State.readWide (s : State) (x : Nat) : Option Word :=
  let d := s.dieAt (dieOf s.core.cid)
  match x with
  | 0x840 => some d.redcfg
  | 0x841 => some d.slotpol
  | 0x842 => some d.hbmrm
  | 0x843 => some d.ecccnt
  | 0x850 => some s.cur.sp.ptroot
  | 0x860 => some s.pkg.fqbase
  | 0x861 => some s.pkg.fqptr
  | 0x862 => some s.pkg.fqcfg
  | 0x863 => some 0
  | 0x864 => some 0
  | 0x870 => some s.pkg.qtbase
  | 0x872 => some 0
  | 0x880 => some s.pkg.profile
  | 0x881 => some s.pkg.pwrstat
  | 0x8B0 => some s.pkg.netqpt
  | 0x8B1 => some s.pkg.netmrt
  | 0x8B2 => some 0
  | 0x8C0 => some s.pkg.placecfg
  | _ => if 0x890 ≤ x ∧ x ≤ 0x8AF then s.pkg.podexp[x - 0x890]? else none

/-- What a special index reads; `none` for an unassigned one (R73). -/
def State.readSpecial (s : State) (x : BitVec 12) : Option Word :=
  if x.toNat < 0x100 then s.readStrandSp x.toNat
  else if x.toNat < 0x200 then some (s.readCap x.toNat)
  else
    match s.core.readSp x.toNat with
    | some v => some v
    | none => s.readWide x.toNat

/-- Clearing the RC fields that a read has read (R8). -/
def State.clearRead (s : State) (x : BitVec 12) : State :=
  match x.toNat with
  | 0x812 => s.onFocus fun c => { c with stalecnt := 0 }
  | 0x843 => s.onDie (dieOf s.core.cid) fun d => { d with ecccnt := 0 }
  | 0x881 => s.onPkg fun p => { p with rides := 0, quiesces := 0 }
  | _ => s

/-- `rds` (R76, R105). -/
def execRds (st : Bool) (d : BitVec 5) (x : BitVec 12) (s : State) : Out :=
  issueSpecial st { priv := decide (0x800 ≤ x.toNat) } x
    (fun s =>
      match s.vqNow.readSpecial x with
      | none => s.illegal
      | some v => .ok ((s.vqNow.clearRead x).wg d v)) s

/-! ## Writing -/

/-- The bits of a register that a write may change, and those that it must repeat (R8, R76, R105); `none` when every field is
RO. Bits in neither are reserved. -/
def specMask (x : Nat) : Option (Word × Word) :=
  match x with
  | 0x001 => some (0xF, 0)
  | 0x002 => some (7, 0x10)
  | 0x003 | 0x004 | 0x005 | 0x012 | 0x013 | 0x023 | 0x812 | 0x822 | 0x823 | 0x843 => some (bits 63 0, 0)
  | 0x006 => some (0x1F, 0)
  | 0x007 => some (bits 63 32 ||| bits 11 7 ||| bits 5 4 ||| bits 2 0, 0)
  | 0x008 => some (0x3F, 0)
  | 0x009 => some (0xF, 0)
  | 0x00C => some (bits 31 0, 0)
  | 0x010 => some (bits 16 0, 0)
  | 0x011 => some (bits 24 0, 0)
  | 0x014 => some (bits 15 0, 0)
  | 0x024 => some (0xFF, 0)
  | 0x040 => some (3, 0)
  | 0x810 => some (bits 63 63 ||| bits 15 0, 0)
  | 0x811 | 0x820 | 0x830 => some (bits 63 56 ||| bits 55 20, 0)
  | 0x813 => some (bits 63 59 ||| bits 4 0, 0)
  | 0x814 | 0x816 => some (bits 55 6, 0)
  | 0x815 | 0x861 => some (bits 63 32, bits 31 0)
  | 0x817 => some (bits 31 0, bits 63 32)
  | 0x818 => some (bits 9 0, 0)
  | 0x824 => some (bits 63 63 ||| bits 7 0, 0)
  | 0x840 => some (bits 63 62, 0)
  | 0x841 => some (bits 31 0, 0)
  | 0x860 => some (bits 51 6, 0)
  | 0x862 => some (bits 63 62 ||| bits 4 0, 0)
  | 0x863 | 0x864 => some (bits 51 5, 0)
  | 0x870 => some (bits 51 4, 0)
  | 0x872 => some (bits 13 0, 0)
  | 0x880 => some (3, 0x300)
  | 0x881 => some (bits 63 32, 7)
  | 0x8B0 | 0x8B1 | 0x8C0 => some (bits 63 63 ||| bits 51 6, 0)
  | 0x8B2 => some (bits 15 0, 0)
  | _ => if 0x890 ≤ x ∧ x ≤ 0x8AF then some (bits 63 63 ||| bits 51 35, 0) else none

/-- The checks of a write on its fields (R76, R105): every bit outside the masks is 0, every RO bit is as it stands. -/
def State.fieldsOk (s : State) (x : BitVec 12) (v : Word) : Bool :=
  match specMask x.toNat, s.readSpecial x with
  | some (rw, ro), some old => (v &&& ~~~(rw ||| ro)) == 0 && ((v ^^^ old) &&& ro) == 0
  | _, _ => false

/-- Whether a value is a reserved value of its register (R62, R64, R149, R175, R252, R357). -/
def reservedValue (x : Nat) (v : Word) : Bool :=
  match x with
  | 0x007 => decide (5 ≤ (v.extractLsb' 0 3).toNat)
  | 0x009 => decide (9 ≤ (v.extractLsb' 0 4).toNat)
  | 0x810 => v.getLsbD 63 && v.extractLsb' 0 16 == 0
  | 0x811 => v.extractLsb' 56 8 == 0
  | 0x830 => v.extractLsb' 56 8 == 0
  | 0x862 => decide ((v.extractLsb' 0 5).toNat < 6) || decide (20 < (v.extractLsb' 0 5).toNat)
  | _ => false

/-- The strand's specials after a plain write (R63, R74). -/
def Specials.put (p : Specials) (x : Nat) (v : Word) : Specials :=
  match x with
  | 0x001 => { p with sflags := v &&& 0xB, fpsr := (p.fpsr &&& ~~~0x20#64) ||| (if v.getLsbD 2 then 0x20 else 0) }
  | 0x002 => { p with sctl := v }
  | 0x003 => { p with vrows := v.toNat }
  | 0x004 => { p with vcols := v.toNat }
  | 0x005 => { p with vl := v.toNat }
  | 0x007 => { p with fpcr := v }
  | 0x008 => { p with fpsr := v }
  | 0x009 => { p with xsel := v }
  | 0x00C => { p with wlimit := v }
  | 0x010 => { p with grows := v }
  | 0x011 => { p with growb := v }
  | 0x012 => { p with gsstr := v }
  | 0x013 => { p with gdstr := v }
  | 0x014 => { p with gmcast := v }
  | 0x040 => { p with acctcfg := v }
  | _ => p

/-- The core's registers after a plain write. -/
def Core.putSp (c : Core) (x : Nat) (v : Word) : Core :=
  match x with
  | 0x810 => { c with latfix := v }
  | 0x811 => { c with basin := v }
  | 0x814 => { c with trbase := v }
  | 0x816 => { c with rpbase := v }
  | 0x817 => { c with rpptr := v }
  | 0x818 => { c with vrsel := v }
  | 0x820 => { c with mxbase := v }
  | 0x822 => { c with mxcapl := v }
  | 0x823 => { c with mxcaph := v }
  | 0x824 => { c with mxhost := v }
  | 0x830 => { c with trapcfg := v }
  | _ => c

/-- The package-wide registers after a plain write. An RC field has no effect of a write (DEDUCED, log 15). -/
def Package.putSp (p : Package) (x : Nat) (v : Word) : Package :=
  match x with
  | 0x860 => { p with fqbase := v }
  | 0x861 => { p with fqptr := v }
  | 0x862 => { p with fqcfg := v }
  | 0x870 => { p with qtbase := v }
  | 0x8B0 => { p with netqpt := v }
  | 0x8B1 => { p with netmrt := v }
  | 0x8C0 => { p with placecfg := v }
  | _ => if 0x890 ≤ x then { p with podexp := p.podexp.setIfInBounds (x - 0x890) v } else p

/-- A plain write of an index that has passed its checks. -/
def State.putSpecial (s : State) (x : BitVec 12) (v : Word) : State :=
  if x.toNat < 0x100 then s.onSp (·.put x.toNat v)
  else if x.toNat < 0x840 then s.onFocus (·.putSp x.toNat v)
  else s.onPkg (·.putSp x.toNat v)

/-- Whether a write of VROWS, VCOLS or VL keeps the limits of R77. -/
def State.shapeOk (s : State) (x : Nat) (v : Nat) : Bool :=
  match x with
  | 0x003 => decide (v ≤ 32 * s.cur.sp.gangsz) && decide (s.vl ≤ v * s.vcols)
  | 0x004 => decide (v ≤ 1024 / s.vw) && decide (s.vl ≤ s.vrows * v)
  | 0x005 => decide (v ≤ s.vrows * s.vcols)
  | _ => true

/-- The frame of a `WRS`: g a is read with no wait for a pending result (R21, R105), and the field checks of R76. -/
def wrsWith (st : Bool) (a : BitVec 5) (x : BitVec 12) (body : Word → State → Res) (s : State) : Out :=
  issueSpecial st { priv := decide (0x800 ≤ x.toNat), g := [a] } x
    (fun s =>
      let v := s.rg a
      if s.fieldsOk x v && !reservedValue x.toNat v then body v s else s.illegal) s

/-- `wrs` of every index without a row of its own (R76, R77, R105). -/
def execWrs (st : Bool) (a : BitVec 5) (x : BitVec 12) (s : State) : Out :=
  wrsWith st a x (fun v s => if s.shapeOk x.toNat v.toNat then .ok (s.putSpecial x v) else s.raise 0x0B 0) s

/-! ## Writes that are rows of their own -/

/-- `wrs` VTYPE (R77): the type code is checked, VCOLS and VL are clamped. -/
def execWrsVtype (st : Bool) (a : BitVec 5) (s : State) : Out :=
  wrsWith st a 0x006
    (fun v s =>
      let t := v.extractLsb' 0 5
      if isType t then
        .ok (s.onSp fun p =>
          let cols := min p.vcols (1024 / width t)
          { p with vtype := t, vcols := cols, vl := min p.vl (p.vrows * cols) })
      else s.illegal) s

/-- The vector registers of the banks that a mask of four names. -/
def bankRegs (bs : List Nat) : BitVec 32 := bs.foldl (fun m b => m ||| (0xFF#32 <<< (8 * b))) 0

/-- The state of bank `b` in a VBANK value (R84). -/
def bankState (v : Word) (b : Nat) : Nat := (v.extractLsb' (2 * b) 2).toNat

/-- The strand's files with the contents of a bank lost on every member (R84, R85). -/
def Strand.loseBank (t : Strand) (b : Nat) : Strand :=
  { t with vf := t.vf.loseBank b, partners := t.partners.map (·.loseBank b) }

/-- `wrs` VBANK (R84, R85): raised banks wake, lowered banks wait for their queued instructions, in the order of R180; contents of an OFF
bank are lost. -/
def execWrsVbank (st : Bool) (a : BitVec 5) (s : State) : Out :=
  wrsWith st a 0x024
    (fun v s =>
      if [0, 1, 2, 3].any fun b => bankState v b == 3 then s.illegal
      else
        let old := s.cur.sp.vbank
        let lowered := [0, 1, 2, 3].filter fun b => bankState old b < bankState v b
        let raised := [0, 1, 2, 3].filter fun b => bankState v b = 0 ∧ bankState old b ≠ 0
        let lost := [0, 1, 2, 3].filter fun b => bankState v b = 2 ∨ bankState old b = 2 ∧ bankState v b = 1
        match s.powered (raised.map fun b => BitVec.ofNat 5 (8 * b)) with
        | some s => .left s
        | none =>
          let s := s.vqNow
          if s.core.vq.any fun e => (e.regs &&& bankRegs lowered) != 0 then .left (s.stall .vqFull 1)
          else .ok ((s.onCur fun t => lost.foldl Strand.loseBank t).onSp fun p => { p with vbank := v })) s

/-- `wrs` CCLIMIT (R150): the excess of entries is evicted at the next context movement (R147). -/
def execWrsCclimit (st : Bool) (a : BitVec 5) (s : State) : Out :=
  wrsWith st a 0x023
    (fun v s => if 1 ≤ v.toNat ∧ v.toNat ≤ s.core.entriesOk then .ok (s.onFocus fun c => { c with cclimit := v }) else s.illegal) s

/-- Whether a SLOTPOL value keeps the limits of R308. -/
def slotpolOk (v : Word) : Bool :=
  let req := (v.extractLsb' 24 8).toNat
  let rsp := (v.extractLsb' 16 8).toNat
  let fwd := (v.extractLsb' 8 8).toNat
  let ctl := (v.extractLsb' 0 8).toNat
  decide (req ≤ 56) && decide (rsp ≤ 56) && decide (4 ≤ fwd) && decide (fwd ≤ 16) && decide (4 ≤ ctl) && decide (ctl ≤ 56) &&
    decide (req + rsp + fwd + ctl ≤ 60)

/-- `wrs` SLOTPOL (R307, R308): the tables change at the second frame boundary after the write. -/
def execWrsSlotpol (st : Bool) (a : BitVec 5) (s : State) : Out :=
  wrsWith st a 0x841
    (fun v s =>
      if slotpolOk v then .ok (s.onDie (dieOf s.core.cid) fun d => { d with slotpol := v, slotpolNext := some (v, 2) }) else s.illegal) s

/-- Whether a reduce-add packet for a die is in flight (R320). -/
def State.reduceInFlight (s : State) (d : Nat) : Bool :=
  s.flight.any fun m => match m.body with
    | .reduce _ _ items => items.any fun c => homeDie c.addr == d
    | _ => false

/-- `wrs` REDCFG (R319, R320). -/
def execWrsRedcfg (st : Bool) (a : BitVec 5) (s : State) : Out :=
  wrsWith st a 0x840
    (fun v s =>
      let d := dieOf s.core.cid
      let old := (s.dieAt d).redcfg
      let changes := v.getLsbD 63 != old.getLsbD 63
      if changes && s.reduceInFlight d then .wait s .order
      else
        let s := if changes && !v.getLsbD 63 then s.drainDie d fun _ => true else s
        .ok (s.onDie d fun x => { x with redcfg := (v &&& bits 63 63) ||| (x.redcfg &&& bits 62 62 &&& ~~~v) })) s

/-- A profile is selected (R425, R426): ACTIVE follows at the next frame boundary, unless a ride or a quiesce holds it. -/
def Package.select (p : Package) (sel : BitVec 2) : Package :=
  { p with
    profile := (p.profile &&& ~~~3#64) ||| sel.setWidth 64
    profileNext := if p.thermalRide || decide (2 ≤ p.pwr) then p.profileNext else some sel }

/-- `wrs` PROFILE (R426): SEL 3 is a reserved value. -/
def execWrsProfile (st : Bool) (a : BitVec 5) (s : State) : Out :=
  wrsWith st a 0x880
    (fun v s => if v.extractLsb' 0 2 = 3 then s.illegal else .ok (s.onPkg (·.select (v.extractLsb' 0 2)))) s

/-- ACCTCTL after a write: RW fields as written, DIVERGE and OVR cleared where 1 is written (R186). -/
def acctctlAfter (old v : Word) : Word :=
  (v &&& (bits 63 61 ||| bits 4 0)) ||| (old &&& bits 60 59 &&& ~~~v)

/-- `wrs` ACCTCTL (R186, R189): setting EXACT writes a time record; clearing it first writes the open run and the lost
counts. -/
def execWrsAcctctl (st : Bool) (a : BitVec 5) (s : State) : Out :=
  wrsWith st a 0x813
    (fun v s =>
      let n := (v.extractLsb' 0 5).toNat
      if n < 10 ∨ 24 < n then s.illegal
      else
        let was := s.core.exact
        let s := if was && !v.getLsbD 63 then s.closeRun.putLost 16 else s
        let s := s.onFocus fun c => { c with acctctl := acctctlAfter c.acctctl v }
        .ok (if !was && v.getLsbD 63 then s.trace 4 0 0 0 s.core.cycle else s)) s

/-- `wrs` TRPTR (R186, R189): RD advances, and the lost counts are written while the ring has room. -/
def execWrsTrptr (st : Bool) (a : BitVec 5) (s : State) : Out :=
  wrsWith st a 0x815 (fun v s => .ok ((s.onFocus fun c => { c with trptr := v }).putLost 16)) s

/-- `wrs` MIGDOOR (R362): a descriptor address is queued; a full queue waits. -/
def execWrsMigdoor (st : Bool) (a : BitVec 5) (s : State) : Out :=
  wrsWith st a 0x863
    (fun v s => if 64 ≤ s.pkg.migQueue.length then .wait s .engine else .ok (s.onPkg fun p => { p with migQueue := p.migQueue ++ [v.toNat] })) s

/-- `wrs` DUMPDOOR (R365). -/
def execWrsDumpdoor (st : Bool) (a : BitVec 5) (s : State) : Out :=
  wrsWith st a 0x864
    (fun v s => if 64 ≤ s.pkg.dumpQueue.length then .wait s .engine else .ok (s.onPkg fun p => { p with dumpQueue := p.dumpQueue ++ [v.toNat] })) s

end Sys2Proof.Machine
end

