-- ==== Sys2Proof/Machine/Cache.lean ====
section
/-! DEFINITION. The cluster cache (R274, R280, R281) and the home banks of L2 (R313): pins, write-backs, prefetch. Neither cache
changes a value that an agent reads. -/

namespace Sys2Proof.Machine

/-! ## Home banks (R313) -/

/-- Number of the L2 bank of a line, package-wide `die * 61 + bank`: the logical bank ℓ mod M, counted among the banks in
service. -/
def State.homeBank (s : State) (pa : Nat) : Nat :=
  let d := homeDie pa
  let die := s.dieAt d
  let banks := (List.range 61).filter fun b => !die.l2off.getLsbD b
  d * 61 + banks[pa / 64 % max die.modulus 1]?.getD 0

/-- A request enters the network of the die of its requester (R310). -/
def State.request (s : State) (r : MemRequest) : State := s.onDie (dieOf s.core.cid) fun d => { d with requests := d.requests ++ [r] }

/-! ## Lines named by address (R280) -/

/-- The line of global memory that an address reaches, if it translates; no fault is taken. -/
def State.lineOf (s : State) (va : Nat) : Option Nat :=
  if isGlobal va then
    match s.xlate s.cur.sp.ptroot s.cur.priv .read va with
    | .ok pa _ => some (pa / 64)
    | _ => none
  else none

/-- The lines of `n` bytes from an address that translate. -/
def State.linesOf (s : State) (va n : Nat) : List Nat := (pieces va n).filterMap fun p => s.lineOf p.1

/-- Whether a cluster has no CACHE bank. -/
def Cluster.noCache (c : Cluster) : Bool := c.cacheMask == 0

/-- Whether a launch or another holds a pin on a line. -/
def Cluster.pinned (c : Cluster) (line : Nat) : Bool := c.pins.any (·.line == line)

/-- Pins that a line carries. -/
def Cluster.pinsOn (c : Cluster) (line : Nat) : Nat := (c.pins.filter (·.line == line)).foldl (fun n p => n + p.count) 0

/-- The set of the cluster cache to which a line maps (R274: not architectural). -/
def Cluster.setOf (c : Cluster) (line : Nat) : Nat := Config.cacheSet line % max (256 * popCount c.cacheMask) 1

/-- Pinned lines in the set of a line. -/
def Cluster.pinnedInSet (c : Cluster) (line : Nat) : Nat :=
  (((c.pins.map (·.line)).eraseDups).filter fun l => c.setOf l == c.setOf line).length

/-! ## Pins (R281) -/

/-- The launch that holds the pins of the running strand; a strand without a launch holds none (DESIGN CHOICE, log 12). -/
def State.pinOwner (s : State) : Nat := s.cur.launch.getD 0

/-- The status of `pin` on an address (R281): 3 and 4 first, then 1, then 2 (DEDUCED, log 21). -/
def State.pinStatus (s : State) (va : Nat) : Nat :=
  let c := s.ownCluster
  if c.noCache || !isGlobal va then 3
  else
    match s.lineOf va with
    | none => 4
    | some l =>
      if c.pinsOn l = 255 ∨ (!c.pinned l ∧ 7 ≤ c.pinnedInSet l) then 1
      else if s.pinQuota s.cur.launch ≤ c.pinsOf s.cur.launch then 2
      else 0

/-- A line enters the cluster cache. -/
def Cluster.addLine (c : Cluster) (l : Nat) : Cluster := if c.lines.contains l then c else { c with lines := l :: c.lines }

/-- One more pin of a launch on a line. -/
def Cluster.addPin (c : Cluster) (launch line : Nat) : Cluster :=
  let c := c.addLine line
  if c.pins.any fun p => p.launch == launch && p.line == line then
    { c with pins := c.pins.map fun p => if p.launch = launch ∧ p.line = line then { p with count := p.count + 1 } else p }
  else { c with pins := ⟨launch, line, 1⟩ :: c.pins }

/-- One pin of a launch on a line released. -/
def Cluster.dropPin (c : Cluster) (launch line : Nat) : Cluster :=
  { c with pins := (c.pins.map fun p => if p.launch = launch ∧ p.line = line then { p with count := p.count - 1 } else p).filter (·.count != 0) }

/-- The address of a `CACHE` function: formed as `adda` does, its tag ignored (R280). -/
def State.cacheVa (s : State) (a : BitVec 5) : Nat := addrOf (adda (s.rg a) 0)

/-- `pin` (R281). -/
def execPin (st : Bool) (d a : BitVec 5) (s : State) : Out :=
  issue st 4 { g := [a] }
    (fun s =>
      let va := s.cacheVa a
      let s := s.freeStall .bank
      let x := s.pinStatus va
      let s := match x, s.lineOf va with
        | 0, some l => s.onCluster (clusterOf s.core.cid) fun c => c.addPin s.pinOwner l
        | _, _ => s
      .ok (s.wg d (BitVec.ofNat 64 x))) s

/-- `unpin` (R281). -/
def execUnpin (st : Bool) (d a : BitVec 5) (s : State) : Out :=
  issue st 4 { g := [a] }
    (fun s =>
      let va := s.cacheVa a
      let s := s.freeStall .bank
      match s.lineOf va with
      | none => .ok (s.wg d 1)
      | some l =>
        if s.cur.launch.isSome && s.ownCluster.pins.any fun p => p.launch == s.pinOwner && p.line == l then
          .ok ((s.onCluster (clusterOf s.core.cid) fun c => c.dropPin s.pinOwner l).wg d 0)
        else .ok (s.wg d 1)) s

/-! ## Write-backs and prefetch (R280) -/

/-- `cflush` (R280): the strand waits until the write-backs are performed; no value changes. -/
def execCflush (st : Bool) (a b : BitVec 5) (s : State) : Out :=
  issue st 4 { g := [a, b] } (fun s => .ok (if s.ownCluster.noCache then s else s.freeStall .order)) s

/-- `cinv` (R280): as `cflush`, and the unpinned lines of the range leave the cluster cache. -/
def execCinv (st : Bool) (a b : BitVec 5) (s : State) : Out :=
  issue st 4 { g := [a, b] }
    (fun s =>
      if s.ownCluster.noCache then .ok s
      else
        let gone := if s.ownCluster.lines.isEmpty then [] else s.linesOf (s.cacheVa a) (min (s.rg b).toNat (2 ^ 56))
        .ok ((s.freeStall .order).onCluster (clusterOf s.core.cid) fun c =>
          { c with lines := c.lines.filter fun l => c.pinned l || !gone.contains l })) s

/-- `pref` (R280): requests the lines of the range, at most 2^20 bytes, into the cluster cache; no wait. -/
def execPref (st : Bool) (a b : BitVec 5) (s : State) : Out :=
  issue st 4 { g := [a, b] }
    (fun s =>
      if s.ownCluster.noCache then .ok s
      else
        let cl := clusterOf s.core.cid
        .ok ((s.linesOf (s.cacheVa a) (min (s.rg b).toNat (2 ^ 20))).foldl
          (fun s l => s.request { requester := s.core.cid, target := s.homeBank (64 * l), pa := 64 * l, len := 64, data := none, line := some (cl, l) }) s)) s

end Sys2Proof.Machine
end

