-- ==== Sys2Proof/Machine/VecOp.lean ====
section
/-! DEFINITION. The frame that the element-wise vector instructions share (R107-R111, R123-R126): operands, type and shape
checks, poisoned sources, flags and their trap, the write, and the place in the vector queue. -/

namespace Sys2Proof.Machine

/-- Operand b of a vector instruction (R107): a vector register, a scalar register, or none. -/
inductive VSrc where
  | v (r : BitVec 5)
  | g (r : BitVec 5)
  | none

/-- The vector registers of an operand b. -/
def VSrc.vregs : VSrc → List (BitVec 5)
  | .v r => [r]
  | _ => []

/-- The scalar registers of an operand b. -/
def VSrc.gregs : VSrc → List (BitVec 5)
  | .g r => [r]
  | _ => []

/-- Bits of an element that count: 6 for E3M2 and E2M3 (R48), else its container. -/
def valueBits (t : BitVec 5) : Nat := memWidth t

/-- Element `j` of a register as its type reads it (R48). -/
def State.eltOf (s : State) (t : BitVec 5) (r : BitVec 5) (j : Nat) : Nat := s.elt r (width t) j % 2 ^ valueBits t

/-- Element `j` of operand b (R107). -/
def State.bElt (s : State) (t : BitVec 5) (b : VSrc) (j : Nat) : Nat :=
  match b with
  | .v r => s.eltOf t r j
  | .g r => (s.rg r).toNat % 2 ^ valueBits t
  | .none => 0

/-- What is fixed for a vector function: whether it reads d (R108), the types it accepts, its destination width, and λ and f of
R124; `fp` when it can raise flags other than SAT. -/
structure VOp where
  acc : Bool := false
  types : BitVec 5 → Bool
  dw : Nat → Nat := id
  lam : Nat
  f : Nat
  fp : Bool := false

/-- What element `j` raised (R65, R256). -/
def State.raisedAt (s : State) (j flags : Nat) : Raised :=
  { lane := j, mem := memOf s.vcols j, bit := bitOf s.vcols j, flags := flags }

/-- The end of a vector instruction (R66, R111, R123): an enabled flag traps and nothing is written; else the writes, the
flags and the queue. -/
def State.vecFinish (s : State) (raised : List Raised) (q : VQ) (write : State → State) : Res :=
  match s.fpTrap raised with
  | some t => .trap s t
  | none => .ok (((write s).noteFlags raised).enqueue q)

/-- The checks of R126 that precede the effect: the types, then the shape, then poisoned sources (R262). -/
def State.vecCheck (s : State) (typeOk shapeOk : Bool) (reads : List (BitVec 5 × Nat × List Nat)) (k : State → Res) : Res :=
  if !typeOk then s.raise 0x0C 0
  else if !shapeOk then s.raise 0x0B 0
  else
    match s.poisonTrap reads with
    | some t => .trap s t
    | none => k s

/-- The mask sources of a governing mask. -/
def govern (m : BitVec 4) : List (BitVec 4) := if m = 0 then [] else [m]

/-- An element-wise instruction on the strand's shape (R107-R111): `fn j x z d` gives each active element's bits and flags. -/
def State.vecElem (s : State) (o : VOp) (d a : BitVec 5) (b : VSrc) (m : BitVec 4) (x : Bool)
    (fn : Nat → Nat → Nat → Rounded) : Res :=
  let t := s.vt
  let w := s.vw
  let w' := o.dw w
  let js := s.active m
  let acc := if o.acc then [d] else []
  s.vecCheck (o.types t) (s.vcols * max w w' ≤ 1024) ((a :: b.vregs ++ acc).map fun r => (r, w, js)) fun s =>
    let rs := js.map fun j => (j, fn (s.eltOf t a j) (s.bElt t b j) (s.elt d w' j))
    s.vecFinish (rs.map fun p => s.raisedAt p.1 p.2.flags)
      { v := a :: b.vregs ++ acc, vd := [d], m := govern m, t := s.occ x o.f (max w w') js, lam := o.lam, js := js, fp := o.fp }
      fun s => s.putElems d w' (rs.map fun p => (p.1, p.2.bits))

/-- An element-wise instruction word; `fn` may look at the state for VTYPE and FPCR. -/
def vecWord (st : Bool) (o : VOp) (d a : BitVec 5) (b : VSrc) (m : BitVec 4) (x : Bool)
    (fn : State → Nat → Nat → Nat → Rounded) (s : State) : Out :=
  issue st 4 (vuse b.gregs (a :: b.vregs ++ if o.acc then [d] else []) [d] [m]) (fun s => s.vecElem o d a b m x (fn s)) s

end Sys2Proof.Machine
end

