-- ==== Sys2Proof/Machine/VecInt.lean ====
section
/-! DEFINITION. Integer vector instructions (R112-R115). -/

namespace Sys2Proof.Machine

/-! ## Element functions (R112-R114) -/

/-- A result with no flag. -/
def plain (x : Nat) : Rounded := ⟨x, 0⟩

/-- An element as a signed integer. -/
def sval (w x : Nat) : Int := intVal true w x

/-- An element by the signedness of its type. -/
def tval (t : BitVec 5) (x : Nat) : Int := intVal (isSigned t) (width t) x

/-- High half of a signed product. -/
def vMulHigh (w x z : Nat) : Nat := wrapInt w (sval w x * sval w z / 2 ^ w)

/-- The lesser or greater, signed. -/
def vPickS (big : Bool) (w x z : Nat) : Nat := if decide (sval w x < sval w z) == big then z else x

/-- The lesser or greater, natural. -/
def vPickN (big : Bool) (x z : Nat) : Nat := if decide (x < z) == big then z else x

/-- Arithmetic right shift: all sign bits from w on (R112). -/
def vSra (w x z : Nat) : Nat := wrapInt w (sval w x / 2 ^ min z w)

/-- The exact rounding shift of R113; from w + 1 on every amount gives 0. -/
def roundShift (t : BitVec 5) (x z : Nat) : Int :=
  let z := min z (width t + 1)
  if z = 0 then tval t x else (tval t x + 2 ^ (z - 1)) / 2 ^ z

/-- `vabs` (R112): −2^(w−1) clamps; natural types keep x. -/
def vAbs (t : BitVec 5) (x : Nat) : Rounded :=
  if isSigned t then clampInt true (width t) (tval t x).natAbs else plain x

/-- A saturating result by type (R43). -/
def satBy (t : BitVec 5) (x : Int) : Rounded := clampInt (isSigned t) (width t) x

/-- An exact result in the doubled width. -/
def wide (t : BitVec 5) (x : Int) : Rounded := plain (wrapInt (2 * width t) x)

/-! ## Accepted types -/

/-- Integer types that have a narrower one (R112). -/
def narrowable (t : BitVec 5) : Bool := isIntType t && decide (8 ≤ width t)
/-- Integer types that have a wider one (R112). -/
def widenable (t : BitVec 5) : Bool := isIntType t && decide (width t ≤ 32)

/-- The λ = 2 integer functions. -/
def intFast : VOp := { types := isIntType, lam := 2, f := 1 }
/-- The λ = 4 integer functions. -/
def intSlow : VOp := { types := isIntType, lam := 4, f := 1 }
/-- The bitwise functions. -/
def bitwise : VOp := { types := isType, lam := 2, f := 1 }

/-! ## Dot products (R115) -/

/-- The dot product of groups of P columns into INT32, with the old d. -/
def State.vecDot (s : State) (p w : Nat) (d a : BitVec 5) (b : VSrc) (m : BitVec 4) (x : Bool) : Res :=
  let t := s.vt
  let js := s.active m
  let c := s.vcols
  let groups := (List.range (s.vrows * (c / p))).filter fun g =>
    let base := g / (c / p) * c + g % (c / p) * p
    (List.range p).any fun i => js.contains (base + i)
  s.vecCheck (isIntType t && width t == w) (c % p == 0) [(a, w, js), (d, 32, groups.map fun g => g / (c / p) * c + g % (c / p))] fun s =>
    match s.poisonTrap (b.vregs.map fun r => (r, w, js)) with
    | some e => .trap s e
    | none =>
      let rs := groups.map fun g =>
        let row := g / (c / p)
        let e := g % (c / p)
        let base := row * c + e * p
        let old := match s.files[row / 32]? with
          | some f => (f.getV d).elem 32 (row % 32) e
          | none => 0
        let sum := (List.range p).foldl
          (fun acc i => if js.contains (base + i) then acc + tval t (s.eltOf t a (base + i)) * tval t (s.bElt t b (base + i)) else acc)
          (intVal true 32 old)
        (row, e, base, clampInt true 32 sum)
      s.vecFinish (rs.map fun r => s.raisedAt r.2.2.1 r.2.2.2.flags)
        { v := a :: b.vregs ++ [d], vd := [d], m := govern m, t := s.occ x 1 32 js, lam := 4, js := js }
        fun s =>
          let ws := rs.foldl (fun ws (row, e, _, v) => ws.modify (row / 32) fun y => y.add 32 (row % 32) e v.bits)
            (List.replicate s.files.length VWrite.none)
          let o := s.own
          s.onCur (·.writeV o d ws)

/-- A dot-product word. -/
def dotWord (st : Bool) (p w : Nat) (d a : BitVec 5) (b : VSrc) (m : BitVec 4) (x : Bool) (s : State) : Out :=
  issue st 4 (vuse b.gregs (a :: b.vregs ++ [d]) [d] [m]) (fun s => s.vecDot p w d a b m x) s

/-! ## The instructions -/

/-- `vadd` (R112). -/
def execVadd (st : Bool) (d a b : BitVec 5) (m : BitVec 4) (x : Bool) (s : State) : Out :=
  vecWord st intFast d a (.v b) m x (fun s x z _ => plain ((x + z) % 2 ^ s.vw)) s

/-- `vadd` with a `g` register (R112). -/
def execVaddG (st : Bool) (d a b : BitVec 5) (m : BitVec 4) (x : Bool) (s : State) : Out :=
  vecWord st intFast d a (.g b) m x (fun s x z _ => plain ((x + z) % 2 ^ s.vw)) s

/-- `vsub` (R112). -/
def execVsub (st : Bool) (d a b : BitVec 5) (m : BitVec 4) (x : Bool) (s : State) : Out :=
  vecWord st intFast d a (.v b) m x (fun s x z _ => plain ((x + 2 ^ s.vw - z) % 2 ^ s.vw)) s

/-- `vsub` with a `g` register (R112). -/
def execVsubG (st : Bool) (d a b : BitVec 5) (m : BitVec 4) (x : Bool) (s : State) : Out :=
  vecWord st intFast d a (.g b) m x (fun s x z _ => plain ((x + 2 ^ s.vw - z) % 2 ^ s.vw)) s

/-- `vmul` (R112). -/
def execVmul (st : Bool) (d a b : BitVec 5) (m : BitVec 4) (x : Bool) (s : State) : Out :=
  vecWord st intSlow d a (.v b) m x (fun s x z _ => plain (x * z % 2 ^ s.vw)) s

/-- `vmul` with a `g` register (R112). -/
def execVmulG (st : Bool) (d a b : BitVec 5) (m : BitVec 4) (x : Bool) (s : State) : Out :=
  vecWord st intSlow d a (.g b) m x (fun s x z _ => plain (x * z % 2 ^ s.vw)) s

/-- `vmulh` (R112). -/
def execVmulh (st : Bool) (d a b : BitVec 5) (m : BitVec 4) (x : Bool) (s : State) : Out :=
  vecWord st intSlow d a (.v b) m x (fun s x z _ => plain (vMulHigh s.vw x z)) s

/-- `vmulh` with a `g` register (R112). -/
def execVmulhG (st : Bool) (d a b : BitVec 5) (m : BitVec 4) (x : Bool) (s : State) : Out :=
  vecWord st intSlow d a (.g b) m x (fun s x z _ => plain (vMulHigh s.vw x z)) s

/-- `vmulhn` (R112). -/
def execVmulhn (st : Bool) (d a b : BitVec 5) (m : BitVec 4) (x : Bool) (s : State) : Out :=
  vecWord st intSlow d a (.v b) m x (fun s x z _ => plain (x * z / 2 ^ s.vw)) s

/-- `vmulhn` with a `g` register (R112). -/
def execVmulhnG (st : Bool) (d a b : BitVec 5) (m : BitVec 4) (x : Bool) (s : State) : Out :=
  vecWord st intSlow d a (.g b) m x (fun s x z _ => plain (x * z / 2 ^ s.vw)) s

/-- `vmin` (R112). -/
def execVmin (st : Bool) (d a b : BitVec 5) (m : BitVec 4) (x : Bool) (s : State) : Out :=
  vecWord st intFast d a (.v b) m x (fun s x z _ => plain (vPickS false s.vw x z)) s

/-- `vmin` with a `g` register (R112). -/
def execVminG (st : Bool) (d a b : BitVec 5) (m : BitVec 4) (x : Bool) (s : State) : Out :=
  vecWord st intFast d a (.g b) m x (fun s x z _ => plain (vPickS false s.vw x z)) s

/-- `vmax` (R112). -/
def execVmax (st : Bool) (d a b : BitVec 5) (m : BitVec 4) (x : Bool) (s : State) : Out :=
  vecWord st intFast d a (.v b) m x (fun s x z _ => plain (vPickS true s.vw x z)) s

/-- `vmax` with a `g` register (R112). -/
def execVmaxG (st : Bool) (d a b : BitVec 5) (m : BitVec 4) (x : Bool) (s : State) : Out :=
  vecWord st intFast d a (.g b) m x (fun s x z _ => plain (vPickS true s.vw x z)) s

/-- `vminn` (R112). -/
def execVminn (st : Bool) (d a b : BitVec 5) (m : BitVec 4) (x : Bool) (s : State) : Out :=
  vecWord st intFast d a (.v b) m x (fun _ x z _ => plain (vPickN false x z)) s

/-- `vminn` with a `g` register (R112). -/
def execVminnG (st : Bool) (d a b : BitVec 5) (m : BitVec 4) (x : Bool) (s : State) : Out :=
  vecWord st intFast d a (.g b) m x (fun _ x z _ => plain (vPickN false x z)) s

/-- `vmaxn` (R112). -/
def execVmaxn (st : Bool) (d a b : BitVec 5) (m : BitVec 4) (x : Bool) (s : State) : Out :=
  vecWord st intFast d a (.v b) m x (fun _ x z _ => plain (vPickN true x z)) s

/-- `vmaxn` with a `g` register (R112). -/
def execVmaxnG (st : Bool) (d a b : BitVec 5) (m : BitVec 4) (x : Bool) (s : State) : Out :=
  vecWord st intFast d a (.g b) m x (fun _ x z _ => plain (vPickN true x z)) s

/-- `vand` (R112). -/
def execVand (st : Bool) (d a b : BitVec 5) (m : BitVec 4) (x : Bool) (s : State) : Out :=
  vecWord st bitwise d a (.v b) m x (fun _ x z _ => plain (x &&& z)) s

/-- `vand` with a `g` register (R112). -/
def execVandG (st : Bool) (d a b : BitVec 5) (m : BitVec 4) (x : Bool) (s : State) : Out :=
  vecWord st bitwise d a (.g b) m x (fun _ x z _ => plain (x &&& z)) s

/-- `vor` (R112). -/
def execVor (st : Bool) (d a b : BitVec 5) (m : BitVec 4) (x : Bool) (s : State) : Out :=
  vecWord st bitwise d a (.v b) m x (fun _ x z _ => plain (x ||| z)) s

/-- `vor` with a `g` register (R112). -/
def execVorG (st : Bool) (d a b : BitVec 5) (m : BitVec 4) (x : Bool) (s : State) : Out :=
  vecWord st bitwise d a (.g b) m x (fun _ x z _ => plain (x ||| z)) s

/-- `vxor` (R112). -/
def execVxor (st : Bool) (d a b : BitVec 5) (m : BitVec 4) (x : Bool) (s : State) : Out :=
  vecWord st bitwise d a (.v b) m x (fun _ x z _ => plain (x ^^^ z)) s

/-- `vxor` with a `g` register (R112). -/
def execVxorG (st : Bool) (d a b : BitVec 5) (m : BitVec 4) (x : Bool) (s : State) : Out :=
  vecWord st bitwise d a (.g b) m x (fun _ x z _ => plain (x ^^^ z)) s

/-- `vshl` (R112). -/
def execVshl (st : Bool) (d a b : BitVec 5) (m : BitVec 4) (x : Bool) (s : State) : Out :=
  vecWord st intFast d a (.v b) m x (fun s x z _ => plain (if s.vw ≤ z then 0 else x <<< z % 2 ^ s.vw)) s

/-- `vshl` with a `g` register (R112). -/
def execVshlG (st : Bool) (d a b : BitVec 5) (m : BitVec 4) (x : Bool) (s : State) : Out :=
  vecWord st intFast d a (.g b) m x (fun s x z _ => plain (if s.vw ≤ z then 0 else x <<< z % 2 ^ s.vw)) s

/-- `vshr` (R112). -/
def execVshr (st : Bool) (d a b : BitVec 5) (m : BitVec 4) (x : Bool) (s : State) : Out :=
  vecWord st intFast d a (.v b) m x (fun s x z _ => plain (if s.vw ≤ z then 0 else x >>> z)) s

/-- `vshr` with a `g` register (R112). -/
def execVshrG (st : Bool) (d a b : BitVec 5) (m : BitVec 4) (x : Bool) (s : State) : Out :=
  vecWord st intFast d a (.g b) m x (fun s x z _ => plain (if s.vw ≤ z then 0 else x >>> z)) s

/-- `vsra` (R112). -/
def execVsra (st : Bool) (d a b : BitVec 5) (m : BitVec 4) (x : Bool) (s : State) : Out :=
  vecWord st intFast d a (.v b) m x (fun s x z _ => plain (vSra s.vw x z)) s

/-- `vsra` with a `g` register (R112). -/
def execVsraG (st : Bool) (d a b : BitVec 5) (m : BitVec 4) (x : Bool) (s : State) : Out :=
  vecWord st intFast d a (.g b) m x (fun s x z _ => plain (vSra s.vw x z)) s

/-- `vrshr` (R112, R113). -/
def execVrshr (st : Bool) (d a b : BitVec 5) (m : BitVec 4) (x : Bool) (s : State) : Out :=
  vecWord st intFast d a (.v b) m x (fun s x z _ => plain (wrapInt s.vw (roundShift s.vt x z))) s

/-- `vrshr` with a `g` register (R112, R113). -/
def execVrshrG (st : Bool) (d a b : BitVec 5) (m : BitVec 4) (x : Bool) (s : State) : Out :=
  vecWord st intFast d a (.g b) m x (fun s x z _ => plain (wrapInt s.vw (roundShift s.vt x z))) s

/-- `vrnshr` (R112, R114). -/
def execVrnshr (st : Bool) (d a b : BitVec 5) (m : BitVec 4) (x : Bool) (s : State) : Out :=
  vecWord st { types := narrowable, dw := (· / 2), lam := 4, f := 1 } d a (.v b) m x (fun s x z _ => clampInt (isSigned s.vt) (s.vw / 2) (roundShift s.vt x z)) s

/-- `vrnshr` with a `g` register (R112, R114). -/
def execVrnshrG (st : Bool) (d a b : BitVec 5) (m : BitVec 4) (x : Bool) (s : State) : Out :=
  vecWord st { types := narrowable, dw := (· / 2), lam := 4, f := 1 } d a (.g b) m x (fun s x z _ => clampInt (isSigned s.vt) (s.vw / 2) (roundShift s.vt x z)) s

/-- `vadds` (R112). -/
def execVadds (st : Bool) (d a b : BitVec 5) (m : BitVec 4) (x : Bool) (s : State) : Out :=
  vecWord st intFast d a (.v b) m x (fun s x z _ => satBy s.vt (tval s.vt x + tval s.vt z)) s

/-- `vadds` with a `g` register (R112). -/
def execVaddsG (st : Bool) (d a b : BitVec 5) (m : BitVec 4) (x : Bool) (s : State) : Out :=
  vecWord st intFast d a (.g b) m x (fun s x z _ => satBy s.vt (tval s.vt x + tval s.vt z)) s

/-- `vsubs` (R112). -/
def execVsubs (st : Bool) (d a b : BitVec 5) (m : BitVec 4) (x : Bool) (s : State) : Out :=
  vecWord st intFast d a (.v b) m x (fun s x z _ => satBy s.vt (tval s.vt x - tval s.vt z)) s

/-- `vsubs` with a `g` register (R112). -/
def execVsubsG (st : Bool) (d a b : BitVec 5) (m : BitVec 4) (x : Bool) (s : State) : Out :=
  vecWord st intFast d a (.g b) m x (fun s x z _ => satBy s.vt (tval s.vt x - tval s.vt z)) s

/-- `vmac` (R112). -/
def execVmac (st : Bool) (d a b : BitVec 5) (m : BitVec 4) (x : Bool) (s : State) : Out :=
  vecWord st { intSlow with acc := true } d a (.v b) m x (fun s x z d => plain ((d + x * z) % 2 ^ s.vw)) s

/-- `vmac` with a `g` register (R112). -/
def execVmacG (st : Bool) (d a b : BitVec 5) (m : BitVec 4) (x : Bool) (s : State) : Out :=
  vecWord st { intSlow with acc := true } d a (.g b) m x (fun s x z d => plain ((d + x * z) % 2 ^ s.vw)) s

/-- `vdot2` (R115). -/
def execVdot2 (st : Bool) (d a b : BitVec 5) (m : BitVec 4) (x : Bool) (s : State) : Out := dotWord st 2 16 d a (.v b) m x s

/-- `vdot2` with a `g` register (R115). -/
def execVdot2G (st : Bool) (d a b : BitVec 5) (m : BitVec 4) (x : Bool) (s : State) : Out := dotWord st 2 16 d a (.g b) m x s

/-- `vdot4` (R115). -/
def execVdot4 (st : Bool) (d a b : BitVec 5) (m : BitVec 4) (x : Bool) (s : State) : Out := dotWord st 4 8 d a (.v b) m x s

/-- `vdot4` with a `g` register (R115). -/
def execVdot4G (st : Bool) (d a b : BitVec 5) (m : BitVec 4) (x : Bool) (s : State) : Out := dotWord st 4 8 d a (.g b) m x s

/-- `vabs` (R112). -/
def execVabs (st : Bool) (d a : BitVec 5) (m : BitVec 4) (x : Bool) (s : State) : Out :=
  vecWord st intFast d a .none m x (fun s x _ _ => vAbs s.vt x) s

/-- `vavg` (R112). -/
def execVavg (st : Bool) (d a b : BitVec 5) (m : BitVec 4) (x : Bool) (s : State) : Out :=
  vecWord st intFast d a (.v b) m x (fun s x z _ => plain (wrapInt s.vw ((tval s.vt x + tval s.vt z + 1) / 2))) s

/-- `vavg` with a `g` register (R112). -/
def execVavgG (st : Bool) (d a b : BitVec 5) (m : BitVec 4) (x : Bool) (s : State) : Out :=
  vecWord st intFast d a (.g b) m x (fun s x z _ => plain (wrapInt s.vw ((tval s.vt x + tval s.vt z + 1) / 2))) s

/-- `vwmul` (R112). -/
def execVwmul (st : Bool) (d a b : BitVec 5) (m : BitVec 4) (x : Bool) (s : State) : Out :=
  vecWord st { types := widenable, dw := (2 * ·), lam := 4, f := 1 } d a (.v b) m x (fun s x z _ => wide s.vt (tval s.vt x * tval s.vt z)) s

/-- `vwmul` with a `g` register (R112). -/
def execVwmulG (st : Bool) (d a b : BitVec 5) (m : BitVec 4) (x : Bool) (s : State) : Out :=
  vecWord st { types := widenable, dw := (2 * ·), lam := 4, f := 1 } d a (.g b) m x (fun s x z _ => wide s.vt (tval s.vt x * tval s.vt z)) s

/-- `vwadd` (R112). -/
def execVwadd (st : Bool) (d a b : BitVec 5) (m : BitVec 4) (x : Bool) (s : State) : Out :=
  vecWord st { types := widenable, dw := (2 * ·), lam := 2, f := 1 } d a (.v b) m x (fun s x z _ => wide s.vt (tval s.vt x + tval s.vt z)) s

/-- `vwadd` with a `g` register (R112). -/
def execVwaddG (st : Bool) (d a b : BitVec 5) (m : BitVec 4) (x : Bool) (s : State) : Out :=
  vecWord st { types := widenable, dw := (2 * ·), lam := 2, f := 1 } d a (.g b) m x (fun s x z _ => wide s.vt (tval s.vt x + tval s.vt z)) s

end Sys2Proof.Machine
end

