-- ==== Sys2Proof/Machine/VecFp.lean ====
section
/-! DEFINITION. Floating-point vector instructions (R67, R116, R117), comparisons (R118) and conversions with and without block
scales (R59-R61, R119-R122). -/

namespace Sys2Proof.Machine

/-! ## Contexts -/

/-- FPCR.SATM (R62). -/
def satmOf (fpcr : Word) : Bool := fpcr.getLsbD 5
/-- FPCR.FZ (R62). -/
def fzOf (fpcr : Word) : Bool := fpcr.getLsbD 4

/-- How results of VTYPE round under FPCR. -/
def State.fpCtx (s : State) : RCtx :=
  ⟨(fmtOf s.vt).getD fp32, rmOf s.cur.sp.fpcr, satmOf s.cur.sp.fpcr, fzOf s.cur.sp.fpcr⟩

/-- The same under RNE (R67). -/
def State.fpCtxRne (s : State) : RCtx := { s.fpCtx with mode := .rne }

/-- The value of an operand, flushed under FZ (R60). -/
def RCtx.read (c : RCtx) (x : Nat) : FV := c.f.decode (c.f.flushIn c.fz x)

/-- A unary function of the flushed operand. -/
def RCtx.un (c : RCtx) (f : FV → Ev) (x : Nat) : Rounded := c.finish (f (c.read x))

/-- `vfclass` (R117), on the raw bits. -/
def Fmt.classOf (f : Fmt) (x : Nat) : Nat :=
  let sub := f.subnormal x
  match f.decode x with
  | .inf neg => if neg then 1 else 2 ^ 7
  | .nan sig => if sig then 2 ^ 8 else 2 ^ 9
  | .fin neg m _ =>
    if m = 0 then (if neg then 2 ^ 3 else 2 ^ 4)
    else if sub then (if neg then 2 ^ 2 else 2 ^ 5)
    else if neg then 2 else 2 ^ 6

/-- The fast floating-point functions. -/
def fpFast : VOp := { types := isWideFp, lam := 2, f := 1, fp := true }
/-- The λ = 4 floating-point functions. -/
def fpMid : VOp := { types := isWideFp, lam := 4, f := 1, fp := true }
/-- The λ = 12 floating-point functions. -/
def fpSlow : VOp := { types := isWideFp, lam := 12, f := 4, fp := true }

/-! ## Comparisons (R118) -/

/-- A comparison writes the whole mask d (R118): `fn` gives each active element's bit and flags. One on a floating-point VTYPE counts
as a floating-point vector instruction (R123), though `vcmpeq` and `vcmpne` raise no flag (DESIGN CHOICE, log 88). -/
def State.vecCmp (s : State) (types : BitVec 5 → Bool) (d : BitVec 4) (a : BitVec 5) (b : VSrc) (m : BitVec 4) (x : Bool)
    (fn : Nat → Nat → Bool × Nat) : Res :=
  let t := s.vt
  let w := s.vw
  let js := s.active m
  s.vecCheck (types t) true ((a :: b.vregs).map fun r => (r, w, js)) fun s =>
    let rs := js.map fun j => (j, fn (s.eltOf t a j) (s.bElt t b j))
    s.vecFinish (rs.map fun p => s.raisedAt p.1 p.2.2)
      { v := a :: b.vregs, m := govern m, md := govern d, t := s.occ x 1 w js, lam := 2, js := js, fp := isWideFp t }
      fun s => s.putMask d (s.maskOf ((rs.filter fun p => p.2.1).map (·.1)))

/-- Operand b of a comparison: fn[4] chooses the `g` register (R107). -/
def cmpSrc (g : Bool) (b : BitVec 5) : VSrc := if g then .g b else .v b

/-- A comparison word. -/
def cmpWord (st : Bool) (types : BitVec 5 → Bool) (d a b : BitVec 5) (m : BitVec 4) (x g : Bool)
    (fn : State → Nat → Nat → Bool × Nat) (s : State) : Out :=
  let src := cmpSrc g b
  issue st 4 (vuse src.gregs (a :: src.vregs) [] [m]) (fun s => s.vecCmp types (d.setWidth 4) a src m x (fn s)) s

/-- A comparison of integers or patterns raises no flag. -/
def quiet (b : Bool) : Bool × Nat := (b, 0)

/-- A floating-point comparison under R47: `any` when every NaN raises NV, else only a signalling one. -/
def State.fpCompare (s : State) (any : Bool) (f : FV → FV → Bool) (x z : Nat) : Bool × Nat :=
  let c := s.fpCtx
  let a := c.read x
  let b := c.read z
  (f a b, if any then (if a.isNan || b.isNan then fNV else 0) else a.nanFlag ||| b.nanFlag)

/-! ## Conversions (R120-R122) -/

/-- One step of the SRSTATE register (R59). -/
def lfsrStep (x : BitVec 32) : BitVec 32 :=
  let x := if x = 0 then 1 else x
  (x >>> 1) ^^^ (if x.getLsbD 0 then 0x80200003#32 else 0)

/-- The states after each of `n` steps. -/
def lfsrRun : Nat → BitVec 32 → List (BitVec 32)
  | 0, _ => []
  | n + 1, x => lfsrStep x :: lfsrRun n (lfsrStep x)

/-- The value of a source element of type `t`, flushed when it is FP32, BF16 or FP16 and FZ is 1 (R60, R120). -/
def cvtRead (t : BitVec 5) (fz : Bool) (x : Nat) : FV :=
  match fmtOf t with
  | some f => f.decode (f.flushIn (fz && isWideFp t) x)
  | none => intFV (tval t x)

/-- The value rounded into the destination type (R43, R56-R60, R120). Between floating types of one width the table of R120 says "exact",
which cannot hold where the destination has no such value: the model rounds under R56-R58 (DESIGN CHOICE, log 111). -/
def cvtWrite (t : BitVec 5) (fpcr : Word) (satm : Bool) (mode : RMode) (v : Ev) : Rounded :=
  match fmtOf t with
  | some f => RCtx.finish ⟨f, mode, satm, fzOf fpcr && isWideFp t⟩ v
  | none => toIntType mode (isSigned t) (width t) v

/-- An integer element into an integer type is clamped (R120). -/
def cvtPlain (src dst : BitVec 5) (fpcr : Word) (mode : RMode) (x : Nat) : Rounded :=
  if isIntType src && isIntType dst then clampInt (isSigned dst) (width dst) (tval src x)
  else
    let v := cvtRead src (fzOf fpcr) x
    cvtWrite dst fpcr (satmOf fpcr) mode ⟨v, false, v.nanFlag⟩

/-- Scale bytes per vector register (R80). -/
def scaleB (f : BitVec 5) (blk : BitVec 3) : Nat := 32 * (tileCols f / 2 ^ blk.toNat)

/-- Byte of a scale register that serves block `k` of row `i` of register `m` (R80). -/
def scaleAt (f : BitVec 5) (blk : BitVec 3) (m i k : Nat) : Nat :=
  m % (1024 / scaleB f blk) * scaleB f blk + i * (tileCols f / 2 ^ blk.toNat) + k

/-- A byte of a scale register. -/
def scaleByte (x : BitVec 8192) (i : Nat) : Nat := (x.extractLsb' (8 * i) 8).toNat

/-- Whether a type is the wide side of a scaled conversion. -/
def scaledPair (f src dst : BitVec 5) (dequant : Bool) : Bool :=
  if dequant then blockElem f == some src && isWideFp dst else isWideFp src && blockElem f == some dst

/-- Whether a scale tag names a block format (R119). -/
def scaleTagOk (tag : BitVec 8) : Bool := isBlockFmt (tagFmt tag) && blkOk (tagFmt tag) (tagBlk tag)

/-- Dequantising one element (R121): value × s × band, rounded with SATM = 0 (R61). -/
def dequantElem (f dst : BitVec 5) (fpcr : Word) (mode : RMode) (x s : Nat) (band : BitVec 16) : Rounded :=
  cvtWrite dst fpcr false mode (blockValue f x s band)

/-- Whether a value is finite and not zero. -/
def FV.nonzero (v : FV) : Bool :=
  match v with
  | .fin _ m _ => m != 0
  | _ => false

/-- Quantising one element (R61, R121); MX-INT8 counts in units of 2^-6. A finite nonzero value over a zero E3M5 scale gives a free
value (DESIGN CHOICE, log 16). -/
def quantElem (f src dst : BitVec 5) (fpcr : Word) (mode : RMode) (x s : Nat) : Rounded :=
  if f = 0x1D ∧ s = 0 ∧ (cvtRead src (fzOf fpcr) x).nonzero then ⟨Config.zeroScaleBits x % 16, Config.zeroScaleFlags x % 64⟩
  else
    let q := (cvtRead src (fzOf fpcr) x).div (blockScale f s)
    let q := if f = 0x1E then { q with v := match q.v with | .fin n m e => .fin n m (e + 6) | v => v } else q
    cvtWrite dst fpcr (satmOf fpcr) mode q

/-- Element `j` of a `VCVT`: plain, or with the scale of its block on its member (R120, R121). -/
def State.cvtElem (s : State) (src : BitVec 5) (c : Option (BitVec 3)) (d a : BitVec 5) (mode : RMode) (j : Nat) : Rounded :=
  let x := s.eltOf src a j
  let fpcr := s.cur.sp.fpcr
  match c with
  | none => cvtPlain src s.vt fpcr mode x
  | some c =>
    let row := j / s.vcols
    match s.files[row / 32]? with
    | none => ⟨0, 0⟩
    | some file =>
      let r := file.getC c
      let f := tagFmt r.tag
      let dq := isWideFp s.vt
      let k := j % s.vcols / 2 ^ (tagBlk r.tag).toNat
      let sc := scaleByte r.data (scaleAt f (tagBlk r.tag) (if dq then a else d).toNat (row % 32) k)
      if dq then dequantElem f s.vt fpcr mode x sc (file.getV a).band else quantElem f src s.vt fpcr mode x sc

/-- BAND of a register set to 1.0 on every member, which a quantising conversion does (R79, R121). -/
def State.unitBand (s : State) (d : BitVec 5) : State :=
  let o := s.own
  s.onCur fun t => t.setFiles o ((t.files o).map fun f => f.setV d { f.getV d with band := 0x3F80#16 })

/-- Whether the tags of scale register `c` pass: that of the strand's own core, and that of every other member that holds rows of the
shape. -/
def State.tagsPass (s : State) (c : BitVec 3) (p : BitVec 8 → Bool) : Bool :=
  s.files.zipIdx.all fun f => (f.2 != s.own && decide (s.vrows ≤ 32 * f.2)) || p (f.1.getC c).tag

/-- The FORMAT check of a scaled `VCVT` (R121): every member reads the tag of its own register. -/
def State.cvtTagOk (s : State) (src : BitVec 5) (c : Option (BitVec 3)) : Bool :=
  match c with
  | none => true
  | some c => s.tagsPass c fun tag => scaleTagOk tag && (scaledPair (tagFmt tag) src s.vt true || scaledPair (tagFmt tag) src s.vt false)

/-- Whether a `VCVT` rounds stochastically: SR applies to narrowing conversions alone (R59); a widening one, a dequantising one among them, or
one of equal width rounds under FPCR.RM (R61) and leaves SRSTATE. DEDUCED: log 110. -/
def State.cvtSr (s : State) (src : BitVec 5) (sr : Bool) : Bool := sr && decide (memWidth s.vt < memWidth src)

/-- The effect of `VCVT`. -/
def State.vecCvt (s : State) (src : BitVec 5) (sr : Bool) (c : Option (BitVec 3)) (d a : BitVec 5) (m : BitVec 4) (x : Bool) : Res :=
  let w := width src
  let w' := s.vw
  let js := s.active m
  s.vecCheck (!(sr && (s.vt == 0x10 || isIntType s.vt))) (s.vcols * max w w' ≤ 1024) [] fun s =>
    if !s.cvtTagOk src c then s.raise 0x05 0
    else
      match s.poisonTrap [(a, w, js)] with
      | some e => .trap s e
      | none =>
        let srs := if s.cvtSr src sr then lfsrRun js.length (s.cur.sp.fpcr.extractLsb' 32 32) else []
        let rs := js.zipIdx.map fun (j, i) =>
          let mode := match srs[i]? with
            | some r => RMode.sr (r.toNat % 2 ^ 16)
            | none => rmOf s.cur.sp.fpcr
          (j, s.cvtElem src c d a mode j)
        s.vecFinish (rs.map fun p => s.raisedAt p.1 p.2.flags)
          { v := [a], vd := [d], m := govern m, c := c.toList, t := s.occ x 1 (max w w') js, lam := 4, js := js, fp := true }
          fun s =>
            let s := s.putElems d w' (rs.map fun p => (p.1, p.2.bits))
            let s := if c.isSome && isWideFp src then s.unitBand d else s
            match srs.getLast? with
            | some r => s.onSp fun p => { p with fpcr := r ++ p.fpcr.extractLsb' 0 32 }
            | none => s

/-- `vcvt` (R120, R121): r is fn[4], u and c are fn[3] and fn[2:0]. -/
def execVcvt (st : Bool) (d a t : BitVec 5) (m : BitVec 4) (x r u : Bool) (c : BitVec 3) (s : State) : Out :=
  let cr := if u then some c else none
  issue st 4 { vuse [] [a] [d] [m] with c := cr.toList } (fun s => s.vecCvt t r cr d a m x) s

/-! ## The instructions -/

/-- `vfadd` (R116). -/
def execVfadd (st : Bool) (d a b : BitVec 5) (m : BitVec 4) (x : Bool) (s : State) : Out :=
  vecWord st fpMid d a (.v b) m x (fun s x z _ => let c := s.fpCtx; c.add (c.read x) (c.read z)) s

/-- `vfadd` with a `g` register (R116). -/
def execVfaddG (st : Bool) (d a b : BitVec 5) (m : BitVec 4) (x : Bool) (s : State) : Out :=
  vecWord st fpMid d a (.g b) m x (fun s x z _ => let c := s.fpCtx; c.add (c.read x) (c.read z)) s

/-- `vfsub` (R116). -/
def execVfsub (st : Bool) (d a b : BitVec 5) (m : BitVec 4) (x : Bool) (s : State) : Out :=
  vecWord st fpMid d a (.v b) m x (fun s x z _ => let c := s.fpCtx; c.add (c.read x) (c.read z).neg) s

/-- `vfsub` with a `g` register (R116). -/
def execVfsubG (st : Bool) (d a b : BitVec 5) (m : BitVec 4) (x : Bool) (s : State) : Out :=
  vecWord st fpMid d a (.g b) m x (fun s x z _ => let c := s.fpCtx; c.add (c.read x) (c.read z).neg) s

/-- `vfmul` (R116). -/
def execVfmul (st : Bool) (d a b : BitVec 5) (m : BitVec 4) (x : Bool) (s : State) : Out :=
  vecWord st fpMid d a (.v b) m x (fun s x z _ => let c := s.fpCtx; c.mul (c.read x) (c.read z)) s

/-- `vfmul` with a `g` register (R116). -/
def execVfmulG (st : Bool) (d a b : BitVec 5) (m : BitVec 4) (x : Bool) (s : State) : Out :=
  vecWord st fpMid d a (.g b) m x (fun s x z _ => let c := s.fpCtx; c.mul (c.read x) (c.read z)) s

/-- `vfma` (R116). -/
def execVfma (st : Bool) (d a b : BitVec 5) (m : BitVec 4) (x : Bool) (s : State) : Out :=
  vecWord st { fpMid with acc := true } d a (.v b) m x (fun s x z y => let c := s.fpCtx; c.fma (c.read x) (c.read z) (c.read y)) s

/-- `vfma` with a `g` register (R116). -/
def execVfmaG (st : Bool) (d a b : BitVec 5) (m : BitVec 4) (x : Bool) (s : State) : Out :=
  vecWord st { fpMid with acc := true } d a (.g b) m x (fun s x z y => let c := s.fpCtx; c.fma (c.read x) (c.read z) (c.read y)) s

/-- `vfms` (R116). -/
def execVfms (st : Bool) (d a b : BitVec 5) (m : BitVec 4) (x : Bool) (s : State) : Out :=
  vecWord st { fpMid with acc := true } d a (.v b) m x (fun s x z y => let c := s.fpCtx; c.fma (c.read x).neg (c.read z) (c.read y)) s

/-- `vfms` with a `g` register (R116). -/
def execVfmsG (st : Bool) (d a b : BitVec 5) (m : BitVec 4) (x : Bool) (s : State) : Out :=
  vecWord st { fpMid with acc := true } d a (.g b) m x (fun s x z y => let c := s.fpCtx; c.fma (c.read x).neg (c.read z) (c.read y)) s

/-- `vfdiv` (R116). -/
def execVfdiv (st : Bool) (d a b : BitVec 5) (m : BitVec 4) (x : Bool) (s : State) : Out :=
  vecWord st fpSlow d a (.v b) m x (fun s x z _ => let c := s.fpCtx; c.finish ((c.read x).div (c.read z))) s

/-- `vfdiv` with a `g` register (R116). -/
def execVfdivG (st : Bool) (d a b : BitVec 5) (m : BitVec 4) (x : Bool) (s : State) : Out :=
  vecWord st fpSlow d a (.g b) m x (fun s x z _ => let c := s.fpCtx; c.finish ((c.read x).div (c.read z))) s

/-- `vfmin` (R116). -/
def execVfmin (st : Bool) (d a b : BitVec 5) (m : BitVec 4) (x : Bool) (s : State) : Out :=
  vecWord st fpMid d a (.v b) m x (fun s x z _ => let c := s.fpCtx; c.f.minmax false (c.f.flushIn c.fz x) (c.f.flushIn c.fz z)) s

/-- `vfmin` with a `g` register (R116). -/
def execVfminG (st : Bool) (d a b : BitVec 5) (m : BitVec 4) (x : Bool) (s : State) : Out :=
  vecWord st fpMid d a (.g b) m x (fun s x z _ => let c := s.fpCtx; c.f.minmax false (c.f.flushIn c.fz x) (c.f.flushIn c.fz z)) s

/-- `vfmax` (R116). -/
def execVfmax (st : Bool) (d a b : BitVec 5) (m : BitVec 4) (x : Bool) (s : State) : Out :=
  vecWord st fpMid d a (.v b) m x (fun s x z _ => let c := s.fpCtx; c.f.minmax true (c.f.flushIn c.fz x) (c.f.flushIn c.fz z)) s

/-- `vfmax` with a `g` register (R116). -/
def execVfmaxG (st : Bool) (d a b : BitVec 5) (m : BitVec 4) (x : Bool) (s : State) : Out :=
  vecWord st fpMid d a (.g b) m x (fun s x z _ => let c := s.fpCtx; c.f.minmax true (c.f.flushIn c.fz x) (c.f.flushIn c.fz z)) s

/-- `vfsgnj` (R116). -/
def execVfsgnj (st : Bool) (d a b : BitVec 5) (m : BitVec 4) (x : Bool) (s : State) : Out :=
  vecWord st fpFast d a (.v b) m x (fun s x z _ => plain (x % 2 ^ (s.vw - 1) + z / 2 ^ (s.vw - 1) * 2 ^ (s.vw - 1))) s

/-- `vfsgnj` with a `g` register (R116). -/
def execVfsgnjG (st : Bool) (d a b : BitVec 5) (m : BitVec 4) (x : Bool) (s : State) : Out :=
  vecWord st fpFast d a (.g b) m x (fun s x z _ => plain (x % 2 ^ (s.vw - 1) + z / 2 ^ (s.vw - 1) * 2 ^ (s.vw - 1))) s

/-- `vfsqrt` (R68, R116). -/
def execVfsqrt (st : Bool) (d a : BitVec 5) (m : BitVec 4) (x : Bool) (s : State) : Out :=
  vecWord st fpSlow d a .none m x (fun s x _ _ => s.fpCtx.un FV.sqrt x) s

/-- `vfabs` (R116). -/
def execVfabs (st : Bool) (d a : BitVec 5) (m : BitVec 4) (x : Bool) (s : State) : Out :=
  vecWord st fpFast d a .none m x (fun s x _ _ => plain (x % 2 ^ (s.vw - 1))) s

/-- `vfneg` (R116). -/
def execVfneg (st : Bool) (d a : BitVec 5) (m : BitVec 4) (x : Bool) (s : State) : Out :=
  vecWord st fpFast d a .none m x (fun s x _ _ => plain (x ^^^ 2 ^ (s.vw - 1))) s

/-- `vfexp2` (R67). -/
def execVfexp2 (st : Bool) (d a : BitVec 5) (m : BitVec 4) (x : Bool) (s : State) : Out :=
  vecWord st fpSlow d a .none m x (fun s x _ _ => s.fpCtxRne.un FV.exp2 x) s

/-- `vflog2` (R67). -/
def execVflog2 (st : Bool) (d a : BitVec 5) (m : BitVec 4) (x : Bool) (s : State) : Out :=
  vecWord st fpSlow d a .none m x (fun s x _ _ => s.fpCtxRne.un FV.log2 x) s

/-- `vfrcp` (R67). -/
def execVfrcp (st : Bool) (d a : BitVec 5) (m : BitVec 4) (x : Bool) (s : State) : Out :=
  vecWord st fpSlow d a .none m x (fun s x _ _ => s.fpCtxRne.un FV.rcp x) s

/-- `vfrsq` (R67). -/
def execVfrsq (st : Bool) (d a : BitVec 5) (m : BitVec 4) (x : Bool) (s : State) : Out :=
  vecWord st fpSlow d a .none m x (fun s x _ _ => s.fpCtxRne.un FV.rsq x) s

/-- `vfclass` (R117). -/
def execVfclass (st : Bool) (d a : BitVec 5) (m : BitVec 4) (x : Bool) (s : State) : Out :=
  vecWord st fpFast d a .none m x (fun s x _ _ => plain (s.fpCtx.f.classOf x)) s

/-- `vcmpeq` (R118). -/
def execVcmpeq (st : Bool) (d a b : BitVec 5) (m : BitVec 4) (x g : Bool) (s : State) : Out :=
  cmpWord st isType d a b m x g (fun _ x z => quiet (x == z)) s

/-- `vcmpne` (R118). -/
def execVcmpne (st : Bool) (d a b : BitVec 5) (m : BitVec 4) (x g : Bool) (s : State) : Out :=
  cmpWord st isType d a b m x g (fun _ x z => quiet (x != z)) s

/-- `vcmplt` (R118). -/
def execVcmplt (st : Bool) (d a b : BitVec 5) (m : BitVec 4) (x g : Bool) (s : State) : Out :=
  cmpWord st isIntType d a b m x g (fun s x z => quiet (decide (sval s.vw x < sval s.vw z))) s

/-- `vcmpge` (R118). -/
def execVcmpge (st : Bool) (d a b : BitVec 5) (m : BitVec 4) (x g : Bool) (s : State) : Out :=
  cmpWord st isIntType d a b m x g (fun s x z => quiet (decide (sval s.vw z ≤ sval s.vw x))) s

/-- `vcmpltn` (R118). -/
def execVcmpltn (st : Bool) (d a b : BitVec 5) (m : BitVec 4) (x g : Bool) (s : State) : Out :=
  cmpWord st isIntType d a b m x g (fun _ x z => quiet (decide (x < z))) s

/-- `vcmpgen` (R118). -/
def execVcmpgen (st : Bool) (d a b : BitVec 5) (m : BitVec 4) (x g : Bool) (s : State) : Out :=
  cmpWord st isIntType d a b m x g (fun _ x z => quiet (decide (z ≤ x))) s

/-- `vcmpfeq` (R118, R47). -/
def execVcmpfeq (st : Bool) (d a b : BitVec 5) (m : BitVec 4) (x g : Bool) (s : State) : Out :=
  cmpWord st isWideFp d a b m x g (fun s x z => s.fpCompare false FV.eq x z) s

/-- `vcmpfne` (R118, R47). -/
def execVcmpfne (st : Bool) (d a b : BitVec 5) (m : BitVec 4) (x g : Bool) (s : State) : Out :=
  cmpWord st isWideFp d a b m x g (fun s x z => s.fpCompare false (fun a b => !a.eq b) x z) s

/-- `vcmpflt` (R118, R47). -/
def execVcmpflt (st : Bool) (d a b : BitVec 5) (m : BitVec 4) (x g : Bool) (s : State) : Out :=
  cmpWord st isWideFp d a b m x g (fun s x z => s.fpCompare true FV.lt x z) s

/-- `vcmpfge` (R118, R47). -/
def execVcmpfge (st : Bool) (d a b : BitVec 5) (m : BitVec 4) (x g : Bool) (s : State) : Out :=
  cmpWord st isWideFp d a b m x g (fun s x z => s.fpCompare true (fun a b => !a.isNan && !b.isNan && !a.lt b) x z) s

/-- `vcmpfun` (R118, R47). -/
def execVcmpfun (st : Bool) (d a b : BitVec 5) (m : BitVec 4) (x g : Bool) (s : State) : Out :=
  cmpWord st isWideFp d a b m x g (fun s x z => s.fpCompare false (fun a b => a.isNan || b.isNan) x z) s

end Sys2Proof.Machine
end

