-- ==== Sys2Proof/Machine/VMem.lean ====
section
/-! DEFINITION. Vector loads and stores (R201-R205, R213-R218), tile accesses through block-format pointers (R216), the
first-fault load (R215), the indexed reduce-add (R217), and the moves of mask and scale registers (R130, R131). -/

namespace Sys2Proof.Machine

/-! ## Addresses of elements (R214) -/

/-- One access of a vector instruction: the element that it belongs to, its first byte, the bit at which the data starts there,
the bytes touched, whether it reaches a tile header, and the region in which it must lie whole (R198). -/
structure VEl where
  j : Nat
  va : Nat
  bit : Nat
  n : Nat
  hdr : Bool
  reg : Nat

/-- How a mode places element (row, column): unit, strided or indexed. -/
inductive VMode where
  | unit
  | stride (bytes : Int)
  | index (b : BitVec 5)

/-- Bit offset of element `j` of `e` bits from the base. -/
def State.elemRel (s : State) (mode : VMode) (e j : Nat) : Int :=
  match mode with
  | .unit => (j * e : Nat)
  | .stride st => 8 * ((j / s.vcols : Nat) : Int) * st + ((j % s.vcols * e : Nat) : Int)
  | .index b => 8 * intVal true 32 (s.elt b 32 j)

/-- The access of `e` bits at a bit offset from a base address; addresses wrap within 56 bits (R200). -/
def elAt (base : Nat) (rel : Int) (e j : Nat) : VEl :=
  let bit := (rel % 8).toNat
  let va := (((base : Int) + rel / 8) % 2 ^ 56).toNat
  { j := j, va := va, bit := bit, n := (bit + e + 7) / 8, hdr := false, reg := region va }

/-- The accesses of the elements given. -/
def State.elems (s : State) (mode : VMode) (base e : Nat) (js : List Nat) : List VEl :=
  js.map fun j => elAt base (s.elemRel mode e j) e j

/-! ## Where an access leads -/

/-- Where each piece of an access leads, with its first byte; a piece outside the region of the access's first byte is refused (R198;
DEDUCED: log 96). -/
def State.elLocs (s : State) (a : Agent) (k : AccKind) (x : VEl) : List (Nat × Loc) :=
  (pieces x.va x.n).map fun p => (p.1, if region p.1 = x.reg then s.locate a k p.1 p.2 else .bounds)

/-- Whether a piece of an access leads where `p` says. -/
def State.elAny (s : State) (a : Agent) (k : AccKind) (p : Loc → Bool) (x : VEl) : Bool := (s.elLocs a k x).any fun l => p l.2

/-- Bytes that can be had. -/
def Loc.isAt : Loc → Bool
  | .at _ => true
  | _ => false

/-- A page that is not resident. -/
def Loc.isAbsent : Loc → Bool
  | .absent _ => true
  | _ => false

/-- The homes of the bytes of an access, with their lengths. -/
def State.elHomes (s : State) (a : Agent) (k : AccKind) (va n : Nat) : List (Home × Nat) :=
  (pieces va n).filterMap fun p => match s.locate a k p.1 p.2 with
    | .at h => some (h, p.2)
    | _ => none

/-- Bytes at homes one after another, little-endian. -/
def State.readHomes (s : State) : List (Home × Nat) → Nat
  | [] => 0
  | (h, n) :: rest => s.homeLoad h n + 2 ^ (8 * n) * s.readHomes rest

/-- A value written at homes one after another. -/
def State.writeHomes (s : State) : List (Home × Nat) → Nat → State
  | [], _ => s
  | (h, n) :: rest, v => (s.homeStore h n (v % 2 ^ (8 * n))).writeHomes rest (v / 2 ^ (8 * n))

/-- Reduce-adds under way to the lines of an access are added first (R319). -/
def State.touchHomes (s : State) (l : List (Home × Nat)) : State := l.foldl (fun s p => s.homeTouch p.1 p.2) s

/-- The data of `e` bits of an access. -/
def State.readEl (s : State) (a : Agent) (e : Nat) (x : VEl) : Nat := s.readHomes (s.elHomes a .read x.va x.n) / 2 ^ x.bit % 2 ^ e

/-- Erroneous data that an access meets: whether poisoned, and its first byte. -/
def State.elBad (s : State) (a : Agent) (x : VEl) : Option (Bool × Nat) :=
  ((pieces x.va x.n).filterMap fun p => match s.locate a .read p.1 p.2 with
    | .at h => (s.homeBad h p.2).map fun (q, off) => (q, p.1 + off)
    | _ => none).head?

/-- Writing `e` bits of an access: other bits of its bytes keep their value (R203). -/
def State.writeEl (s : State) (a : Agent) (e : Nat) (x : VEl) (v : Nat) : State :=
  let hs := s.elHomes a .write x.va x.n
  if e % 8 = 0 ∧ x.bit = 0 then s.writeHomes hs v
  else
    let s := s.touchHomes hs
    let old := s.readHomes hs
    let field := old / 2 ^ x.bit % 2 ^ e
    s.writeHomes hs (old - field * 2 ^ x.bit + v % 2 ^ e * 2 ^ x.bit)

/-! ## Checks (R223) -/

/-- What the checks of a vector access find. -/
inductive VAcc where
  | go
  | trap (cause : BitVec 8) (info : Word)
  | hold
  | fault (pages : List (Nat × Nat)) (first : Nat)

/-- Whether an access is refused under ACCESS. -/
def State.elDenied (s : State) (a : Agent) (k : AccKind) (x : VEl) : Bool := decide (14 ≤ region x.va) || s.elAny a k (· == .denied) x

/-- Whether an access meets a page that is not resident. -/
def State.elAbsent (s : State) (a : Agent) (k : AccKind) (x : VEl) : Bool := s.elAny a k Loc.isAbsent x

/-- The first byte of an access that R198 or R199 refuses. -/
def State.boundByte (s : State) (a : Agent) (k : AccKind) (x : VEl) : Nat :=
  match (s.elLocs a k x).find? fun l => l.2 == .bounds with
  | some l => if region l.1 = x.reg then s.firstBound a k x.va x.n else l.1
  | none => x.va

/-- The pages not resident under an access, with their levels. -/
def State.absentPages (s : State) (a : Agent) (k : AccKind) (x : VEl) : List (Nat × Nat) :=
  (pieces x.va x.n).filterMap fun p => match s.locate a k p.1 p.2 with
    | .absent l => some (pageOf p.1, l)
    | _ => none

/-- The first byte of an access whose page is not resident. -/
def State.absentByte (s : State) (a : Agent) (k : AccKind) (x : VEl) : Nat :=
  (((pieces x.va x.n).find? fun p => match s.locate a k p.1 p.2 with
    | .absent _ => true
    | _ => false).map (·.1)).getD x.va

/-- The checks of every access in the order ACCESS, MISALIGN, BOUNDS, translation (R223). An access that is held back waits first, so
that every element on a resident page is performed before the fault path (R218). -/
def State.vCheck (s : State) (a : Agent) (k : AccKind) (align : Nat) (xs : List VEl) : VAcc :=
  match xs.find? (s.elDenied a k) with
  | some x => .trap 0x07 (infoAt x.va)
  | none =>
    match xs.find? fun x => !x.hdr && x.va % align != 0 with
    | some x => .trap 0x04 (infoAt x.va)
    | none =>
      match xs.find? (s.elAny a k (· == .bounds)) with
      | some x => .trap 0x06 (infoAt (s.boundByte a k x))
      | none =>
        if xs.any (s.elAny a k (· == .held)) then .hold
        else
          match xs.filter (s.elAbsent a k) with
          | x :: rest => .fault ((x :: rest).flatMap (s.absentPages a k)) (s.absentByte a k x)
          | [] => .go

/-- Alignment of elements of `e` bits in bytes (R202). -/
def elAlign (e : Nat) : Nat := if e = 16 ∨ e = 32 ∨ e = 64 then e / 8 else 1

/-! ## Reissue under FLTM (R218, R260) -/

/-- The elements that this execution performs: the active ones, and after a fault only those that FLTM marks. -/
def State.performing (s : State) (m : BitVec 4) : List Nat :=
  let js := s.active m
  if s.cur.masked then
    let fs := s.files.map (·.fltm)
    js.filter fun j => maskAt fs s.vcols j
  else js

/-- FLTM written on every member. -/
def State.putFltm (s : State) (ms : List (BitVec 8192)) : State :=
  let o := s.own
  s.onCur fun t => t.setFiles o ((t.files o).zipIdx.map fun (f, i) => { f with fltm := ms[i]?.getD 0 })

/-- The faulted elements join FLTM, which a reissue has used up (R260), and the next execution performs only what it marks. -/
def State.faultLanes (s : State) (js : List Nat) : State :=
  let ms := s.maskOf js
  let old := s.files.map (·.fltm)
  let keep := !s.cur.masked
  (s.putFltm (ms.zipIdx.map fun (x, i) => if keep then x ||| old[i]?.getD 0 else x)).onCur fun t => { t with masked := true }

/-- FLTM is cleared after a reissue (R129). -/
def State.doneFltm (s : State) : State := if s.cur.masked then s.putFltm [] else s

/-- Every translation that the accesses used becomes cached (R354). -/
def State.cacheEls (s : State) (a : Agent) (xs : List VEl) : State := xs.foldl (fun s x => s.cacheFor a x.va) s

/-- The dump pieces for which these accesses wait (R366). -/
def State.wantEls (s : State) (a : Agent) (xs : List VEl) : State := xs.foldl (fun s x => s.want a x.va x.n) s

/-- The state in which the accesses of a vector instruction of the running strand are performed: their translations are cached, and
the reduce-adds on their way to the lines have been added (DESIGN CHOICE, log 20). -/
def State.openedEls (s : State) (k : AccKind) (els : List VEl) : State :=
  let t := s.cacheEls s.agent els
  t.touchHomes (els.flatMap fun x => t.elHomes s.agent k x.va x.n)

/-! ## Occupancy and the queue entry (R190, R213) -/

/-- T of a vector access (R213); accesses to cluster SRAM may take longer by bank conflicts (R276), a free value. -/
def State.memOcc (s : State) (x indexed : Bool) (wmax : Nat) (js : List Nat) (els : List VEl) : Nat :=
  let a := s.density js
  let t := if x then 3 + (if indexed then ceilDiv a 32 else ceilDiv (a * wmax) 4096) else if indexed then s.vcols else ceilDiv (s.vcols * wmax) 128
  t + if els.any fun e => region e.va == 12 then Config.freeWait (s.free + 1) else 0

/-- Lowest and highest byte that the elements access. -/
def byteSpan (els : List VEl) : Nat × Nat :=
  match els with
  | [] => (0, 0)
  | x :: rest => rest.foldl (fun (lo, hi) e => (min lo e.va, max hi (e.va + e.n - 1))) (x.va, x.va + x.n - 1)

/-- The access enters the vector queue; its latency is not stated. -/
def State.enqueueMem (s : State) (v vd : List (BitVec 5)) (m : List (BitVec 4)) (c cd : List (BitVec 3)) (t : Nat) (js : List Nat)
    (els : List VEl) : State :=
  let (lo, hi) := byteSpan (els.filter (!·.hdr))
  (s.enqueue { v := v, vd := vd, m := m, c := c, cd := cd, t := max 1 t, lam := Config.freeWait s.free + 1, js := js, first := lo, last := hi })

/-! ## Tiles (R52, R216) -/

/-- A tile access: format, block length code, first tile row and column. -/
structure TileAt where
  fmt : BitVec 5
  blk : BitVec 3
  h : Nat
  c0 : Nat

/-- Elements of a block. -/
def TileAt.len (t : TileAt) : Nat := 2 ^ t.blk.toNat
/-- Blocks of a tile row, E / L. -/
def TileAt.blocks (t : TileAt) : Nat := tileCols t.fmt / t.len
/-- Element width in memory. -/
def TileAt.e (t : TileAt) : Nat := memWidth ((blockElem t.fmt).getD 1)
/-- Bit offset of element (row, column) of the register shape. -/
def TileAt.rel (t : TileAt) (row col : Nat) : Nat :=
  8 * (tileHeader t.fmt t.blk + (t.h + row) * tileRowBytes t.fmt) + (t.c0 + col) * t.e
/-- Offset of header byte `k` of a register row. -/
def TileAt.hdr (t : TileAt) (row k : Nat) : Nat := (t.h + row) * t.blocks + t.c0 / t.len + k
/-- Offset of the band scale. -/
def TileAt.band (t : TileAt) : Nat := 64 * t.blocks

/-- The tile position that y names, or none when R216 refuses it. -/
def State.tilePos (s : State) (fmt : BitVec 5) (blk : BitVec 3) (y : Word) : Option TileAt :=
  let t : TileAt := { fmt := fmt, blk := blk, h := (y.extractLsb' 0 6).toNat, c0 := (y.extractLsb' 8 8).toNat }
  if (y &&& ~~~0xFF3F#64) = 0 ∧ t.c0 % t.len = 0 ∧ t.c0 + s.vcols ≤ tileCols fmt ∧ t.h + s.vrows ≤ 64 then some t else none

/-- The element accesses of a tile. -/
def State.tileElems (s : State) (t : TileAt) (base : Nat) (js : List Nat) : List VEl :=
  js.map fun j => elAt base (t.rel (j / s.vcols) (j % s.vcols)) t.e j

/-- A header access of `n` bytes for a row. -/
def State.hdrEl (s : State) (base off row n : Nat) : VEl :=
  { j := row * s.vcols, va := (base + off) % 2 ^ 56, bit := 0, n := n, hdr := true, reg := region ((base + off) % 2 ^ 56) }

/-- The header accesses of a tile load: the blocks of every row below VROWS, and the band scale of FINE4. DEDUCED: log 39. -/
def State.tileHdrs (s : State) (t : TileAt) (base : Nat) : List VEl :=
  ((List.range s.vrows).map fun r => s.hdrEl base (t.hdr r 0) r (t.blocks - t.c0 / t.len)) ++
    if t.fmt = 0x1D then [s.hdrEl base t.band 0 2] else []

/-- The blocks (row, block) with an active element. -/
def State.tileBlocks (s : State) (t : TileAt) (js : List Nat) : List (Nat × Nat) := (js.map fun j => (j / s.vcols, j % s.vcols / t.len)).eraseDups

/-- The header accesses of a tile store. -/
def State.tileStoreHdrs (s : State) (t : TileAt) (base : Nat) (js : List Nat) : List VEl :=
  ((s.tileBlocks t js).map fun (r, k) => s.hdrEl base (t.hdr r k) r 1) ++
    if t.fmt = 0x1D ∧ !js.isEmpty then [s.hdrEl base t.band 0 2] else []

/-! ## Loads -/

/-- The error that the first bad access brings with a load (R262); `lanes` gives the lanes of an access (R256). -/
def State.loadErr (s : State) (a : Agent) (lanes : VEl → List Nat) (els : List VEl) : Option DataError :=
  let bad := els.filterMap fun x => (s.elBad a x).map fun b => (x, b)
  match bad with
  | [] => none
  | (_, p, b) :: _ => some { poisoned := p, addr := infoAt b, lanes := laneMask (bad.flatMap fun q => lanes q.1) }

/-- The lane of an element. -/
def lane1 (x : VEl) : List Nat := [x.j]

/-- The lanes of a byte that a tile load reads: its element, or, of a header byte, the elements among `js` whose scale it is (R256,
R262; DEDUCED: log 39). -/
def State.tileLanes (s : State) (t : TileAt) (base : Nat) (js : List Nat) (x : VEl) : List Nat :=
  if !x.hdr then [x.j]
  else if x.n = 2 then js
  else js.filter fun j => (base + t.hdr (j / s.vcols) (j % s.vcols / t.len)) % 2 ^ 56 == x.va

/-- The header accesses of a tile load byte by byte; the band scale stays one access. -/
def TileAt.hdrBytes (t : TileAt) (base : Nat) (hdrs : List VEl) : List VEl :=
  hdrs.flatMap fun x =>
    if t.fmt = 0x1D ∧ x.va = (base + t.band) % 2 ^ 56 then [x]
    else (List.range x.n).map fun k => { x with va := (x.va + k) % 2 ^ 56, n := 1 }

/-- The elements that are performed when the accesses that fail `bad` are left out: a header failure takes its row. -/
def residentOf (vcols : Nat) (els hdrs : List VEl) (bad : VEl → Bool) : List VEl × List VEl :=
  let rows := (hdrs.filter bad).map fun x => x.j / vcols
  els.partition fun x => !(bad x || rows.contains (x.j / vcols))

/-- What a load does with the elements it performs: the effect `perform` on the accesses given, and the faulting ones left to
the fault path (R218). -/
def State.vLoadRun (s : State) (a : Agent) (align : Nat) (els hdrs : List VEl) (perform : List VEl → List VEl → State → Res) : Res :=
  match s.vCheck a .read align ((els ++ hdrs).filter (·.n != 0)) with
  | .trap c i => s.raise c i
  | .hold => .wait s .order
  | .go => perform els hdrs (s.cacheEls a (els ++ hdrs))
  | .fault pages first =>
    let bad := s.elAbsent a .read
    let (ok, miss) := residentOf s.vcols els hdrs bad
    match perform ok (hdrs.filter fun x => !bad x) s with
    | .ok s => .left ((s.faultLanes (miss.map (·.j))).faultPath pages (accBits .read) (infoAt first))
    | r => r

/-- A plain load of the accesses given into register `d`: a deferred result. -/
def State.vLoadPlain (s : State) (a : Agent) (d : BitVec 5) (m : BitVec 4) (b : List (BitVec 5)) (x indexed : Bool) (e : Nat) (els : List VEl) : Res :=
  let js := els.map (·.j)
  let s := s.touchHomes (els.flatMap fun x => s.elHomes a .read x.va x.n)
  let ws := s.writes s.vw (els.map fun x => (x.j, s.readEl a e x))
  let va := (els.head?.map (·.va)).getD 0
  let t := s.memOcc x indexed s.vw js els
  .ok ((s.deferred (.v d ws none) va (s.loadErr a lane1 els)).enqueueMem b [d] (govern m) [] [] t js els).doneFltm

/-- The scale bytes that a tile load writes into its scale register (R216). -/
def State.tileScales (s : State) (a : Agent) (t : TileAt) (base : Nat) (d : BitVec 5) (c : BitVec 3) (hdrs : List VEl) : CWrite :=
  let rows := (hdrs.filter fun x => x.n != 2 || t.fmt != 0x1D || x.va != (base + t.band) % 2 ^ 56).map fun x => x.j / s.vcols
  let n := s.files.length
  let put := fun (i : Nat) =>
    (rows.filter fun r => r / 32 == i).foldl
      (fun (mk : BitVec 8192 × BitVec 8192) r =>
        (List.range t.blocks).foldl
          (fun (mk : BitVec 8192 × BitVec 8192) k =>
            let p := 8 * scaleAt t.fmt t.blk d.toNat (r % 32) k
            let v := if k < t.blocks - t.c0 / t.len then s.readEl a 8 (s.hdrEl base (t.hdr r k) r 1) else 0
            (mk.1 ||| BitVec.ofNat 8192 (255 * 2 ^ p), mk.2 ||| BitVec.ofNat 8192 (v * 2 ^ p))) mk) (0, 0)
  { reg := c, mask := (List.range n).map fun i => (put i).1, data := (List.range n).map fun i => (put i).2, tag := t.fmt ++ t.blk }

/-- A tile load: packed elements, or widened ones (R122), with the scales of their blocks. -/
def State.vLoadTile (s : State) (a : Agent) (t : TileAt) (base : Nat) (d : BitVec 5) (m : BitVec 4) (x : Bool) (c : BitVec 3)
    (els hdrs : List VEl) : Res :=
  let js := els.map (·.j)
  let s := s.touchHomes ((els ++ hdrs).flatMap fun x => s.elHomes a .read x.va x.n)
  let sc := s.tileScales a t base d c hdrs
  let band := if t.fmt = 0x1D then BitVec.ofNat 16 (s.readEl a 16 (s.hdrEl base t.band 0 2)) else 0x3F80#16
  let packed := blockElem t.fmt == some s.vt
  let fpcr := s.cur.sp.fpcr &&& ~~~0x10#64
  let rs : List (Nat × Rounded) := els.map fun x =>
    let v := s.readEl a t.e x
    let scale := s.readEl a 8 (s.hdrEl base (t.hdr (x.j / s.vcols) (x.j % s.vcols / t.len)) 0 1)
    (x.j, if packed then ⟨v, 0⟩ else dequantElem t.fmt s.vt fpcr (rmOf fpcr) v scale band)
  let raised := rs.map fun p => s.raisedAt p.1 p.2.flags
  match s.fpTrap raised with
  | some e => .trap s e
  | none =>
    let ws := (s.writes s.vw (rs.map fun p => (p.1, p.2.bits))).map fun w => { w with band := if packed then band else 0x3F80#16 }
    let s := s.noteFlags raised
    let va := (els.head?.map (·.va)).getD base
    .ok ((s.deferred (.v d ws (some sc)) va (s.loadErr a (s.tileLanes t base js) (els ++ t.hdrBytes base hdrs))).enqueueMem [] [d] (govern m) [] [c] (s.memOcc x false (max s.vw t.e) js els) js els).doneFltm

/-! ## Stores -/

/-- A store of the accesses that pass the checks: `write` performs the accesses given; the faulting ones are left to the fault
path (R218). -/
def State.vStoreRun (s : State) (a : Agent) (k : AccKind) (align : Nat) (els hdrs : List VEl) (write : List VEl → List VEl → State → State)
    (finish : State → State) : Res :=
  match s.vCheck a k align (els ++ hdrs) with
  | .trap c i => s.raise c i
  | .hold => .wait (s.wantEls a (els ++ hdrs)) .order
  | .go => .ok (finish (write els hdrs (s.cacheEls a (els ++ hdrs)))).doneFltm
  | .fault pages first =>
    let bad := s.elAbsent a k
    let (ok, miss) := residentOf s.vcols els hdrs bad
    let s := write ok (hdrs.filter fun x => !bad x) s
    .left ((s.faultLanes (miss.map (·.j))).faultPath pages (accBits k) (infoAt first))

/-- Bits of the 64-byte line at `l` that an access of `e` bits writes. -/
def VEl.bitsIn (x : VEl) (e l : Nat) : Nat := min (8 * x.va + x.bit + e) (512 * l + 512) - max (8 * x.va + x.bit) (512 * l)

/-- The lines that the elements of one row cover whole: each is one write of 64 bytes (R203). -/
def wholeLines (vcols e : Nat) (els : List VEl) : List Nat :=
  let keys := (els.map fun x => (x.j / vcols, x.va / 64)).eraseDups
  (keys.filter fun q => ((els.filter fun x => x.j / vcols == q.1).map fun x => x.bitsIn e q.2).sum == 512).map (·.2)

/-- The marks of the lines that a store's rows cover whole are cleared (R325). -/
def State.cleanRowLines (s : State) (a : Agent) (e : Nat) (els : List VEl) : State :=
  if s.poison.isEmpty && s.ue.isEmpty then s
  else
    (wholeLines s.vcols e els).foldl
      (fun s l => match s.locate a .write (64 * l) 64 with
        | .at (.here k) => s.cleanLines k 64
        | _ => s) s

/-- Elements stored one by one, in ascending flat index (R205). -/
def State.putEls (s : State) (a : Agent) (d : BitVec 5) (e : Nat) (els : List VEl) : State :=
  els.foldl (fun s x => s.writeEl a e x (s.elt d s.vw x.j % 2 ^ e)) s

/-- The elements of a plain store: the bytes of a row in one line are one write (R203). -/
def State.writeEls (s : State) (a : Agent) (d : BitVec 5) (e : Nat) (els : List VEl) : State := (s.putEls a d e els).cleanRowLines a e els

/-- The header bytes of a tile store: scales from `c`, the band scale from BAND of d (R216). -/
def State.writeHdrs (s : State) (a : Agent) (t : TileAt) (base : Nat) (d : BitVec 5) (c : BitVec 3) (blocks : List (Nat × Nat)) (hdrs : List VEl) : State :=
  let fs := s.files
  let keep := hdrs.map (·.va)
  let s := blocks.foldl
    (fun s (r, k) =>
      let x := s.hdrEl base (t.hdr r k) r 1
      let v := match fs[r / 32]? with
        | some f => scaleByte (f.getC c).data (scaleAt t.fmt t.blk d.toNat (r % 32) k)
        | none => 0
      if keep.contains x.va then s.writeEl a 8 x v else s) s
  let b := s.hdrEl base t.band 0 2
  if t.fmt = 0x1D ∧ keep.contains b.va then s.writeEl a 16 b (s.cur.vf.getV d).band.toNat else s

/-! ## Tags (R201) -/

/-- Whether a tag is a block format with an allowed block length. -/
def blockTag (x : Word) : Bool := scaleTagOk (ptrTag x)

/-- Whether a pointer is plain for the VTYPE in force: RAW or a type equal to VTYPE, BLK 0, and no scale register named. -/
def State.plainTag (s : State) (x : Word) (c : BitVec 3) : Bool :=
  tagBlk (ptrTag x) == 0 && (ptrFmt x == 0 || ptrFmt x == s.vt) && c == 0

/-- The poison check of the vector registers that an access reads (R262). -/
def State.unpoisoned (s : State) (reads : List (BitVec 5 × Nat × List Nat)) (k : Res) : Res :=
  match s.poisonTrap reads with
  | some t => .trap s t
  | none => k

/-- The FORMAT trap of a vector access. -/
def State.badFormat (s : State) (x : Word) : Res := s.raise 0x05 (infoAt (addrOf x))

/-! ## VLD (R213-R216) -/

/-- A load through a RAW or plain-type pointer. -/
def State.loadMode (s : State) (mode : VMode) (d a : BitVec 5) (b : List (BitVec 5)) (m : BitVec 4) (x : Bool) (c : BitVec 3) : Res :=
  let p := s.rg a
  let e := memWidth s.vt
  if !s.plainTag p c then s.badFormat p
  else
    let js := s.performing m
    s.unpoisoned (b.map fun r => (r, 32, js)) (s.vLoadRun s.agent (elAlign e) (s.elems mode (addrOf (adda p 0)) e js) [] fun els _ s =>
      s.vLoadPlain s.agent d m b x (!b.isEmpty) e els)

/-- A unit load through a block-format pointer. -/
def State.loadTile (s : State) (d a b : BitVec 5) (m : BitVec 4) (x : Bool) (c : BitVec 3) : Res :=
  let p := s.rg a
  let base := addrOf (adda p 0)
  let f := ptrFmt p
  let y := if b = 0 then 0 else s.rg b
  match s.tilePos f (tagBlk (ptrTag p)) y with
  | none => s.badFormat p
  | some t =>
    if base % 64 ≠ 0 ∨ ¬(blockElem f = some s.vt ∨ s.vt = 0x10 ∨ s.vt = 0x11) then s.badFormat p
    else
      s.vLoadRun s.agent 1 (s.tileElems t base (s.performing m)) (s.tileHdrs t base) fun els hdrs s =>
        s.vLoadTile s.agent t base d m x c els hdrs

/-- The scale register that a unit store reads: only through a block-format pointer (R216). -/
def State.unitScale (s : State) (a : BitVec 5) (c : BitVec 3) : List (BitVec 3) := if blockTag (s.rg a) then [c] else []

/-- The scalar sources of a unit access: b only through a block-format pointer. -/
def State.unitSrc (s : State) (a b : BitVec 5) : List (BitVec 5) := if blockTag (s.rg a) && b != 0 then [a, b] else [a]

/-- `vld` (R214, R216). -/
def execVld (st : Bool) (d a b : BitVec 5) (m : BitVec 4) (x : Bool) (c : BitVec 3) (s : State) : Out :=
  issue st 4 { vuse (s.unitSrc a b) [] [d] [m] with pends := 1 }
    (fun s =>
      if blockTag (s.rg a) then s.loadTile d a b m x c
      else if b ≠ 0 then s.badFormat (s.rg a)
      else s.loadMode .unit d a [] m x c) s

/-- `vlds` (R214). -/
def execVlds (st : Bool) (d a b : BitVec 5) (m : BitVec 4) (x : Bool) (c : BitVec 3) (s : State) : Out :=
  issue st 4 { vuse [a, b] [] [d] [m] with pends := 1 }
    (fun s => s.loadMode (.stride (intVal true 64 (s.rg b).toNat)) d a [] m x c) s

/-- The checks of an indexed form before its tag (R214). -/
def State.indexedOk (s : State) (k : Res) : Res :=
  if memWidth s.vt < 8 then s.raise 0x0C 0 else if 32 < s.vcols then s.raise 0x0B 0 else k

/-- `vldx` (R214). -/
def execVldx (st : Bool) (d a b : BitVec 5) (m : BitVec 4) (x : Bool) (c : BitVec 3) (s : State) : Out :=
  issue st 4 { vuse [a] [b] [d] [m] with pends := 1 } (fun s => s.indexedOk (s.loadMode (.index b) d a [b] m x c)) s

/-- Whether an element of `vldff` would fault: in translation or permission, or under R199. -/
def State.ffFaults (s : State) (a : Agent) (x : VEl) : Bool :=
  s.elAny a .read (fun l => l == .denied || l == .bounds || l.isAbsent) x

/-- The effect of `vldff` through a plain pointer (R215). -/
def State.loadFf (s : State) (mode : VMode) (d a : BitVec 5) (m : BitVec 4) (x : Bool) (c : BitVec 3) : Res :=
  let p := s.rg a
  let e := memWidth s.vt
  if !s.plainTag p c then s.badFormat p
  else
    let ag := s.agent
    let els := s.elems mode (addrOf (adda p 0)) e (s.performing m)
    match els.find? fun x => 14 ≤ region x.va with
    | some x => s.raise 0x07 (infoAt x.va)
    | none =>
      match els.find? (s.ffFaults ag) with
      | none => s.vLoadRun ag (elAlign e) els [] fun els _ s => s.vLoadPlain ag d m [] x false e els
      | some f =>
        if (els.head?.map (·.j)) = some f.j then
          s.vLoadRun ag (elAlign e) els [] fun els _ s => s.vLoadPlain ag d m [] x false e els
        else
          match els.find? fun x => x.va % elAlign e != 0 with
          | some x => s.raise 0x04 (infoAt x.va)
          | none =>
            let below := els.filter fun x => x.j < f.j
            if below.any (s.elAny ag .read (· == .held)) then .wait s .order
            else
              match (s.cacheEls ag below).vLoadPlain ag d m [] x false e below with
              | .ok s => .ok (s.onSp fun p => { p with vl := f.j })
              | r => r

/-- `vldff` (R215): mode 0 addressing when the b field is 0. -/
def execVldff (st : Bool) (d a b : BitVec 5) (m : BitVec 4) (x : Bool) (c : BitVec 3) (s : State) : Out :=
  issue st 4 { vuse (if b = 0 then [a] else [a, b]) [] [d] [m] with pends := 1 }
    (fun s => s.loadFf (if b = 0 then .unit else .stride (intVal true 64 (s.rg b).toNat)) d a m x c) s

/-! ## VST (R213, R214, R216, R217) -/

/-- A store through a RAW or plain-type pointer. -/
def State.storeMode (s : State) (mode : VMode) (d a : BitVec 5) (b : List (BitVec 5)) (m : BitVec 4) (x : Bool) (c : BitVec 3) : Res :=
  let p := s.rg a
  let e := memWidth s.vt
  if !s.plainTag p c then s.badFormat p
  else
    let js := s.performing m
    let els := s.elems mode (addrOf (adda p 0)) e js
    let ag := s.agent
    s.unpoisoned ((b.map fun r => (r, 32, js)) ++ [(d, s.vw, js)]) (s.vStoreRun ag .write (elAlign e) els []
      (fun els _ s => if b.isEmpty then s.writeEls ag d e els else s.putEls ag d e els)
      fun s => s.enqueueMem (d :: b) [] (govern m) [] [] (s.memOcc x (!b.isEmpty) s.vw js els) js els)

/-- A unit store through a block-format pointer. -/
def State.storeTile (s : State) (d a b : BitVec 5) (m : BitVec 4) (x : Bool) (c : BitVec 3) : Res :=
  let p := s.rg a
  let base := addrOf (adda p 0)
  let f := ptrFmt p
  let y := if b = 0 then 0 else s.rg b
  match s.tilePos f (tagBlk (ptrTag p)) y with
  | none => s.badFormat p
  | some t =>
    if base % 64 ≠ 0 ∨ blockElem f ≠ some s.vt ∨ !s.tagsPass c (· == ptrTag p) then s.badFormat p
    else
      let js := s.performing m
      let els := s.tileElems t base js
      let ag := s.agent
      s.unpoisoned [(d, s.vw, js)] (s.vStoreRun ag .write 1 els (s.tileStoreHdrs t base js)
        (fun els hdrs s => (s.writeEls ag d t.e els).writeHdrs ag t base d c (s.tileBlocks t (els.map (·.j))) hdrs)
        fun s => s.enqueueMem [d] [] (govern m) [c] [] (s.memOcc x false s.vw js els) js els)

/-- `vst` (R214, R216). -/
def execVst (st : Bool) (d a b : BitVec 5) (m : BitVec 4) (x : Bool) (c : BitVec 3) (s : State) : Out :=
  issue st 4 { vuse (s.unitSrc a b) [d] [] [m] with c := s.unitScale a c }
    (fun s =>
      if blockTag (s.rg a) then s.storeTile d a b m x c
      else if b ≠ 0 then s.badFormat (s.rg a)
      else s.storeMode .unit d a [] m x c) s

/-- `vsts` (R214). -/
def execVsts (st : Bool) (d a b : BitVec 5) (m : BitVec 4) (x : Bool) (c : BitVec 3) (s : State) : Out :=
  issue st 4 (vuse [a, b] [d] [] [m]) (fun s => s.storeMode (.stride (intVal true 64 (s.rg b).toNat)) d a [] m x c) s

/-- `vstx` (R214). -/
def execVstx (st : Bool) (d a b : BitVec 5) (m : BitVec 4) (x : Bool) (c : BitVec 3) (s : State) : Out :=
  issue st 4 (vuse [a] [d, b] [] [m]) (fun s => s.indexedOk (s.storeMode (.index b) d a [b] m x c)) s

/-- The types that `vstra` and `gred` add (R217). -/
def addType (t : BitVec 5) : Bool := [0x05#5, 0x06#5, 0x07#5, 0x08#5, 0x10#5].contains t

/-- The contributions of the elements of a `vstra`: window words are added at once, words of global memory travel in one packet
for each line (R317), words of other nodes are not this package's state. -/
def State.sendReduces (s : State) (n : Nat) (cs : List Contribution) : State :=
  let here := cs.filter fun c => !isGlobalKey c.addr
  let far := cs.filter fun c => isGlobalKey c.addr
  let s := s.addPackets here
  ((far.map fun c => c.addr / 64).eraseDups).foldl
    (fun s l => s.post none (.reduce s.core.cid n (far.filter fun c => c.addr / 64 == l))) s

/-- The lines of the accesses given that lie behind a link or a device that is down: their adds are dropped, and they read poisoned
afterwards (R367). -/
def State.poisonDead (s : State) (a : Agent) (els : List VEl) : State :=
  els.foldl (fun s x => (s.elHomes a .write x.va x.n).foldl (fun s h => match h.1 with
    | .dead k => s.markPoison k h.2
    | _ => s) s) s

/-- The contributions of the accesses given, with the values of register `d`. -/
def State.contributionsOf (s : State) (a : Agent) (d : BitVec 5) (n : Nat) (els : List VEl) : List Contribution :=
  els.filterMap fun x => match s.elHomes a .write x.va x.n with
    | (.here k, _) :: _ =>
      some { launch := s.cur.launch, item := s.cur.sp.item, n := n, j := x.j, fmt := s.vt, addr := k, value := BitVec.ofNat 64 (s.elt d s.vw x.j) }
    | _ => none

/-- `vstra` (R217): relaxed atomic adds at the home of each element. -/
def execVstra (st : Bool) (d a b : BitVec 5) (m : BitVec 4) (x : Bool) (c : BitVec 3) (s : State) : Out :=
  issue st 4 (vuse [a] [d, b] [] [m])
    (fun s =>
      if !addType s.vt then s.raise 0x0C 0
      else
        s.indexedOk
          (let p := s.rg a
           if !s.plainTag p c then s.badFormat p
           else
             let e := memWidth s.vt
             let js := s.performing m
             let els := s.elems (.index b) (addrOf (adda p 0)) e js
             let ag := s.agent
             let n := s.cur.redCount
             s.unpoisoned [(b, 32, js), (d, s.vw, js)] (s.vStoreRun ag .write (elAlign e) els []
               (fun els _ s => (s.sendReduces n (s.contributionsOf ag d n els)).poisonDead ag els)
               fun s => (s.onCur fun t => { t with redCount := n + 1 }).enqueueMem [d, b] [] (govern m) [] []
                 (s.memOcc x true s.vw js els) js els))) s

/-! ## Mask and scale registers (R130, R131) -/

/-- The 64-byte accesses of a move of 1,024 bytes on each gang member. -/
def State.regMoveEls (s : State) (base : Nat) : List VEl :=
  (List.range (16 * s.files.length)).map fun i => { j := i, va := (base + 64 * i) % 2 ^ 56, bit := 0, n := 64, hdr := false, reg := region base }

/-- The 1,024 bytes of member `i`. -/
def State.regMoveRead (s : State) (base i : Nat) : BitVec 8192 :=
  BitVec.ofNat 8192 (leValue ((List.range 16).flatMap fun k =>
    leBytes 64 (s.readEl s.agent 512 { j := 0, va := (base + 1024 * i + 64 * k) % 2 ^ 56, bit := 0, n := 64, hdr := false, reg := region base })))

/-- The checks of a mask or scale move after its tag: ACCESS, MISALIGN, BOUNDS, translation (R223). -/
def State.regMove (s : State) (k : AccKind) (base : Nat) (body : List VEl → State → Res) : Res :=
  let els := s.regMoveEls base
  match s.vCheck s.agent k 64 els with
  | .trap c i => s.raise c i
  | .hold => .wait (if k = .read then s else s.wantEls s.agent els) .order
  | .fault pages first => .left (s.faultPath pages (accBits k) (infoAt first))
  | .go => body els (s.openedEls k els)

/-- The bytes of a register on each member stored. -/
def State.regMoveWrite (s : State) (base : Nat) (xs : List (BitVec 8192)) : State :=
  xs.zipIdx.foldl
    (fun s (x, i) => (List.range 16).foldl
      (fun s k => s.writeEl s.agent 512 { j := 0, va := (base + 1024 * i + 64 * k) % 2 ^ 56, bit := 0, n := 64, hdr := false, reg := region base }
        (x.extractLsb' (512 * k) 512).toNat) s) s

/-- The lanes of a 64-byte piece of a register: 512 mask bits, or 64 scale bytes (R256). DEDUCED: log 46. -/
def pieceLanes (n : Nat) (x : VEl) : List Nat := (List.range n).map fun k => n * x.j + k

/-- The place of `mst` or `cst` in the vector queue, which reads their register (R142); T is not stated, a free value. -/
def State.enqueueMove (s : State) (m : List (BitVec 4)) (c : List (BitVec 3)) : State :=
  s.enqueueMem [] [] m c [] (Config.freeWait (s.free + 1) + 1) [] []

/-- `mld` (R130): a deferred result. -/
def execMld (st : Bool) (d a : BitVec 5) (s : State) : Out :=
  issue st 4 { g := [a], md := [d.setWidth 4], pends := 1 }
    (fun s =>
      let p := s.rg a
      let base := addrOf p
      if ptrTag p ≠ 0 then s.badFormat p
      else
        s.regMove .read base fun els s =>
          .ok (s.deferred (.m (d.setWidth 4) ((List.range s.files.length).map fun i => s.regMoveRead base i)) base (s.loadErr s.agent (pieceLanes 512) els))) s

/-- `mst` (R130): a store of 1,024 bytes on each member. -/
def execMst (st : Bool) (d a : BitVec 5) (s : State) : Out :=
  issue st 4 { g := [a], m := [d.setWidth 4], vec := true }
    (fun s =>
      let p := s.rg a
      if ptrTag p ≠ 0 then s.badFormat p
      else s.regMove .write (addrOf p) fun _ s => .ok ((s.regMoveWrite (addrOf p) (s.files.map fun f => f.getM (d.setWidth 4))).enqueueMove [d.setWidth 4] [])) s

/-- `cld` (R131): bytes and tag, a deferred result. A misaligned address under a block-format tag breaks R55 and R130: the model takes the
FORMAT of R55, which R223 checks first (DESIGN CHOICE, log 112). -/
def execCld (st : Bool) (d a : BitVec 5) (s : State) : Out :=
  issue st 4 { g := [a], pends := 1 }
    (fun s =>
      let p := s.rg a
      let base := addrOf p
      if !blockTag p || base % 64 != 0 then s.badFormat p
      else
        s.regMove .read base fun els s =>
          .ok (s.deferred (.c (d.setWidth 3) ((List.range s.files.length).map fun i => s.regMoveRead base i) (ptrTag p)) base
            (s.loadErr s.agent (pieceLanes 64) els))) s

/-- `cst` (R131): the tag of the pointer is RAW, or the whole tag of the register. In a gang the spec does not say whose: the model compares
that of the strand's own core (DESIGN CHOICE, log 113). A misaligned address under a block-format tag is FORMAT, as for `cld` (DESIGN CHOICE,
log 112). -/
def execCst (st : Bool) (d a : BitVec 5) (s : State) : Out :=
  issue st 4 { g := [a], c := [d.setWidth 3], vec := true }
    (fun s =>
      let p := s.rg a
      if ptrTag p ≠ 0 ∧ (ptrTag p ≠ (s.cur.vf.getC (d.setWidth 3)).tag ∨ ¬blockTag p ∨ addrOf p % 64 ≠ 0) then s.badFormat p
      else s.regMove .write (addrOf p) fun _ s => .ok ((s.regMoveWrite (addrOf p) (s.files.map fun f => (f.getC (d.setWidth 3)).data)).enqueueMove [] [d.setWidth 3])) s

end Sys2Proof.Machine
end

