-- ==== Sys2Proof/Machine/Engine.lean ====
section
/-! DEFINITION. What the engines share (R203, R222, R263, R295, R360): the pages that their operations need, the faults that
stop them, and finding the strand that an operation belongs to. -/

namespace Sys2Proof.Machine

/-! ## Pages (R295, R360) -/

/-- What the accesses of a run of bytes in the global regions translate to, line by line. -/
def State.runXlate (s : State) (a : Agent) (k : AccKind) (va n : Nat) : List (Nat × Xl) :=
  (pieces va n).filterMap fun p => if isGlobal p.1 then some (p.1, s.xlate a.ptroot a.priv k p.1) else none

/-- The pages of a run of bytes that an engine meets with V = 0, with their levels. -/
def State.runAbsent (s : State) (a : Agent) (k : AccKind) (va n : Nat) : List (Nat × Nat) :=
  ((s.runXlate a k va n).filterMap fun p =>
    match p.2 with
    | .absent l => some (pageOf p.1, l)
    | _ => none).eraseDups

/-- Whether an engine may not reach a run of bytes: a violation of its pages, or R199 in a window. -/
def State.runDenied (s : State) (a : Agent) (k : AccKind) (va n : Nat) : Bool :=
  if isGlobal va then
    (s.runXlate a k va n).any fun p => match p.2 with
      | .denied => true
      | _ => false
  else (pieces va n).any fun p => match s.locate a k p.1 p.2 with
    | .at _ => false
    | .held => false
    | _ => true

/-- Whether a run of bytes is held back: a store by a dump (R366), an access by a link that retrains (R430). -/
def State.runHeld (s : State) (a : Agent) (k : AccKind) (va n : Nat) : Bool :=
  (isGlobal va && k != .read && (s.runXlate a k va n).any fun p => match p.2 with
    | .ok _ held => held
    | _ => false) ||
  (!s.pkg.links.isEmpty && (pieces va n).any fun p => s.locate a k p.1 p.2 == .held)

/-- Whether a run of bytes reaches a node that cannot be reached, or that refuses it (R436, R440, R450). -/
def State.runUnreachable (s : State) (a : Agent) (k : AccKind) (va n : Nat) : Bool :=
  ((isGlobal va && (s.runXlate a k va n).any fun p => match p.2 with
    | .ok pa _ => decide (2 ^ 51 ≤ pa) && s.unreachable false pa
    | _ => false)) ||
  (k != .read && !(s.pkg.links.isEmpty && s.pkg.cxlFailed.isEmpty) && (pieces va n).any fun p => match s.locate a k p.1 p.2 with
    | .at (.dead _) => true
    | _ => false)

/-- Bytes that an engine reads; whether any is erroneous (R263). -/
def State.engineRead (s : State) (a : Agent) (va n : Nat) (k : AccKind := .read) : State × List Byte × Bool :=
  (pieces va n).foldl
    (fun (s, bs, bad) p =>
      match s.locate a k p.1 p.2 with
      | .at h =>
        let s := s.homeTouch h p.2
        (s, bs ++ leBytes p.2 (s.homeLoad h p.2), bad || (s.homeBad h p.2).isSome)
      | _ => (s, bs ++ List.replicate p.2 0, true)) (s, [], false)

/-- Bytes that an engine writes; poisoned data marks its lines (R263). -/
def State.engineWrite (s : State) (a : Agent) (va : Nat) (bs : List Byte) (poisoned : Bool) : State :=
  (pieces va bs.length).foldl
    (fun s p =>
      match s.locate a .write p.1 p.2 with
      | .at (.here k) =>
        let s := s.storeBytes k ((bs.drop ((p.1 + 2 ^ 56 - va) % 2 ^ 56)).take p.2)
        if poisoned then s.markPoison k p.2 else s
      | _ => s) s

/-- Bytes that an engine moves in one single-copy-atomic access (R203): by the memory at the target, where another node's is a free choice. -/
def State.granuleAt (s : State) (a : Agent) (va : Nat) (k : AccKind := .write) : Nat :=
  if isGlobal va then
    match s.xlate a.ptroot a.priv k va with
    | .ok pa _ => if isHost pa || (decide (2 ^ 51 ≤ pa) && Config.freeBool (pa / 64)) then 8 else 32
    | _ => 32
  else 64

/-! ## Faults of engines (R360) -/

/-- Whether an operation waits for the page service. -/
def State.engineStopped (s : State) (op : EngineId) : Bool := s.pkg.engineFaults.any (·.op == op)

/-- What the page service has answered to an operation (R360): nothing was asked; no answer yet; a signal, on which the cell is
freed and the request retried; a fail. -/
inductive Serviced where
  | clear
  | waiting
  | retry (s : State) (page : Nat)
  | failed (s : State)

/-- The answer to an operation. DEDUCED: log 61. -/
def State.serviced (s : State) (op : EngineId) : Serviced :=
  match s.pkg.engineFaults.find? (·.op == op) with
  | none => .clear
  | some f =>
    let x := (s.coreOf f.core).status f.token
    if x = 1 then .waiting
    else
      let s := s.onPkg fun p => { p with engineFaults := p.engineFaults.filter (·.op != op) }
      if x = 2 then .retry s f.page
      else
        let s := s.onCore f.core (·.observe f.token)
        if x = 0 then .retry s f.page else .failed s

/-- An operation that has ended waits for the page service no longer: its kind-5 cell is freed. -/
def State.endFault (s : State) (op : EngineId) : State :=
  match s.pkg.engineFaults.find? (·.op == op) with
  | none => s
  | some f => (s.onPkg fun p => { p with engineFaults := p.engineFaults.filter (·.op != op) }).onCore f.core fun c => if c.hMatches f.token then c.freeCell (hCell f.token) else c

/-- The faults of the request group that is retried: a page that is resident now ends its group (R360). -/
def groupFaults (absent : List (Nat × Nat)) (page faults : Nat) : Nat := if absent.any (·.1 == page) then faults else 0

/-- An engine that meets V = 0 entries (R360): a kind-5 cell on the issuing core, and a batch with ENG = 1. None when no cell is
free. -/
def State.engineFault (s : State) (core : Nat) (op : EngineId) (a : Agent) (pages : List (Nat × Nat)) (acc : BitVec 3) : Option State :=
  match (s.coreOf core).alloc s.node Config.faultCells (Config.numCells - Config.faultCells) 5 1 255 with
  | none => none
  | some (h, c) =>
    some ((s.setCore c).onPkg fun p =>
      { p with
        engineFaults := p.engineFaults ++ [⟨core, op, h, ((sortPages pages).head?.map (·.1)).getD 0⟩]
        batches := p.batches ++ [{ token := h, pages := sortPages pages, sup := a.priv, acc := acc, eng := true, asid := asidOf a.ptroot, attempt := 0 }] })

/-! ## The strand of an operation -/

/-- The strand of a number on a core that `p` picks: the running one, or a suspended one. -/
def Core.findStrand (c : Core) (num : Nat) (p : Strand → Bool) : Option Strand :=
  if c.running && c.cur.num == num && p c.cur then some c.cur
  else (c.images.find? fun i => i.st.num == num && p i.st).map (·.st)

/-- Changing that strand. -/
def Core.onStrand (c : Core) (num : Nat) (p : Strand → Bool) (f : Strand → Strand) : Core :=
  if c.running && c.cur.num == num && p c.cur then { c with cur := f c.cur }
  else { c with images := c.images.map fun i => if i.st.num = num ∧ p i.st then { i with st := f i.st } else i }

/-- Its member index in its gang. -/
def Core.memberOf (c : Core) (t : Strand) : Nat := c.cid % Config.coresPerCluster % max t.sp.gangsz 1

/-- A strand of a core as an agent. -/
def Strand.agentOn (t : Strand) (core : Nat) : Agent := ⟨core, t.launch, t.sp.ptroot, t.priv⟩

end Sys2Proof.Machine
end

