-- ==== Sys2Proof/Machine/Stream.lean ====
section
/-! DEFINITION. Streams (R219-R222): bindings, fills and drains, and `STRIP` (R128), which advances them with its pointers and
sends row-activate hints (R323). -/

namespace Sys2Proof.Machine

/-! ## Bindings (R220, R221) -/

/-- Whether a strand has bound a register. -/
def Strand.bound (t : Strand) (r : BitVec 5) : Bool := t.bindings.any (·.reg == r)

/-- The binding of a register. -/
def Strand.binding (t : Strand) (r : BitVec 5) : Option Binding := t.bindings.find? (·.reg == r)

/-- Changing the binding of a register. -/
def Strand.onBinding (t : Strand) (r : BitVec 5) (f : Binding → Binding) : Strand :=
  { t with bindings := t.bindings.map fun b => if b.reg = r then f b else b }

/-- Bytes in which `n` elements of a binding lie. -/
def Binding.span (b : Binding) (n : Nat) : Nat := ceilDiv (b.bit + n * memWidth b.etype) 8

/-- A binding with its cursor `n` elements further on, u × e / 8 bytes without rounding (R221). DEDUCED: log 23. -/
def Binding.past (b : Binding) (n : Nat) : Binding :=
  let bits := b.bit + n * memWidth b.etype
  { b with cursor := adda b.cursor (BitVec.ofNat 64 (bits / 8)), bit := bits % 8, remaining := b.remaining - n }

/-- The next block of an in binding becomes current (R220, R221). -/
def Binding.block (b : Binding) (vl cols : Nat) : Binding :=
  { b with blockLen := min vl b.remaining, arrived := min vl b.remaining == 0, cols := cols, faults := 0, written := [], taken := [] }

/-- A register that holds a block: elements at and above its length read 0, BAND is 1.0, `bad` names the poisoned ones (R220,
R222). -/
def fillReg (b : Binding) (member : Nat) (data : List (Nat × Nat × Bool)) : VReg :=
  let w := width b.etype
  let cols := max b.cols 1
  let mine := data.filter fun x => memOf cols x.1 == member
  let ws := mine.foldl (fun (x : VWrite) q => x.add w (q.1 / cols % 32) (q.1 % cols) q.2.1) VWrite.none
  { data := ws.data
    valid := if ws.rows = 0 then 0 else ws.rows.toNat.log2 + 1
    dirty := ws.rows
    band := 0x3F80#16
    origin := addrOf b.cursor
    pitch := memWidth b.etype
    poison := mine.foldl (fun m q => if q.2.2 then
      m ||| BitVec.ofNat 8192 ((2 ^ max 1 (w / 4) - 1) * 2 ^ ((1024 * (q.1 / cols % 32) + w * (q.1 % cols)) / 4)) else m) 0 }

/-- A block under what local writes have put into its register since it became current (R220): the bits given stay. -/
def VReg.under (x old : VReg) (kept : BitVec 32768) : VReg :=
  if kept = 0 then x
  else
    { x with
      data := (x.data &&& ~~~kept) ||| (old.data &&& kept)
      valid := max x.valid old.valid
      dirty := x.dirty ||| old.dirty
      band := old.band
      poison := (x.poison &&& ~~~nibbles kept) ||| (old.poison &&& nibbles kept) }

/-- The strand with the current block of a binding in its register, on every member. The spec does not say what a bank that is not ON does
then: it becomes ON as by a wake, with no wait (DESIGN CHOICE, log 109). -/
def Strand.fill (t : Strand) (own : Nat) (b : Binding) (data : List (Nat × Nat × Bool)) : Strand :=
  let t := (t.wake [b.reg]).2
  { (t.setFiles own ((t.files own).zipIdx.map fun (f, i) => f.setV b.reg ((fillReg b i data).under (f.getV b.reg) (b.written[i]?.getD 0)))).onBinding
      b.reg fun x => { x with arrived := true, written := [], taken := [] } with
    vdead := t.vdead &&& ~~~(1#32 <<< b.reg.toNat) }

/-- The checks of R223 on the run of bytes of a binding: FORMAT has been checked. -/
def State.bindCheck (s : State) (k : AccKind) (va align bytes : Nat) : Option (BitVec 8) :=
  if 14 ≤ region va then some 0x07
  else if va % align ≠ 0 then some 0x04
  else if isGlobal va then none
  else if 2 ^ 23 < bytes ∨ s.runDenied s.agent k va bytes then some 0x06
  else none

/-- `sbind` (R220). -/
def execSbind (st : Bool) (d a b : BitVec 5) (s : State) : Out :=
  issue st 4 { g := [a, b], vnew := [d] }
    (fun s =>
      let x := s.rg a
      let y := s.rg b
      let n := (y.extractLsb' 0 32).toNat
      let e := memWidth s.vt
      let out := y.getLsbD 63
      if !s.plainTag x 0 then s.badFormat x
      else
        match s.bindCheck (if out then .write else .read) (addrOf x) (elAlign e) (ceilDiv (n * e) 8) with
        | some c => s.raise c (infoAt (addrOf x))
        | none =>
          if s.cur.bound d ∨ 4 ≤ s.cur.bindings.length ∨ n = 0 ∨ y.extractLsb' 32 31 ≠ 0 then s.raise 0x14 0
          else if 8 ≤ s.core.channels then .wait s .engine
          else
            let bd : Binding :=
              { reg := d, out := out, etype := s.vt, cols := s.vcols, cursor := x, bit := 0, remaining := n, blockLen := 0, arrived := true,
                drains := 0, failed := 0, faults := 0, written := [], taken := [] }
            let bd := if out then bd else bd.block s.vl s.vcols
            let own := s.own
            let begun := fun (t : Strand) => if !out && bd.blockLen == 0 then t.fill own bd [] else t
            .ok ((s.onCur fun t => begun { t with bindings := t.bindings ++ [bd] }).onFocus fun c => { c with channels := c.channels + 1 })) s

/-- The drains of a binding that has ended take its token and its failure (R221, R222). -/
def endDrains (num : Nat) (handler : Bool) (r : BitVec 5) (h : Word) (failed : BitVec 8) (l : List Drain) : List Drain :=
  l.map fun d => if d.strand = num ∧ d.handler = handler ∧ d.reg = r ∧ d.last = false then { d with token := h, last := true, failed := failed } else d

/-- A binding's token is signalled, or failed with the code of a drain that could not be performed (R222). -/
def State.endToken (s : State) (h : Word) (failed : BitVec 8) : State := if failed = 0 then s.signalTo h else s.failTo h failed

/-- `sunb` (R221). -/
def execSunb (st : Bool) (d a : BitVec 5) (s : State) : Out :=
  issue st 4 { vref := [a] }
    (fun s =>
      match s.cur.binding a with
      | none => .ok (s.wg d 0)
      | some b =>
        match s.allocCell 1 1 with
        | none => .wait s .engine
        | some (h, s) =>
          let s := (s.onCur fun t => { t with bindings := t.bindings.filter (·.reg != a) }).wg d h
          if b.drains = 0 then .ok ((s.onFocus fun c => { c with channels := c.channels - 1 }).endToken h b.failed)
          else .ok (s.onFocus fun c => { c with drains := endDrains s.cur.num s.cur.handler.isSome a h b.failed c.drains })) s

/-- `sq` (R219). -/
def execSq (st : Bool) (d a : BitVec 5) (s : State) : Out :=
  issue st 4 { vref := [a] }
    (fun s => .ok (s.wg d (match s.cur.binding a with
      | none => 0
      | some b => BitVec.ofNat 64 (2 ^ 63 + (if b.out then 2 ^ 62 else 0) + b.remaining)))) s

/-! ## STRIP (R128) -/

/-- Element bits that a pointer's tag gives for `STRIP`, or none for FORMAT. -/
def State.stripBits (s : State) (x : Word) : Option Nat :=
  if tagBlk (ptrTag x) ≠ 0 then none
  else if ptrFmt x = 0 then some s.vw
  else if isType (ptrFmt x) then some (memWidth (ptrFmt x))
  else none

/-- A hint for a line joins the queue of its stack's controller, which drops it when it holds 16 (R323). -/
def Die.hinted (d : Die) (l : Nat) : Die :=
  if 16 ≤ (d.hints.filter fun h => h / 2 ^ 36 == 64 * l / 2 ^ 36).length then d else { d with hints := d.hints ++ [64 * l] }

/-- The row-activate hint of an advanced pointer (R323): the line of a global address homed in HBM. -/
def State.hint (s : State) (p : Word) : State :=
  match s.lineOf (addrOf p) with
  | some l => if s.inHbm (64 * l) then s.onDie (homeDie (64 * l)) (·.hinted l) else s
  | none => s

/-- One pointer advanced over `t` elements. -/
def State.advance (s : State) (t : Nat) (r : BitVec 5) : State :=
  let x := s.rg r
  let p := adda x (BitVec.ofNat 64 (ceilDiv (t * (s.stripBits x).getD 0) 8))
  (s.wg r p).hint p

/-- A bit set in each bit of element `i` of `e` bits, over the bytes of `n` elements. -/
def packBits (e : Nat) (xs : List Nat) : Nat := xs.foldr (fun x acc => x % 2 ^ e + 2 ^ e * acc) 0

/-- The drain of `u` elements of an out binding, as the register stands (R221). -/
def State.drainOf (s : State) (b : Binding) (u : Nat) : Drain :=
  let e := memWidth b.etype
  let w := width b.etype
  let js := List.range u
  let n := b.span u
  { strand := s.cur.num, handler := s.cur.handler.isSome, reg := b.reg, launch := s.cur.launch, ptroot := s.cur.sp.ptroot, priv := s.cur.priv, addr := b.cursor
    data := leBytes n (2 ^ b.bit * packBits e (js.map fun j => s.elt b.reg w j)), mask := leBytes n (2 ^ b.bit * (2 ^ (e * u) - 1))
    poisoned := !(s.badElems b.reg w js).isEmpty, token := 0, last := false, failed := 0, faults := 0 }

/-- One binding advanced by `t` elements (R221). -/
def State.advanceBinding (s : State) (t vl : Nat) (b : Binding) : State :=
  let u := min t b.remaining
  let next := b.past u
  if b.out then
    if u = 0 then s
    else
      (s.onCur fun c => c.onBinding b.reg fun _ => { next with drains := b.drains + 1 }).onFocus fun c => { c with drains := c.drains ++ [s.drainOf b u] }
  else
    let next := next.block vl s.vcols
    let o := s.own
    if next.blockLen = 0 then s.onCur fun c => (c.onBinding b.reg fun _ => next).fill o next []
    else s.onCur fun c => c.onBinding b.reg fun _ => next

/-- The pointers of a `STRIP` word. -/
def stripRegs (e f g h n : BitVec 3) : List (BitVec 5) := ([e, f, g, h].take n.toNat).map fun p => 1#2 ++ p

/-- `strip` (R128, R221). -/
def execStrip (st : Bool) (d a : BitVec 5) (e f g h n : BitVec 3) (s : State) : Out :=
  let rs := stripRegs e f g h n
  issue st 4 { g := a :: rs }
    (fun s =>
      match rs.find? fun r => (s.stripBits (s.rg r)).isNone with
      | some r => s.badFormat (s.rg r)
      | none =>
        let x := (s.rg a).toNat
        let t := min s.vl x
        let rest := x - t
        let vl := min rest (s.vrows * s.vcols)
        let s := rs.foldl (fun s r => s.advance t r) s
        let s := s.cur.bindings.foldl (fun s b => s.advanceBinding t vl b) s
        .ok ((s.onSp fun p => { p with vl := vl }).wg d (BitVec.ofNat 64 rest))) s

/-! ## Fills and drains (R220-R222) -/

/-- The accesses of the current block of an in binding. -/
def Binding.fillEls (b : Binding) : List VEl :=
  let e := memWidth b.etype
  (List.range b.blockLen).map fun i => elAt (addrOf b.cursor) ((b.bit + i * e : Nat) : Int) e i

/-- The elements of the current block that have not been read. -/
def Binding.left (b : Binding) : List VEl := b.fillEls.filter fun x => !b.taken.any fun y => y.1 == x.j

/-- The elements whose accesses start in the engine granule of one of them, a free choice: an engine accesses its granules in no order
(R203, R380). -/
def State.fillPart (s : State) (ag : Agent) (els : List VEl) : List VEl :=
  match els[Config.freeWait s.free % max els.length 1]? with
  | none => els
  | some x => let g := s.granuleAt ag x.va; els.filter fun y => y.va / g == x.va / g

/-- Elements of the current block of an in binding read; data that cannot be had becomes poisoned elements (DEDUCED: log 45). When it was
the last of them, the block is placed. -/
def State.fillNow (s : State) (core num : Nat) (t : Strand) (b : Binding) (failed : Bool) : State :=
  let ag := t.agentOn core
  let els := if failed then b.left else s.fillPart ag b.left
  let s := { s.touchHomes (els.flatMap fun x => s.elHomes ag .read x.va x.n) with free := s.free + 1 }
  let data := b.taken ++ els.map fun x =>
    if failed || s.elAny ag .read (!·.isAt) x then (x.j, 0, true) else (x.j, s.readEl ag (memWidth b.etype) x, (s.elBad ag x).isSome)
  s.onCore core fun c => c.onStrand num (fun t => t.bound b.reg) fun t =>
    if b.blockLen ≤ data.length then t.fill (c.memberOf t) b data else t.onBinding b.reg fun x => { x with taken := data }

/-- The pages of the current block that are not resident. -/
def State.fillAbsent (s : State) (ag : Agent) (b : Binding) : List (Nat × Nat) := s.runAbsent ag .read (addrOf b.cursor) (b.span b.blockLen)

/-- Whether the current block lies behind a link that retrains (R430). -/
def State.fillHeld (s : State) (ag : Agent) (b : Binding) : Bool :=
  !s.pkg.links.isEmpty && s.runHeld ag .read (addrOf b.cursor) (b.span b.blockLen)

/-- STREAM_FILL_ARRIVAL (R220, R222, R360): a granule of the block arrives once its pages are resident; when the page service refuses, the
rest arrives poisoned. -/
def State.evFill (s : State) (core num : Nat) (r : BitVec 5) : Option State :=
  match (s.coreOf core).findStrand num fun t => t.bound r with
  | none => none
  | some t =>
    match t.binding r with
    | none => none
    | some b =>
      if b.out || b.arrived || s.engineStop then none
      else
        let absent := s.fillAbsent (t.agentOn core) b
        match s.serviced (.fill core num r) with
        | .waiting => none
        | .failed s => some (s.fillNow core num t b true)
        | .clear => if absent.isEmpty && !s.fillHeld (t.agentOn core) b then some (s.fillNow core num t b false) else none
        | .retry s page =>
          if absent.isEmpty && !s.fillHeld (t.agentOn core) b then some (s.fillNow core num t b false)
          else some (s.onCore core fun c => c.onStrand num (fun t => t.bound r) fun t => t.onBinding r fun b => { b with faults := groupFaults absent page b.faults })

/-- The bytes of a drain merged into those in memory. -/
def mergeBytes : List Byte → List Byte → List Byte → List Byte
  | o :: os, d :: ds, m :: ms => ((o &&& ~~~m) ||| (d &&& m)) :: mergeBytes os ds ms
  | _, _, _ => []

/-- A drain leaves the list of its core: its binding counts it, or the token of the ended binding is signalled or failed after
the last one, and the channel of the ended binding is free (R221, R222). -/
def State.drainDone (s : State) (core i : Nat) (d : Drain) (code : BitVec 8) : State :=
  let s := s.onCore core fun c => { c with drains := c.drains.eraseIdx i }
  let code := if d.failed = 0 then code else d.failed
  if d.last then
    let same := fun (x : Drain) => x.last && x.strand == d.strand && x.handler == d.handler && x.reg == d.reg && x.token == d.token
    if (s.coreOf core).drains.any same then
      s.onCore core fun c => { c with drains := c.drains.map fun x => if same x ∧ x.failed = 0 then { x with failed := code } else x }
    else
      let s := s.onCore core fun c => { c with channels := c.channels - 1 }
      if d.token = 0 then s else s.endToken d.token code
  else
    s.onCore core fun c => c.onStrand d.strand (fun t => t.bound d.reg && t.handler.isSome == d.handler) fun t =>
      t.onBinding d.reg fun b => { b with drains := b.drains - 1, failed := if b.failed = 0 then code else b.failed }

/-- The agent of a drain. -/
def Drain.agent (d : Drain) (core : Nat) : Agent := ⟨core, d.launch, d.ptroot, d.priv⟩

/-- The bytes of a drain that are still to be stored, by their offsets. -/
def Drain.rest (d : Drain) : List Nat := (List.range d.data.length).filter fun i => d.mask[i]?.getD 0 != 0

/-- The bytes of a drain that lie in the engine granule of one of those not yet stored, a free choice (R203, R380): offset and length. -/
def State.drainPart (s : State) (ag : Agent) (d : Drain) : Nat × Nat :=
  let va := addrOf d.addr
  let i := d.rest[Config.freeWait s.free % max d.rest.length 1]?.getD 0
  let g := s.granuleAt ag ((va + i) % 2 ^ 56)
  let from_ := i - min i ((va + i) % g)
  (from_, min (d.data.length - from_) (i + g - (va + i) % g - from_))

/-- A granule of a drain stored, after which the drain is over when it was the last: poisoned data marks its lines and fails the token with
POISON, a target that cannot be reached fails it with UNREACHABLE. None while a dump holds the store back. -/
def State.drainNow (s : State) (core i : Nat) (d : Drain) : Option State :=
  let ag := d.agent core
  let va := addrOf d.addr
  let n := d.data.length
  if s.runHeld ag .write va n then none
  else if s.runUnreachable ag .write va n || s.runDenied ag .write va n then some (s.drainDone core i d 4)
  else
    let (o, k) := s.drainPart ag d
    let at_ := (va + o) % 2 ^ 56
    let (t, old, _) := s.engineRead ag at_ k .write
    let t := { t.engineWrite ag at_ (mergeBytes old ((d.data.drop o).take k) ((d.mask.drop o).take k)) d.poisoned with free := s.free + 1 }
    let d' := { d with mask := d.mask.zipIdx.map fun p => if o ≤ p.2 ∧ p.2 < o + k then 0 else p.1 }
    if d'.rest.isEmpty then some (t.drainDone core i d (if d.poisoned then 3 else 0))
    else some (t.onCore core fun c => { c with drains := c.drains.set i d' })

/-- The pages of a drain that are not resident. -/
def State.drainAbsent (s : State) (core : Nat) (d : Drain) : List (Nat × Nat) :=
  s.runAbsent (d.agent core) .write (addrOf d.addr) d.data.length

/-- STREAM_DRAIN_COMPLETE (R221, R222, R360). -/
def State.evDrain (s : State) (core i : Nat) : Option State :=
  match (s.coreOf core).drains[i]? with
  | none => none
  | some d =>
    let absent := s.drainAbsent core d
    match s.serviced (.drain core d.strand d.reg) with
    | .waiting => none
    | .failed s => some (s.drainDone core i d 4)
    | .clear => if absent.isEmpty && !s.engineStop then s.drainNow core i d else none
    | .retry s page =>
      if absent.isEmpty then s.drainNow core i d
      else some (s.onCore core fun c => { c with drains := c.drains.modify i fun d => { d with faults := groupFaults absent page d.faults } })

end Sys2Proof.Machine
end

