-- ==== Sys2Proof/Machine/Barrier.lean ====
section
/-! DEFINITION. Barrier cells (R288-R290, R299) and gangs (R291, R292). -/

namespace Sys2Proof.Machine

/-! ## Barrier cells (R288) -/

/-- LEVEL and INDEX of a barrier value in range, every other bit zero (R288). -/
def barOf (x : Word) : Option (Nat × Nat) :=
  let l := (x.extractLsb' 8 2).toNat
  let i := (x.extractLsb' 0 8).toNat
  if x.extractLsb' 10 54 = 0 ∧ l < 3 ∧ i < (if l = 1 then 256 else 64) then some (l, i) else none

/-- First cell and count of BARGRANT at a level (R387). -/
def barRange (g : Word) (level : Nat) : Nat × Nat :=
  match level with
  | 0 => ((g.extractLsb' 0 6).toNat, (g.extractLsb' 6 7).toNat)
  | 1 => ((g.extractLsb' 13 8).toNat, (g.extractLsb' 21 9).toNat)
  | _ => ((g.extractLsb' 30 6).toNat, (g.extractLsb' 36 7).toNat)

/-- Whether a launch is granted a barrier cell (R387): in a cluster where it was never placed it is granted none of that level. -/
def State.barGranted (s : State) (l : Option Nat) (level i : Nat) : Bool :=
  match l with
  | none => true
  | some n =>
    match s.launchOf n with
    | none => false
    | some x =>
      let r := barRange x.bargrant level
      (level != 0 || x.cores.any fun c => clusterOf c == clusterOf s.core.cid) && (x.bargrant == 0 || (decide (r.1 ≤ i) && decide (i < r.1 + r.2)))

/-- The cluster, die or package of a core at a level. -/
def barUnit (core level : Nat) : Nat :=
  match level with
  | 0 => clusterOf core
  | 1 => dieOf core
  | _ => 0

/-- The cells of a unit that are not in their reset state. -/
def State.barsOf (s : State) (level unit : Nat) : List (Nat × BarCell) :=
  match level with
  | 0 => (s.clusterAt unit).bars
  | 1 => (s.dieAt unit).bars
  | _ => s.pkg.bars

/-- A barrier cell. -/
def State.bar (s : State) (level unit i : Nat) : BarCell := ((s.barsOf level unit).find? (·.1 == i)).elim BarCell.reset (·.2)

/-- Replacing a cell in a list of cells. -/
def putBar (i : Nat) (c : BarCell) (l : List (Nat × BarCell)) : List (Nat × BarCell) := (i, c) :: l.filter (·.1 != i)

/-- Replacing a barrier cell. -/
def State.setBar (s : State) (level unit i : Nat) (c : BarCell) : State :=
  match level with
  | 0 => s.onCluster unit fun x => { x with bars := putBar i c x.bars }
  | 1 => s.onDie unit fun x => { x with bars := putBar i c x.bars }
  | _ => s.onPkg fun x => { x with bars := putBar i c x.bars }

/-- The barrier that a register names, with CLUSTER_CFG for any other value (R288). -/
def State.withBar (s : State) (x : Word) (body : Nat → Nat → Nat → Res) : Res :=
  match barOf x with
  | none => s.raise 0x17 0
  | some (l, i) => if s.barGranted s.cur.launch l i then body l (barUnit s.core.cid l) i else s.raise 0x17 0

/-! ## `bara` and `barq` (R289) -/

/-- `bara` (R289): the arrival travels to its cell. -/
def execBara (st : Bool) (d a b : BitVec 5) (s : State) : Out :=
  issue st 4 { g := [a, b] }
    (fun s =>
      let n := (s.rg b).toNat
      s.withBar (s.rg a) fun l u i =>
        if n = 0 ∨ 65535 < n then s.raise 0x17 0
        else
          match s.allocCell 2 1 with
          | none => .wait s .engine
          | some (h, s) =>
            let due := if l = 0 then some (s.core.cycle + 4) else none
            .ok ((s.post due (.barrier l u i n h s.cur.launch)).wg d h)) s

/-- What `barq` reads of a cell (R289). -/
def BarCell.query (c : BarCell) : Word := 0#16 ++ (c.phase ++ (BitVec.ofNat 16 c.n ++ BitVec.ofNat 16 c.arrivals.length))

/-- `barq` (R289): the wait for the cell's answer is of unstated length (DEDUCED, log 25). -/
def execBarq (st : Bool) (d a : BitVec 5) (s : State) : Out :=
  issue st 4 { g := [a] } (fun s => s.withBar (s.rg a) fun l u i => .ok ((s.freeStall .bank).wg d (s.bar l u i).query)) s

/-! ## Arrivals at a cell (R289, R290) -/

/-- The answer of a cell to the core of a token: 4 cycles after the arrival at cluster level, else unstated (R289, R326). -/
def State.barAnswer (s : State) (level : Nat) (at_ : Nat) (h : Word) (body : MsgBody) : State :=
  match hCore h with
  | none => s
  | some c => s.postAt c (if level = 0 then some (at_ + 4) else none) body

/-- One arrival applied at its cell in a cycle (R289). -/
def State.barArrive (s : State) (level unit i n : Nat) (h : Word) (launch : Option Nat) (at_ : Nat) : State :=
  let c := s.bar level unit i
  if c.n ≠ 0 ∧ c.n ≠ n then s.barAnswer level at_ h (.fail h 0x30)
  else
    let arr := c.arrivals ++ [(h, launch)]
    if arr.length = n then
      arr.foldl (fun s p => s.barAnswer level at_ p.1 (.signal p.1)) (s.setBar level unit i { phase := c.phase + 1, n := 0, arrivals := [] })
    else s.setBar level unit i { c with n := n, arrivals := arr }

/-- BARRIER_ARRIVAL (R289): message `i` in flight reaches its cell. -/
def State.evBarrier (s : State) (i : Nat) : Option State :=
  match s.flight[i]? with
  | none => none
  | some m =>
    match m.body with
    | .barrier l u c n h launch =>
      if s.arrived m && !s.msgHeld m then some (({ s with flight := s.flight.eraseIdx i }).barArrive l u c n h launch (m.due.getD 0)) else none
    | _ => none

/-- BARRIER_CELL_ERROR (R299): the phase's pending arrivals fail with BAR_LOST, and the cell is IDLE. -/
def State.evBarError (s : State) (level unit cell : Nat) : Option State :=
  let ok := (decide (level = 0) && decide (unit < 96) && decide (cell < 64)) || (decide (level = 1) && decide (unit < 4) && decide (cell < 256)) ||
    (decide (level = 2) && decide (unit = 0) && decide (cell < 64))
  if !ok then none
  else
    let c := s.bar level unit cell
    if c.n = 0 then some s
    else some (c.arrivals.foldl (fun s p => s.barAnswer 1 0 p.1 (.fail p.1 0x31)) (s.setBar level unit cell { c with n := 0, arrivals := [] }))

/-- A cell without the arrivals of a launch (R290). -/
def BarCell.withoutLaunch (c : BarCell) (l : Nat) : BarCell :=
  let arr := c.arrivals.filter fun p => p.2 != some l
  if arr.length = c.arrivals.length then c else { c with arrivals := arr, n := if arr.isEmpty then 0 else c.n }

/-- The tokens of a launch's arrivals at the cells of a list. -/
def barTokens (l : Nat) (bs : List (Nat × BarCell)) : List Word := bs.flatMap fun p => (p.2.arrivals.filter fun a => a.2 == some l).map (·.1)

/-- Whether an arrival of a launch waits in a barrier cell. -/
def State.arrivalsWait (s : State) (l : Nat) : Bool :=
  (s.clusters.any fun c => !(barTokens l c.bars).isEmpty) || (s.dies.toList.any fun d => !(barTokens l d.bars).isEmpty) || !(barTokens l s.pkg.bars).isEmpty

/-- A cancelled launch's pending arrivals are removed and fail with CANCELLED, those still travelling with them (R290). -/
def State.dropArrivals (s : State) (l : Nat) : State :=
  let trav := fun (m : Msg) => match m.body with
    | .barrier _ _ _ _ h x => if x = some l then [h] else []
    | _ => []
  let hs := (s.clusters.flatMap fun c => barTokens l c.bars) ++ (s.dies.toList.flatMap fun d => barTokens l d.bars) ++ barTokens l s.pkg.bars ++
    s.flight.flatMap trav
  let f := fun (bs : List (Nat × BarCell)) => bs.map fun p => (p.1, p.2.withoutLaunch l)
  let s := { s with
    clusters := s.clusters.map fun c => { c with bars := f c.bars }
    dies := Vector.ofFn fun i => let d := s.dies[i]; { d with bars := f d.bars }
    pkg := { s.pkg with bars := f s.pkg.bars }
    flight := s.flight.filter fun m => (trav m).isEmpty }
  hs.foldl (fun s h => s.barAnswer 1 0 h (.fail h 5)) s

/-! ## Gangs (R291) -/

/-- Whether a core may become a partner (R291): the dispatcher has reserved the cores on which a launch holds a position. DEDUCED: log 66. -/
def State.coreFree (s : State) (core : Nat) : Bool :=
  let c := s.coreOf core
  !c.running && c.images.isEmpty && c.gangHead.isNone && c.inService && !s.pkg.launches.any (·.holds core)

/-- The other cores of the block of `g` cores that holds a core. -/
def blockOf (core g : Nat) : List Nat :=
  let first := core - core % Config.coresPerCluster % g
  ((List.range g).map (first + ·)).filter (· != core)

/-- The largest size of a gang among those given whose block is available, or 1 (R291). -/
def State.gangSize (s : State) : List Nat → Nat
  | [] => 1
  | g :: gs => if (blockOf s.core.cid g).all s.coreFree then g else s.gangSize gs

/-- The sizes that are tried for a request. -/
def gangSizes (x : Nat) : List Nat := [16, 8, 4, 2].filter (· ≤ x)

/-- A gang of `g` cores is granted (R291). -/
def State.joinGang (s : State) (g : Nat) : State :=
  let s := (blockOf s.core.cid g).foldl (fun s c => s.onCore c fun x => { x with gangHead := some s.core.cid }) s
  s.onCur fun t => { t with partners := List.replicate (g - 1) VFile.reset, sp := { t.sp with gangsz := g } }

/-- `gang` (R291). -/
def execGang (st : Bool) (d a : BitVec 5) (s : State) : Out :=
  issue st 4 { g := [a] }
    (fun s =>
      let x := (s.rg a).toNat
      if ¬(x = 2 ∨ x = 4 ∨ x = 8 ∨ x = 16) ∨ 1 < s.cur.sp.gangsz then s.raise 0x17 0
      else
        let g := s.gangSize (gangSizes x)
        if g = 1 then .ok (s.wg d 1) else .ok (((s.stall .engine 16).joinGang g).wg d (BitVec.ofNat 64 g))) s

/-- A strand without its gang: GANGSZ 1, VROWS and VL clamped (R77, R291). -/
def Strand.alone (t : Strand) : Strand :=
  let rows := min t.sp.vrows 32
  { t with partners := [], sp := { t.sp with gangsz := 1, vrows := rows, vl := min t.sp.vl (rows * t.sp.vcols) } }

/-- `ungang` (R291). -/
def execUngang (st : Bool) (s : State) : Out :=
  issue st 4 {} (fun s => .ok (if s.cur.sp.gangsz ≤ 1 then s else (s.freeGang s.cur).onCur (·.alone))) s

/-! ## The instructions of the device -/

/-- BARRIER_ARRIVAL (R289). -/
def execBarrierArrival (i : Nat) (s : State) : Out := evOut "BARRIER_ARRIVAL" (s.evBarrier i)
/-- BARRIER_CELL_ERROR (R299). -/
def execBarrierCellError (level unit cell : Nat) (s : State) : Out := evOut "BARRIER_CELL_ERROR" (s.evBarError level unit cell)

end Sys2Proof.Machine
end

