-- ==== Sys2Proof/Machine/Chain.lean ====
section
/-! DEFINITION. The chain instructions of ordered items (R404-R407), the delivery of publications (R411), and the accounting
instructions (R184, R185). -/

namespace Sys2Proof.Machine

/-! ## Chain instructions (R404-R407) -/

/-- CHAIN_CFG of a strand that is not an item (R400); a Couloir operation of a handler is a double trap (R254). -/
def State.asItem (s : State) (k : Launch → ItemState → Res) : Res :=
  match s.orderedOf s.cur with
  | none => s.raise 0x1D 0
  | some l =>
    match l.item s.cur.itemIx with
    | none => s.raise 0x1D 0
    | some i => k l i

/-- The item of the running strand with its launch, when it is one that has not closed its chain. -/
def State.openItem (s : State) : Option Launch :=
  (s.orderedOf s.cur).filter fun l => (l.item s.cur.itemIx).any fun i => !i.closed

/-- Whether `pub` of a register waits for its forwarding slot (R401). -/
def State.pubWaits (s : State) (a : BitVec 5) : Bool :=
  s.openItem.any fun l => l.carries a && (l.pub s.cur.itemIx a).isNone && !l.slotFree s.cur.itemIx a

/-- Whether `cadv` waits for a forwarding slot (R401, R405). -/
def State.cadvWaits (s : State) : Bool := s.openItem.any fun l => !l.canClose s.cur.itemIx

/-- The registers that `cadv` would publish (R405). -/
def State.cadvReads (s : State) : List (BitVec 5) :=
  match s.openItem with
  | some l => l.unpublished s.cur.itemIx
  | none => []

/-- `pub` (R404, R405): an `a` outside 16-23 is ILLEGAL. -/
def execPub (st : Bool) (d a : BitVec 5) (s : State) : Out :=
  if a.toNat < 16 ∨ 23 < a.toNat then issue st 4 {} State.illegal s
  else
    issue st 4 { g := [a], holds := fun s => s.pubWaits a }
      (fun s => s.asItem fun l i =>
        let j := s.cur.itemIx
        if !l.carries a then s.raise 0x1D 0
        else if i.closed || (l.pub j a).isSome then .ok (s.wg d 1)
        else if l.slotFree j a then .ok ((s.publish l j a (s.rg a) false).wg d 0)
        else .wait s .chain) s

/-- `cadv` (R405): it waits until every publication that it makes finds its slot free, and for the latencies of the registers that it publishes
(R91). DEDUCED: log 54. -/
def execCadv (st : Bool) (s : State) : Out :=
  issue st 4 { holds := State.cadvWaits, glate := s.cadvReads }
    (fun s => s.asItem fun l i =>
      if i.closed then .ok s
      else if l.canClose s.cur.itemIx then .ok (s.closeChain s.cur l false)
      else .wait s .chain) s

/-- The answer of `item` for a launch (R406). -/
def Launch.answer (l : Launch) (x : Nat) : Word :=
  match x with
  | 1 => BitVec.ofNat 64 l.lowest
  | 2 => BitVec.ofNat 64 l.highest
  | 3 => match (if l.ordered then l.earlyExit else none) with
    | some t => BitVec.ofNat 64 t
    | none => BitVec.allOnes 64
  | 4 => BitVec.ofNat 64 l.items
  | _ => BitVec.allOnes 64

/-- `item` (R406). A strand without a launch gets all ones but for its ITEM (DESIGN CHOICE, log 12). -/
def execItem (st : Bool) (d a : BitVec 5) (s : State) : Out :=
  issue st 4 { g := [a] }
    (fun s =>
      let x := (s.rg a).toNat
      if x = 0 then .ok (s.wg d s.cur.sp.item)
      else
        let s := if x ≤ 3 then s.freeStall .chain else s
        .ok (s.wg d (match s.cur.launch.bind s.launchOf with
          | some l => l.answer x
          | none => BitVec.allOnes 64))) s

/-- The report of `cxq` on item j - k (R407). -/
def State.chainReport (s : State) (l : Launch) (i : ItemState) (j : Nat) (r : BitVec 5) (k : Nat) : Word :=
  let p := if j < k then none else l.pub (j - k) r
  let here := match p with
    | some p => s.chainHere p
    | none => false
  let early := match p with
    | some p => p.early
    | none => false
  (if decide (j < k) || here then 1 else 0) + (if early then 2 else 0) + (if j < k then 4 else 0) +
    (if i.closed || decide (i.cur r < k) then 8 else 0) + (if decide (k ≤ j) && p.isNone && l.isLost (j - k) then 16 else 0)

/-- The register that a selector of `cxq` names (R407). -/
def cxqReg (x : Word) : BitVec 5 := 16#5 + (x.extractLsb' 0 3).setWidth 5
/-- The distance that a selector of `cxq` names. -/
def cxqDist (x : Word) : Nat := (x.extractLsb' 4 2).toNat
/-- Whether a launch refuses a selector of `cxq`. -/
def Launch.cxqBad (l : Launch) (x : Word) : Bool := (x &&& ~~~0x137#64) != 0 || cxqDist x == 0 || !l.carries (cxqReg x)

/-- Whether `cxq` with a selector waits, as a chain read does (R402, R407). -/
def State.cxqWaits (s : State) (x : Word) : Bool :=
  s.openItem.any fun l => (l.item s.cur.itemIx).any fun i =>
    x.getLsbD 8 && !l.cxqBad x && decide (cxqDist x ≤ i.cur (cxqReg x)) && (s.chainReport l i s.cur.itemIx (cxqReg x) (cxqDist x) &&& 0x11) == 0

/-- `cxq` (R407). -/
def execCxq (st : Bool) (d a : BitVec 5) (s : State) : Out :=
  issue st 4 { g := [a], holds := fun s => s.cxqWaits (s.rg a) }
    (fun s => s.asItem fun l i =>
      let x := s.rg a
      if l.cxqBad x then s.raise 0x1D 0
      else if s.cxqWaits x then .wait s .chain
      else .ok (s.wg d (s.chainReport l i s.cur.itemIx (cxqReg x) (cxqDist x)))) s

/-- COULOIR_PUBLICATION_DELIVERY (R411): a publication reaches the readers on a core. -/
def State.evPublication (s : State) (i : Nat) : Option State :=
  match s.flight[i]? with
  | none => none
  | some m =>
    match m.body with
    | .publication l j r c =>
      if s.arrived m && !s.msgHeld m && !(s.flight.take i).any (·.before m) then
        let s := { s with flight := s.flight.eraseIdx i }
        some (s.onLaunch l fun l =>
          { l with pubs := l.pubs.map fun (p : Pub) => if p.item = j ∧ p.reg = r then { p with reached := c :: p.reached } else p })
      else none
    | _ => none

/-- COULOIR_PUBLICATION_DELIVERY (R411). -/
def execCouloirPublicationDelivery (i : Nat) (s : State) : Out := evOut "COULOIR_PUBLICATION_DELIVERY" (s.evPublication i)

/-! ## Accounting (R184, R185) -/

/-- The sum of sixteen counters. -/
def sumCounters {w : Nat} (v : Vector (BitVec w) 16) : Nat := v.toList.foldl (fun n x => n + x.toNat) 0

/-- What `acctrd` reads with selector x (R185). -/
def State.acctValue (s : State) (x : Word) : Word :=
  if x.extractLsb' 9 55 ≠ 0 ∨ x.extractLsb' 5 3 ≠ 0 then 0
  else
    let c := (x.extractLsb' 0 4).toNat
    if x.getLsbD 8 then BitVec.ofNat 64 (if x.getLsbD 4 then sumCounters s.core.acct else (s.core.acct[c]?.getD 0).toNat)
    else BitVec.ofNat 64 ((if x.getLsbD 4 then sumCounters s.cur.counters else (s.cur.counters[c]?.getD 0).toNat) % 2 ^ 48)

/-- `acctrd` (R185). -/
def execAcctrd (st : Bool) (d a : BitVec 5) (s : State) : Out :=
  issue st 4 { g := [a] } (fun s => .ok (s.wg d (s.acctValue (s.rg a)))) s

/-- The completion of `mark` and `acctclr`: the run ends after their own slot (R184). -/
def State.endRun (s : State) (st : Bool) : Res := .left ((s.unwait.slot (s.cur.pc + 4)).closeRun.settleAfter st)

/-- A mark or clear record in exact mode (R184, R187): its PC is the instruction's own (DESIGN CHOICE, log 91). -/
def State.exactRecord (s : State) (type val : Nat) : State :=
  if s.core.exact then s.trace type 0 s.cur.num s.cur.pc.toNat val else s

/-- `mark` (R184). -/
def execMark (st : Bool) (a : BitVec 5) (s : State) : Out :=
  issue st 4 { g := [a] } (fun s => (s.exactRecord 2 ((s.rg a).extractLsb' 0 32).toNat).endRun st) s

/-- The counters of the causes that a mask names, cleared (R184). -/
def Strand.clearCounters (t : Strand) (x : Word) : Strand :=
  { t with counters := Vector.ofFn fun i => if x.getLsbD i.val then 0 else t.counters[i] }

/-- `acctclr` (R184): it clears before its own slot is charged. -/
def execAcctclr (st : Bool) (a : BitVec 5) (s : State) : Out :=
  issue st 4 { g := [a] }
    (fun s =>
      let x := s.rg a
      ((s.onCur (·.clearCounters x)).exactRecord 3 (x.extractLsb' 0 16).toNat).endRun st) s

end Sys2Proof.Machine
end

