-- ==== Sys2Proof/Machine/Scalar.lean ====
section
/-! DEFINITION. The scalar instructions (R90-R101): register-register and immediate operations, constants, comparisons, bit
fields and tagged pointers. -/

namespace Sys2Proof.Machine

/-! ## Shapes of scalar instructions -/

/-- A register-register word: d := f x y (R90). -/
def scalarRR (st : Bool) (d a b : BitVec 5) (k : BitVec 2) (n : Bool) (f : Word → Word → Word) (s : State) : Out :=
  issue st 4 (srcA a k [b]) (fun s => s.withA a k n fun x s => .ok (s.wg d (f x (s.rg b)))) s

/-- A register-register word with one operand: d := f x. -/
def scalarR (st : Bool) (d a : BitVec 5) (k : BitVec 2) (n : Bool) (f : Word → Word) (s : State) : Out :=
  issue st 4 (srcA a k []) (fun s => s.withA a k n fun x s => .ok (s.wg d (f x))) s

/-- A word with one register operand and an immediate: d := f x. -/
def scalarI (st : Bool) (d a : BitVec 5) (f : Word → Word) (s : State) : Out :=
  issue st 4 { g := [a] } (fun s => .ok (s.wg d (f (s.rg a)))) s

/-- A result that becomes readable `lat` cycles after the issue cycle (R91): no later read of the register sees it earlier. -/
def State.wgLate (s : State) (d : BitVec 5) (x : Word) (lat : Nat) : State :=
  let t := s.core.cycle + lat
  (s.wg d x).onCur fun c => if d = 0 then c else { c with gReady := (d, t) :: c.gReady }

/-- The multiplier is at work for 3 cycles (R91): a drain waits for it (R106). -/
def State.takeMultiplier (s : State) : State := s.onFocus fun c => { c with mulDone := c.cycle + 3 }

/-- A multiplication (R91, R94): latency 3. -/
def scalarMul (st : Bool) (d a b : BitVec 5) (k : BitVec 2) (n : Bool) (f : Word → Word → Word) (s : State) : Out :=
  issue st 4 (srcA a k [b]) (fun s => s.withA a k n fun x s => .ok (s.takeMultiplier.wgLate d (f x (s.rg b)) 3)) s

/-- The divider is taken for 26 cycles (R91). -/
def State.takeDivider (s : State) : State := s.onFocus fun c => { c with divBusy := c.cycle + 26 }

/-- A division (R91, R95): latency 26, one at a time. -/
def scalarDiv (st : Bool) (d a b : BitVec 5) (k : BitVec 2) (n : Bool) (f : Word → Word → Word) (s : State) : Out :=
  issue st 4 (srcA a k [b] true)
    (fun s => s.withA a k n fun x s => .ok (s.takeDivider.wgLate d (f x (s.rg b)) 26)) s

/-! ## Functions (R94, R95, R99-R101) -/

/-- High half of a signed product. -/
def mulHigh (x y : Word) : Word := BitVec.ofInt 64 (x.toInt * y.toInt / 2 ^ 64)
/-- High half of a natural product. -/
def mulHighN (x y : Word) : Word := BitVec.ofNat 64 (x.toNat * y.toNat / 2 ^ 64)
/-- Signed quotient (R95): 0 for a zero divisor. -/
def divS (x y : Word) : Word := if y = 0 then 0 else x.sdiv y
/-- Natural quotient (R95). -/
def divN (x y : Word) : Word := if y = 0 then 0 else x / y
/-- Signed remainder (R95): x for a zero divisor. -/
def remS (x y : Word) : Word := if y = 0 then x else x.srem y
/-- Natural remainder (R95). -/
def remN (x y : Word) : Word := if y = 0 then x else x % y
/-- Leading zero bits (R94). -/
def countLz (x : Word) : Word := BitVec.ofNat 64 (if x = 0 then 64 else 63 - x.toNat.log2)
/-- Trailing zero bits (R94). -/
def countTz (x : Word) : Word := BitVec.ofNat 64 (((List.range 64).find? fun i => x.getLsbD i).getD 64)
/-- One bits (R94). -/
def countOnes (x : Word) : Word := BitVec.ofNat 64 (popCount x)
/-- The width that `sext` and `zext` take from y (R94). -/
def extWidth (y : Word) : Nat := if y.extractLsb' 0 6 = 0 then 64 else (y.extractLsb' 0 6).toNat
/-- Sign extension from the low bits that y gives. -/
def signExt (x y : Word) : Word := (x <<< (64 - extWidth y)).sshiftRight (64 - extWidth y)
/-- Zero extension from the low bits that y gives. -/
def zeroExt (x y : Word) : Word := (x <<< (64 - extWidth y)) >>> (64 - extWidth y)
/-- The shift amount in y (R94). -/
def shAmt (y : Word) : Nat := (y.extractLsb' 0 6).toNat
/-- The lesser of two signed operands. -/
def minS (x y : Word) : Word := if x.slt y then x else y
/-- The greater of two signed operands. -/
def maxS (x y : Word) : Word := if x.slt y then y else x
/-- The lesser of two natural operands. -/
def minN (x y : Word) : Word := if x.ult y then x else y
/-- The greater of two natural operands. -/
def maxN (x y : Word) : Word := if x.ult y then y else x
/-- A truth value as a register value (R99). -/
def boolWord (b : Bool) : Word := if b then 1 else 0
/-- A field of `w` bits at `p`, zero-extended (R100). -/
def bitField (x : Word) (p w : Nat) : Word := (x >>> p) &&& BitVec.ofNat 64 (2 ^ w - 1)
/-- A field of `w` bits inserted at `p` (R100). -/
def bitInsert (d x : Word) (p w : Nat) : Word :=
  let m := BitVec.ofNat 64 (2 ^ w - 1)
  (d &&& ~~~(m <<< p)) ||| ((x &&& m) <<< p)
/-- `pdiff` (R101). -/
def ptrDiff (x y : Word) : Word := ((x - y).extractLsb' 0 56).signExtend 64
/-- `tagset` (R101). -/
def tagPut (x y : Word) : Word := y.extractLsb' 0 8 ++ x.extractLsb' 0 56

/-! ## Register-register operations (R94, R95) -/

/-- `add` (R94). -/
def execAdd (st : Bool) (d a b : BitVec 5) (k : BitVec 2) (n : Bool) (s : State) : Out :=
  scalarRR st d a b k n (· + ·) s

/-- `sub` (R94). -/
def execSub (st : Bool) (d a b : BitVec 5) (k : BitVec 2) (n : Bool) (s : State) : Out :=
  scalarRR st d a b k n (· - ·) s

/-- `and` (R94). -/
def execAnd (st : Bool) (d a b : BitVec 5) (k : BitVec 2) (n : Bool) (s : State) : Out :=
  scalarRR st d a b k n (· &&& ·) s

/-- `or` (R94). -/
def execOr (st : Bool) (d a b : BitVec 5) (k : BitVec 2) (n : Bool) (s : State) : Out :=
  scalarRR st d a b k n (· ||| ·) s

/-- `xor` (R94). -/
def execXor (st : Bool) (d a b : BitVec 5) (k : BitVec 2) (n : Bool) (s : State) : Out :=
  scalarRR st d a b k n (· ^^^ ·) s

/-- `andn` (R94). -/
def execAndn (st : Bool) (d a b : BitVec 5) (k : BitVec 2) (n : Bool) (s : State) : Out :=
  scalarRR st d a b k n (fun x y => x &&& ~~~y) s

/-- `orn` (R94). -/
def execOrn (st : Bool) (d a b : BitVec 5) (k : BitVec 2) (n : Bool) (s : State) : Out :=
  scalarRR st d a b k n (fun x y => x ||| ~~~y) s

/-- `shl` (R94). -/
def execShl (st : Bool) (d a b : BitVec 5) (k : BitVec 2) (n : Bool) (s : State) : Out :=
  scalarRR st d a b k n (fun x y => x <<< shAmt y) s

/-- `shr` (R94). -/
def execShr (st : Bool) (d a b : BitVec 5) (k : BitVec 2) (n : Bool) (s : State) : Out :=
  scalarRR st d a b k n (fun x y => x >>> shAmt y) s

/-- `sra` (R94). -/
def execSra (st : Bool) (d a b : BitVec 5) (k : BitVec 2) (n : Bool) (s : State) : Out :=
  scalarRR st d a b k n (fun x y => x.sshiftRight (shAmt y)) s

/-- `rot` (R94). -/
def execRot (st : Bool) (d a b : BitVec 5) (k : BitVec 2) (n : Bool) (s : State) : Out :=
  scalarRR st d a b k n (fun x y => x.rotateRight (shAmt y)) s

/-- `min` (R94). -/
def execMin (st : Bool) (d a b : BitVec 5) (k : BitVec 2) (n : Bool) (s : State) : Out :=
  scalarRR st d a b k n minS s

/-- `max` (R94). -/
def execMax (st : Bool) (d a b : BitVec 5) (k : BitVec 2) (n : Bool) (s : State) : Out :=
  scalarRR st d a b k n maxS s

/-- `minn` (R94). -/
def execMinn (st : Bool) (d a b : BitVec 5) (k : BitVec 2) (n : Bool) (s : State) : Out :=
  scalarRR st d a b k n minN s

/-- `maxn` (R94). -/
def execMaxn (st : Bool) (d a b : BitVec 5) (k : BitVec 2) (n : Bool) (s : State) : Out :=
  scalarRR st d a b k n maxN s

/-- `mul` (R91, R94). -/
def execMul (st : Bool) (d a b : BitVec 5) (k : BitVec 2) (n : Bool) (s : State) : Out :=
  scalarMul st d a b k n (· * ·) s

/-- `mulh` (R91, R94). -/
def execMulh (st : Bool) (d a b : BitVec 5) (k : BitVec 2) (n : Bool) (s : State) : Out :=
  scalarMul st d a b k n mulHigh s

/-- `mulhn` (R91, R94). -/
def execMulhn (st : Bool) (d a b : BitVec 5) (k : BitVec 2) (n : Bool) (s : State) : Out :=
  scalarMul st d a b k n mulHighN s

/-- `div` (R91, R95). -/
def execDiv (st : Bool) (d a b : BitVec 5) (k : BitVec 2) (n : Bool) (s : State) : Out :=
  scalarDiv st d a b k n divS s

/-- `divn` (R91, R95). -/
def execDivn (st : Bool) (d a b : BitVec 5) (k : BitVec 2) (n : Bool) (s : State) : Out :=
  scalarDiv st d a b k n divN s

/-- `rem` (R91, R95). -/
def execRem (st : Bool) (d a b : BitVec 5) (k : BitVec 2) (n : Bool) (s : State) : Out :=
  scalarDiv st d a b k n remS s

/-- `remn` (R91, R95). -/
def execRemn (st : Bool) (d a b : BitVec 5) (k : BitVec 2) (n : Bool) (s : State) : Out :=
  scalarDiv st d a b k n remN s

/-- `clz` (R94). -/
def execClz (st : Bool) (d a : BitVec 5) (k : BitVec 2) (n : Bool) (s : State) : Out :=
  scalarR st d a k n countLz s

/-- `ctz` (R94). -/
def execCtz (st : Bool) (d a : BitVec 5) (k : BitVec 2) (n : Bool) (s : State) : Out :=
  scalarR st d a k n countTz s

/-- `popc` (R94). -/
def execPopc (st : Bool) (d a : BitVec 5) (k : BitVec 2) (n : Bool) (s : State) : Out :=
  scalarR st d a k n countOnes s

/-- `sext` (R94). -/
def execSext (st : Bool) (d a b : BitVec 5) (k : BitVec 2) (n : Bool) (s : State) : Out :=
  scalarRR st d a b k n signExt s

/-- `zext` (R94). -/
def execZext (st : Bool) (d a b : BitVec 5) (k : BitVec 2) (n : Bool) (s : State) : Out :=
  scalarRR st d a b k n zeroExt s

/-- `sel` (R90, R94): d is a source. -/
def execSel (st : Bool) (d a b : BitVec 5) (k : BitVec 2) (n : Bool) (s : State) : Out :=
  issue st 4 (srcA a k [b, d]) (fun s => s.withA a k n fun x s => .ok (s.wg d (if s.rg d ≠ 0 then x else s.rg b))) s

/-! ## Immediate operations (R96, R97) -/

/-- `addi` (R96). -/
def execAddi (st : Bool) (d a : BitVec 5) (i : BitVec 15) (s : State) : Out := scalarI st d a (fun x => x + sx i) s

/-- `andi` (R96). -/
def execAndi (st : Bool) (d a : BitVec 5) (i : BitVec 15) (s : State) : Out := scalarI st d a (fun x => x &&& sx i) s

/-- `ori` (R96). -/
def execOri (st : Bool) (d a : BitVec 5) (i : BitVec 15) (s : State) : Out := scalarI st d a (fun x => x ||| i.setWidth 64) s

/-- `xori` (R96). -/
def execXori (st : Bool) (d a : BitVec 5) (i : BitVec 15) (s : State) : Out := scalarI st d a (fun x => x ^^^ i.setWidth 64) s

/-- `shli` (R97). -/
def execShli (st : Bool) (d a : BitVec 5) (h : BitVec 6) (s : State) : Out := scalarI st d a (fun x => x <<< h.toNat) s

/-- `shri` (R97). -/
def execShri (st : Bool) (d a : BitVec 5) (h : BitVec 6) (s : State) : Out := scalarI st d a (fun x => x >>> h.toNat) s

/-- `srai` (R97). -/
def execSrai (st : Bool) (d a : BitVec 5) (h : BitVec 6) (s : State) : Out := scalarI st d a (fun x => x.sshiftRight h.toNat) s

/-- `roti` (R97). -/
def execRoti (st : Bool) (d a : BitVec 5) (h : BitVec 6) (s : State) : Out := scalarI st d a (fun x => x.rotateRight h.toNat) s

/-! ## Constants (R98) -/

/-- `li` (R98). -/
def execLi (st : Bool) (d : BitVec 5) (i : BitVec 20) (s : State) : Out := issue st 4 {} (fun s => .ok (s.wg d (sx i))) s

/-- `lsh` (R98): d is a source. -/
def execLsh (st : Bool) (d : BitVec 5) (i : BitVec 20) (s : State) : Out :=
  issue st 4 { g := [d] } (fun s => .ok (s.wg d ((s.rg d <<< 20) ||| i.setWidth 64))) s

/-- `addpc` (R98). -/
def execAddpc (st : Bool) (d : BitVec 5) (i : BitVec 20) (s : State) : Out :=
  issue st 4 {} (fun s => .ok (s.wg d (((s.cur.pc + (sx i <<< 2)).extractLsb' 0 56).setWidth 64))) s

/-- `lix` (R28, R98). -/
def execLix (st : Bool) (d : BitVec 5) (e : BitVec 32) (s : State) : Out := issue st 8 {} (fun s => .ok (s.wg d (sx e))) s

/-- `lixh` (R28, R98): the low half of d is a source. -/
def execLixh (st : Bool) (d : BitVec 5) (e : BitVec 32) (s : State) : Out :=
  issue st 8 { g := [d] } (fun s => .ok (s.wg d (e ++ (s.rg d).extractLsb' 0 32))) s

/-! ## Comparisons (R99) -/

/-- `seteq` (R99). -/
def execSeteq (st : Bool) (d a b : BitVec 5) (k : BitVec 2) (n : Bool) (s : State) : Out :=
  scalarRR st d a b k n (fun x y => boolWord (x == y)) s

/-- `setne` (R99). -/
def execSetne (st : Bool) (d a b : BitVec 5) (k : BitVec 2) (n : Bool) (s : State) : Out :=
  scalarRR st d a b k n (fun x y => boolWord (x != y)) s

/-- `setlt` (R99). -/
def execSetlt (st : Bool) (d a b : BitVec 5) (k : BitVec 2) (n : Bool) (s : State) : Out :=
  scalarRR st d a b k n (fun x y => boolWord (x.slt y)) s

/-- `setge` (R99). -/
def execSetge (st : Bool) (d a b : BitVec 5) (k : BitVec 2) (n : Bool) (s : State) : Out :=
  scalarRR st d a b k n (fun x y => boolWord (!x.slt y)) s

/-- `setltn` (R99). -/
def execSetltn (st : Bool) (d a b : BitVec 5) (k : BitVec 2) (n : Bool) (s : State) : Out :=
  scalarRR st d a b k n (fun x y => boolWord (x.ult y)) s

/-- `setgen` (R99). -/
def execSetgen (st : Bool) (d a b : BitVec 5) (k : BitVec 2) (n : Bool) (s : State) : Out :=
  scalarRR st d a b k n (fun x y => boolWord (!x.ult y)) s

/-- `seteqi` (R99). -/
def execSeteqi (st : Bool) (d a : BitVec 5) (i : BitVec 12) (s : State) : Out := scalarI st d a (fun x => boolWord (x == sx i)) s

/-- `setnei` (R99). -/
def execSetnei (st : Bool) (d a : BitVec 5) (i : BitVec 12) (s : State) : Out := scalarI st d a (fun x => boolWord (x != sx i)) s

/-- `setlti` (R99). -/
def execSetlti (st : Bool) (d a : BitVec 5) (i : BitVec 12) (s : State) : Out := scalarI st d a (fun x => boolWord (x.slt (sx i))) s

/-- `setgei` (R99). -/
def execSetgei (st : Bool) (d a : BitVec 5) (i : BitVec 12) (s : State) : Out := scalarI st d a (fun x => boolWord (!x.slt (sx i))) s

/-- `setltni` (R99). -/
def execSetltni (st : Bool) (d a : BitVec 5) (i : BitVec 12) (s : State) : Out := scalarI st d a (fun x => boolWord (x.ult (sx i))) s

/-- `setgeni` (R99). -/
def execSetgeni (st : Bool) (d a : BitVec 5) (i : BitVec 12) (s : State) : Out := scalarI st d a (fun x => boolWord (!x.ult (sx i))) s

/-! ## Bit fields (R100) -/

/-- `bfx` (R100). -/
def execBfx (st : Bool) (d a : BitVec 5) (p w : BitVec 6) (s : State) : Out :=
  scalarI st d a (fun x => bitField x p.toNat (w.toNat + 1)) s

/-- `bfi` (R100): d is a source. -/
def execBfi (st : Bool) (d a : BitVec 5) (p w : BitVec 6) (s : State) : Out :=
  issue st 4 { g := [a, d] } (fun s => .ok (s.wg d (bitInsert (s.rg d) (s.rg a) p.toNat (w.toNat + 1)))) s

/-! ## Tagged pointers (R101) -/

/-- `adda` (R101). -/
def execAdda (st : Bool) (d a b : BitVec 5) (k : BitVec 2) (n : Bool) (s : State) : Out :=
  scalarRR st d a b k n adda s

/-- `tagset` (R101). -/
def execTagset (st : Bool) (d a b : BitVec 5) (k : BitVec 2) (n : Bool) (s : State) : Out :=
  scalarRR st d a b k n tagPut s

/-- `tagget` (R101). -/
def execTagget (st : Bool) (d a : BitVec 5) (k : BitVec 2) (n : Bool) (s : State) : Out :=
  scalarR st d a k n (fun x => (x.extractLsb' 56 8).setWidth 64) s

/-- `pdiff` (R101). -/
def execPdiff (st : Bool) (d a b : BitVec 5) (k : BitVec 2) (n : Bool) (s : State) : Out :=
  scalarRR st d a b k n ptrDiff s

end Sys2Proof.Machine
end

