-- ==== Sys2Proof/Machine/Control.lean ====
section
/-! DEFINITION. Branches and jumps (R16, R92, R93, R102, R103). -/

namespace Sys2Proof.Machine

/-- The target of a branch: PC + 4 × offset, modulo 2^56 (R16, R102). -/
def branchTarget (pc : Word) {n : Nat} (o : BitVec n) : Word := ((pc + (sx o <<< 2)).extractLsb' 0 56).setWidth 64

/-- A conditional branch whose condition has been found. -/
def State.branch (s : State) {n : Nat} (taken : Bool) (o : BitVec n) : Res :=
  if taken then .jump s (branchTarget s.cur.pc o) else .ok s

/-- A branch on one register (R102). -/
def branchZ (st : Bool) (a : BitVec 5) (o : BitVec 16) (f : Word → Bool) (s : State) : Out :=
  issue st 4 { g := [a] } (fun s => s.branch (f (s.rg a)) o) s

/-- A branch on two registers (R102). -/
def branchR (st : Bool) (a b : BitVec 5) (o : BitVec 11) (f : Word → Word → Bool) (s : State) : Out :=
  issue st 4 { g := [a, b] } (fun s => s.branch (f (s.rg a) (s.rg b)) o) s

/-- A jump to a register: a misaligned target traps with PC_ALIGN (R16); d gets the link. -/
def jumpReg (st : Bool) (d a : BitVec 5) (s : State) : Out :=
  issue st 4 { g := [a] }
    (fun s =>
      let x := s.rg a
      if x.extractLsb' 0 2 ≠ 0 then s.raise 0x03 0
      else .jump (s.wg d (s.cur.pc + 4)) ((x.extractLsb' 0 56).setWidth 64)) s

/-- `beqz` (R99, R102). -/
def execBeqz (st : Bool) (a : BitVec 5) (o : BitVec 16) (s : State) : Out := branchZ st a o (fun x => x == 0) s

/-- `bnez` (R99, R102). -/
def execBnez (st : Bool) (a : BitVec 5) (o : BitVec 16) (s : State) : Out := branchZ st a o (fun x => x != 0) s

/-- `bltz` (R99, R102). -/
def execBltz (st : Bool) (a : BitVec 5) (o : BitVec 16) (s : State) : Out := branchZ st a o (fun x => x.slt 0) s

/-- `bgez` (R99, R102). -/
def execBgez (st : Bool) (a : BitVec 5) (o : BitVec 16) (s : State) : Out := branchZ st a o (fun x => !x.slt 0) s

/-- `blez` (R99, R102). -/
def execBlez (st : Bool) (a : BitVec 5) (o : BitVec 16) (s : State) : Out := branchZ st a o (fun x => !(0#64).slt x) s

/-- `bgtz` (R99, R102). -/
def execBgtz (st : Bool) (a : BitVec 5) (o : BitVec 16) (s : State) : Out := branchZ st a o (fun x => (0#64).slt x) s

/-- `beq` (R99, R102). -/
def execBeq (st : Bool) (a b : BitVec 5) (o : BitVec 11) (s : State) : Out := branchR st a b o (fun x y => x == y) s

/-- `bne` (R99, R102). -/
def execBne (st : Bool) (a b : BitVec 5) (o : BitVec 11) (s : State) : Out := branchR st a b o (fun x y => x != y) s

/-- `blt` (R99, R102). -/
def execBlt (st : Bool) (a b : BitVec 5) (o : BitVec 11) (s : State) : Out := branchR st a b o (fun x y => x.slt y) s

/-- `bge` (R99, R102). -/
def execBge (st : Bool) (a b : BitVec 5) (o : BitVec 11) (s : State) : Out := branchR st a b o (fun x y => !x.slt y) s

/-- `bltn` (R99, R102). -/
def execBltn (st : Bool) (a b : BitVec 5) (o : BitVec 11) (s : State) : Out := branchR st a b o (fun x y => x.ult y) s

/-- `bgen` (R99, R102). -/
def execBgen (st : Bool) (a b : BitVec 5) (o : BitVec 11) (s : State) : Out := branchR st a b o (fun x y => !x.ult y) s

/-- `jal` (R16, R102): the link register is g31. -/
def execJal (st : Bool) (o : BitVec 25) (s : State) : Out :=
  issue st 4 {} (fun s => .jump (s.wg 31 (s.cur.pc + 4)) (branchTarget s.cur.pc o)) s

/-- `j` (R102). -/
def execJ (st : Bool) (o : BitVec 25) (s : State) : Out := issue st 4 {} (fun s => .jump s (branchTarget s.cur.pc o)) s

/-- `jr` (R102): no link. -/
def execJr (st : Bool) (a : BitVec 5) (s : State) : Out := jumpReg st 0 a s

/-- `jalr` (R102): x is read before d is written. -/
def execJalr (st : Bool) (d a : BitVec 5) (s : State) : Out := jumpReg st d a s

/-- `dbnz` (R103): d is a source. -/
def execDbnz (st : Bool) (d : BitVec 5) (o : BitVec 15) (s : State) : Out :=
  issue st 4 { g := [d] }
    (fun s =>
      let x := s.rg d - 1
      let s := s.wg d x
      s.branch (x != 0) o) s

/-! ## Words that trap with ILLEGAL (R30) -/

/-- `ILLEGAL` (R30): the trap, without side effects. -/
def execIllegal (st : Bool) (s : State) : Out := issue st 4 {} State.illegal s

/-- Any other word of R30: the same trap, at its own PC; the reason is the decoder's. -/
def execUnassignedEncoding (_r : EncodingFault) (w : BitVec 32) (s : State) : Out := issue (w.getLsbD 31) 4 {} State.illegal s

end Sys2Proof.Machine
end

