-- ==== Sys2Proof/Machine/Matrix.lean ====
section
/-! DEFINITION. The matrix instructions (R227-R246): rings, batches, commands, accumulator moves, the commands of other cores,
and the save images of `mxsave`, `mxrst` and of ACC = 1 saves. Every check follows the order of R248. -/

namespace Sys2Proof.Machine

/-! ## The frame of the checks (R248) -/

/-- Changing the matrix unit of the focus core. -/
def State.onMx (s : State) (f : Matrix → Matrix) : State := s.onFocus fun c => { c with mx := f c.mx }

/-- The matrix unit of the focus core. -/
def State.mx (s : State) : Matrix := s.core.mx

/-- A handler whose interrupted strand owns matrix state and has not executed `mxsave` (R246). -/
def State.matrixHeld (s : State) : Bool :=
  match s.cur.handler with
  | some h => h.matrix && !h.mxsaved
  | none => false

/-- Check 4: MATRIX_OWNED for a handler, and for a unit whose tag names another strand. -/
def State.owned (s : State) (other : Bool) (k : Res) : Res := if s.matrixHeld || other then s.raise 0x18 0 else k

/-- Check 5. -/
def State.cfgOk (s : State) (ok : Bool) (k : Res) : Res := if ok then k else s.raise 0x19 0

/-- Check 6. -/
def State.ringOk (s : State) (ok : Bool) (k : Res) : Res := if ok then k else s.raise 0x1A 0

/-- Whether another strand owns a tile. -/
def State.tileOther (s : State) (t : BitVec 3) : Bool := ownedByOther (s.mx.tile t).owner s.cur.num

/-- Whether another strand owns a ring. -/
def State.ringOther (s : State) (q : BitVec 3) : Bool := ownedByOther (s.mx.ring q).owner s.cur.num

/-- The running strand takes an unowned tile (R225). -/
def State.take (s : State) (t : BitVec 3) : State := s.onMx fun m => m.setTile t (takeTile (m.tile t) s.cur.num)

/-- A tile or ring number in a 5-bit field. -/
abbrev unitOf (r : BitVec 5) : BitVec 3 := r.extractLsb' 0 3

/-! ## Rings (R227-R229) -/

/-- TAG, ADDR, DEPTH and Q of a ring descriptor, when it passes the MATRIX_CFG checks of R229. -/
def ringDescOk (x : BitVec 128) (q : BitVec 3) (core : Nat) : Bool :=
  let va := (x.extractLsb' 0 56).toNat
  let c := va / 2 ^ 41 % 2 ^ 9
  let depth := (x.extractLsb' 64 8).toNat
  let tag := x.extractLsb' 56 8
  x.extractLsb' 72 3 == q && decide (2 ≤ depth) && decide (depth ≤ 64) && (ringClass tag).isSome && va % 64 == 0 && region va == 13 &&
    (c == 0x1FF || (c < Config.coresPerDie && va / 2 ^ 50 % 4 * Config.coresPerDie + c == core)) && va / 2 ^ 19 % 2 ^ 22 == 0 &&
    ringFits (x.extractLsb' 0 64) tag depth && x.extractLsb' 75 53 == 0

/-- The first byte of a ring's tile area that lies outside the grants of the strand's launch, if there is one (R199). -/
def State.ringBound (s : State) (va n : Nat) : Option Nat :=
  let g := s.scratchGrant s.cur.launch s.core.cid
  if va % 2 ^ 19 + n ≤ g then none else some (va + (g - va % 2 ^ 19))

/-- Configuring ring `q` with a descriptor (R229). -/
def State.setupRing (s : State) (q : BitVec 3) (x : BitVec 128) : State :=
  s.onMx fun m => m.setRing q
    { base := (x.extractLsb' 0 56).setWidth 64, tag := x.extractLsb' 56 8, depth := (x.extractLsb' 64 8).toNat, head := 0, tail := 0
      owner := some s.cur.num }

/-- The wait until no queued command names a ring, charged to ENGINE, then the change of the ring. -/
def State.ringWait (s : State) (q : BitVec 3) (body : State → State) : Res :=
  match s.matrixWait .engine fun k => k.op.namesRing q with
  | none => .wait s .engine
  | some s => .ok (body s)

/-- `mring` (R229). -/
def execMring (st : Bool) (d a : BitVec 5) (s : State) : Out :=
  let q := unitOf d
  issue st 4 { g := if a = 0 then [] else [a] }
    (fun s =>
      s.owned (s.ringOther q) <|
        if a = 0 then s.ringWait q fun s => s.onMx fun m => m.setRing q Ring.reset
        else
          let va := addrOf (s.rg a)
          s.withAcc .read 16 va (s.scalarAcc .read 16 false (s.rg a)) fun h s =>
            match s.homeBad h 16 with
            | some (p, off) => s.raise (if p then 0x0F else 0x0E) (infoAt (va + off))
            | none =>
              let x := BitVec.ofNat 128 (s.homeLoad h 16)
              let s := s.freeStall .engine
              s.cfgOk (ringDescOk x q s.core.cid) <|
                match s.ringBound (x.extractLsb' 0 56).toNat ((x.extractLsb' 64 8).toNat * ringTileBytes (x.extractLsb' 56 8)) with
                | some b => s.raise 0x06 (infoAt b)
                | none => s.ringWait q fun s => s.setupRing q x) s

/-- `mrcommit` (R229). -/
def execMrcommit (st : Bool) (d a : BitVec 5) (s : State) : Out :=
  let q := unitOf d
  issue st 4 { g := [a] }
    (fun s =>
      let c := (s.rg a).toNat
      let s := s.matrixNow s.mx.queue.length
      let r := s.mx.ring q
      s.owned (s.ringOther q) <|
        s.ringOk (r.depth != 0 && c != 0 && decide (r.occupancy + c ≤ r.depth)) <|
          .ok ((s.freeStall .order).commitRing q c)) s

/-- The word that `mrq` reads (R229). -/
def Ring.query (r : Ring) : Word :=
  let owner := match r.owner with
    | some n => BitVec.ofNat 8 n
    | none => 0xFF#8
  owner ++ (0#8 ++ (r.tag ++ (BitVec.ofNat 8 r.depth ++ (r.tail ++ r.head))))

/-- `mrq` (R229): it never traps on ownership. -/
def execMrq (st : Bool) (d a : BitVec 5) (s : State) : Out :=
  issue st 4 {}
    (fun s =>
      let s := s.matrixNow s.mx.queue.length
      .ok (s.wg d (s.mx.ring (unitOf a)).query)) s

/-! ## Batches (R230) -/

/-- `mbeg` (R230). -/
def execMbeg (st : Bool) (d : BitVec 5) (s : State) : Out :=
  issue st 4 {}
    (fun s =>
      if s.cur.batch.isSome then s.raise 0x1B 0
      else
        s.owned false <|
          match s.allocCell 4 1 with
          | none => .wait s .engine
          | some (h, s) =>
            let b : MBatch := { handle := h, owner := s.cur.num, closed := false, signalled := false, flags := 0, poisoned := false, sat := false }
            .ok (((s.onMx fun m => { m with batches := m.batches ++ [b] }).onCur fun t => { t with batch := some h }).wg d h)) s

/-- Closing the batch of a strand (R230, R247): the token is signalled in the next cycle when no command is left (R233). -/
def State.closeBatch (s : State) (h : Word) : State :=
  s.onFocus fun c => c.atCycle (c.cycle + 1) fun c =>
    ({ c with mx := { c.mx with batches := onBatch h (fun b => { b with closed := true }) c.mx.batches } }).endBatches

/-- `mend` (R230). -/
def execMend (st : Bool) (s : State) : Out :=
  issue st 4 {}
    (fun s =>
      match s.cur.batch with
      | none => s.raise 0x1B 0
      | some h => s.owned false (.ok ((s.closeBatch h).onCur fun t => { t with batch := none }))) s

/-! ## Commands (R231-R237) -/

/-- A command enters the queue for the open batch `h` (R231), and its tile passes to the strand (R225); a full queue waits. -/
def State.pushCommand (s : State) (h : Word) (op : MOp) (operand : Word) : Res :=
  let s := s.matrixNow s.mx.queue.length
  if 64 ≤ s.mx.queue.length then .wait s .engine
  else
    let k : MCommand :=
      { op := op, owner := s.cur.num, batch := h, remote := none, word := s.core.ir, operand := operand, issuedAt := s.core.cycle
        launch := s.cur.launch }
    .ok (s.onMx fun m => let m := m.takeFor s.cur.num op; { m with queue := m.queue ++ [k] })

/-- Check 3: a command needs an open batch. -/
def State.inBatch (s : State) (k : Word → Res) : Res :=
  match s.cur.batch with
  | none => s.raise 0x1B 0
  | some h => k h

/-- `mzero` (R234). -/
def execMzero (st : Bool) (d : BitVec 5) (s : State) : Out :=
  let t := unitOf d
  issue st 4 {}
    (fun s => s.inBatch fun h => s.owned (s.tileOther t) (s.pushCommand h (.zero t) 0)) s

/-- The reserved bits of a selector of `mma` and `mmas` (R235). -/
def selectorReserved : Word := ~~~0x3F073F07#64

/-- QA and QB, OFFA and OFFB of a selector (R235). -/
def selQa (x : Word) : BitVec 3 := x.extractLsb' 0 3
/-- OFFA. -/
def selOffa (x : Word) : Nat := (x.extractLsb' 8 6).toNat
/-- QB. -/
def selQb (x : Word) : BitVec 3 := x.extractLsb' 16 3
/-- OFFB. -/
def selOffb (x : Word) : Nat := (x.extractLsb' 24 6).toNat

/-- Both rings are configured, of one class (R235). -/
def Matrix.classOf (m : Matrix) (qa qb : BitVec 3) : Option MClass :=
  if (m.ring qa).depth = 0 ∨ (m.ring qb).depth = 0 then none
  else
    match ringClass (m.ring qa).tag, ringClass (m.ring qb).tag with
    | some x, some y => if x = y then some x else none
    | _, _ => none

/-- `mma` (R234-R236). -/
def execMma (st : Bool) (d a : BitVec 5) (s : State) : Out :=
  let t := unitOf d
  issue st 4 { g := [a] }
    (fun s =>
      let x := s.rg a
      let qa := selQa x
      let qb := selQb x
      s.inBatch fun h =>
        s.owned (s.ringOther qa || s.ringOther qb || s.tileOther t) <|
          s.cfgOk ((x &&& selectorReserved) == 0 && (s.mx.classOf qa qb).isSome) <|
            s.ringOk (decide (selOffa x < (s.mx.ring qa).depth) && decide (selOffb x < (s.mx.ring qb).depth)) <|
              s.pushCommand h (.mma t qa qb (selOffa x) (selOffb x)) x) s

/-- Set bits of a K-mask below position `n` (R237). -/
def maskCount (m : BitVec 512) (n : Nat) : Nat := prefixSum m n

/-- `mmas` (R234, R235, R237). -/
def execMmas (st : Bool) (d a b : BitVec 5) (s : State) : Out :=
  let t := unitOf d
  issue st 4 { g := [a], m := [b.extractLsb' 0 4] }
    (fun s =>
      let x := s.rg a
      let qa := selQa x
      let qb := selQb x
      let mask := (s.cur.vf.getM (b.extractLsb' 0 4)).extractLsb' 0 512
      s.inBatch fun h =>
        s.owned (s.ringOther qa || s.ringOther qb || s.tileOther t) <|
          match s.mx.classOf qa qb with
          | none => s.raise 0x19 0
          | some c =>
            s.cfgOk ((x &&& selectorReserved) == 0 && decide (maskCount mask (2 * c.k) ≤ c.k)) <|
              s.ringOk (decide (selOffa x + 1 < (s.mx.ring qa).depth) && decide (selOffb x < (s.mx.ring qb).depth)) <|
                s.pushCommand h (.mmas t qa qb (selOffa x) (selOffb x) mask) x) s

/-- `mrpop` (R234). -/
def execMrpop (st : Bool) (d a : BitVec 5) (s : State) : Out :=
  let q := unitOf d
  issue st 4 { g := [a] }
    (fun s =>
      let c := (s.rg a).toNat
      s.inBatch fun h =>
        s.owned (s.ringOther q) <|
          s.cfgOk ((s.mx.ring q).depth != 0) <|
            s.ringOk (c != 0 && decide (c ≤ (s.mx.ring q).depth)) <| s.pushCommand h (.pop q c) (s.rg a)) s

/-! ## Accumulator moves (R238) -/

/-- Bit of a tile at which the quadrant's row `r` starts. -/
def quadBit (quad : BitVec 2) (r : Nat) : Nat :=
  32 * (64 * ((if quad.getLsbD 1 then 32 else 0) + r) + if quad.getLsbD 0 then 32 else 0)

/-- The quadrant of a tile as the bits of a vector register: 32 rows of 32 words. -/
def quadOf (x : BitVec 131072) (quad : BitVec 2) : BitVec 32768 :=
  (List.range 32).foldl (fun v r => v ||| ((x.extractLsb' (quadBit quad r) 1024).setWidth 32768 <<< (1024 * r))) 0

/-- A tile with a quadrant replaced by the bits of a vector register. -/
def putQuad (x : BitVec 131072) (quad : BitVec 2) (v : BitVec 32768) : BitVec 131072 :=
  (List.range 32).foldl
    (fun x r => (x &&& ~~~((BitVec.allOnes 1024).setWidth 131072 <<< quadBit quad r)) |||
      ((v.extractLsb' (1024 * r) 1024).setWidth 131072 <<< quadBit quad r)) x

/-- The wait of `mrd` and `mwr`: every queued command that names the tile completes. -/
def State.tileWait (s : State) (t : BitVec 3) (body : State → Res) : Res :=
  match s.matrixWait .engine fun k => k.op.namesTile t with
  | none => .wait s .engine
  | some s => body s

/-- A write of a whole vector register on the strand's own core. -/
def State.putOwn (s : State) (d : BitVec 5) (x : BitVec 32768) : State :=
  let w : VWrite := { mask := BitVec.allOnes 32768, data := x, rows := BitVec.allOnes 32, band := 0x3F80#16 }
  let o := s.own
  s.onCur (·.writeV o d ((List.range s.files.length).map fun i => if i = o then w else VWrite.none))

/-- The trap of an `mrd` of a poisoned tile (R238, R262). The spec keeps no address with a tile: INFO is a free value (DESIGN CHOICE, log 53). -/
def State.tilePoison (s : State) (d : BitVec 5) : TrapInfo :=
  { mkTrap 0x0F (Config.freeWord s.free) with rclass := 2, reg := d, lanes := BitVec.allOnes 8192 }

/-- `mrd` (R238). -/
def execMrd (st : Bool) (d a b : BitVec 5) (s : State) : Out :=
  let t := unitOf a
  issue st 4 { g := [b], vd := [d], vec := true }
    (fun s =>
      let x := s.rg b
      s.owned (s.tileOther t) <|
        s.cfgOk ((x &&& ~~~0x103#64) == 0) <|
          s.tileWait t fun s =>
            if (s.mx.tile t).poison then .trap s (s.tilePoison d)
            else
              let s := s.take t
              let v := quadOf (s.mx.tile t).data (x.extractLsb' 0 2)
              let s := (s.enqueue { vd := [d], t := 8, lam := 4 }).putOwn d v
              .ok (if x.getLsbD 8 then s.onMx fun m => m.setTile t Tile.reset else s)) s

/-- The words of a vector register that `mwr` reads poisoned (R262), in the 32 × 32 shape of the words. -/
def VReg.badWords (v : VReg) : List Nat :=
  if v.poison = 0 then [] else (List.range 1024).filter fun j => decide (j / 32 < v.valid) && v.bad 32 (j / 32) (j % 32)

/-- `mwr` (R238). -/
def execMwr (st : Bool) (d a b : BitVec 5) (s : State) : Out :=
  let t := unitOf d
  issue st 4 { g := [b], v := [a], vec := true }
    (fun s =>
      let x := s.rg b
      s.owned (s.tileOther t) <|
        s.cfgOk ((x &&& ~~~3#64) == 0) <|
          s.tileWait t fun s =>
            let v := s.cur.vf.getV a
            match v.badWords with
            | j :: js => .trap s { mkTrap 0x0F (Config.freeWord s.free) with rclass := 2, reg := a, lanes := laneMask (j :: js) }
            | [] =>
              let s := s.take t
              let s := s.enqueue { v := [a], t := 8, lam := 4 }
              .ok (s.onMx fun m => m.setTile t { m.tile t with data := putQuad (m.tile t).data (x.extractLsb' 0 2) v.bits })) s

/-! ## Commands to other cores (R240-R243) -/

/-- The operation of a payload, whose unused fields are zero; none for MATRIX_CFG (R242). -/
def payloadOp (e : BitVec 32) : Option MOp :=
  let t := e.extractLsb' 25 3
  let qa := e.extractLsb' 22 3
  let offa := (e.extractLsb' 16 6).toNat
  match (e.extractLsb' 28 4).toNat with
  | 0 => if e.extractLsb' 0 25 = 0 then some (.zero t) else none
  | 1 => if e.extractLsb' 0 7 = 0 then some (.mma t qa (e.extractLsb' 13 3) offa (e.extractLsb' 7 6).toNat) else none
  | 2 => if t = 0 ∧ e.extractLsb' 0 16 = 0 then some (.pop qa offa) else none
  | _ => none

/-- Sending a command to cores of the issuer's die, after its checks; `kind` and the count of the cell are those of R241. -/
def State.sendMatrix (s : State) (d b : BitVec 5) (e : BitVec 32) (kind : BitVec 3) (ok : Bool) (cores : List Nat) : Res :=
  s.owned false <|
    s.cfgOk (ok && cores.all (· < Config.coresPerDie) && (payloadOp e).isSome) <|
      match s.allocCell kind cores.length with
      | none => .wait s .engine
      | some (h, s) =>
        let cap := s.rg (b + 1) ++ s.rg b
        let base := dieOf s.core.cid * Config.coresPerDie
        .ok ((cores.foldl (fun s c => s.post s.replyDue (.matrix (base + c) e cap h s.cur.launch)) s).wg d h)

/-- `mcmd` (R241). -/
def execMcmd (st : Bool) (d a b : BitVec 5) (e : BitVec 32) (s : State) : Out :=
  if b.getLsbD 0 then issue st 8 {} State.illegal s
  else
    issue st 8 { g := [a, b, b + 1] }
      (fun s =>
        let x := s.rg a
        s.sendMatrix d b e 4 (x.extractLsb' 9 55 == 0) [(x.extractLsb' 0 9).toNat]) s

/-- `mdist` (R241). -/
def execMdist (st : Bool) (d a b : BitVec 5) (e : BitVec 32) (s : State) : Out :=
  if b.getLsbD 0 then issue st 8 {} State.illegal s
  else
    issue st 8 { g := [a, b, b + 1] }
      (fun s =>
        let x := s.rg a
        let n := (x.extractLsb' 16 7).toNat + 1
        let stride := (x.extractLsb' 32 9).toNat
        s.sendMatrix d b e 7 ((x &&& ~~~0x1FF007F01FF#64) == 0 && decide (n ≤ 64) && decide (1 ≤ stride) && decide (stride ≤ 383))
          ((List.range n).map fun p => (x.extractLsb' 0 9).toNat + p * stride)) s

/-- What a core answers to a command for host strand `n` (R243): MATRIX_REFUSED, or not. -/
def Matrix.refuses (m : Matrix) (n : Nat) (o : MOp) : Bool :=
  match o with
  | .zero t => ownedByOther (m.tile t).owner n
  | .mma t qa qb oa ob =>
    ownedByOther (m.tile t).owner n || (m.ring qa).owner != some n || (m.ring qb).owner != some n || (m.classOf qa qb).isNone ||
      decide ((m.ring qa).depth ≤ oa) || decide ((m.ring qb).depth ≤ ob)
  | .pop q c => (m.ring q).owner != some n || (m.ring q).depth == 0 || c == 0 || decide ((m.ring q).depth < c)
  | .mmas _ _ _ _ _ _ => true

/-- Whether a core has a strand of this number. -/
def Core.hasStrand (c : Core) (n : Nat) : Bool := (c.running && c.cur.num == n) || c.images.any (·.st.num == n)

/-- The interrupted strand of a handler under number `n` owns matrix state from now on (R246). -/
def Core.hostTakes (c : Core) (n : Nat) : Core :=
  let f := fun (t : Strand) => if t.num = n then { t with handler := t.handler.map fun h => { h with matrix := true } } else t
  { c with cur := f c.cur, images := c.images.map fun i => { i with st := f i.st } }

/-- A command arrives at its target core (R243) in cycle `now` of that core: none while its queue is full. -/
def State.matrixArrives (s : State) (core : Nat) (e : BitVec 32) (cap : BitVec 128) (h : Word) (launch : Option Nat) (now : Nat) :
    Option State :=
  let c := s.coreOf core
  let host := (c.mxhost.extractLsb' 0 8).toNat
  let send := fun (code : BitVec 8) => some ((s.focusOn core).answerRemote h now (.fail h code) |>.focusOn s.core.cid)
  if !c.inService then send 4
  else if !c.mxhost.getLsbD 63 || cap != c.mxcaph ++ c.mxcapl || !c.hasStrand host then send 2
  else
    match payloadOp e with
    | none => send 0x20
    | some o =>
      if c.mx.refuses host o then send 0x20
      else if 64 ≤ c.mx.queue.length then none
      else
        let k : MCommand :=
          { op := o, owner := host, batch := 0, remote := some h, word := 0, operand := e.setWidth 64, issuedAt := now, launch := launch }
        some (s.onCore core fun c => let m := c.mx.takeFor host o; { c.hostTakes host with mx := { m with queue := m.queue ++ [k] } })

/-- REMOTE_MATRIX_COMMAND (R243): message `i` in flight, a command, arrives. -/
def State.evRemoteMatrix (s : State) (i : Nat) : Option State :=
  match s.flight[i]? with
  | none => none
  | some m =>
    match m.body with
    | .matrix core e cap h launch =>
      if s.arrived m && !s.msgHeld m then
        ({ s with flight := s.flight.eraseIdx i }).matrixArrives core e cap h launch (min (s.arrivalCycle m core) (s.coreOf core).cycle)
      else none
    | _ => none

/-- MATRIX_COMMAND_EXECUTE (R231, R232): the head command of a core's queue, once its completion cycle has passed. -/
def State.evMatrix (s : State) (core : Nat) : Option State :=
  match (s.coreOf core).mx.headTimes with
  | none => none
  | some (_, _, done) =>
    if done < (s.coreOf core).cycle then ((s.focusOn core).matrixHead).map (·.focusOn s.core.cid) else none

/-! ## Save images (R244-R246) -/

/-- Bytes of a save image. -/
abbrev mxImageBytes : Nat := 138240

/-- The tiles [7:0] and rings [15:8] that a strand owns. -/
def Matrix.unitsOf (m : Matrix) (n : Nat) : BitVec 16 :=
  (List.range 8).foldl
    (fun x i =>
      let x := if (m.tile (BitVec.ofNat 3 i)).owner = some n then x ||| (1#16 <<< i) else x
      if (m.ring (BitVec.ofNat 3 i)).owner = some n then x ||| (1#16 <<< (8 + i)) else x) 0

/-- Poison bits of the tiles that a set names. -/
def Matrix.poisonOf (m : Matrix) (x : BitVec 16) : BitVec 8 :=
  (List.range 8).foldl (fun p i => if x.getLsbD i && (m.tile (BitVec.ofNat 3 i)).poison then p ||| (1#8 <<< i) else p) 0

/-- STATE of an image (R245). -/
def imageState (units : BitVec 16) (poison : BitVec 8) (ncmd : Nat) (b : Option MBatch) : Word :=
  let flags : BitVec 6 := match b with
    | some b => b.flags.setWidth 6 ||| (if b.sat then 32#6 else 0)
    | none => 0
  let order : BitVec 6 := flags.extractLsb' 5 1 ++ flags.extractLsb' 4 1 ++ flags.extractLsb' 3 1 ++ flags.extractLsb' 2 1 ++ flags.extractLsb' 0 1 ++ BitVec.ofBool b.isSome
  0#24 ++ (poison ++ (BitVec.ofNat 8 ncmd ++ (0#2 ++ (order ++ units))))

/-- A ring's entry in an image (R245). -/
def Ring.image (r : Ring) (q : BitVec 3) : List Byte :=
  leBytes 8 (r.tag ++ r.base.extractLsb' 0 56).toNat ++
    leBytes 8 (0#16 ++ (r.tail ++ (r.head ++ (0#5 ++ (q ++ BitVec.ofNat 8 r.depth))))).toNat

/-- K-mask of a command; 0 for the others. -/
def MOp.mask : MOp → BitVec 512
  | .mmas _ _ _ _ _ m => m
  | _ => 0

/-- A command record of an image (R245). -/
def MCommand.image (k : MCommand) : List Byte :=
  leBytes 8 k.word.toNat ++ leBytes 8 k.operand.toNat ++ leBytes 64 k.op.mask.toNat ++ List.replicate 16 0

/-- The parts of an image, as (offset, bytes): only what R245 gives contents to (DEDUCED, log 24). -/
def Matrix.imageParts (m : Matrix) (units : BitVec 16) (b : Option MBatch) (cmds : List MCommand) : List (Nat × List Byte) :=
  (0, leBytes 8 (imageState units (m.poisonOf units) cmds.length b).toNat ++ leBytes 8 ((b.map fun (x : MBatch) => x.handle).getD 0).toNat ++ List.replicate 48 0) ::
  (192, List.replicate 832 0) ::
  ((List.range 8).filter fun i => units.getLsbD (8 + i)).map (fun i => (64 + 16 * i, (m.ring (BitVec.ofNat 3 i)).image (BitVec.ofNat 3 i))) ++
  cmds.zipIdx.map (fun p => (1024 + 96 * p.2, p.1.image)) ++
  ((List.range 8).filter fun i => units.getLsbD i).map fun i => (7168 + 16384 * i, leBytes 16384 (m.tile (BitVec.ofNat 3 i)).data.toNat)

/-- Releasing the units that a set names (R225). -/
def Matrix.releaseUnits (m : Matrix) (x : BitVec 16) : Matrix :=
  { m with
    tiles := Vector.ofFn fun i => if x.getLsbD i.val then Tile.reset else m.tiles[i]
    rings := Vector.ofFn fun i => if x.getLsbD (8 + i.val) then Ring.reset else m.rings[i] }

/-- Field of `n` bytes at an offset of an image read little-endian. -/
def imageField (x off n : Nat) : Nat := x / 2 ^ (8 * off) % 2 ^ (8 * n)

/-- The units that an image names, reloaded and tagged with a strand (R246). -/
def Matrix.reload (m : Matrix) (x n : Nat) : Matrix :=
  let w := BitVec.ofNat 64 (imageField x 0 8)
  { m with
    tiles := Vector.ofFn fun i =>
      if w.getLsbD i.val then
        { data := BitVec.ofNat 131072 (imageField x (7168 + 16384 * i.val) 16384), poison := w.getLsbD (32 + i.val), owner := some n }
      else m.tiles[i]
    rings := Vector.ofFn fun i =>
      if w.getLsbD (8 + i.val) then
        let d0 := BitVec.ofNat 64 (imageField x (64 + 16 * i.val) 8)
        let d1 := BitVec.ofNat 64 (imageField x (72 + 16 * i.val) 8)
        { base := (d0.extractLsb' 0 56).setWidth 64, tag := d0.extractLsb' 56 8, depth := (d1.extractLsb' 0 8).toNat
          head := d1.extractLsb' 16 16, tail := d1.extractLsb' 32 16, owner := some n }
      else m.rings[i] }

/-- Reserved bits of STATE are zero, poison only of saved tiles, NCMD as many as were lifted (R245, R246; DEDUCED, log 24). -/
def imageOk (x lifted : Nat) : Bool :=
  let w := BitVec.ofNat 64 (imageField x 0 8)
  (w &&& ~~~0xFFFF3FFFFF#64) == 0 && (w.extractLsb' 32 8 &&& ~~~w.extractLsb' 0 8) == 0 && (w.extractLsb' 24 8).toNat == lifted

/-! ### `mxsave` and `mxrst` (R246) -/

/-- The checks of a run of bytes under R223: ACCESS, MISALIGN, BOUNDS, translation, after the tag. -/
def State.runCheck (s : State) (k : AccKind) (align : Nat) (ea : Word) (n : Nat) : VAcc :=
  let va := addrOf ea
  let ps := pieces va n
  let loc := fun (p : Nat × Nat) => s.locate s.agent k p.1 p.2
  if !scalarTagOk align false ea then .trap 0x05 (infoAt va)
  else
    match ps.find? fun p => decide (14 ≤ region p.1) || loc p == .denied with
    | some p => .trap 0x07 (infoAt p.1)
    | none =>
      if va % align ≠ 0 then .trap 0x04 (infoAt va)
      else
        match ps.find? fun p => loc p == .bounds with
        | some p => .trap 0x06 (infoAt (s.firstBound s.agent k p.1 p.2))
        | none =>
          match s.runAbsent s.agent k va n with
          | (p, l) :: rest => .fault ((p, l) :: rest) (max p va)
          | [] => if ps.any fun p => loc p == .held then .hold else .go

/-- An access to an area goes on once its checks have passed. -/
def State.withRun (s : State) (k : AccKind) (align : Nat) (ea : Word) (n : Nat) (body : State → Res) : Res :=
  match s.runCheck k align ea n with
  | .go => body s
  | .trap c i => s.raise c i
  | .hold => .wait (if k = .read then s else s.want s.agent (addrOf ea) n) .order
  | .fault ps first => .left (s.faultPath ps (accBits k) (infoAt first))

/-- The trapped image of the handler that runs. -/
def State.trappedImage (s : State) : Option Image :=
  match s.cur.handler with
  | none => none
  | some h => s.core.images.find? fun i => i.place == .slot h.slot

/-- Changing the handler context of the running strand. -/
def State.onHandler (s : State) (f : HandlerCtx → HandlerCtx) : State := s.onCur fun t => { t with handler := t.handler.map f }

/-- The frame of `mxsave` and `mxrst`: PRIVILEGE, then ILLEGAL outside a handler, then the address. -/
def mxFrame (st : Bool) (a : BitVec 5) (body : Word → State → Res) (s : State) : Out :=
  let out := s.cur.sp.traprec == 0
  issue st 4 { priv := true, g := if out then [] else [a] } (fun s => if out then s.illegal else body (s.rg a) s) s

/-- Whether a command of the queue is that of a strand or runs on its behalf. -/
def MCommand.isOf (k : MCommand) (n : Nat) : Bool := k.owner == n

/-- The command of a strand that has started executes to its end; `none` when nothing of its is running (R246). -/
def State.finishRunning (s : State) (n : Nat) : State :=
  let s := s.matrixNow s.mx.queue.length
  match s.mx.headTimes with
  | some (k, start, done) =>
    if k.isOf n ∧ start ≤ s.core.cycle then
      match s.matrixHead with
      | some s => s.stall .engine (done + 1 - s.core.cycle)
      | none => s
    else s
  | none => s

/-- `mxsave` (R246). -/
def execMxsave (st : Bool) (a : BitVec 5) (s : State) : Out :=
  mxFrame st a
    (fun ea s =>
      s.withRun .write 64 ea mxImageBytes fun s =>
        let n := s.cur.num
        let s := s.finishRunning n
        let cmds := s.mx.queue.filter (·.isOf n)
        let units := s.mx.unitsOf n
        let batch := (s.trappedImage.bind (·.st.batch)).bind fun h => s.mx.batches.find? (·.handle == h)
        let parts := s.mx.imageParts units batch cmds
        let s := parts.foldl (fun s p => s.engineWrite s.agent ((addrOf ea + p.1) % 2 ^ 56) p.2 false) s
        .ok ((s.onMx fun m => { m.releaseUnits units with queue := m.queue.filter (!·.isOf n), lifted := m.lifted ++ cmds }).onHandler
          fun h => { h with mxsaved := true, mxowed := true })) s

/-- A command read back from an image: its operation from the word and operand, and what only the unit keeps of it. -/
def liftedCommand (x i now : Nat) (k : MCommand) : MCommand :=
  let off := 1024 + 96 * i
  let w := BitVec.ofNat 32 (imageField x off 4)
  let y := BitVec.ofNat 64 (imageField x (off + 8) 8)
  let t := w.extractLsb' 20 3
  let op := match (w.extractLsb' 0 7).toNat with
    | 4 => .zero t
    | 2 => .mma t (selQa y) (selQb y) (selOffa y) (selOffb y)
    | 3 => .mmas t (selQa y) (selQb y) (selOffa y) (selOffb y) (BitVec.ofNat 512 (imageField x (off + 16) 64))
    | 9 => .pop t y.toNat
    | _ => (payloadOp (y.setWidth 32)).getD k.op
  { k with op := op, word := w, operand := y, issuedAt := now }

/-- The flags of the open batch as an image gives them. -/
def MBatch.withFlags (b : MBatch) (w : Word) : MBatch :=
  { b with
    flags := w.extractLsb' 20 1 ++ w.extractLsb' 19 1 ++ w.extractLsb' 18 1 ++ (b.flags.extractLsb' 1 1 ++ w.extractLsb' 17 1)
    sat := w.getLsbD 21 }

/-- Checks 4 and 5 of `mxrst` (R246, R248), which look at STATE; where its bytes cannot be read, the memory checks of step 7 decide. -/
def State.stateOk (s : State) (ea : Word) (lifted : Nat) (k : Res) : Res :=
  match s.runCheck .read 64 ea 64 with
  | .go =>
    let x := leValue (s.loadVa s.agent (addrOf ea) 8)
    if !s.mx.unitsFree (BitVec.ofNat 16 x) then s.raise 0x18 0 else s.cfgOk (imageOk x lifted) k
  | _ => k

/-- `mxrst` (R246). -/
def execMxrst (st : Bool) (a : BitVec 5) (s : State) : Out :=
  mxFrame st a
    (fun ea s =>
      if !(match s.cur.handler with | some h => h.mxsaved | none => false) then s.raise 0x18 0
      else
        let n := s.cur.num
        let mine := s.mx.lifted.filter (·.isOf n)
        s.stateOk ea mine.length <|
          s.withRun .read 64 ea mxImageBytes fun s =>
            s.readDesc (addrOf ea) mxImageBytes fun x s =>
              let now := s.core.cycle
              let cmds := mine.zipIdx.map fun p => liftedCommand x p.2 now p.1
              let w := BitVec.ofNat 64 (imageField x 0 8)
              let s := s.onMx fun m =>
                let m := m.reload x n
                { m with
                  queue := m.queue ++ cmds
                  lifted := m.lifted.filter (!·.isOf n)
                  batches := match s.trappedImage.bind (·.st.batch) with
                    | some h => if w.getLsbD 16 then onBatch h (·.withFlags w) m.batches else m.batches
                    | none => m.batches }
              .ok (s.onHandler fun h => { h with mxowed := false })) s

/-! ### Saves with ACC = 1 (R244) -/

/-- SLOTS of MXBASE. -/
def Core.mxSlots (c : Core) : Nat := (c.mxbase.extractLsb' 56 8).toNat
/-- The physical address of the save slot of a strand (R244). -/
def Core.mxSlot (c : Core) (n : Nat) : Nat := (c.mxbase.extractLsb' 20 36).toNat * 2 ^ 20 + mxImageBytes * n

/-- The ACC = 1 part of a save: the queued commands under the strand's number complete, those of other cores included, its image is written to its slot, and its units
are released; the second part is what was saved. None while a command waits for a commit. -/
def State.accSave (s : State) (cause : Cause) : Option (State × BitVec 16) :=
  let n := s.cur.num
  match s.matrixWait cause fun k => k.owner == n with
  | none => none
  | some s =>
    let units := s.mx.unitsOf n
    let base := s.core.mxSlot n
    let s := (s.mx.imageParts units none []).foldl (fun s p => s.storeBytes (base + p.1) p.2) s
    some (s.onMx (·.releaseUnits units), units)

/-- The reload that a restore of such a strand performs (R244). -/
def State.accRestore (s : State) (i : Image) : State :=
  if i.accSaved = 0 then s
  else
    let x := Memory.getN s.mem (s.core.mxSlot i.st.num) mxImageBytes
    s.onMx fun m => m.reload (x - imageField x 0 2 + i.accSaved.toNat) i.st.num

end Sys2Proof.Machine
end

