-- ==== Sys2Proof/Machine/Gondola.lean ====
section
/-! DEFINITION. Gondola copies (R293-R298): their issue, their completion, and what ends them early (R299, R360, R398). -/

namespace Sys2Proof.Machine

/-! ## The rows of a copy -/

/-- The source row `i`. -/
def Copy.srcRow (c : Copy) (i : Nat) : Nat := (addrOf c.src + i * c.sstr.toNat) % 2 ^ 56

/-- The cluster and scratchpad address of a core that `gcpm` names: the OFFSET of y on that core (R294). -/
def multicastBase (core j : Nat) (y : Word) : Nat :=
  0xD * 2 ^ 52 + dieOf core * 2 ^ 50 + ((core % Config.coresPerDie) / Config.coresPerCluster * Config.coresPerCluster + j) * 2 ^ 41 + (y.extractLsb' 0 41).toNat

/-- The destination rows `i`. -/
def Copy.dstRows (c : Copy) (i : Nat) : List Nat :=
  match c.kind with
  | .multicast cores => (bitsOf cores).map fun j => (multicastBase c.core j c.dst + i * c.dstr.toNat) % 2 ^ 56
  | .ring _ depth t0 => [(addrOf c.dst + c.bytes * ((t0.toNat + i) % max depth 1)) % 2 ^ 56]
  | _ => [(addrOf c.dst + i * c.dstr.toNat) % 2 ^ 56]

/-- Whether a copy reads source rows. -/
def Copy.reads (c : Copy) : Bool :=
  match c.kind with
  | .fill _ => false
  | _ => true

/-- The runs of bytes of row `i`, with their accesses. -/
def Copy.rowRuns (c : Copy) (i : Nat) : List (AccKind × Nat) :=
  (if c.reads then [(AccKind.read, c.srcRow i)] else []) ++ (c.dstRows i).map fun a => (AccKind.write, a)

/-- The runs of every row. -/
def Copy.runs (c : Copy) : List (AccKind × Nat) := (List.range c.rows).flatMap c.rowRuns

/-- The issuing strand as an agent. -/
def Copy.agent (c : Copy) : Agent := ⟨c.core, c.launch, c.ptroot, c.priv⟩

/-! ## Issue (R294, R295) -/

/-- Whether a run of bytes leaves the regions that a copy accepts (R295). -/
def runAccess (va n : Nat) : Bool := decide (14 ≤ region va) || decide (region va ≠ region ((va + n - 1) % 2 ^ 56))

/-- The first byte of a run in a window that R199 refuses. -/
def State.runBound (s : State) (a : Agent) (k : AccKind) (va n : Nat) : Option Nat :=
  if isGlobal va then none
  else ((pieces va n).find? fun p => match s.locate a k p.1 p.2 with
    | .at _ => false
    | .held => false
    | _ => true).map fun p => s.firstBound a k p.1 p.2

/-- The checks of the rows of a copy (R295): ACCESS, then BOUNDS. -/
def State.copyRows (s : State) (c : Copy) (k : Res) : Res :=
  match c.runs.find? fun r => runAccess r.2 c.bytes with
  | some r => s.raise 0x07 (infoAt r.2)
  | none =>
    match c.runs.findSome? fun r => s.runBound c.agent r.1 r.2 c.bytes with
    | some a => s.raise 0x06 (infoAt a)
    | none => k

/-- ROWS and BYTES in the ranges that a copy accepts (R295). -/
def Specials.shapeOk (p : Specials) : Bool :=
  decide (1 ≤ p.grows.toNat) && decide (p.grows.toNat ≤ 65536) && decide (1 ≤ p.growb.toNat) && decide (p.growb.toNat ≤ 2 ^ 24)

/-- A copy that has done nothing yet. -/
def Moves.start : Moves := ⟨[], [], [], false⟩

/-- A copy of the running strand with the shape in force. -/
def State.newCopy (s : State) (kind : CopyKind) (x y : Word) : Copy :=
  { kind := kind, core := s.core.cid, strand := s.cur.num, launch := s.cur.launch, ptroot := s.cur.sp.ptroot, priv := s.cur.priv,
    item := s.cur.sp.item, redN := s.cur.redCount, src := x, dst := y, rows := s.cur.sp.grows.toNat, bytes := s.cur.sp.growb.toNat,
    sstr := s.cur.sp.gsstr, dstr := s.cur.sp.gdstr, token := 0, faults := 0, mv := Moves.start }

/-- A copy whose checks have passed starts once an entry of the copy table and a cell are free (R294). -/
def State.startCopy (s : State) (d : BitVec 5) (c : Copy) (after : State → State) : Res :=
  if 1024 ≤ s.core.copies then .wait s .engine
  else
    match s.allocCell 1 1 with
    | none => .wait s .engine
    | some (h, s) =>
      let s := s.onCluster (clusterOf s.core.cid) fun cl => { cl with copies := cl.copies ++ [{ c with token := h }] }
      .ok ((after (s.onFocus fun k => { k with copies := k.copies + 1 })).wg d h)

/-- The frame of `gcp`, `gcpm` and `gfill`: CLUSTER_CFG, then the rows. -/
def State.plainCopy (s : State) (d : BitVec 5) (ok : Bool) (c : Copy) : Res :=
  if !s.cur.sp.shapeOk || !ok then s.raise 0x17 0 else s.copyRows c (s.startCopy d c id)

/-- `gshape` (R294). -/
def execGshape (st : Bool) (a b : BitVec 5) (s : State) : Out :=
  issue st 4 { g := [a, b] }
    (fun s =>
      let x := s.rg a
      let y := s.rg b
      let p := fun (q : Specials) =>
        { q with
          grows := (x.extractLsb' 0 32).setWidth 64, growb := (x.extractLsb' 32 32).setWidth 64
          gsstr := (y.extractLsb' 0 32).signExtend 64, gdstr := (y.extractLsb' 32 32).signExtend 64 }
      if (p s.cur.sp).shapeOk then .ok (s.onSp p) else s.raise 0x17 0) s

/-- `gcp` (R294). -/
def execGcp (st : Bool) (d a b : BitVec 5) (s : State) : Out :=
  issue st 4 { g := [a, b] } (fun s => s.plainCopy d true (s.newCopy .copy (s.rg a) (s.rg b))) s

/-- `gcpm` (R294): y in region 0xD, CORES not 0. -/
def execGcpm (st : Bool) (d a b : BitVec 5) (s : State) : Out :=
  issue st 4 { g := [a, b] }
    (fun s =>
      let y := s.rg b
      let cores := s.cur.sp.gmcast.extractLsb' 0 16
      s.plainCopy d (cores != 0 && region (addrOf y) == 13) (s.newCopy (.multicast cores) (s.rg a) y)) s

/-- `gfill` (R294). -/
def execGfill (st : Bool) (d a b : BitVec 5) (s : State) : Out :=
  issue st 4 { g := [a, b] } (fun s => s.plainCopy d true (s.newCopy (.fill (s.rg a)) (s.rg a) (s.rg b))) s

/-- The tags of `gred` (R297). -/
def redTags (x y : Word) : Bool := tagBlk (ptrTag x) == 0 && addType (ptrFmt x) && (ptrTag y == 0 || ptrTag y == ptrTag x)

/-- The alignment of `gred` (R297). -/
def Copy.aligned (c : Copy) (e : Nat) : Bool :=
  c.bytes % e == 0 && c.sstr.toNat % e == 0 && c.dstr.toNat % e == 0 && addrOf c.src % e == 0 && addrOf c.dst % e == 0

/-- `gred` (R297): FORMAT and MISALIGN come before the checks of the rows (R300). -/
def execGred (st : Bool) (d a b : BitVec 5) (s : State) : Out :=
  issue st 4 { g := [a, b] }
    (fun s =>
      let x := s.rg a
      let y := s.rg b
      let c := s.newCopy (.reduce (ptrFmt x)) x y
      if !s.cur.sp.shapeOk then s.raise 0x17 0
      else if !redTags x y then s.raise 0x05 (infoAt (addrOf (if addType (ptrFmt x) && tagBlk (ptrTag x) == 0 then y else x)))
      else if !c.aligned (addSize (ptrFmt x)) then s.raise 0x04 (infoAt (addrOf x))
      else s.copyRows c (s.startCopy d c fun s => s.onCur fun t => { t with redCount := t.redCount + 1 })) s

/-- `gq` (R294). -/
def execGq (st : Bool) (d : BitVec 5) (s : State) : Out :=
  issue st 4 {} (fun s => .ok (s.wg d (BitVec.ofNat 64 (s.core.copies * 2 ^ 16 + (1024 - s.core.copies))))) s

/-- Q and the tile count of `gcpr`, when the word is well formed (R298). -/
def ringCount (y : Word) : Option (BitVec 3 × Nat) :=
  let c := (y.extractLsb' 8 8).toNat
  if y.extractLsb' 3 5 = 0 ∧ y.extractLsb' 16 48 = 0 ∧ 1 ≤ c ∧ c ≤ 64 then some (y.extractLsb' 0 3, c) else none

/-- The copy of `gcpr` into a ring. -/
def State.ringCopy (s : State) (x : Word) (q : BitVec 3) (n : Nat) (r : Ring) : Copy :=
  let tb := ringTileBytes r.tag
  { s.newCopy (.ring q r.depth r.tail) x (BitVec.ofNat 64 (0xD * 2 ^ 52 + 0x1FF * 2 ^ 41 + (r.base.extractLsb' 0 19).toNat)) with
    rows := n, bytes := tb, sstr := if s.cur.sp.gsstr = 0 then BitVec.ofNat 64 tb else s.cur.sp.gsstr, dstr := 0 }

/-- `gcpr` (R298): the rows of a configured ring are checked before the classes of R235 (R300). DEDUCED: log 57. -/
def execGcpr (st : Bool) (d a b : BitVec 5) (s : State) : Out :=
  issue st 4 { g := [a, b] }
    (fun s =>
      if !s.cur.sp.shapeOk then s.raise 0x17 0
      else
        let q := (s.rg b).extractLsb' 0 3
        let n := ((s.rg b).extractLsb' 8 8).toNat
        let r := s.mx.ring q
        let c := s.ringCopy (s.rg a) q n r
        let late := s.owned (s.ringOther q) <|
          if (ringCount (s.rg b)).isNone then s.raise 0x19 0
          else s.cfgOk (r.depth != 0) (s.ringOk (decide (r.occupancy + n ≤ r.depth)) (s.startCopy d c id))
        if r.depth = 0 ∨ n = 0 ∨ 64 < n then late else s.copyRows c late) s

/-! ## Performance (R296) -/

/-- A run of a row that is one access of the engine: the row, an offset in it, a length. -/
abbrev Run := Nat × Nat × Nat

/-- A run of a destination: its place among the destinations of the row, and the run. -/
abbrev Piece := Nat × Run

/-- A run of bytes cut at granules whose size `g` gives: offsets and lengths. -/
def cutRun (g : Nat → Nat) (va n : Nat) : Nat → Nat → List (Nat × Nat)
  | 0, _ => []
  | fuel + 1, off =>
    if n ≤ off then []
    else
      let a := (va + off) % 2 ^ 56
      let k := min (n - off) (g a - a % g a)
      (off, k) :: cutRun g va n fuel (off + k)

/-- The accesses in which a copy reads its source (R203). -/
def State.copyRuns (s : State) (c : Copy) : List Run :=
  if c.reads then (List.range c.rows).flatMap fun i => (cutRun (fun a => s.granuleAt c.agent a .read) (c.srcRow i) c.bytes (c.bytes / 8 + 2) 0).map fun p => (i, p)
  else []

/-- The accesses in which a copy writes its destinations (R203). -/
def State.copyPieces (s : State) (c : Copy) : List Piece :=
  (List.range c.rows).flatMap fun i => (c.dstRows i).zipIdx.flatMap fun a =>
    (cutRun (fun x => s.granuleAt c.agent x) a.1 c.bytes (c.bytes / 8 + 2) 0).map fun p => (a.2, i, p)

/-- The reads of a copy that are still to be made. -/
def State.runsLeft (s : State) (c : Copy) : List Run := (s.copyRuns c).filter fun r => !c.mv.got.any fun x => x.1 == r.1 && x.2.1 == r.2.1

/-- The writes of a copy that are still to be made. -/
def State.piecesLeft (s : State) (c : Copy) : List Piece := (s.copyPieces c).filter fun p => !c.mv.done.contains p

/-- The reads that a write still needs. -/
def State.needs (s : State) (c : Copy) (p : Piece) : List Run :=
  (s.runsLeft c).filter fun r => r.1 == p.2.1 && decide (r.2.1 < p.2.2.1 + p.2.2.2) && decide (p.2.2.1 < r.2.1 + r.2.2)

/-- Whether runs of `n` bytes from two addresses share a byte. -/
def overlap (a b n : Nat) : Bool := decide ((a + 2 ^ 56 - b) % 2 ^ 56 < n) || decide ((b + 2 ^ 56 - a) % 2 ^ 56 < n)

/-- Whether a copy writes a byte of its source, or a byte twice (R296). -/
def Copy.overlaps (c : Copy) : Bool :=
  (List.range c.rows).any fun i => (c.dstRows i).any fun a =>
    ((List.range c.rows).any fun j => c.reads && overlap a (c.srcRow j) c.bytes) || (List.range i).any fun j => (c.dstRows j).any fun b => overlap a b c.bytes

/-- A counter of free choices advanced. -/
def State.fresh (s : State) : State := { s with free := s.free + 1 }

/-- A free choice among the elements of a list. -/
def State.someOf {α : Type} (s : State) (l : List α) : List α :=
  l.zipIdx.filterMap fun p => if Config.freeBool (s.free * 2 ^ 64 + p.2) then some p.1 else none

/-- A run of the source read. A byte that the copy has overwritten is the one before the copy or the one that it has written, a free
choice, each with its poison (R263, R296). -/
def State.copyRead (s : State) (c : Copy) (r : Run) : State × Copy :=
  let va := (c.srcRow r.1 + r.2.1) % 2 ^ 56
  let (t, now, bad) := s.engineRead c.agent va r.2.2
  let bs := now.zipIdx.map fun x => match c.mv.old.find? (·.1 == (va + x.2) % 2 ^ 56) with
    | some y => if Config.freeBool (s.free * 2 ^ 64 + x.2) then y.2 else (x.1, bad)
    | none => (x.1, bad)
  let bad := bs.any (·.2)
  (t.fresh, { c with mv := { c.mv with got := (r.1, r.2.1, bs.map (·.1), bad) :: c.mv.got, bad := c.mv.bad || bad } })

/-- The bytes of `gfill` at a destination. -/
def fillBytes (x : Word) (va n : Nat) : List Byte := (List.range n).map fun i => x.extractLsb' (8 * ((va + i) % 8)) 8

/-- The bytes of a row that a copy has read, with whether one of their accesses met erroneous data. -/
def Moves.bytes (m : Moves) (row off n : Nat) : List (Byte × Bool) :=
  let runs := m.got.filter (·.1 == row)
  (List.range n).map fun o => match runs.find? fun r => decide (r.2.1 ≤ off + o) && decide (off + o < r.2.1 + r.2.2.1.length) with
    | some r => (r.2.2.1[off + o - r.2.1]?.getD 0, r.2.2.2)
    | none => (0, true)

/-- The destination of a piece. -/
def Copy.target (c : Copy) (p : Piece) : Nat := (((c.dstRows p.2.1)[p.1]?).getD 0 + p.2.2.1) % 2 ^ 56

/-- What a copy writes at a piece: each byte, and whether it is erroneous. -/
def Copy.pieceBytes (c : Copy) (p : Piece) : List (Byte × Bool) :=
  match c.kind with
  | .fill x => (fillBytes x (c.target p) p.2.2.2).map fun b => (b, false)
  | _ => c.mv.bytes p.2.1 p.2.2.1 p.2.2.2

/-- Whether a byte lies in a piece performed before. -/
def Copy.written (c : Copy) (va : Nat) : Bool := c.mv.done.any fun p => decide ((va + 2 ^ 56 - c.target p) % 2 ^ 56 < p.2.2.2)

/-- Whether a byte lies in the source of a copy. -/
def Copy.inSource (c : Copy) (va : Nat) : Bool := c.reads && (List.range c.rows).any fun i => decide ((va + 2 ^ 56 - c.srcRow i) % 2 ^ 56 < c.bytes)

/-- A piece of a destination written, with its data read. Where pieces overlap, a byte keeps the value of the one before or takes that of
this one, a free choice, each with its poison; the bytes of its own source that the copy overwrites are kept beside it (R263, R296). -/
def State.copyWrite (s : State) (c : Copy) (p : Piece) : State × Copy :=
  let va := c.target p
  let bs := c.pieceBytes p
  let done := p :: c.mv.done
  if c.overlaps then
    let (t, cur, bad) := s.engineRead c.agent va bs.length .write
    let at_ := fun (o : Nat) => (va + o) % 2 ^ 56
    let out := (cur.zip bs).zipIdx.map fun x => if c.written (at_ x.2) && Config.freeBool (s.free * 2 ^ 64 + x.2) then (x.1.1, bad) else x.1.2
    let kept := cur.zipIdx.filterMap fun x =>
      if c.inSource (at_ x.2) && !c.mv.old.any (·.1 == at_ x.2) then some (at_ x.2, x.1, bad) else none
    (t.fresh.engineWrite c.agent va (out.map (·.1)) (out.any (·.2)), { c with mv := { c.mv with done := done, old := c.mv.old ++ kept } })
  else (s.engineWrite c.agent va (bs.map (·.1)) (bs.any (·.2)), { c with mv := { c.mv with done := done } })

/-- The contributions of a piece of `gred` with its data read (R297). DEDUCED: log 59. -/
def State.addsOf (s : State) (c : Copy) (fmt : BitVec 5) (p : Piece) : List Contribution :=
  let e := addSize fmt
  let bs := (c.pieceBytes p).map (·.1)
  (List.range (p.2.2.2 / e)).flatMap fun k => match s.locate c.agent .write ((c.target p + k * e) % 2 ^ 56) e with
    | .at (.here key) =>
      [{ launch := c.launch, item := c.item, n := c.redN, j := (p.2.1 * c.bytes + p.2.2.1) / e + k, fmt := fmt, addr := key
         value := BitVec.ofNat 64 (leValue ((bs.drop (k * e)).take e)) : Contribution }]
    | _ => []

/-- Pieces of `gred` added at their homes, with their data read (R297, R317); erroneous data marks its destination (R263). -/
def State.copyAdds (s : State) (c : Copy) (fmt : BitVec 5) (ps : List Piece) : State × Copy :=
  let xs := ps.map fun p => (s.addsOf c fmt p, (c.pieceBytes p).any (·.2))
  let t := s.fresh.addPackets (xs.flatMap (·.1))
  ((xs.filter (·.2)).foldl (fun t x => x.1.foldl (fun t k => t.markPoison k.addr (addSize fmt)) t) t,
    { c with mv := { c.mv with done := ps ++ c.mv.done } })

/-- The reads that a piece still needs, made. -/
def State.copyReads (x : State × Copy) (p : Piece) : State × Copy := (x.1.needs x.2 p).foldl (fun x r => x.1.copyRead x.2 r) x

/-- Pieces of a copy performed, each after the reads that it still needs; in a free order where it matters (R296). -/
def State.performPieces (s : State) (c : Copy) (ps : List Piece) : State × Copy :=
  match c.kind with
  | .reduce fmt => let (t, d) := ps.foldl State.copyReads (s, c); t.copyAdds d fmt ps
  | _ =>
    (if c.overlaps then freeOrder (s.free * 2 ^ 64) ps else ps).foldl (fun x p => let y := State.copyReads x p; y.1.copyWrite y.2 p) (s.fresh, c)

/-- The rest of a copy performed. -/
def State.copyRest (s : State) (c : Copy) : State × Copy := s.performPieces c (s.piecesLeft c)

/-- Whether every byte of a run can be had, or written, now. -/
def State.runOk (s : State) (c : Copy) (k : AccKind) (va n : Nat) : Bool :=
  (pieces va n).all fun q => match s.locate c.agent k q.1 q.2 with
    | .at (.here _) => true
    | _ => false

/-- Whether a read of a copy can be made now. -/
def State.readOk (s : State) (c : Copy) (r : Run) : Bool := s.runOk c .read ((c.srcRow r.1 + r.2.1) % 2 ^ 56) r.2.2

/-- Whether a piece can be performed now. -/
def State.pieceOk (s : State) (c : Copy) (p : Piece) : Bool := s.runOk c .write (c.target p) p.2.2.2 && (s.needs c p).all (s.readOk c)

/-- A copy under way makes some of its reads and then some of its writes between its issue and its completion, a free choice (R296, R380).
DESIGN CHOICE: log 58. -/
def State.copyMoves (s : State) (c : Copy) : State × Copy :=
  let (t, d) := (s.someOf ((s.runsLeft c).filter (s.readOk c))).foldl (fun x r => x.1.copyRead x.2 r) (s.fresh, c)
  t.fresh.performPieces d (t.someOf ((t.piecesLeft d).filter (t.pieceOk d)))

/-- The copies of a cluster move on. -/
def State.driftCluster (s : State) (cl : Cluster) : State :=
  if cl.engines = 0 then s
  else
    cl.copies.foldl
      (fun s c =>
        let (t, c') := s.copyMoves c
        t.onCluster cl.id fun k => { k with copies := k.copies.map fun x => if x.token = c.token then c' else x }) s

/-- A row that a copy may not reach. -/
def State.rowDenied (s : State) (c : Copy) (i : Nat) : Bool := (c.rowRuns i).any fun r => s.runDenied c.agent r.1 r.2 c.bytes

/-- Pages of a copy that are not resident, with the accesses that meet them. -/
def State.copyAbsent (s : State) (c : Copy) : List (Nat × Nat) := c.runs.flatMap fun r => s.runAbsent c.agent r.1 r.2 c.bytes

/-- ACC of the batch of a copy's faults (R358). -/
def State.copyAcc (s : State) (c : Copy) : BitVec 3 :=
  c.runs.foldl (fun a r => if (s.runAbsent c.agent r.1 r.2 c.bytes).isEmpty then a else a ||| accBits r.1) 0

/-! ## The end of a copy -/

/-- A copy leaves its table, and its token is told; the message reaches a cell of the cluster 4 cycles later (R294). -/
def State.endCopy (s : State) (c : Copy) (code : BitVec 8) : State :=
  let s := (s.onCluster (clusterOf c.core) fun cl => { cl with copies := cl.copies.filter (·.token != c.token) }).onCore c.core fun k =>
    { k with copies := k.copies - 1 }
  let s := s.endFault (.copy c.token)
  s.postAt c.core (some ((s.coreOf c.core).cycle + 4)) (if code = 0 then .signal c.token else .fail c.token code)

/-- A copy that ends early with a failure code, after a free choice of the accesses that it can still make (R295, R296). -/
def State.failCopy (s : State) (c : Copy) (code : BitVec 8) : State := (s.copyMoves c).1.endCopy c code

/-- The commit of a ring copy, when every tile has been written (R298); false when TAIL has moved too far. -/
def State.ringCommit (s : State) (c : Copy) : State × Bool :=
  match c.kind with
  | .ring q _ _ =>
    let f := s.core.cid
    let t := s.focusOn c.core
    let r := t.mx.ring q
    if r.occupancy + c.rows ≤ r.depth then ((t.commitRing q c.rows).focusOn f, true) else (s, false)
  | _ => (s, true)

/-- The failure code of a copy that has been performed: UNREACHABLE, POISON, RING_OVER, or none. -/
def copyCode (unreachable bad room : Bool) : BitVec 8 := if unreachable then 4 else if !room then 0x34 else if bad then 3 else 0

/-- The copy is performed, when no page of it is missing and no dump holds it back. -/
def State.copyNow (s : State) (c : Copy) : Option State :=
  if (List.range c.rows).any (s.rowDenied c) then some (s.failCopy c 0x32)
  else if c.runs.any fun r => s.runHeld c.agent r.1 r.2 c.bytes then none
  else
    let far := c.runs.any fun r => s.runUnreachable c.agent r.1 r.2 c.bytes
    let (s, d) := s.copyRest c
    let (s, room) := s.ringCommit c
    some (s.endCopy c (copyCode far d.mv.bad room))

/-- GONDOLA_COPY_COMPLETE (R294-R298, R360). -/
def State.evCopy (s : State) (cluster i : Nat) : Option State :=
  let cl := s.clusterAt cluster
  if cl.engines = 0 ∨ s.engineStop then none
  else
    match cl.copies[i]? with
    | none => none
    | some c =>
      let absent := s.copyAbsent c
      match s.serviced (.copy c.token) with
      | .waiting => none
      | .failed s => some (s.failCopy c 0x32)
      | .clear => if absent.isEmpty then s.copyNow c else none
      | .retry s page =>
        if absent.isEmpty then s.copyNow c
        else some (s.onCluster cluster fun k => { k with copies := k.copies.modify i fun c => { c with faults := groupFaults absent page c.faults } })

/-- GONDOLA_ENGINE_FAILURE (R299): the copies in progress at the failed engine fail with COPY_LOST, and ENGINES falls. Which of
the cluster's copies those are is a free choice. DESIGN CHOICE: log 60. -/
def State.evEngineLost (s : State) (cluster engine : Nat) : Option State :=
  let cl := s.clusterAt cluster
  if cl.engines ≤ engine ∨ 96 ≤ cluster then none
  else
    let lost := (cl.copies.zipIdx.filter fun p => Config.freeBool (s.free * 2 ^ 64 + p.2)).map (·.1)
    let s := (s.fresh).onCluster cluster fun k => { k with engines := k.engines - 1 }
    some (lost.foldl (fun s c => s.failCopy c 0x33) s).reHealth

/-- A cancelled launch's copies end with CANCELLED (R296). -/
def State.cancelCopies (s : State) (l : Nat) : State :=
  (s.clusters.flatMap fun k => k.copies.filter fun c => c.launch == some l).foldl (fun s c => s.failCopy c 5) s

/-- GONDOLA_COPY_COMPLETE (R294). -/
def execGondolaCopyComplete (cluster i : Nat) (s : State) : Out := evOut "GONDOLA_COPY_COMPLETE" (s.evCopy cluster i)
/-- GONDOLA_ENGINE_FAILURE (R299). -/
def execGondolaEngineFailure (cluster engine : Nat) (s : State) : Out := evOut "GONDOLA_ENGINE_FAILURE" (s.evEngineLost cluster engine)

end Sys2Proof.Machine
end

