-- ==== Sys2Proof/Machine/Moraine.lean ====
section
/-! DEFINITION. The Moraine recurrent-state store (R329-R345): slots and snapshots, the unit's answers to requests, `SS`, and the
data movements. -/

namespace Sys2Proof.Machine

/-! ## Slots (R329-R331) -/

/-- Slots of a die (R329). -/
abbrev moraineSlots : Nat := 8192

/-- A slot of a die. -/
def Die.slot (d : Die) (n : Nat) : MSlot := (d.slots.find? (·.1 == n)).elim MSlot.reset (·.2)

/-- Replacing a slot. -/
def Die.setSlot (d : Die) (n : Nat) (x : MSlot) : Die := { d with slots := (n, x) :: d.slots.filter (·.1 != n) }

/-- Changing a slot of a die. -/
def State.onSlot (s : State) (die n : Nat) (f : MSlot → MSlot) : State := s.onDie die fun d => d.setSlot n (f (d.slot n))

/-- A slot that is FREE. -/
def MSlot.free (m : MSlot) : Bool := !m.isOpen && !m.closing

/-- DIE and SLOT of a handle. -/
def ssDie (h : Word) : Nat := (h.extractLsb' 13 2).toNat
/-- SLOT of a handle. -/
def ssSlot (h : Word) : Nat := (h.extractLsb' 0 13).toNat

/-- The slot of a current handle (R329). -/
def State.current (s : State) (ptroot h : Word) : Option MSlot :=
  let m := (s.dieAt (ssDie h)).slot (ssSlot h)
  if h.extractLsb' 15 25 = 0 ∧ m.isOpen ∧ m.gen = h.extractLsb' 40 24 ∧ asidOf m.ptroot = asidOf ptroot then some m else none

/-- The newest snapshot. -/
def MSlot.newest (m : MSlot) : Option Snapshot := m.table.getLast?

/-- The snapshot at a position. -/
def MSlot.at (m : MSlot) (p : Nat) : Option Snapshot := m.table.find? (·.pos == p)

/-- The own snapshot that a buffer holds. -/
def MSlot.holder (m : MSlot) (b : Nat) : Option Snapshot := m.table.find? fun x => x.lender.isNone && x.buf == b

/-- The fork count of an own buffer. -/
def MSlot.forkCount (m : MSlot) (b : Nat) : Nat := m.forks[b]?.getD 0
/-- The read count of an own buffer. -/
def MSlot.readCount (m : MSlot) (b : Nat) : Nat := m.reads[b]?.getD 0

/-- Pinned snapshots of a slot. -/
def MSlot.pinned (m : MSlot) : Nat := (m.table.filter (·.pins != 0)).length

/-- A count of a list changed. -/
def adjust (l : List Nat) (i : Nat) (f : Nat → Nat) : List Nat := l.modify i f

/-- A fork count of a slot of a die changed. -/
def State.onForks (s : State) (die n b : Nat) (f : Nat → Nat) : State := s.onSlot die n fun m => { m with forks := adjust m.forks b f }

/-- A read count of a slot of a die changed. -/
def State.onReads (s : State) (die n b : Nat) (f : Nat → Nat) : State := s.onSlot die n fun m => { m with reads := adjust m.reads b f }

/-- The lenders of snapshots that leave a table count one borrower less (R337). -/
def State.returnBases (s : State) (die : Nat) (gone : List Snapshot) : State :=
  gone.foldl (fun s x => match x.lender with
    | some n => s.onForks die n x.buf (· - 1)
    | none => s) s

/-- The FREE slots in service of a die (R332). -/
def Die.freeSlots (d : Die) : List Nat := if d.outOfUse then [] else (List.range moraineSlots).filter fun n => (d.slot n).free && !d.slotsOut.contains n

/-! ## Where a commit writes (R333) -/

/-- The own buffer of the newest snapshot. -/
def MSlot.newestBuf (m : MSlot) : Option Nat := m.newest.bind fun x => if x.lender.isNone then some x.buf else none

/-- Whether an own buffer holds a pinned snapshot. -/
def MSlot.pinnedBuf (m : MSlot) (b : Nat) : Bool := match m.holder b with
  | some x => x.pins != 0
  | none => false

/-- Whether a commit may take a buffer. -/
def MSlot.eligible (m : MSlot) (b : Nat) : Bool := m.newestBuf != some b && !m.pinnedBuf b && m.forkCount b == 0 && m.readCount b == 0

/-- The own buffers in scan order. -/
def MSlot.scan (m : MSlot) : List Nat :=
  let start := match m.newestBuf with
    | some n => n + 1
    | none => 0
  (List.range m.depth).map fun i => (start + i) % max m.depth 1

/-- The buffer whose snapshot is oldest among buffers that hold one. -/
def MSlot.oldest (m : MSlot) (bs : List Nat) : Option Nat := (m.table.find? fun x => x.lender.isNone && bs.contains x.buf).map (·.buf)

/-- The buffer of a commit, or the status of its refusal. -/
def MSlot.choose (m : MSlot) : Nat ⊕ Nat :=
  let bs := m.scan.filter m.eligible
  match bs.find? fun b => (m.holder b).isNone with
  | some b => .inr b
  | none =>
    match m.oldest bs with
    | some b => .inr b
    | none =>
      .inl (if (List.range m.depth).any fun b => m.newestBuf != some b && !m.pinnedBuf b && m.forkCount b == 0 && m.readCount b != 0 then 7 else 6)

/-- The table after a commit at position `p` in buffer `b`, and the base that leaves it. -/
def MSlot.enter (m : MSlot) (p b : Nat) (maker : Word) : List Snapshot × List Snapshot :=
  let t := (m.table.filter fun x => !(x.lender.isNone && x.buf == b)) ++ [⟨p, b, none, 0, maker⟩]
  if t.length = m.depth + 1 then (t.filter (·.lender.isNone), t.filter (·.lender.isSome)) else (t, [])

/-! ## Answers of the unit (R334-R341) -/

/-- What a request is answered: d, a trap of the core's checks, or that no cell is free. -/
inductive SsAnswer where
  | reply (x : Word)
  | trap (cause : BitVec 8) (info : Word)
  | noCell

/-- A status. -/
def ssStatus (n : Nat) : SsAnswer := .reply (BitVec.ofNat 64 n)

/-- The checks of the range of `ssld` and `sscm` on the core (R335), in the order of R223. -/
def State.ssRange (s : State) (r : SsRequest) (k : AccKind) (size : Nat) : Option (BitVec 8 × Word) :=
  let va := addrOf r.d
  let a : Agent := ⟨r.core, r.launch, r.ptroot, r.priv⟩
  if runAccess va size then some (0x07, infoAt va)
  else if va % 64 ≠ 0 then some (0x04, infoAt va)
  else (s.runBound a k va size).map fun b => (0x06, infoAt b)

/-- An accepted operation gets its kind-6 cell and joins the queue of the unit (R335). -/
def State.ssAccept (s : State) (die : Nat) (r : SsRequest) (op : MoraineOp) (f : Word → State → State) : SsAnswer × State :=
  match (s.coreOf r.core).alloc s.node 0 Config.faultCells 6 1 r.strand with
  | none => (.noCell, s)
  | some (h, c) => (.reply h, f h ((s.setCore c).onDie die fun d => { d with ssOps := d.ssOps ++ [{ op with token := h }] }))

/-- An operation of a request. -/
def SsRequest.op (r : SsRequest) (slot : Nat) (m : MSlot) : MoraineOp :=
  { slot := slot, gen := m.gen, commit := false, close := false, pos := 0, buf := 0, bufSlot := slot, addr := r.d, token := 0, core := r.core,
    strand := r.strand, launch := r.launch, ptroot := r.ptroot, priv := r.priv, cancelled := false, aborted := false, faults := 0, maker := 0, mv := Moves.start }

/-- The all-ones position. -/
def allOnes : Word := 0xFFFFFFFFFFFFFFFF#64

/-- The snapshot that a position names, or a status (R335, R339): `ones` admits the newest. -/
def MSlot.named (m : MSlot) (y : Word) (ones : Bool) : Nat ⊕ Snapshot :=
  if ones && y == allOnes then
    match m.newest with
    | some x => .inr x
    | none => .inl 4
  else if y.extractLsb' 48 16 ≠ 0 then .inl 13
  else
    match m.at y.toNat with
    | some x => .inr x
    | none => .inl 4

/-- The fields of a slot descriptor (R330), when it passes. -/
def slotDesc (x : BitVec 128) : Option (Nat × Nat × Word) :=
  let depth := (x.extractLsb' 120 5).toNat
  let size := (x.extractLsb' 64 27).toNat
  let base := x.extractLsb' 0 64
  if x.extractLsb' 125 3 = 0 ∧ x.extractLsb' 91 29 = 0 ∧ x.extractLsb' 56 8 = 0 ∧ 2 ≤ depth ∧ depth ≤ 16 ∧ 64 ≤ size ∧ size ≤ 2 ^ 26 ∧
      size % 64 = 0 ∧ base.toNat % 64 = 0 ∧ isGlobal base.toNat ∧ base.toNat + depth * size ≤ 2 ^ 56 then some (depth, size, base) else none

/-- `ssopen` at the unit (R329, R330). -/
def State.ssOpen (s : State) (die : Nat) (r : SsRequest) : SsAnswer × State :=
  match slotDesc r.desc with
  | none => (ssStatus 3, s)
  | some (depth, size, base) =>
    match (s.dieAt die).freeSlots.head? with
    | none => (ssStatus 2, s)
    | some n =>
      let g := nextGen ((s.dieAt die).slot n).gen
      (.reply (g ++ (0#25 ++ (BitVec.ofNat 2 die ++ BitVec.ofNat 13 n))),
        s.onSlot die n fun _ =>
          { isOpen := true, closing := false, gen := g, ptroot := r.ptroot, base := base, size := size, depth := depth, table := [],
            forks := List.replicate depth 0, reads := List.replicate depth 0 })

/-- `ssld` at the unit (R335). -/
def State.ssLoad (s : State) (die slot : Nat) (m : MSlot) (r : SsRequest) : SsAnswer × State :=
  match m.named r.y true with
  | .inl e => (ssStatus e, s)
  | .inr x =>
    match s.ssRange r .write m.size with
    | some (c, i) => (.trap c i, s)
    | none =>
      let o := x.lender.getD slot
      s.ssAccept die r { r.op slot m with pos := x.pos, buf := x.buf, bufSlot := o, maker := x.maker } fun _ s => s.onReads die o x.buf (· + 1)

/-- `sscm` at the unit (R333, R335). -/
def State.ssCommit (s : State) (die slot : Nat) (m : MSlot) (r : SsRequest) : SsAnswer × State :=
  if r.y.extractLsb' 48 16 ≠ 0 then (ssStatus 13, s)
  else if match m.newest with
      | some x => decide (r.y.toNat ≤ x.pos)
      | none => false
  then (ssStatus 5, s)
  else
    match m.choose with
    | .inl e => (ssStatus e, s)
    | .inr b =>
      match s.ssRange r .read m.size with
      | some (c, i) => (.trap c i, s)
      | none =>
        s.ssAccept die r { r.op slot m with commit := true, pos := r.y.toNat, buf := b } fun h s =>
          let (t, gone) := m.enter r.y.toNat b h
          (s.onSlot die slot fun m => { m with table := t }).returnBases die gone

/-- `ssroll` at the unit (R336). -/
def State.ssRoll (s : State) (die slot : Nat) (m : MSlot) (r : SsRequest) : SsAnswer × State :=
  match m.named r.y false with
  | .inl e => (ssStatus e, s)
  | .inr x =>
    let gone := m.table.filter fun z => decide (x.pos < z.pos)
    if gone.any fun z => z.pins != 0 || (z.lender.isNone && (m.forkCount z.buf != 0 || m.readCount z.buf != 0)) then (ssStatus 10, s)
    else (ssStatus 0, (s.onSlot die slot fun m => { m with table := m.table.filter fun z => decide (z.pos ≤ x.pos) }).returnBases die gone)

/-- `ssfork` at the unit (R337): the parent's handle is current. -/
def State.ssFork (s : State) (die slot : Nat) (m : MSlot) (r : SsRequest) : SsAnswer × State :=
  match s.current r.ptroot r.d with
  | none => (ssStatus 1, s)
  | some child =>
    if ssDie r.d ≠ die then (ssStatus 12, s)
    else if child.size ≠ m.size then (ssStatus 3, s)
    else if !child.table.isEmpty then (ssStatus 11, s)
    else
      match m.named r.y true with
      | .inl e => (ssStatus e, s)
      | .inr x =>
        let o := x.lender.getD slot
        if 255 ≤ ((s.dieAt die).slot o).forkCount x.buf then (ssStatus 8, s)
        else (ssStatus 0, (s.onSlot die (ssSlot r.d) fun c => { c with table := [⟨x.pos, x.buf, some o, 0, x.maker⟩] }).onForks die o x.buf (· + 1))

/-- A pin count of a snapshot changed. -/
def State.onPins (s : State) (die slot pos : Nat) (f : Nat → Nat) : State :=
  s.onSlot die slot fun m => { m with table := m.table.map fun x => if x.pos = pos then { x with pins := f x.pins } else x }

/-- `sspin` at the unit (R339). -/
def State.ssPin (s : State) (die slot : Nat) (m : MSlot) (r : SsRequest) : SsAnswer × State :=
  match m.named r.y true with
  | .inl e => (ssStatus e, s)
  | .inr x =>
    if x.pins = 255 ∨ (x.pins = 0 ∧ m.depth - 1 ≤ m.pinned) then (ssStatus 8, s) else (ssStatus 0, s.onPins die slot x.pos (· + 1))

/-- `ssunpin` at the unit (R339). -/
def State.ssUnpin (s : State) (die slot : Nat) (m : MSlot) (r : SsRequest) : SsAnswer × State :=
  match m.named r.y false with
  | .inl e => (ssStatus e, s)
  | .inr x => if x.pins = 0 then (ssStatus 9, s) else (ssStatus 0, s.onPins die slot x.pos (· - 1))

/-- What `ssq` reads (R340). -/
def MSlot.query (m : MSlot) (ops : Nat) (y : Word) : Word :=
  let at_ := fun (x : Option Snapshot) => (x.map fun x => BitVec.ofNat 64 x.pos).getD allOnes
  if y = 0 then at_ m.newest
  else if y = 1 then at_ m.table.head?
  else if y = 2 then
    0#11 ++ (BitVec.ofNat 21 (m.size / 64) ++ (BitVec.ofNat 11 ops ++ (BitVec.ofBool (m.table.any (·.lender.isSome)) ++
      (BitVec.ofNat 5 (m.forks.filter (· != 0)).length ++ (BitVec.ofNat 5 m.pinned ++ (BitVec.ofNat 5 m.table.length ++ BitVec.ofNat 5 m.depth))))))
  else if y.extractLsb' 4 60 = 0x10 then at_ m.table[(y.extractLsb' 0 4).toNat]?
  else allOnes

/-- `ssclose` at the unit (R341). -/
def State.ssClose (s : State) (die slot : Nat) (m : MSlot) (r : SsRequest) : SsAnswer × State :=
  if m.forks.any (· != 0) then (ssStatus 10, s)
  else
    s.ssAccept die r { r.op slot m with close := true } fun _ s =>
      (s.onSlot die slot fun m => { m with isOpen := false, closing := true, table := [] }).returnBases die m.table

/-- The unit's answer to a request (R334). -/
def State.serveSs (s : State) (die : Nat) (r : SsRequest) : SsAnswer × State :=
  match r.fn with
  | .opn => s.ssOpen die r
  | f =>
    let n := ssSlot r.x
    match s.current r.ptroot r.x with
    | none => (if f = .query then .reply allOnes else ssStatus 1, s)
    | some m =>
      match f with
      | .ld => s.ssLoad die n m r
      | .cm => s.ssCommit die n m r
      | .roll => s.ssRoll die n m r
      | .fork => s.ssFork die n m r
      | .pin => s.ssPin die n m r
      | .unpin => s.ssUnpin die n m r
      | .close => s.ssClose die n m r
      | _ => (.reply (m.query ((s.dieAt die).ssOps.filter (·.slot == n)).length r.y), s)

/-! ## `SS` (R334) -/

/-- A request of the running strand. -/
def State.ssRequest (s : State) (fn : SsFn) (d x y : Word) (desc : BitVec 128) : SsRequest :=
  { fn := fn, d := d, x := x, y := y, desc := desc, token := 0, core := s.core.cid, strand := s.cur.num, launch := s.cur.launch,
    ptroot := s.cur.sp.ptroot, priv := s.cur.priv }

/-- Sending a request, and waiting for its reply: at once while the unit has room and no request before it, else through its
queue. -/
def State.ssSend (s : State) (st : Bool) (d : BitVec 5) (die : Nat) (cell : Bool) (r : SsRequest) : Res :=
  if s.core.posted then .wait s .engine
  else if cell && (s.core.firstFree Config.faultCells 0).isNone then .wait s .engine
  else if (s.dieAt die).ssOps.length < 1024 ∧ (s.dieAt die).ssQueue.isEmpty then
    match s.serveSs die r with
    | (.reply x, s) => (s.wg d x).replyWait st .engine
    | (.trap c i, _) => (s.freeStall .engine).raise c i
    | (.noCell, _) => .wait s .engine
  else .wait ((s.onDie die fun x => { x with ssQueue := x.ssQueue ++ [r] }).onFocus fun c => { c with posted := true }) .engine

/-- The frame of `SS`: a reply that has come is written; else the request is made. -/
def State.ssFrame (s : State) (d : BitVec 5) (k : State → Res) : Res :=
  match s.core.reply with
  | .moraine x c => if c = 0 then .ok (s.wg d x) else s.raise c x
  | _ => k s

/-- `ssopen` (R330, R334): the core reads the descriptor itself. DEDUCED: log 63. -/
def execSsopen (st : Bool) (d a : BitVec 5) (s : State) : Out :=
  issue st 4 { g := [a] }
    (fun s => s.ssFrame d fun s =>
      let x := s.rg a
      if s.core.posted then .wait s .engine
      else
        s.withAcc .read 16 (addrOf x) (s.scalarAcc .read 16 false x) fun h s =>
          match s.homeBad h 16 with
          | some (p, off) => s.raise (if p then 0x0F else 0x0E) (infoAt (addrOf x + off))
          | none => s.ssSend st d (dieOf s.core.cid) false (s.ssRequest .opn 0 0 0 (BitVec.ofNat 128 (s.homeLoad h 16)))) s

/-- `ssld` (R335). -/
def execSsld (st : Bool) (d a b : BitVec 5) (s : State) : Out :=
  issue st 4 { g := [a, b, d] } (fun s => s.ssFrame d fun s => s.ssSend st d (ssDie (s.rg a)) true (s.ssRequest .ld (s.rg d) (s.rg a) (s.rg b) 0)) s

/-- `sscm` (R335). -/
def execSscm (st : Bool) (d a b : BitVec 5) (s : State) : Out :=
  issue st 4 { g := [a, b, d] } (fun s => s.ssFrame d fun s => s.ssSend st d (ssDie (s.rg a)) true (s.ssRequest .cm (s.rg d) (s.rg a) (s.rg b) 0)) s

/-- `ssroll` (R336). -/
def execSsroll (st : Bool) (d a b : BitVec 5) (s : State) : Out :=
  issue st 4 { g := [a, b] } (fun s => s.ssFrame d fun s => s.ssSend st d (ssDie (s.rg a)) false (s.ssRequest .roll 0 (s.rg a) (s.rg b) 0)) s

/-- `ssfork` (R337). -/
def execSsfork (st : Bool) (d a b : BitVec 5) (s : State) : Out :=
  issue st 4 { g := [a, b, d] } (fun s => s.ssFrame d fun s => s.ssSend st d (ssDie (s.rg a)) false (s.ssRequest .fork (s.rg d) (s.rg a) (s.rg b) 0)) s

/-- `sspin` (R339). -/
def execSspin (st : Bool) (d a b : BitVec 5) (s : State) : Out :=
  issue st 4 { g := [a, b] } (fun s => s.ssFrame d fun s => s.ssSend st d (ssDie (s.rg a)) false (s.ssRequest .pin 0 (s.rg a) (s.rg b) 0)) s

/-- `ssunpin` (R339). -/
def execSsunpin (st : Bool) (d a b : BitVec 5) (s : State) : Out :=
  issue st 4 { g := [a, b] } (fun s => s.ssFrame d fun s => s.ssSend st d (ssDie (s.rg a)) false (s.ssRequest .unpin 0 (s.rg a) (s.rg b) 0)) s

/-- `ssq` (R340). -/
def execSsq (st : Bool) (d a b : BitVec 5) (s : State) : Out :=
  issue st 4 { g := [a, b] } (fun s => s.ssFrame d fun s => s.ssSend st d (ssDie (s.rg a)) false (s.ssRequest .query 0 (s.rg a) (s.rg b) 0)) s

/-- `ssclose` (R341). -/
def execSsclose (st : Bool) (d a : BitVec 5) (s : State) : Out :=
  issue st 4 { g := [a] } (fun s => s.ssFrame d fun s => s.ssSend st d (ssDie (s.rg a)) true (s.ssRequest .close 0 (s.rg a) 0 0)) s

/-- MORAINE_REQUEST (R334): the unit takes its oldest waiting request; one whose strand has left its core is dropped. -/
def State.evMoraine (s : State) (die : Nat) : Option State :=
  match (s.dieAt die).ssQueue with
  | [] => none
  | r :: rest =>
    let s1 := s.onDie die fun d => { d with ssQueue := rest }
    let c := s.coreOf r.core
    if !(c.running && c.waiting && c.posted && c.cur.num == r.strand) then some s1
    else if 1024 ≤ (s.dieAt die).ssOps.length then none
    else
      let answer := fun (s : State) (u : UnitReply) => some (s.onCore r.core fun c => { c with reply := u })
      match s1.serveSs die r with
      | (.reply x, s2) => answer s2 (.moraine x 0)
      | (.trap c i, _) => answer s1 (.moraine i c)
      | (.noCell, _) => none

/-! ## Movements (R342, R343) -/

/-- Whether an operation must wait for an earlier one: of its slot, a commit of the bytes that it reads, or a use of the buffers
that it frees. -/
def MoraineOp.after (o p : MoraineOp) : Bool :=
  o.slot == p.slot || (p.commit && p.bufSlot == o.bufSlot && p.buf == o.buf) || (o.close && p.bufSlot == o.slot)

/-- Address of a buffer. -/
def MSlot.bufAddr (m : MSlot) (b : Nat) : Nat := (m.base.toNat + b * m.size) % 2 ^ 56

/-- The movement of an operation as a copy (R335): the buffer lies in the address space of the strand. -/
def State.ssCopy (s : State) (die : Nat) (o : MoraineOp) : Copy :=
  let m := (s.dieAt die).slot o.bufSlot
  let b := BitVec.ofNat 64 (m.bufAddr o.buf)
  { kind := .copy, core := o.core, strand := o.strand, launch := o.launch, ptroot := o.ptroot, priv := o.priv, item := 0, redN := 0,
    src := if o.commit then o.addr else b, dst := if o.commit then b else o.addr, rows := 1, bytes := m.size, sstr := 0, dstr := 0,
    token := o.token, faults := o.faults, mv := o.mv }

/-- The snapshot of a failed commit leaves its table and the tables of slots forked from it, and later operations that named it
are aborted (R335). DEDUCED: log 62. -/
def State.failCommit (s : State) (die : Nat) (o : MoraineOp) : State :=
  s.onDie die fun d =>
    let d := { d with slots := d.slots.map fun (p : Nat × MSlot) =>
      (p.1, { p.2 with
        table := p.2.table.filter fun x => !(x.lender.getD p.1 == o.slot && x.maker == o.token)
        forks := if p.1 = o.slot ∧ p.2.table.any (fun x => x.lender.isNone && x.maker == o.token) then adjust p.2.forks o.buf fun _ => 0 else p.2.forks }) }
    { d with ssOps := d.ssOps.map fun (p : MoraineOp) => if !p.commit && !p.close && p.bufSlot == o.slot && p.maker == o.token then { p with aborted := true } else p }

/-- An operation leaves the unit: its read count falls, and its token is told; a cancelled launch's fails with CANCELLED (R344). -/
def State.ssDone (s : State) (die i : Nat) (o : MoraineOp) (code : BitVec 8) : State :=
  let s := s.onDie die fun d => { d with ssOps := d.ssOps.eraseIdx i }
  let s := s.endFault (.moraine o.token)
  let s := if o.commit || o.close then s else s.onReads die o.bufSlot o.buf (· - 1)
  let s := if o.commit && code != 0 && code != 3 then s.failCommit die o else s
  let code := if o.cancelled then 5 else code
  s.postAt o.core none (if code = 0 then .signal o.token else .fail o.token code)

/-- The movement is performed, when no dump holds it back (R296). -/
def State.ssMove (s : State) (die i : Nat) (o : MoraineOp) (c : Copy) : Option State :=
  if s.rowDenied c 0 then some (s.ssDone die i o 0x38)
  else if c.runs.any fun r => s.runHeld c.agent r.1 r.2 c.bytes then none
  else
    let far := c.runs.any fun r => s.runUnreachable c.agent r.1 r.2 c.bytes
    let (s, d) := s.copyRest c
    some (s.ssDone die i o (copyCode far d.mv.bad true))

/-- The movements of a die that may be under way move on (R342, R343). -/
def State.driftDie (s : State) (die : Nat) : State :=
  let ops := (s.dieAt die).ssOps
  (List.range ops.length).foldl
    (fun s i => match ops[i]? with
      | none => s
      | some o =>
        if (ops.take i).any o.after || o.close || o.aborted then s
        else
          let (t, c) := s.copyMoves (s.ssCopy die o)
          t.onDie die fun d => { d with ssOps := d.ssOps.map fun x => if x.token = o.token then { x with mv := c.mv } else x }) s

/-- A slot becomes FREE when its `ssclose` is performed (R341). -/
def State.ssFreed (s : State) (die slot : Nat) : State := s.onSlot die slot fun m => { MSlot.reset with gen := m.gen }

/-- MORAINE_MOVEMENT_COMPLETE (R342, R343, R360). -/
def State.evMovement (s : State) (die i : Nat) : Option State :=
  let ops := (s.dieAt die).ssOps
  match ops[i]? with
  | none => none
  | some o =>
    if s.engineStop ∨ (ops.take i).any o.after then none
    else if o.close then some ((s.ssDone die i o 0).ssFreed die o.slot)
    else if o.aborted then some (s.ssDone die i o 0x3A)
    else
      let c := s.ssCopy die o
      let absent := s.copyAbsent c
      match s.serviced (.moraine o.token) with
      | .waiting => none
      | .failed s => some (s.ssDone die i o 0x38)
      | .clear => if absent.isEmpty then s.ssMove die i o c else none
      | .retry s page =>
        if absent.isEmpty then s.ssMove die i o c
        else some (s.onDie die fun d => { d with ssOps := d.ssOps.modify i fun o => { o with faults := groupFaults absent page o.faults } })

/-! ## Failures (R345) -/

/-- A slot of a die is lost: its operations, and those that read its buffers, fail with SS_LOST, its children lose their base, and
its own base is returned. -/
def State.loseSlot (s : State) (die n : Nat) : State :=
  let d := s.dieAt die
  let gone := d.ssOps.filter fun o => o.slot == n || o.bufSlot == n
  let s := s.returnBases die (d.slot n).table
  let s := s.onDie die fun d =>
    { d with
      ssOps := d.ssOps.filter fun o => !(o.slot == n || o.bufSlot == n)
      slots := d.slots.map fun p => (p.1, { p.2 with table := p.2.table.filter fun x => x.lender != some n }) }
  let s := s.ssFreed die n
  gone.foldl
    (fun s o =>
      let s := s.endFault (.moraine o.token)
      let s := if o.commit || o.close || o.bufSlot == n then s else s.onReads die o.bufSlot o.buf (· - 1)
      s.postAt o.core none (.fail o.token 0x39)) s

/-- The slots of a die that belong to an address space. -/
def Die.slotsOf (d : Die) (asid : BitVec 12) : List Nat := (d.slots.filter fun p => p.2.isOpen && asidOf p.2.ptroot == asid).map (·.1)

/-- MORAINE_METADATA_ERROR (R345): the slot is closed, and leaves service. -/
def State.evMetaError (s : State) (die slot : Nat) : Option State :=
  if moraineSlots ≤ slot ∨ 4 ≤ die ∨ (s.dieAt die).slotsOut.contains slot then none
  else some ((s.loseSlot die slot).onDie die fun d => { d with slotsOut := slot :: d.slotsOut }).reHealth

/-- Every slot of a die that leaves use is closed (R345). -/
def State.loseSlots (s : State) (die : Nat) : State := ((s.dieAt die).slots.map (·.1)).foldl (fun s n => s.loseSlot die n) s

/-- MORAINE_REQUEST (R334). -/
def execMoraineRequest (die : Nat) (s : State) : Out := evOut "MORAINE_REQUEST" (s.evMoraine die)
/-- MORAINE_MOVEMENT_COMPLETE (R342). -/
def execMoraineMovementComplete (die i : Nat) (s : State) : Out := evOut "MORAINE_MOVEMENT_COMPLETE" (s.evMovement die i)
/-- MORAINE_METADATA_ERROR (R345). -/
def execMoraineMetadataError (die slot : Nat) (s : State) : Out := evOut "MORAINE_METADATA_ERROR" (s.evMetaError die slot)

end Sys2Proof.Machine
end

