-- ==== Sys2Proof/Machine/Paging.lean ====
section
/-! DEFINITION. Page faults reported to software (R357-R361), the migration engine (R362-R364), the dump engine (R365, R366) and
the loss of a CXL device (R367). -/

namespace Sys2Proof.Machine

/-! ## Messages and notifications -/

/-- A unit's answer to a token. One that cannot be delivered, to a node that cannot be reached among others, is discarded and counted
(R155, R440). DESIGN CHOICE: log 117. -/
def State.answerToken (s : State) (h : Word) (code : BitVec 8) : State :=
  if hGen h = 0 then s
  else match hCore h with
    | some c =>
      if s.nodes ≤ hNode h ∨ (hNode h ≠ s.node ∧ ¬s.reachable (hNode h)) then s.onFocus Core.countStale
      else s.postAt c none (if code = 0 then .signal h else .fail h code)
    | none => s.onFocus Core.countStale

/-! ## Fault batches (R357-R359) -/

/-- The pages of the records of a batch, six to a record. -/
def batchPages : Nat → List (Nat × Nat) → List (List (Nat × Nat))
  | 0, _ => []
  | n + 1, l => if l.isEmpty then [] else l.take 6 :: batchPages n (l.drop 6)

/-- Dword 1 of a record (R358). -/
def FaultBatch.dword1 (b : FaultBatch) (seq : BitVec 32) (more : Bool) (npg : Nat) : Word :=
  BitVec.ofBool more ++ (0#3 ++ (BitVec.ofNat 3 npg ++ (BitVec.ofBool b.sup ++ (b.acc ++ (BitVec.ofBool b.eng ++ (b.asid ++
    (BitVec.ofNat 8 b.attempt ++ seq)))))))

/-- The 64 bytes of a record (R358). -/
def FaultBatch.record (b : FaultBatch) (seq : BitVec 32) (more : Bool) (ps : List (Nat × Nat)) : List Byte :=
  dwords ([b.token, b.dword1 seq more ps.length] ++ ps.map (fun p => BitVec.ofNat 64 (p.1 + p.2)) ++ List.replicate (6 - ps.length) 0)

/-- Records of the fault queue (R357). -/
def Package.fqSize (p : Package) : Nat := 2 ^ (p.fqcfg.extractLsb' 0 5).toNat

/-- A record written at its place in the queue. -/
def State.putFault (s : State) (n : Nat) (bs : List Byte) : State :=
  s.storeBytes ((s.pkg.fqbase.extractLsb' 6 46).toNat * 64 + 64 * (n % s.pkg.fqSize)) bs

/-- The records of a batch, written from record number `n` on. -/
def State.putBatch (s : State) (b : FaultBatch) : Nat → List (List (Nat × Nat)) → State
  | _, [] => s
  | n, ps :: rest => (s.putFault n (b.record s.pkg.fqSeq (!rest.isEmpty) ps)).putBatch b (n + 1) rest

/-- FAULT_BATCH_WRITE (R359): the oldest batch is written whole, or waits for room; with EN = 0 its token fails with NOSERVICE. -/
def State.evBatch (s : State) : Option State :=
  match s.pkg.batches with
  | [] => none
  | b :: rest =>
    let s1 := s.onPkg fun p => { p with batches := rest }
    if !s.pkg.fqcfg.getLsbD 63 then some (s1.answerToken b.token 0x40)
    else
      let recs := batchPages b.pages.length b.pages
      let wr := s.pkg.fqptr.extractLsb' 0 32
      let rd := s.pkg.fqptr.extractLsb' 32 32
      if s.pkg.fqSize < (wr - rd).toNat + recs.length then none
      else
        let s2 := (s1.putBatch b wr.toNat recs).onPkg fun p =>
          { p with fqptr := p.fqptr.extractLsb' 32 32 ++ (wr + BitVec.ofNat 32 recs.length), fqSeq := p.fqSeq + 1 }
        some (if s.pkg.fqcfg.getLsbD 62 then s2.notify 0 else s2)

/-! ## Faults of engines (R360) -/

/-- The operations of the engines of a core's strands: fills that have not arrived, and drains. -/
def Core.engineOps (c : Core) : List EngineId :=
  ((if c.running then [c.cur] else []) ++ c.images.map (·.st)).flatMap (fun t =>
    (t.bindings.filter fun b => !b.out && !b.arrived).map fun b => EngineId.fill c.cid t.num b.reg) ++
  c.drains.map fun d => EngineId.drain c.cid d.strand d.reg

/-- The operations of the package's engines. -/
def State.engineOps (s : State) : List EngineId :=
  (s.core :: s.others).flatMap Core.engineOps ++ (s.clusters.flatMap fun k => k.copies.map fun c => EngineId.copy c.token) ++
    s.dies.toList.flatMap fun d => (d.ssOps.filter fun o => !o.close && !o.aborted).map fun o => EngineId.moraine o.token

/-- The eighth fault fails the operation (R360); else its batch is reported, when a kind-5 cell is free. -/
def State.reportFault (s : State) (core : Nat) (op : EngineId) (a : Agent) (pages : List (Nat × Nat)) (acc : BitVec 3) (faults : Nat)
    (fail : State → State) (count : State → State) : Option State :=
  if pages.isEmpty ∨ s.engineStopped op then none
  else if 7 ≤ faults then some (fail s)
  else (s.engineFault core op a pages acc).map count

/-- The fault of a stream fill. -/
def State.reportFill (s : State) (core num : Nat) (r : BitVec 5) : Option State :=
  match (s.coreOf core).findStrand num fun t => t.bound r with
  | none => none
  | some t =>
    match t.binding r with
    | none => none
    | some b =>
      s.reportFault core (.fill core num r) (t.agentOn core) (s.fillAbsent (t.agentOn core) b) 1 b.faults (fun s => s.fillNow core num t b true)
        fun s => s.onCore core fun c => c.onStrand num (fun t => t.bound r) fun t => t.onBinding r fun b => { b with faults := b.faults + 1 }

/-- The fault of the first drain of a binding. -/
def State.reportDrain (s : State) (core num : Nat) (r : BitVec 5) : Option State :=
  let ds := (s.coreOf core).drains
  match ds.findIdx? fun d => d.strand == num && d.reg == r with
  | none => none
  | some i =>
    match ds[i]? with
    | none => none
    | some d =>
      s.reportFault core (.drain core num r) (d.agent core) (s.drainAbsent core d) 2 d.faults (fun s => s.drainDone core i d 4)
        fun s => s.onCore core fun c => { c with drains := c.drains.modify i fun d => { d with faults := d.faults + 1 } }

/-- The fault of a copy. -/
def State.reportCopy (s : State) (h : Word) : Option State :=
  match (s.clusters.flatMap (·.copies)).find? (·.token == h) with
  | none => none
  | some c =>
    s.reportFault c.core (.copy h) c.agent (s.copyAbsent c) (s.copyAcc c) c.faults (fun s => s.failCopy c 0x32)
      fun s => s.onCluster (clusterOf c.core) fun k => { k with copies := k.copies.map fun (x : Copy) => if x.token = h then { x with faults := x.faults + 1 } else x }

/-- The fault of a Moraine movement of a die. -/
def State.reportMove (s : State) (h : Word) (die : Nat) : Option State :=
  match (s.dieAt die).ssOps.findIdx? (·.token == h) with
  | none => none
  | some i =>
    match (s.dieAt die).ssOps[i]? with
    | none => none
    | some o =>
      let c := s.ssCopy die o
      s.reportFault o.core (.moraine h) c.agent (s.copyAbsent c) (s.copyAcc c) o.faults (fun s => s.ssDone die i o 0x38)
        fun s => s.onDie die fun d => { d with ssOps := d.ssOps.modify i fun o => { o with faults := o.faults + 1 } }

/-- ENGINE_FAULT_REPORT (R360): the `i`-th operation under way meets V = 0 entries. -/
def State.evEngineFault (s : State) (i : Nat) : Option State :=
  match s.engineOps[i]? with
  | none => none
  | some (.fill c n r) => s.reportFill c n r
  | some (.drain c n r) => s.reportDrain c n r
  | some (.copy h) => s.reportCopy h
  | some (.moraine h) => [0, 1, 2, 3].findSome? (s.reportMove h)

/-! ## Address spaces -/

/-- Cached translations of an address space dropped. -/
def State.dropAsid (s : State) (asid : BitVec 12) : State := { s with tlb := s.tlb.filter fun e => e.asid != asid }

/-- The PTROOT of an address space: that of a launch, a strand, or a queue-table entry that names the ASID (DEDUCED, log 26). -/
def State.rootOf (s : State) (asid : BitVec 12) : Option Word :=
  let p := fun (w : Word) => asidOf w == asid
  match (s.pkg.launches.map (·.ptroot)).find? p with
  | some w => some w
  | none =>
    match ((s.core :: s.others).flatMap fun c => (if c.running then [c.cur.sp.ptroot] else []) ++ c.images.map (·.st.sp.ptroot)).find? p with
    | some w => some w
    | none => ((List.range 16384).filter s.queueEn).findSome? fun q => if p (s.queueEntry q).1 then some (s.queueEntry q).1 else none

/-! ## Migration (R362-R364) -/

/-- A dword of a descriptor in memory. -/
def State.descWord (s : State) (pa i : Nat) : Word := BitVec.ofNat 64 (s.loadPa (pa + 8 * i) 8)

/-- The fields of a migration descriptor, when it is well formed: ASID, VA, new frame (R362). -/
def State.migDesc (s : State) (pa : Nat) : Option (BitVec 12 × Nat × Nat) :=
  let a := s.descWord pa 0
  let f := (s.descWord pa 1).toNat
  if a.extractLsb' 40 12 = 0 ∧ s.descWord pa 3 = 0 ∧ f % 2 ^ 16 = 0 ∧ s.backed f then
    some (a.extractLsb' 52 12, (a.extractLsb' 0 40).toNat * 2 ^ 16, f)
  else none

/-- Whether a leaf may be migrated to a frame (R363). -/
def LeafAt.migratable (l : LeafAt) (f : Nat) : Bool :=
  !l.big && !l.leaf.getLsbD 57 && !l.leaf.getLsbD 56 && decide ((l.leaf.extractLsb' 16 36).toNat * 2 ^ 16 ≠ f)

/-- MIGRATION_START (R363). -/
def State.evMigStart (s : State) : Option State :=
  match s.pkg.migQueue with
  | [] => none
  | pa :: rest =>
    if 4 ≤ s.pkg.migrations.length ∨ s.engineStop then none
    else
      let s := s.onPkg fun p => { p with migQueue := rest }
      let tok := s.descWord pa 2
      let refused := some (s.answerToken tok 0x42)
      match s.migDesc pa with
      | none => refused
      | some (asid, va, f) =>
        match (s.rootOf asid).bind fun r => s.leafAt r va with
        | none => refused
        | some l =>
          if l.migratable f then
            some (((s.setLeafBit l 0 true).dropPage asid va).onPkg fun p =>
              { p with migrations := p.migrations ++ [⟨asid, va, l.pa, (l.leaf.extractLsb' 16 36).toNat * 2 ^ 16, f, 0, tok, false⟩] })
          else refused

/-- MIGRATION_COPY_STEP (R363): 256 bytes, in ascending offset, once the engine threads that reach them have been performed. -/
def State.evMigStep (s : State) (i : Nat) : Option State :=
  match s.pkg.migrations[i]? with
  | none => none
  | some m =>
    if s.engineStop ∨ 2 ^ 16 ≤ m.progress ∨ s.inFlightTo (m.oldFrame + m.progress) 256 then none
    else
      let (s, r) := s.copyPa (m.oldFrame + m.progress) (m.newFrame + m.progress) 256
      some (s.onPkg fun p =>
        { p with migrations := p.migrations.modify i fun m => { m with progress := m.progress + 256, failed := m.failed || r.failed } })

/-- Whether a leaf entry still holds V = 1, MIG = 1 and a frame (R363). -/
def leafHolds (e frame : Nat) : Bool := e.testBit 55 && e.testBit 49 && decide (e % 2 ^ 36 * 2 ^ 16 = frame)

/-- MIGRATION_FINISH (R363, R364): a write that could not be performed fails the token with UNREACHABLE (R367). -/
def State.evMigFinish (s : State) (i : Nat) : Option State :=
  match s.pkg.migrations[i]? with
  | none => none
  | some m =>
    if m.progress < 2 ^ 16 then none
    else
      let s := s.onPkg fun p => { p with migrations := p.migrations.eraseIdx i }
      let e := s.loadPa m.leafPa 7
      if leafHolds e m.oldFrame then
        let s := s.storePa m.leafPa 7 (e / 2 ^ 36 * 2 ^ 36 - 2 ^ 49 + m.newFrame / 2 ^ 16)
        some ((s.dropPage m.asid m.va).answerToken m.token (if m.failed then 4 else 0))
      else some ((s.dropPage m.asid m.va).answerToken m.token 0x41)

/-! ## Dumps (R365, R366) -/

/-- Whether every line of `n` bytes from a physical address is backed. -/
def State.backedRun (s : State) (pa n : Nat) : Bool :=
  (List.range ((pa % 64 + n + 63) / 64)).all fun i => s.backed (pa / 64 * 64 + 64 * i)

/-- The fields of a dump descriptor, when it is well formed: ASID, start, length, destination, bitmap (R365). -/
def State.dumpDesc (s : State) (pa : Nat) : Option (BitVec 12 × Nat × Nat × Nat × Nat) :=
  let a := s.descWord pa 0
  let va := (s.descWord pa 1).toNat
  let n := (s.descWord pa 2).toNat
  let d := (s.descWord pa 3).toNat
  let b := (s.descWord pa 4).toNat
  if a.extractLsb' 0 52 = 0 ∧ va % 2 ^ 16 = 0 ∧ n ≠ 0 ∧ n % 2 ^ 16 = 0 ∧ va + n ≤ 2 ^ 56 ∧ d % 2 ^ 16 = 0 ∧ s.backedRun d n ∧
      b % 8 = 0 ∧ s.backedRun b ((n / 2 ^ 16 + 7) / 8) ∧ s.descWord pa 6 = 0 ∧ s.descWord pa 7 = 0 then
    some (a.extractLsb' 52 12, va, n, d, b) else none

/-- The pages of a range. -/
def rangePages (va n : Nat) : List Nat := (List.range (n / 2 ^ 16)).map fun i => va + i * 2 ^ 16

/-- The dump point (R366): the leaves are marked, the translations dropped. It waits for the migrations of the address space in the
range and for the engine threads that have translated their address. -/
def State.dumpPoint (s : State) (root : Word) (asid : BitVec 12) (va n d b : Nat) (tok : Word) : Option State :=
  if (s.pkg.migrations.any fun m => m.asid == asid && decide (va ≤ m.va) && decide (m.va < va + n)) ∨
      (s.flight.any fun m => m.translated.any isGlobalKey) then none
  else
    let ps := (rangePages va n).filter fun p => (s.leafAt root p).isSome
    let s := ps.foldl (fun s p => match s.leafAt root p with
      | some l => s.setLeafBit l 1 true
      | none => s) s
    let s := (List.range (n / 2 ^ 16)).foldl (fun s i => s.setBitmap b i false) s
    some ((s.dropAsid asid).onPkg fun p => { p with dump := some ⟨asid, root, va, n, d, b, tok, ps, [], false, false⟩ })

/-- Why a queued dump descriptor is failed at once (R365): it is malformed, or names an ASID that is being dumped. -/
def State.dumpRefused (s : State) (pa : Nat) : Option (BitVec 8) :=
  match s.dumpDesc pa with
  | none => some 0x43
  | some (asid, _, _, _, _) =>
    if (s.rootOf asid).isNone then some 0x43 else if s.pkg.dump.any fun x => x.asid == asid then some 0x44 else none

/-- DUMP_START (R365, R366): a descriptor that is refused leaves the queue wherever it stands; else the oldest one starts when no dump
runs. DEDUCED: log 65. -/
def State.evDumpStart (s : State) : Option State :=
  if s.engineStop then none
  else match s.pkg.dumpQueue.findIdx? fun pa => (s.dumpRefused pa).isSome with
  | some i =>
    let pa := s.pkg.dumpQueue[i]?.getD 0
    some ((s.onPkg fun p => { p with dumpQueue := p.dumpQueue.eraseIdx i }).answerToken (s.descWord pa 5) ((s.dumpRefused pa).getD 0x43))
  | none =>
    match s.pkg.dumpQueue with
    | [] => none
    | pa :: rest =>
      match s.dumpDesc pa with
      | none => none
      | some (asid, va, n, d, b) =>
        if s.pkg.dump.isSome then none
        else (s.rootOf asid).bind fun r => (s.onPkg fun p => { p with dumpQueue := rest }).dumpPoint r asid va n d b (s.descWord pa 5)

/-- The pieces of the dump that the engines' writes reach (R366). -/
def State.enginePieces (s : State) (x : Dump) : List Nat :=
  let runs := (s.clusters.flatMap fun k => k.copies.flatMap fun c => (c.runs.filter fun r => r.1 != .read).map fun r => (asidOf c.ptroot, r.2, c.bytes)) ++
    (s.dies.toList.zipIdx.flatMap fun d => (d.1.ssOps.filter fun o => !o.close && !o.aborted).flatMap fun o =>
      let c := s.ssCopy d.2 o
      (c.runs.filter fun r => r.1 != .read).map fun r => (asidOf c.ptroot, r.2, c.bytes)) ++
    ((s.core :: s.others).flatMap fun c => c.drains.map fun d => (asidOf d.ptroot, addrOf d.addr, d.data.length))
  x.pieces.filter fun p => runs.any fun r => r.1 == x.asid && decide (p < r.2.1 + r.2.2) && decide (r.2.1 < p + 2 ^ 16)

/-- The piece that the dump engine copies next (R366): one for which a store waits, a free choice among several, else the lowest.
DESIGN CHOICE: log 102. -/
def State.nextPiece (s : State) (x : Dump) : Option Nat :=
  match x.wanted.filter (x.pieces.contains ·) ++ s.enginePieces x with
  | [] => x.pieces.head?
  | w :: ws => (w :: ws)[Config.freeWait s.free % (w :: ws).length]?

/-- DUMP_PAGE_COPY (R366). -/
def State.evDumpPage (s : State) : Option State :=
  match s.pkg.dump with
  | none => none
  | some x => if s.engineStop then none else (s.nextPiece x).map fun p => ({ s with free := s.free + 1 }).dumpPiece x.asid p

/-- DUMP_COMPLETE (R366): a write that could not be performed fails the token with UNREACHABLE (R367), a poisoned line with POISON. -/
def State.evDumpDone (s : State) : Option State :=
  match s.pkg.dump with
  | none => none
  | some x =>
    if !x.pieces.isEmpty then none
    else some ((s.onPkg fun p => { p with dump := none }).answerToken x.token (if x.failed then 4 else if x.poisoned then 3 else 0))

/-! ## The instructions of the engines -/

/-- FAULT_BATCH_WRITE (R359). -/
def execFaultBatchWrite (s : State) : Out := evOut "FAULT_BATCH_WRITE" s.evBatch
/-- ENGINE_FAULT_REPORT (R360). -/
def execEngineFaultReport (i : Nat) (s : State) : Out := evOut "ENGINE_FAULT_REPORT" (s.evEngineFault i)
/-- MIGRATION_START (R363). -/
def execMigrationStart (s : State) : Out := evOut "MIGRATION_START" s.evMigStart
/-- MIGRATION_COPY_STEP (R363). -/
def execMigrationCopyStep (i : Nat) (s : State) : Out := evOut "MIGRATION_COPY_STEP" (s.evMigStep i)
/-- MIGRATION_FINISH (R363). -/
def execMigrationFinish (i : Nat) (s : State) : Out := evOut "MIGRATION_FINISH" (s.evMigFinish i)
/-- DUMP_START (R366). -/
def execDumpStart (s : State) : Out := evOut "DUMP_START" s.evDumpStart
/-- DUMP_PAGE_COPY (R366). -/
def execDumpPageCopy (s : State) : Out := evOut "DUMP_PAGE_COPY" s.evDumpPage
/-- DUMP_COMPLETE (R366). -/
def execDumpComplete (s : State) : Out := evOut "DUMP_COMPLETE" s.evDumpDone

end Sys2Proof.Machine
end

