-- ==== Sys2Proof/Machine/FullEmpty.lean ====
section
/-! DEFINITION. Full/empty words (R282-R287), the answer of a bank to a strand that waits for it (R284), and the change of bank
modes (R278, R279). -/

namespace Sys2Proof.Machine

/-! ## Full/empty instructions (R283) -/

/-- The checks of an FE-class address in the order of R300, and what it names: a word of region 0xC or 0xD, one that cannot be reached
(`gone`), or a FIFO port. DEDUCED: log 38. -/
def State.feAt (s : State) (ea : Word) (word : Nat → State → Res) (gone : Home → State → Res) (port : Port → State → Res) : Res :=
  let va := addrOf ea
  if !scalarTagOk 8 false ea then s.raise 0x05 (infoAt va)
  else if va % 8 ≠ 0 then s.raise 0x04 (infoAt va)
  else if region va = 14 then
    match (if winKind va = 0 then s.portAt s.agent va else none) with
    | none => s.raise 0x07 (infoAt va)
    | some p => port p s
  else if region va = 12 ∨ region va = 13 then
    match s.locate s.agent .read va 8 with
    | .at (.here k) => word k s
    | .at h => gone h s
    | .held => .wait s .bank
    | _ => s.raise 0x06 (infoAt (s.firstBound s.agent .read va 8))
  else s.raise 0x07 (infoAt va)

/-- A port function that only DATA has. -/
def Port.dataOnly (p : Port) (va : Nat) (s : State) (k : Res) : Res := if p.status then s.raise 0x07 (infoAt va) else k

/-- The address of an FE instruction (R283). -/
def State.feEa (s : State) (a : BitVec 5) : Word := adda (s.rg a) 0

/-- `ldfe` (R283): it takes a full word and leaves it empty. A word that cannot be reached reads poisoned (R262; DEDUCED: log 38). -/
def execLdfe (st : Bool) (d a : BitVec 5) (s : State) : Out :=
  issue st 4 { g := [a], pends := 1 }
    (fun s =>
      let ea := s.feEa a
      let va := addrOf ea
      s.feAt ea
        (fun k s => s.atBank k true (·.isFull k) fun s =>
          .ok ((s.emptyWord k).deferredNow (.g d (BitVec.ofNat 64 (s.homeLoad (.here k) 8))) va (s.scalarErr (.here k) 8 va)))
        (fun h s => .ok (s.deferredNow (.g d 0) va (s.scalarErr h 8 va)))
        (fun p s => p.dataOnly va s (s.portPop p d va))) s

/-- `stfe` (R283): it fills an empty word. -/
def execStfe (st : Bool) (d a : BitVec 5) (s : State) : Out :=
  issue st 4 { g := [d, a] }
    (fun s =>
      let ea := s.feEa a
      let x := s.rg d
      s.feAt ea
        (fun k s => s.atBank k false (fun s => !s.isFull k) fun s => .ok ((s.homeStore (.here k) 8 x.toNat).fillWord k))
        (fun h s => .ok (s.homeStore h 8 x.toNat))
        (fun p s => p.dataOnly (addrOf ea) s (s.portPush p x))) s

/-- `fefill` (R283): the word becomes full whatever its state; a port refuses it (R277). -/
def execFefill (st : Bool) (d a : BitVec 5) (s : State) : Out :=
  issue st 4 { g := [d, a] }
    (fun s =>
      let ea := s.feEa a
      let x := s.rg d
      s.feAt ea
        (fun k s => s.atBankNow k fun s => .ok ((s.homeStore (.here k) 8 x.toNat).fillWord k))
        (fun h s => .ok (s.homeStore h 8 x.toNat))
        (fun _ s => s.raise 0x07 (infoAt (addrOf ea)))) s

/-- `feq` (R277, R283): the full bit, or the count of a port's FIFO; the bit of a word that cannot be reached is a free value
(DESIGN CHOICE: log 101). -/
def execFeq (st : Bool) (d a : BitVec 5) (s : State) : Out :=
  issue st 4 { g := [a] }
    (fun s =>
      s.feAt (s.feEa a)
        (fun k s => s.atBankNow k fun s => .ok (s.wg d (if s.isFull k then 1 else 0)))
        (fun _ s => .ok ({ s with free := s.free + 1 }.wg d (if Config.freeBool s.free then 1 else 0)))
        (fun p s => s.atBankNow p.key fun s => .ok (s.wg d (BitVec.ofNat 64 (s.portCount p))))) s

/-- The first of `c` words from an address whose bytes R199 refuses. -/
def State.feRefused (s : State) (va c : Nat) : Option Nat :=
  ((List.range c).find? fun i => match s.locate s.agent .read ((va + 8 * i) % 2 ^ 56) 8 with
    | .at _ => false
    | .held => false
    | _ => true).map fun i => (va + 8 * i) % 2 ^ 56

/-- Whether one of `c` words from an address lies behind a link that retrains (R430). -/
def State.feHeld (s : State) (va c : Nat) : Bool :=
  !s.pkg.links.isEmpty && (List.range c).any fun i => s.locate s.agent .read ((va + 8 * i) % 2 ^ 56) 8 == .held

/-- The keys of `c` words from an address. -/
def State.feKeys (s : State) (va c : Nat) : List Nat :=
  (List.range c).filterMap fun i => match s.locate s.agent .read ((va + 8 * i) % 2 ^ 56) 8 with
    | .at (.here k) => some k
    | _ => none

/-- The words that `feinit` names (R283): none for a count of 0. -/
def State.feinitWords (s : State) (va c : Nat) : Res :=
  if va % 8 ≠ 0 then s.raise 0x04 (infoAt va)
  else if region va ≠ 12 ∧ region va ≠ 13 then s.raise 0x07 (infoAt va)
  else
    match s.feRefused va c with
    | some b => s.raise 0x06 (infoAt (s.firstBound s.agent .read b 8))
    | none =>
      if s.feHeld va c then .wait s .bank
      else match s.feKeys va c with
      | [] => .ok s
      | k :: ks => s.atBankNow k fun s => .ok ((k :: ks).foldl State.emptyWord s)

/-- `feinit` (R277, R283): the count is checked first (R300); a port ignores it and empties its FIFO. -/
def execFeinit (st : Bool) (a b : BitVec 5) (s : State) : Out :=
  issue st 4 { g := [a, b] }
    (fun s =>
      let ea := s.feEa a
      let va := addrOf ea
      let c := (s.rg b).toNat
      let port := region va = 14 ∧ winKind va = 0 ∧ (s.portAt s.agent va).isSome
      if 16384 < c ∧ ¬port then s.raise 0x17 0
      else if region va = 14 then
        s.feAt ea (fun _ s => .ok s) (fun _ s => .ok s) fun p s => s.atBankNow p.key fun s =>
          .ok ((s.onCluster p.cluster fun x => x.clearFifo p.bank).wakeWaiters p.key false)
      else if !scalarTagOk 8 false ea then s.raise 0x05 (infoAt va)
      else s.feinitWords va c) s

/-! ## The answer of a bank (R284) -/

/-- The strand's waiting FE-class instruction, read from the word at issue (R277, R283). -/
def State.feReissue (s : State) : Option Out :=
  let w := s.core.ir
  let st := w.getLsbD 31
  let d := w.extractLsb' 20 5
  let a := w.extractLsb' 15 5
  let b := w.extractLsb' 10 5
  match (w.extractLsb' 25 6).toNat, (w.extractLsb' 0 7).toNat with
  | 0x1D, 0 => some (execLdfe st d a s)
  | 0x1D, 1 => some (execStfe st d a s)
  | 0x1D, 2 => some (execFeinit st a b s)
  | 0x1D, 3 => some (execFefill st d a s)
  | 0x1D, 4 => some (execFeq st d a s)
  | 0x18, _ => if w.extractLsb' 12 3 = 6 then some (execLdI64 st d a (w.extractLsb' 0 12) s) else none
  | 0x19, _ => if w.extractLsb' 13 2 = 3 then some (execSt64 st d a (w.extractLsb' 0 13) s) else none
  | _, _ => none

/-- FE_BANK_ANSWER (R284): the bank of the focus core's waiting access accepts or refuses it. -/
def State.evBankAnswer (s : State) : Option State :=
  if s.core.running && s.core.waiting && s.core.posted && s.core.reply == .none then
    match s.feReissue with
    | some (.next s') => if s'.core.waiting then none else some s'
    | _ => none
  else none

/-! ## Bank modes (R278, R279) -/

/-- The banks of a cluster in CACHE mode. -/
def Cluster.cacheBanks (c : Cluster) : BitVec 64 := ~~~(c.outMask ||| c.scrMask ||| c.fifoMask)

/-- The CACHE bank that holds a line of the cluster cache: not architectural (R274). -/
def Cluster.bankOfLine (c : Cluster) (line : Nat) : Option Nat :=
  let bs := bitsOf c.cacheBanks
  bs[Config.cacheSet line / 256 % max bs.length 1]?

/-- Whether a count of SCRATCH banks is 0 or a power of two. -/
def powerOrZero (n : Nat) : Bool := n == 0 || 2 ^ n.log2 == n

/-- The SCRATCH banks after a request. -/
def Cluster.scrAfter (c : Cluster) (mask : BitVec 64) (mode : Nat) : BitVec 64 :=
  if mode = 1 then c.scrMask ||| mask else c.scrMask &&& ~~~mask

/-- The status of a request (R278). -/
def State.bankStatus (s : State) (cl : Nat) (r : BankReq) : Nat :=
  let c := s.clusterAt cl
  if r.mask = 0 then 0
  else if (r.mask &&& (c.outMask ||| ~~~(s.bankGrant r.launch cl))) != 0 then 1
  else if r.mode ≠ 0 ∧ c.pins.any (fun p => match c.bankOfLine p.line with | some b => r.mask.getLsbD b | none => false) then 2
  else if !powerOrZero (popCount (c.scrAfter r.mask r.mode)) then 3
  else 0

/-- Whether a key lies in one of the banks that a mask names. -/
def inBanks (cl : Nat) (mask : BitVec 64) (k : Nat) : Bool := isSramKey k && keyCluster k == cl && mask.getLsbD (keyBank k)

/-- The storage of banks reads zero, every word empty (R279). -/
def State.clearBanks (s : State) (cl : Nat) (mask : BitVec 64) : State :=
  { s with
    mem := s.mem.filter fun c => !inBanks cl mask c.1
    fullWords := s.fullWords.filter fun k => !inBanks cl mask k
    poison := s.poison.filter fun l => !inBanks cl mask (l * 64)
    ue := s.ue.filter fun l => !inBanks cl mask (l * 64) }

/-- Every strand that waits at a bank of a mask is woken (R279). -/
def State.wakeBanks (s : State) (cl : Nat) (mask : BitVec 64) : State :=
  let ws := (s.clusterAt cl).waiters.filter fun w => inBanks cl mask w.key
  let s := s.onCluster cl fun c => { c with waiters := c.waiters.filter fun w => !inBanks cl mask w.key }
  { s with flight := s.flight ++ ws.map fun w => ⟨s.core.cid, w.core, none, .wake w.core w.strand w.key⟩ }

/-- The mode change of an accepted request (R279). -/
def State.changeBanks (s : State) (cl : Nat) (mask : BitVec 64) (mode : Nat) : State :=
  let c := s.clusterAt cl
  let scr := c.scrAfter mask mode
  let touched := if popCount scr = popCount c.scrMask then mask else mask ||| c.scrMask ||| scr
  let s := (s.clearBanks cl touched).wakeBanks cl touched
  s.onCluster cl fun c =>
    { c with
      scrMask := scr
      fifoMask := if mode = 2 then c.fifoMask ||| mask else c.fifoMask &&& ~~~mask
      fifos := c.fifos.filter fun f => !mask.getLsbD f.1
      fifoBad := c.fifoBad.filter fun f => !mask.getLsbD f.1
      lines := c.lines.filter fun l => match c.bankOfLine l with
        | some b => !mask.getLsbD b
        | none => false }

/-- Serving a request: its status, and the state after it (R278, R279). -/
def State.serveBank (s : State) (cl : Nat) (r : BankReq) : Nat × State :=
  let st := s.bankStatus cl r
  (st, if st = 0 && r.mask != 0 then s.changeBanks cl r.mask r.mode else s)

/-- Whether a strand's streams still have to read cluster SRAM. -/
def Strand.fillsSram (t : Strand) : Bool := t.bindings.any fun b => !b.out && !b.arrived && region (addrOf b.cursor) == 12

/-- Whether an `LDQ` or `STQ` in flight reaches cluster SRAM. -/
def Msg.usesSram (m : Msg) : Bool :=
  match m.body with
  | .ldqReply _ _ _ k _ => isSramKey k
  | .store _ _ k _ _ => isSramKey k
  | _ => false

/-- Whether accesses to the banks may be in flight (R279): a copy, a state movement, a stream, an `LDQ` or an `STQ` under way reaches cluster
SRAM. -/
def State.sramBusy (s : State) : Bool :=
  (s.clusters.any fun c => c.copies.any fun x => region (addrOf x.src) == 12 || region (addrOf x.dst) == 12) ||
  (s.dies.toList.any fun d => d.ssOps.any fun o => !o.close && region (addrOf o.addr) == 12) ||
  s.flight.any Msg.usesSram ||
  (s.core :: s.others).any fun c =>
    (c.drains.any fun d => region (addrOf d.addr) == 12) || (c.running && c.cur.fillsSram) || c.images.any fun i => i.st.fillsSram

/-- `bankcfg` (R278, R279): served at once when no request of the cluster is queued and no copy reaches cluster SRAM; else it
is queued, and the strand waits. -/
def execBankcfg (st : Bool) (d a b : BitVec 5) (s : State) : Out :=
  issue st 4 { g := [a, b] }
    (fun s =>
      let y := s.rg b
      if y.extractLsb' 2 62 ≠ 0 ∨ y.extractLsb' 0 2 = 3 then s.raise 0x17 0
      else
        let cl := clusterOf s.core.cid
        let r : BankReq := ⟨s.core.cid, s.cur.num, s.rg a, y.toNat, s.cur.launch⟩
        match s.core.reply with
        | .word x => .ok (s.wg d x)
        | _ =>
          if s.core.posted then .wait s .bank
          else if (s.clusterAt cl).bankReqs.isEmpty && !s.sramBusy then
            let (x, s) := s.serveBank cl r
            let s := s.stall .bank 10
            .ok ((if x = 0 && r.mask != 0 then s.freeStall .bank else s).wg d (BitVec.ofNat 64 x))
          else
            .wait ((s.onCluster cl fun c => { c with bankReqs := c.bankReqs ++ [r] }).onFocus fun c => { c with posted := true }) .bank) s

/-- The strand's waiting `bankcfg` is issued again with its answer at hand. -/
def State.bankcfgAgain (s : State) : State :=
  let w := s.core.ir
  match execBankcfg (w.getLsbD 31) (w.extractLsb' 20 5) (w.extractLsb' 15 5) (w.extractLsb' 10 5) s with
  | .next t => t
  | _ => s

/-- BANK_MODE_CHANGE (R279): the oldest request of the cluster is served once no access to its banks is in flight, and its strand's
instruction ends with it. A request whose strand has left the core is dropped (R106). -/
def State.evBankMode (s : State) (cl : Nat) : Option State :=
  match (s.clusterAt cl).bankReqs with
  | [] => none
  | r :: rest =>
    let s1 := s.onCluster cl fun c => { c with bankReqs := rest }
    let c := s.coreOf r.core
    if c.running && c.waiting && c.posted && c.cur.num == r.strand then
      if s.sramBusy then none
      else
        let (x, s2) := s1.serveBank cl r
        some (((s2.onCore r.core fun c => { c with reply := .word (BitVec.ofNat 64 x) }).focusOn r.core).bankcfgAgain.focusOn s.core.cid)
    else some s1

end Sys2Proof.Machine
end

