-- ==== Sys2Proof/Machine/Token.lean ====
section
/-! DEFINITION. Tokens (R157-R159), awaiting and yielding (R160, R161), and the instructions that create, end, move and feed
strands (R166-R170). -/

namespace Sys2Proof.Machine

/-- The frame of an instruction that a handler strand may not execute: a double trap (R254). -/
def issueOut (st : Bool) (len : Nat) (u : Use) (body : State → Res) (s : State) : Out :=
  if s.cur.handler.isSome then issue st len {} State.illegal s else issue st len u body s

/-! ## Token instructions (R159) -/

/-- TOKEN_FOREIGN (R157): a non-null handle of another core. -/
def State.ownHandle (s : State) (h : Word) (k : Res) : Res :=
  if hGen h ≠ 0 ∧ hPrefix h ≠ hPrefix s.cur.sp.self then s.raise 0x10 h else k

/-- `toka` (R159). -/
def execToka (st : Bool) (d a : BitVec 5) (s : State) : Out :=
  issue st 4 { g := [a] }
    (fun s =>
      match s.allocCell 0 ((s.rg a).extractLsb' 0 16).toNat with
      | none => .ok (s.wg d 0)
      | some (h, s) => .ok (s.wg d h)) s

/-- Whether a handle matches a cell of the core that is not FREE. -/
def Core.liveHandle (c : Core) (h : Word) : Bool := c.hMatches h && c.status h != 2

/-- `tokf` (R159). -/
def execTokf (st : Bool) (a : BitVec 5) (s : State) : Out :=
  issue st 4 { g := [a] }
    (fun s =>
      let h := s.rg a
      s.ownHandle h <|
        if s.core.liveHandle h then .ok (s.onFocus (·.freeCell (hCell h))) else .ok s.setStale) s

/-- `toks` (R159). -/
def execToks (st : Bool) (a : BitVec 5) (s : State) : Out :=
  issue st 4 { g := [a] } (fun s => .ok (s.strandSend (s.rg a) (.signal (s.rg a)))) s

/-- The matrix commands that have completed and the messages whose cycle has passed take effect before a token is read (R152, R155, R233):
at most two for every queued command, and one for every message. -/
def State.beforeRead (s : State) : State := s.deliverDue (2 * s.core.mx.queue.length + s.flight.length)

/-- Whether a status is an observation (R154). -/
def observes (x : Word) : Bool := x == 0 || (0x100#64).ule x

/-- `tokt` (R159). -/
def execTokt (st : Bool) (d a : BitVec 5) (s : State) : Out :=
  issue st 4 { g := [a] }
    (fun s =>
      let h := s.rg a
      s.ownHandle h <|
        let s := s.beforeRead
        let x := s.core.status h
        let s := if observes x then s.observe h else s
        let s := if x = 2 then s.setStale else s
        .ok (s.wg d x)) s

/-- A handle with its generation replaced. -/
def withGen (h : Word) (g : BitVec 24) : Word := (h &&& ~~~(0xFFFFFF#64 <<< 7)) ||| (g.setWidth 64 <<< 7)

/-- `tokr` (R159): the cell is re-armed under a new generation. -/
def Core.rearm (c : Core) (h : Word) (n : Nat) : Core :=
  let x := c.cell (hCell h)
  (c.setCell (hCell h) { x with st := armState n, gen := nextGen x.gen, sigTime := c.cycle }).wakeCells

/-- `tokr` (R159). -/
def execTokr (st : Bool) (d a b : BitVec 5) (s : State) : Out :=
  issue st 4 { g := [a, b] }
    (fun s =>
      let h := s.rg a
      let n := ((s.rg b).extractLsb' 0 16).toNat
      s.ownHandle h <|
        if s.core.liveHandle h then
          .ok ((s.onFocus (·.rearm h n)).wg d (withGen h (nextGen (hGen h))))
        else .ok (s.setStale.wg d 0)) s

/-- `toke` (R159): code 0 sends USER. -/
def execToke (st : Bool) (a b : BitVec 5) (s : State) : Out :=
  issue st 4 { g := [a, b] }
    (fun s =>
      let e := (s.rg b).extractLsb' 0 8
      .ok (s.strandSend (s.rg a) (.fail (s.rg a) (if e = 0 then 1 else e)))) s

/-! ## Awaiting and yielding (R160, R161) -/

/-- The settle of `AWAIT` and `YIELD`, charged to SETTLE (R160, R183); an erroneous result is delivered with the instruction to
happen again (R258). What has come due meanwhile is applied. -/
def State.settled (s : State) (body : State → Res) : Res :=
  match (s.quiesce .settle).settle .settle with
  | (s, some b) => .trap s (b.trap s.cur.pc)
  | (s, none) => body s.beforeRead

/-- MATRIX_BATCH of an instruction that no open batch may meet (R244). -/
def State.noBatch (s : State) (k : Res) : Res := if s.cur.batch.isSome then s.raise 0x1B 0 else k

/-- A save with the live set `e` after the instruction's slot (R82, R145, R244). -/
def State.saveLive (s : State) (e : BitVec 128) (cond : Cond) (resume : Resume) : Res :=
  let written := s.cur.liveWritten e
  let bytes := s.cur.liveBytes e
  let cause := s.saveCause bytes cond resume
  let s' := (s.onCur (·.kill e)).slot (s.cur.pc + 4)
  if liveAcc e then
    if s.core.mxSlots ≤ s.cur.num then s.raise 0x19 0
    else
      match s'.accSave cause with
      | none => .wait s cause
      | some (s', units) => .left (s'.save written bytes cond resume units)
  else .left (s'.save written bytes cond resume 0)

/-- What `AWAIT` does once its token is SIGNALLED, FAILED or stale: observation, d, and the settle of the `LDQ` results observed
(R22, R160). `pc` is the address of the `AWAIT`. -/
def State.awaited (s : State) (d : BitVec 5) (h : Word) (pc : Word) : State × Option TrapInfo :=
  let x := s.core.status h
  let s := (if observes x then s.observe h else s).wg d x
  match s.settle .settle with
  | (s, some b) => (s, some (b.trap pc))
  | (s, none) => (s, none)

/-- `await` (R160). -/
def execAwait (st : Bool) (d a : BitVec 5) (l : BitVec 10) (s : State) : Out :=
  issueOut st 4 { g := [a] }
    (fun s =>
      let h := s.rg a
      s.ownHandle h <| s.noBatch <| s.liveEntry l.toNat fun e s => s.settled fun s =>
        if s.core.status h = 1 then s.saveLive e (.cell h) (.await d h st)
        else
          match (s.onCur (·.kill e)).awaited d h s.cur.pc with
          | (s, some t) => .trap s t
          | (s, none) => .ok s) s

/-- The decision of R163 with the yielding strand among the runnable ones, its signal time its issue cycle (R161): the state
after the decision, and whether it stays. -/
def State.yieldStays (s : State) : State × Bool :=
  let own : Image := { s.cur.image 1024 .ready .go (s.core.cycle - 1) with place := .entry }
  let t := s.onFocus fun c => { c with images := own :: c.images, running := false }
  match t.decideNow with
  | (t', some (i, rd)) =>
    let s := s.onFocus fun c => { c with acctctl := t'.core.acctctl }
    if i.st.num = s.cur.num then ((s.logResume own).replayTo rd, true) else (s, false)
  | (t', none) => (s.onFocus fun c => { c with acctctl := t'.core.acctctl }, false)

/-- `yield` (R161). The messages of its issue cycle come before the decision (R162, R163). A trace ring that its slot leaves without room for
the resume record makes the decision wait (R193). DEDUCED: log 56. -/
def execYield (st : Bool) (l : BitVec 10) (s : State) : Out :=
  issueOut st 4 {}
    (fun s =>
      s.noBatch <| s.liveEntry l.toNat fun e s => s.settled fun s =>
        let t := ((s.onCur (·.kill e)).slot (s.cur.pc + 4)).beforeRead
        if t.resumeWaits then .left (s.charge .stolen none 0 0 1)
        else
          let now := s.core.cycle
          let num := s.cur.num
          match t.yieldStays with
          | (s', true) => .left (s'.unwait.settleAfter st)
          | (s', false) =>
            let s := s.onFocus fun c => { c with acctctl := s'.core.acctctl }
            match s.saveLive e .ready .go with
            | .left s => .left (s.onFocus fun c => { c with images := onImage num (fun i => { i with sigTime := now }) c.images })
            | r => r) s

/-! ## Strands (R166-R169) -/

/-- A child of the running strand (R72, R166). DEDUCED: log 51. -/
def State.child (s : State) (n : Nat) (pc arg cell : Word) : Strand :=
  let t := s.cur
  { Strand.reset with
    num := n
    pc := pc
    sp := { Specials.reset with
      item := t.sp.item, lstb := t.sp.lstb, lstn := t.sp.lstn, pwin := t.sp.pwin, trapvec := t.sp.trapvec, depset := t.sp.depset
      gangsz := t.sp.gangsz, sctl := t.sp.sctl &&& 0x13#64, self := mkSelf s.node s.core.cid n, ptroot := t.sp.ptroot }
    partners := List.replicate (max t.sp.gangsz 1 - 1) VFile.reset
    spawnCell := cell
    launch := t.launch }.writeG 4 arg

/-- `spawn` (R166). -/
def execSpawn (st : Bool) (d a b : BitVec 5) (s : State) : Out :=
  issueOut st 4 { g := [a, b] }
    (fun s =>
      let pc := s.rg a
      if pc.extractLsb' 0 2 ≠ 0 then s.raise 0x03 0
      else
        match s.core.freeNum, s.allocCell 0 1 with
        | some n, some (h, s') =>
          let t := s.child n pc (s.rg b) h
          .ok ((s'.onFocus fun c => c.addStrand t c.cycle).wg d h)
        | _, _ => .ok (s.wg d 0)) s

/-- The running strand without the `LDQ` results that `EXIT` drops (R167). -/
def Strand.dropLdq (t : Strand) : Strand := { t with pend := t.pend.filter (·.token == 0) }

/-- `exit` (R167). -/
def execExit (st : Bool) (s : State) : Out :=
  issueOut st 4 { holds := fun s => s.exitBlocked s.cur }
    (fun s =>
      if s.exitBlocked s.cur then .wait s .chain
      else
        (s.onCur Strand.dropLdq).settled fun s =>
          let t := s.cur
          .left ((((s.exitItem t).endStrand t none).slot (t.pc + 4)).vacate)) s

/-- Where `HOP` leads (R168). -/
inductive HopTo where
  | core (c : Nat)
  | nowhere
  | outside
  deriving DecidableEq, Repr

/-- The target core of an address that has passed its checks (R168, R304). -/
def State.hopTarget (s : State) (va : Nat) : HopTo :=
  if region va = 13 then
    let c := va / 2 ^ 41 % 2 ^ 9
    .core (if c = 0x1FF then s.core.cid else va / 2 ^ 50 % 4 * Config.coresPerDie + c)
  else
    match s.xlate s.cur.sp.ptroot s.cur.priv .read va with
    | .ok pa _ =>
      match s.homeOf pa with
      | .here k =>
        let b := s.homeBank k
        .core (firstCoreOf (b / 61 * Config.clustersPerDie + b % 61 % 24) + s.core.cid % Config.coresPerCluster)
      | .dead k =>
        let b := s.homeBank k
        .core (firstCoreOf (b / 61 * Config.clustersPerDie + b % 61 % 24) + s.core.cid % Config.coresPerCluster)
      | _ => .outside
    | _ => .outside

/-- Whether a core can take a strand (R149, R292). -/
def Core.canTake (c : Core) : Bool := c.inService && c.gangHead.isNone && c.freeNum.isSome

/-- Whether the strand holds what `HOP` does not move (R168, R222, R244, R292). -/
def State.hopStays (s : State) : Bool :=
  s.cur.pend.any (·.token != 0) || s.core.ownsMatrix s.cur || !s.cur.bindings.isEmpty || decide (1 < s.cur.sp.gangsz)

/-- The status that `HOP` writes when it does not move the strand, or the core to which it moves (R168). DEDUCED: log 49. -/
def State.hopStatus (s : State) (va : Nat) : Nat ⊕ Nat :=
  if region va = 12 ∨ region va = 14 ∨ region va = 15 then .inl 1
  else
    match s.hopTarget va with
    | .core c => if c = s.core.cid then .inl 1 else if s.hopStays then .inl 3 else if (s.coreOf c).canTake then .inr c else .inl 2
    | _ => .inl (if s.hopStays then 3 else 2)

/-- The owner under which the cells of the next strand that moves stand on the core (R153, R168). DEDUCED: log 50. -/
def Core.movedOwner (c : Core) : Nat := 256 + c.moved

/-- The cells of a strand that has moved are no longer those of a strand number of the core (R168). DEDUCED: log 50. -/
def Core.disown (c : Core) (num : Nat) : Core :=
  { c with
    cells := c.cells.map fun p => if p.2.owner = num then (p.1, { p.2 with owner := c.movedOwner }) else p
    moved := c.moved + 1 }

/-- The move of `HOP` (R168): its slot, 3 slots of transmission, and the message. -/
def State.hopLeave (s : State) (d : BitVec 5) (c : Nat) : State :=
  let s := s.slot (s.cur.pc + 4)
  let s := s.charge .switch (some s.cur.num) s.cur.pc s.cur.pc 3
  let t := { s.cur with left := (s.core.cid, s.core.movedOwner) :: s.cur.left, gReady := [] }
  let s := s.renameSender (senderKey s.core.cid t.num) (senderKey s.core.cid s.core.movedOwner)
  ((s.post none (.hop t c d)).onFocus (·.disown t.num)).vacate

/-- The address check of `HOP`: a load's translation and R199; regions 0xC, 0xE and 0xF end in status 1. -/
def State.hopAddr (s : State) (va : Nat) (body : State → Res) : Res :=
  if region va = 12 ∨ region va = 14 ∨ region va = 15 then body s
  else s.withAcc .read 1 va (s.checkAt s.agent .read 1 va) fun _ s => body s

/-- `hop` (R168). -/
def execHop (st : Bool) (d a b : BitVec 5) (s : State) : Out :=
  issueOut st 4 { g := [a, b] }
    (fun s =>
      let va := addrOf (s.rg a)
      s.noBatch <| s.liveEntry ((s.rg b).extractLsb' 0 10).toNat fun e s =>
        if 16 < popCount (liveG e) ∨ liveV e ≠ 0 ∨ liveM e ≠ 0 ∨ liveC e ≠ 0 ∨ liveAcc e ∨ s.cur.vf.xm ≠ 0 ∨ s.cur.vf.fltm ≠ 0 then
          s.raise 0x11 0
        else
          s.hopAddr va fun s => s.settled fun s =>
            let x := s.hopStatus va
            let s := s.onCur (·.kill e)
            match x with
            | .inl x => .ok (s.wg d (BitVec.ofNat 64 x))
            | .inr c => .left (s.hopLeave d c)) s

/-- `prio` (R169). -/
def execPrio (st : Bool) (a : BitVec 5) (s : State) : Out :=
  issue st 4 { g := [a] }
    (fun s =>
      let x := (s.rg a).extractLsb' 0 2
      .ok (s.onSp fun p => { p with sctl := (p.sctl &&& ~~~3#64) ||| x.setWidth 64 })) s

/-- Free cells among 0-4,031 (R169). -/
def Core.freeCells (c : Core) : Nat := Config.faultCells - (c.cells.filter fun p => decide (p.1 < Config.faultCells) && p.2.st != .free).length

/-- `self` (R169). -/
def execSelf (st : Bool) (d a : BitVec 5) (s : State) : Out :=
  issue st 4 { g := [a] }
    (fun s =>
      let self := s.cur.sp.self
      .ok (s.wg d (match (s.rg a).toNat with
        | 0 => self
        | 1 => self &&& ~~~bits 42 0
        | 2 => BitVec.ofNat 64 s.core.freeNums
        | 3 => BitVec.ofNat 64 s.core.freeCells
        | _ => 0))) s

/-- `deposit` (R170): a d outside 24-27 is ILLEGAL. -/
def execDeposit (st : Bool) (d a b : BitVec 5) (s : State) : Out :=
  if isDepositReg d then issue st 4 { g := [a, b] } (fun s => .ok (s.sendTo (s.rg a) (.deposit (s.rg a) d (s.rg b) (senderKey s.core.cid s.cur.num)))) s
  else issue st 4 {} State.illegal s

end Sys2Proof.Machine
end

