-- ==== Sys2Proof/Machine/TrapPath.lean ====
section
/-! DEFINITION. The instructions of the trap path (R259, R264), translation fences (R355, R356), and the core's events of traps,
pre-emption, parking and failing stores (R177, R192, R251, R259, R265-R267). -/

namespace Sys2Proof.Machine

/-! ## `trap`, `synci`, `mapfence`, `tlbinv` -/

/-- `trap` (R259): USER, with INFO the register. -/
def execTrap (st : Bool) (a : BitVec 5) (s : State) : Out := issue st 4 { g := [a] } (fun s => s.raise 0x1C (s.rg a)) s

/-- `synci` (R259): the instruction cache is empty afterwards. -/
def execSynci (st : Bool) (s : State) : Out :=
  issue st 4 {} (fun s => .ok ((s.freeStall .order).onFocus fun c => { c with icache := [] })) s

/-- `mapfence` (R355). -/
def execMapfence (st : Bool) (s : State) : Out := issue st 4 { priv := true } (fun s => .ok (s.orderWait)) s

/-- The cached translations that `tlbinv` leaves (R356). -/
def tlbAfter (x y : Word) (l : List TlbEntry) : List TlbEntry :=
  let asid := y.extractLsb' 2 12
  match (y.extractLsb' 0 2).toNat with
  | 0 => l.filter fun e => !e.covers asid (addrOf x)
  | 1 => l.filter fun e => e.asid != asid
  | _ => []

/-- `tlbinv` (R356): it waits for the strand's stores, invalidates, and waits while an access of an engine thread that has translated its
address is still to be performed; every other access translates and is performed in one step. DEDUCED: log 100. -/
def execTlbinv (st : Bool) (a b : BitVec 5) (s : State) : Out :=
  issue st 4 { priv := true, g := [a, b] }
    (fun s =>
      let x := s.rg a
      let y := s.rg b
      if y.extractLsb' 14 50 ≠ 0 ∨ y.extractLsb' 0 2 = 3 then s.illegal
      else
        let s := s.orderWait
        let s := { s with tlb := tlbAfter x y s.tlb }
        if s.flight.any fun m => m.translated.any isGlobalKey then .wait s .order else .ok s) s

/-! ## `rett` (R259) -/

/-- The dwords of SPEC in a record, with their indexes (R256). -/
def specRegs (b : List Byte) : List (Nat × Word) :=
  [(0x007, recWord b 40), (0x008, recWord b 41), (0x001, recWord b 42), (0x002, recWord b 43), (0x00C, recWord b 44),
   (0x009, recWord b 45), (0x024, recWord b 46), (0x040, recWord b 47)]

/-- What a special of SPEC reads in the trapped strand. -/
def Specials.specOld (p : Specials) (x : Nat) : Word :=
  match x with
  | 0x002 => p.sctl
  | _ => 0

/-- The check of a dword of SPEC as a write of that special (R105). -/
def Specials.specOk (p : Specials) (x : Nat) (v : Word) : Bool :=
  match specMask x with
  | some (rw, ro) =>
    (v &&& ~~~(rw ||| ro)) == 0 && ((v ^^^ p.specOld x) &&& ro) == 0 && !reservedValue x v &&
      (x != 0x024 || [0, 1, 2, 3].all fun b => bankState v b != 3)
  | none => false

/-- The checks of a record by `rett` (R259): RESUMEPC and SPEC. -/
def Strand.recordOk (t : Strand) (b : List Byte) : Bool :=
  let r := recWord b 5
  r.extractLsb' 0 2 == 0 && r.extractLsb' 56 8 == 0 && (specRegs b).all fun p => t.sp.specOk p.1 p.2

/-- The specials of SPEC written to a strand (R259); VBANK loses the contents of OFF banks (R85). -/
def Strand.putSpec (t : Strand) (b : List Byte) : Strand :=
  let t := { t with sp := { (specRegs b).foldl (fun p r => p.put r.1 r.2) t.sp with vbank := recWord b 46 } }
  ([0, 1, 2, 3].filter fun k => bankState (recWord b 46) k = 2).foldl Strand.loseBank t

/-- The registers of a record (R256, R259). Deposits that arrived meanwhile stand over them. -/
def Image.fromRecord (i : Image) (b : List Byte) : Strand :=
  let t := { i.st with
    g := Vector.ofFn fun k => if k.val = 0 then 0 else recWord b (8 + k.val)
    gdead := (recWord b 6).setWidth 32 &&& 0xFFFFFFFE#32 }
  (({ i with st := t }).deposited).putSpec b

/-- The held result of a settled trap: written whole after `uefix`, in banks that it wakes first (R84), else discarded (R259, R262,
R264). The wait for the banks in cycles, and the strand after. -/
def Strand.landHeld (t : Strand) (own : Nat) (held : Option Pending) (fixed : Bool) : Nat × Strand :=
  match held with
  | some e =>
    if fixed then
      let (n, t) := t.wake e.wr.vregs
      (n, t.land own e)
    else (0, t)
  | none => (0, t)

/-- The strand that `rett` brings back (R259): registers and specials of the record, FLTM of a page fault, PC; before it the cycles in
which banks wake. DEDUCED: log 48. -/
def State.returned (s : State) (i : Image) (h : HandlerCtx) (b : List Byte) : Nat × Strand :=
  let pc := recWord b 5
  let held := (i.st.trapDue.bind (·.held))
  let t := i.fromRecord b
  let own := s.core.memberOf i.st
  let (n, t) := t.landHeld own held h.uefixed
  let t := if h.cause = 0x15 ∨ h.cause = 0x16 then { t with vf := { t.vf with fltm := BitVec.ofNat 8192 (leValue ((b.drop 1024).take 1024)) } } else t
  (n, { t with masked := t.masked && decide (pc = i.st.pc), pc := pc })

/-- `rett` issues, and the handler is discarded with its gang and the streams that it bound (R259). -/
def State.handlerEnds (s : State) : State :=
  ((s.slot (s.cur.pc + 4)).freeGang s.cur).dropStreams s.cur

/-- The end of the trapped strand at `rett` with 1 (R259): as `exit`, with its pending results dropped. -/
def State.endTrapped (s : State) (t : Strand) (slot : Nat) : State :=
  let s := (s.exitItem t).endStrand t none
  (s.handlerEnds.onFocus fun c =>
    { c with
      images := c.images.filter fun j => !(j.place == .slot slot)
      trapSlots := c.trapSlots.filter (·.slot != slot) }).vacate

/-- `rett` once the handler's own results have settled. After CONTEXT_LOST there is no image: what the handler took under the number
ends as at an exit. -/
def State.rettNow (s : State) (x : Word) (h : HandlerCtx) : Res :=
  if h.mxowed then s.raise 0x18 0
  else
  match s.trappedImage with
  | none =>
    .left ((((s.slot (s.cur.pc + 4)).endStrand s.cur none).onFocus fun c => { c with trapSlots := c.trapSlots.filter (·.slot != h.slot) }).vacate)
  | some i =>
    let t := i.deposited
    if x = 1 then (if s.exitBlocked t then .wait s .chain else .left (s.endTrapped t h.slot))
    else
      let b := s.loadVa s.supervisor (s.core.slotBase h.slot) 2048
      if !i.st.recordOk b then s.illegal
      else
        let (n, t) := s.returned i h b
        .left ((s.handlerEnds.resumeTrapped i t h.slot).stall .power n)

/-- Whether `rett` with 1 waits for a forwarding slot of the trapped item (R401, R408). -/
def State.rettWaits (s : State) (x : Word) : Bool :=
  x == 1 && s.cur.handler.any (fun h => !h.mxowed) && s.trappedImage.any fun i => s.exitBlocked i.deposited

/-- `rett` (R259). -/
def execRett (st : Bool) (a : BitVec 5) (s : State) : Out :=
  let out := s.cur.sp.traprec == 0
  issue st 4 { priv := true, g := if out then [] else [a], holds := fun s => s.rettWaits (s.rg a) }
    (fun s =>
      match s.cur.handler with
      | none => s.illegal
      | some h =>
        let x := s.rg a
        if out || decide (1 < x.toNat) then s.illegal
        else s.orderWait.settled fun s => s.rettNow x h) s

/-! ## `uefix` (R264) -/

/-- The bits of a vector register that the lanes of a record occupy on a member (R48, R78). -/
def laneBits (lanes : BitVec 8192) (w vcols member : Nat) : VWrite :=
  ((bitsOf lanes).filter fun j => memOf vcols j == member).foldl
    (fun x j => x.add w (j / vcols % 32) (j % vcols) 0) VWrite.none

/-- A vector write with the bits of a register in the lanes of a record. DEDUCED: log 55. -/
def VWrite.fix (x : VWrite) (e : VWrite) (src : VReg) : VWrite :=
  { x with mask := x.mask ||| e.mask, data := (x.data &&& ~~~e.mask) ||| (src.bits &&& e.mask), rows := x.rows ||| e.rows }

/-- Bytes of a scale register that lanes name. -/
def laneBytes (lanes : BitVec 8192) : BitVec 8192 :=
  ((bitsOf lanes).filter (· < 1024)).foldl (fun m j => m ||| (0xFF#8192 <<< (8 * j))) 0

/-- A held result with the lanes of its record copied from the handler's register (R264). -/
def PendWrite.fix (w : PendWrite) (lanes : BitVec 8192) (tw vcols : Nat) (f : VFile) (g : Word) (a : BitVec 5) : PendWrite :=
  match w with
  | .g r _ => .g r g
  | .v r ws sc => .v r (ws.zipIdx.map fun p => p.1.fix (laneBits lanes tw vcols p.2) (f.getV a)) sc
  | .m r xs => .m r (xs.map fun x => (x &&& ~~~lanes) ||| (f.getM (a.extractLsb' 0 4) &&& lanes))
  | .c r xs t => .c r (xs.map fun x => (x &&& ~~~laneBytes lanes) ||| ((f.getC (a.extractLsb' 0 3)).data &&& laneBytes lanes)) t
  | .s r sc => .s r sc

/-- The image's register REG with the lanes of its record copied (R264): VALID grows as for a write, BAND stays, the
register is not dead. -/
def Strand.fixReg (t : Strand) (own : Nat) (r : BitVec 5) (lanes : BitVec 8192) (f : VFile) (a : BitVec 5) : Strand :=
  let src := f.getV a
  let fix := fun (x : VFile) (m : Nat) =>
    let e := laneBits lanes (width t.sp.vtype) (max t.sp.vcols 1) m
    x.setV r ((x.getV r).write { (VWrite.none.fix e src) with band := (x.getV r).band })
  { t.setFiles own ((t.files own).zipIdx.map fun p => fix p.1 p.2) with vdead := t.vdead &&& ~~~(1#32 <<< r.toNat) }

/-- The trap information after `uefix`: the held result with its lanes repaired. -/
def TrapInfo.fixed (x : TrapInfo) (st : Strand) (f : VFile) (g : Word) (a : BitVec 5) : TrapInfo :=
  { x with held := x.held.map fun e => { e with wr := e.wr.fix x.lanes (width st.sp.vtype) (max st.sp.vcols 1) f g a } }

/-- The source register of `uefix` by the class that RCLASS names. -/
def uefixUse (rclass : BitVec 3) (a : BitVec 5) : Use :=
  match rclass.toNat with
  | 1 => { g := [a] }
  | 2 => { v := [a] }
  | 3 => { m := [a.extractLsb' 0 4] }
  | 4 => { c := [a.extractLsb' 0 3] }
  | _ => {}

/-- Whether the register field of `uefix` fits the class (R18): unused high bits are zero. -/
def uefixFits (rclass : BitVec 3) (a : BitVec 5) : Bool :=
  match rclass.toNat with
  | 3 => decide (a.toNat < 16)
  | 4 => decide (a.toNat < 8)
  | _ => true

/-- The record's UEFIXED bit (R257). -/
def State.markFixed (s : State) (slot : Nat) : State :=
  let at_ := s.core.slotBase slot
  let b := s.loadVa s.supervisor at_ 8
  s.storeVa s.supervisor at_ (leBytes 8 (BitVec.ofNat 64 (leValue b) ||| (1#64 <<< 23)).toNat)

/-- `uefix` with the trapped image at hand. A precise record that names no register changes none (R264). -/
def State.uefix (s : State) (h : HandlerCtx) (i : Image) (t : TrapInfo) (a : BitVec 5) : State :=
  let f := s.cur.vf
  let g := s.rg a
  let st := if t.settledAt.isSome ∨ t.rclass = 0 then i.st else i.st.fixReg (s.core.memberOf i.st) t.reg t.lanes f a
  let st := { st with trapDue := some (if t.settledAt.isSome then t.fixed i.st f g a else t) }
  ((s.onFocus fun c => { c with images := c.images.map fun j => if j.place = .slot h.slot then { j with st := st } else j }).onHandler
    fun h => { h with uefixed := true }).markFixed h.slot

/-- The trap that the running handler serves: its context, the image and its information. -/
def State.served (s : State) : Option (HandlerCtx × Image × TrapInfo) :=
  match s.cur.handler, s.trappedImage with
  | some h, some i => (i.st.trapDue).map fun t => (h, i, t)
  | _, _ => none

/-- `uefix` (R264): ILLEGAL outside a handler of UNCORRECTABLE or POISONED, a double trap in another handler. -/
def execUefix (st : Bool) (a : BitVec 5) (s : State) : Out :=
  match s.served with
  | none => issue st 4 {} State.illegal s
  | some (h, i, t) =>
    if (t.cause ≠ 0x0E ∧ t.cause ≠ 0x0F) ∨ uefixFits t.rclass a = false then issue st 4 {} State.illegal s
    else issue st 4 (uefixUse t.rclass a) (fun s => .ok (s.uefix h i t a)) s

/-! ## `park` (R259) -/

/-- `park` (R259): PRIVILEGE; the full image goes to the Basin, and the core resumes no strand for c cycles. -/
def execPark (st : Bool) (a : BitVec 5) (s : State) : Out :=
  issueOut st 4 { priv := true, g := [a] }
    (fun s =>
      let c := (s.rg a).toNat
      match s.drainSettle .basin with
      | (s, some b) => .trap s (b.trap s.cur.pc)
      | (s, none) =>
        let s := (s.slot (s.cur.pc + 4)).saveBasin .basin (.parked none) .go false
        .left (s.onFocus fun x => { x with parkedTill := some (if c = 0 then none else some (x.cycle + c)) })) s

/-- The parked strand becomes runnable, with the unpark cycle as its signal time (R259). -/
def Core.unpark (c : Core) : Core :=
  { c with
    parkedTill := none
    images := c.images.map fun i => match i.cond with
      | .parked _ => { i with cond := .ready, sigTime := c.cycle }
      | _ => i }

/-- PARK_TIMEOUT (R259): the cycles of the park have passed. -/
def State.evParkTimeout (s : State) (core : Nat) : Option State :=
  match (s.coreOf core).parkedTill with
  | some (some t) => if t ≤ (s.coreOf core).cycle then some (s.onCore core fun c => c.atCycle (t - 1) (·.unpark)) else none
  | _ => none

/-- FIMET_UNPARK (R259). -/
def State.evUnpark (s : State) (core : Nat) : Option State :=
  if (s.coreOf core).parkedTill.isSome then some (s.onCore core (·.unpark)) else none

/-! ## Pre-emption (R265-R267) -/

/-- A request that met a trap of its strand applies to the handler (R269): at once when it runs, else when its delivery has found a
slot. -/
def State.preemptHandler (s : State) (num : Nat) : State :=
  if s.core.running && s.cur.num == num then (if s.cur.handler.isSome then s.saveBasin .basin .ready .go true else s)
  else s.onFocus fun c => { c with images := onImage num (fun i => { i with preempted := true }) c.images }

/-- The save of the running strand at a pre-emption (R265); an erroneous result found by its settle is delivered, and the
pre-emption then applies to the handler (R269). -/
def State.preemptRunning (s : State) : State :=
  match s.unwait.drainSettle .basin with
  | (s, none) => s.saveBasin .basin .ready .go true
  | (s, some b) =>
    let num := s.cur.num
    (s.takeTrap (b.trap s.cur.pc)).preemptHandler num

/-- Whether a strand runs the lowest unfinished item of an ordered launch, which is never pre-empted (R396, R409). -/
def State.isLowestItem (s : State) (t : Strand) : Bool :=
  match s.orderedOf t with
  | some l => t.itemIx == l.lowest
  | none => false

/-- Whether a Moraine unit owes the running strand a reply, for which a pre-emption waits (R334). -/
def Core.owedReply (c : Core) : Bool := c.posted && c.ir.extractLsb' 25 6 == 0x39#6

/-- The trap that is due to the running strand is delivered (R251). The record shows the word at its PC (R256). -/
def State.takeDue (s : State) (t : TrapInfo) : State :=
  let w := s.loadVa s.agent (addrOf s.cur.pc) 8
  let ir := BitVec.ofNat 32 (leValue (w.take 4))
  let s := s.onFocus fun c => { c with ir := ir, irPayload := if wideWord ir then BitVec.ofNat 32 (leValue (w.drop 4)) else 0 }
  (s.onCur fun x => { x with trapDue := none }).unwait.takeTrap t

/-- PREEMPT_REQUEST (R265): a request for a strand of a core. -/
def State.evPreempt (s : State) (core num : Nat) : Option State :=
  let c := s.coreOf core
  if c.running && c.cur.num == num then
    if s.isLowestItem c.cur || c.owedReply then none
    else
      let back := s.core.cid
      let s := s.focusOn core
      let s := match s.cur.trapDue with
        | some t => (s.takeDue t).preemptHandler num
        | none => s.preemptRunning
      some (s.focusOn back)
  else
    match c.imageOf num with
    | none => none
    | some i =>
      if i.preempted || s.isLowestItem i.st then none
      else some (s.onCore core fun c => { c with images := onImage num (fun i => { i with preempted := true }) c.images })

/-- The image of a suspended strand of the focus core leaves its entry for a Basin home (R149, R265), taking no slot. -/
def State.moveToBasin (s : State) (i : Image) : State :=
  (s.fillHome s.core.freeHome i.bytes).onFocus fun c =>
    { c with images := onImage i.st.num (fun i => { i with place := .basin c.freeHome }) c.images }

/-- Every suspended strand of the focus core is pre-empted, and its image in the Basin (R429). -/
def State.allToBasin (s : State) : State :=
  (s.core.images.filter fun i => !i.inSlot).foldl
    (fun s i =>
      let s := s.onFocus fun c => { c with images := onImage i.st.num (fun i => { i with preempted := true }) c.images }
      if i.inEntry then s.moveToBasin i else s) s

/-- SUSPENDED_IMAGE_MOVE (R265): a pre-empted image leaves its entry for the Basin. -/
def State.evImageMove (s : State) (core num : Nat) : Option State :=
  match (s.coreOf core).imageOf num with
  | some i =>
    if i.preempted && i.inEntry then
      some (((s.focusOn core).moveToBasin i).focusOn s.core.cid)
    else none
  | none => none

/-- CLEAN_ROW_COPY (R266): the clean rows of a tagged save have been copied, and the entry frees. -/
def State.evCleanRows (s : State) (core num : Nat) : Option State :=
  if (s.coreOf core).images.any fun i => i.st.num == num && i.cleanCopy != 0 then
    some (s.onCore core fun c => { c with images := copyEnded num c.images })
  else none

/-- The class of a strand's launch (R386); one without a launch has the lowest. -/
def State.classOf (s : State) (t : Strand) : Nat := ((t.launch.bind s.launchOf).map (·.cls)).getD 0

/-- Whether the dispatcher lifts a pre-emption (R396, R429): no strand of a higher class is on the core, no EXCL launch of others
holds it, and the package is not quiesced. -/
def State.mayLift (s : State) (core : Nat) (t : Strand) : Bool :=
  let c := s.coreOf core
  let ts := (if c.running then [c.cur] else []) ++ c.images.map (·.st)
  decide (s.pkg.pwr < 3) && !(ts.any fun x => decide (s.classOf t < s.classOf x)) &&
    !s.pkg.launches.any fun l => l.excl && t.launch != some l.id && l.holds core

/-- The pre-emption of a strand ends (R267). -/
def State.liftStrand (s : State) (core num : Nat) : State :=
  s.onCore core fun c => { c with images := onImage num (fun i =>
    if i.preempted then { i with preempted := false, sigTime := if i.cond = .ready then max i.sigTime c.cycle else i.sigTime } else i) c.images }

/-- PREEMPT_LIFT (R267, R396): the strand is runnable once its own condition holds too, with the later of the two as signal time. -/
def State.evLift (s : State) (core num : Nat) : Option State :=
  match (s.coreOf core).imageOf num with
  | some i =>
    if i.preempted && s.mayLift core i.st then
      some ((s.onPkg fun p =>
        { p with launches := p.launches.map fun (l : Launch) => { l with victims := l.victims.filter (· != (core, num)) } }).liftStrand core num)
    else none
  | none => none

/-! ## Traps that wait (R251) and failing stores (R177) -/

/-- TRAP_DELIVERY (R251): a trap that is due to the running strand is delivered. -/
def State.evTrap (s : State) (core : Nat) : Option State :=
  let c := s.coreOf core
  match (if c.running then c.cur.trapDue else none) with
  | none => none
  | some t =>
    some (((s.focusOn core).takeDue t).focusOn s.core.cid)

/-- TRAP_SLOT_FREED (R251): the oldest waiting delivery of a core on which no strand runs takes a free slot. -/
def State.evSlotFreed (s : State) (core : Nat) : Option State :=
  let c := s.coreOf core
  match c.slotQueue, c.freeSlot with
  | n :: _, some slot =>
    if c.running then none
    else
      match c.imageOf n with
      | some i =>
        match i.cond with
        | .slotWait t tagged =>
          let u := (s.focusOn core).deliverWaiting i t tagged slot
          some ((if i.preempted then u.preemptHandler n else u).focusOn s.core.cid)
        | _ => none
      | none => none
  | _, _ => none

/-- The trap CONTEXT_LOST (R177, R256). -/
def contextLost : TrapInfo := mkTrap 0x13 0

/-- A strand whose image is lost ends without resuming (R177): its cells become orphans, its spawn cell fails with LOST, its
item is lost, and its launch's handler gets CONTEXT_LOST, at once or when a slot frees. -/
def State.loseStrand (s : State) (t : Strand) : State :=
  let s := (s.endStrand t (some 7)).finishItem t true
  let s := s.onFocus fun c => { c with slotQueue := c.slotQueue.filter (· != t.num) }
  if t.sp.trapvec = 0 then s.cancelLaunch t.launch 0x21 (trapRecordBytes contextLost { Strand.reset with num := t.num })
  else
    match s.core.freeSlot with
    | some slot => s.lostHandler t contextLost slot s.core.cycle false
    | none =>
      let img := { t.image 1024 (.slotWait contextLost 0) .go s.core.cycle with place := .basin s.core.freeHome }
      s.onFocus fun c => { c with images := img :: c.images, slotQueue := c.slotQueue ++ [t.num] }

/-- The image of a suspended strand of the focus core is lost (R177): for a handler's own image that is a trap in a handler (R254). -/
def State.loseImage (s : State) (i : Image) : State :=
  let s := s.onFocus fun c => { c with images := dropImage i.st.num c.images }
  match i.st.handler with
  | some h => s.doubleTrapOf i.st contextLost h
  | none => s.loseStrand i.st

/-- IMAGE_UNCORRECTABLE (R177): an uncorrectable error in the image of a suspended strand, or in the image that the running handler
would bring back. DEDUCED: log 52. -/
def State.evImageError (s : State) (core num : Nat) : Option State :=
  let c := s.coreOf core
  match c.imageOf num with
  | some i => if i.place = .fresh then none else some (((s.focusOn core).loseImage i).focusOn s.core.cid)
  | none =>
    match (if c.running && c.cur.num == num then c.cur.handler else none) with
    | some h => if h.cause = 0x13 then none else some (((s.focusOn core).unwait.doubleTrap contextLost h).focusOn s.core.cid)
    | none => none

/-- CELL_UNCORRECTABLE (R177): a cell in use becomes FAILED with CELLECC. DEDUCED: log 52. -/
def State.evCellError (s : State) (core cell : Nat) : Option State :=
  match ((s.coreOf core).cell cell).st with
  | .free => none
  | _ => if cell < Config.numCells then some (s.onCore core fun c => c.settleCell cell (.failed 6)) else none

/-! ## The vector unit and debug stops (R123, R192) -/

/-- VECTOR_EXECUTE (R123): the vector instruction at the head of the queue has completed. -/
def State.evVector (s : State) (core : Nat) : Option State :=
  match (s.coreOf core).vq with
  | [] => none
  | e :: rest => if e.done < (s.coreOf core).cycle then some (s.onCore core fun c => c.retireHead e rest) else none

/-- Whether a debug stop that is wanted falls before the next instruction (R192): no convoy is open, and the last member of the last
one has completed. DEDUCED: log 74. -/
def Core.atStop (c : Core) : Bool := c.stopWanted && !c.stopped && c.convoy.isNone && c.vq.all fun e => decide (e.done < c.cycle)

/-- DEBUG_STOP_TAKES_EFFECT (R192). -/
def State.evDebugStop (s : State) (core : Nat) : Option State :=
  if (s.coreOf core).atStop then some (s.onCore core fun c => { c with stopped := true }) else none

/-! ## Their meanings -/

/-- PREEMPT_REQUEST (R265). -/
def execPreemptRequest (core strand : Nat) (s : State) : Out := evOut "PREEMPT_REQUEST" (s.evPreempt core strand)
/-- SUSPENDED_IMAGE_MOVE (R265). -/
def execSuspendedImageMove (core strand : Nat) (s : State) : Out := evOut "SUSPENDED_IMAGE_MOVE" (s.evImageMove core strand)
/-- CLEAN_ROW_COPY (R266). -/
def execCleanRowCopy (core strand : Nat) (s : State) : Out := evOut "CLEAN_ROW_COPY" (s.evCleanRows core strand)
/-- PREEMPT_LIFT (R267). -/
def execPreemptLift (core strand : Nat) (s : State) : Out := evOut "PREEMPT_LIFT" (s.evLift core strand)
/-- TRAP_DELIVERY (R251). -/
def execTrapDelivery (core : Nat) (s : State) : Out := evOut "TRAP_DELIVERY" (s.evTrap core)
/-- TRAP_SLOT_FREED (R251). -/
def execTrapSlotFreed (core : Nat) (s : State) : Out := evOut "TRAP_SLOT_FREED" (s.evSlotFreed core)
/-- IMAGE_UNCORRECTABLE (R177). -/
def execImageUncorrectable (core strand : Nat) (s : State) : Out := evOut "IMAGE_UNCORRECTABLE" (s.evImageError core strand)
/-- CELL_UNCORRECTABLE (R177). -/
def execCellUncorrectable (core cell : Nat) (s : State) : Out := evOut "CELL_UNCORRECTABLE" (s.evCellError core cell)
/-- PARK_TIMEOUT (R259). -/
def execParkTimeout (core : Nat) (s : State) : Out := evOut "PARK_TIMEOUT" (s.evParkTimeout core)
/-- FIMET_UNPARK (R259). -/
def execFimetUnpark (core : Nat) (s : State) : Out := evOut "FIMET_UNPARK" (s.evUnpark core)
/-- VECTOR_EXECUTE (R123). -/
def execVectorExecute (core : Nat) (s : State) : Out := evOut "VECTOR_EXECUTE" (s.evVector core)
/-- DEBUG_STOP_TAKES_EFFECT (R192). -/
def execDebugStopTakesEffect (core : Nat) (s : State) : Out := evOut "DEBUG_STOP_TAKES_EFFECT" (s.evDebugStop core)
/-- STREAM_FILL_ARRIVAL (R220). -/
def execStreamFillArrival (core strand reg : Nat) (s : State) : Out :=
  if reg < 32 then evOut "STREAM_FILL_ARRIVAL" (s.evFill core strand (BitVec.ofNat 5 reg)) else .refused (.notEnabled "STREAM_FILL_ARRIVAL")
/-- STREAM_DRAIN_COMPLETE (R221). -/
def execStreamDrainComplete (core i : Nat) (s : State) : Out := evOut "STREAM_DRAIN_COMPLETE" (s.evDrain core i)
/-- MATRIX_COMMAND_EXECUTE (R231). -/
def execMatrixCommandExecute (core : Nat) (s : State) : Out := evOut "MATRIX_COMMAND_EXECUTE" (s.evMatrix core)
/-- REMOTE_MATRIX_COMMAND (R243). -/
def execRemoteMatrixCommand (i : Nat) (s : State) : Out := evOut "REMOTE_MATRIX_COMMAND" (s.evRemoteMatrix i)
/-- FE_BANK_ANSWER (R284). -/
def execFeBankAnswer (core : Nat) (s : State) : Out :=
  evOut "FE_BANK_ANSWER" (((s.focusOn core).evBankAnswer).map fun t => t.focusOn s.core.cid)
/-- BANK_MODE_CHANGE (R279). -/
def execBankModeChange (cluster : Nat) (s : State) : Out := evOut "BANK_MODE_CHANGE" (s.evBankMode cluster)

end Sys2Proof.Machine
end

