-- ==== Sys2Proof/Machine/Launch.lean ====
section
/-! DEFINITION. Launches (R383-R399): the record and its checks, `LAUNCH`, admission, dependencies, placement, the starting of
items, the finish and the cancellation. -/

namespace Sys2Proof.Machine

/-! ## The record (R386, R387) -/

/-- Dword `i` of a launch record. -/
def recDword (r : BitVec 512) (i : Nat) : Word := r.extractLsb' (64 * i) 64

/-- CLASS of a record. -/
def recClass (r : BitVec 512) : Nat := ((recDword r 2).extractLsb' 61 3).toNat

/-- ORDERED of a record. -/
def recOrdered (r : BitVec 512) : Bool := (recDword r 2).getLsbD 52

/-- The launch that a record describes, before its argument block is read. -/
def recLaunch (r : BitVec 512) : Launch :=
  let d := recDword r
  let f := fun (i lo w : Nat) => ((d i).toNat / 2 ^ lo) % 2 ^ w
  { id := 0, queue := 0, ptroot := 0, entry := d 0, percore := f 1 56 8, perclu := f 1 51 5, perdie := f 1 46 5, dies := f 1 43 3,
    items := f 1 0 32, cls := recClass r, weight := f 2 53 8, ordered := recOrdered r, carry := (d 2).extractLsb' 44 8,
    modes := (d 2).extractLsb' 39 5, lstn := f 2 0 11, lstab := d 3, handler := d 4, seeds := List.replicate 24 0, ctoken := d 7,
    pwin := Vector.replicate 4 0, deps := Vector.replicate 4 0, depReported := 0, depDone := 0, depFailed := 0, caddr := 0, report := 0,
    spgrant := 0, clugrant := 0, bargrant := 0, pinq := 0, phase := .waiting, shape := 0, cores := [], positions := [], itemStates := [],
    nextItem := 0, turn := 0, earlyExit := none, victims := [], pubs := [], trapRecord := [] }

/-- MODES bit SHRINK (R397). -/
def Launch.shrink (l : Launch) : Bool := l.modes.getLsbD 4
/-- MODES bit EXACT. -/
def Launch.exact (l : Launch) : Bool := l.modes.getLsbD 1
/-- MODES bit RLOG. -/
def Launch.rlog (l : Launch) : Bool := l.modes.getLsbD 0

/-- Whether an address field of a record is a multiple of `n` with its upper byte zero. -/
def addrField (x : Word) (n : Nat) : Bool := x.extractLsb' 56 8 == 0 && x.toNat % n == 0

/-- The ranges and reserved bits of R386, with MAXCLASS and MODEOK of the queue and the requirements of R397. DESIGN CHOICE: log 83. -/
def recOk (r : BitVec 512) (maxClass : Nat) (modeOk : BitVec 5) : Bool :=
  let l := recLaunch r
  let d := recDword r
  addrField (d 0) 4 && decide (1 ≤ l.percore) && decide (1 ≤ l.perclu) && decide (l.perclu ≤ 16) && decide (1 ≤ l.perdie) &&
    decide (l.perdie ≤ 24) && decide (1 ≤ l.dies) && decide (l.dies ≤ 4) && (d 1).extractLsb' 32 11 == 0 && decide (1 ≤ l.items) &&
    decide (l.cls ≤ maxClass) && decide (1 ≤ l.weight) && (l.ordered || l.carry == 0) && (l.modes &&& ~~~modeOk) == 0 &&
    ((!l.exact && !l.rlog) || l.excl) && (d 2).extractLsb' 11 28 == 0 && decide (l.lstn ≤ 1024) && addrField (d 3) 16 &&
    addrField (d 4) 4 && addrField (d 5) 64 && (l.ordered || d 5 == 0) && addrField (d 6) 64

/-- The launch with its argument block (R387): 16 dwords. -/
def Launch.withArgs (l : Launch) (b : List Byte) : Launch :=
  let d := recWord b
  { l with
    pwin := #v[d 0, d 1, d 2, d 3], deps := #v[d 4, d 5, d 6, d 7], caddr := d 8, report := d 9, spgrant := (d 10).toNat, clugrant := d 11
    bargrant := d 12, pinq := (d 13).toNat }

/-- The ranges and reserved bits of R387. -/
def argsOk (b : List Byte) : Bool :=
  let d := recWord b
  let g := d 12
  addrField (d 8) 8 && addrField (d 9) 64 && decide ((d 10).toNat ≤ 0x60000) && (d 10).toNat % 64 == 0 &&
    decide ((g.extractLsb' 6 7).toNat ≤ 64) && decide ((g.extractLsb' 21 9).toNat ≤ 256) && decide ((g.extractLsb' 36 7).toNat ≤ 64) &&
    g.extractLsb' 43 21 == 0 && decide ((d 13).toNat < 65536) && d 14 == 0 && d 15 == 0

/-! ## `LAUNCH` (R389) -/

/-- The status of a submitted record. -/
def State.submitStatus (s : State) (q : Nat) (r : BitVec 512) : Nat :=
  if 16384 ≤ q ∨ !s.queueEn q ∨ (!s.cur.priv && asidOf (s.queueEntry q).1 != asidOf s.cur.sp.ptroot) then 2
  else if s.queueMaxClass q < recClass r then 3
  else if (s.pkg.queue q).recs.length = 256 then 1
  else 0

/-- Whether an access through a pointer may go on whatever its size (R55): a FMT that is not reserved with a BLK it allows, and a
block-format address on 64 bytes. -/
def ptrTagOk (x : Word) : Bool :=
  ((ptrFmt x == 0 || isType (ptrFmt x)) && tagBlk (ptrTag x) == 0) || (blockTag x && addrOf x % 64 == 0)

/-- `launch` (R389): a double trap in a handler. -/
def execLaunch (st : Bool) (d a b : BitVec 5) (s : State) : Out :=
  issueOut st 4 { g := [a, b] }
    (fun s =>
      let x := adda (s.rg a) 0
      let va := addrOf x
      let q := (s.rg b).toNat
      s.withAcc .read 64 va (if ptrTagOk x then s.checkAt s.agent .read 64 va else .trap 0x05 (infoAt va)) fun h s =>
        match s.homeBad h 64 with
        | some (p, off) => s.raise (if p then 0x0F else 0x0E) (infoAt (va + off))
        | none =>
          let r := BitVec.ofNat 512 (s.homeLoad h 64)
          let x := s.submitStatus q r
          let s := if x = 0 then s.onQueue q fun k => { k with recs := k.recs ++ [s.queued q r] } else s
          (s.wg d (BitVec.ofNat 64 x)).replyWait st .engine) s

/-- LAUNCH_PORT_WRITE (R385): a host write of `size` bytes at an offset of a port. -/
def State.evPortWrite (s : State) (q off size : Nat) (data : BitVec 512) : Option State :=
  if q < 16384 ∧ off < 64 then some (s.portWrite q off size data) else none

/-! ## Admission (R390) -/

/-- The dispatcher's agent for a queue's address space (DEDUCED, log 27). -/
def dispatcherAgent (ptroot : Word) : Agent := ⟨0, none, ptroot, false⟩

/-- Bytes that the dispatcher reads in global memory; none when any of them cannot be read. -/
def State.readBlock (s : State) (a : Agent) (va n : Nat) : Option (List Byte) :=
  if (pieces va n).all fun p => isGlobal p.1 && match s.locate a .read p.1 p.2 with
      | .at h => (s.homeBad h p.2).isNone
      | _ => false
  then some (s.loadVa a va n) else none

/-- Whether bytes that the dispatcher reads lie behind a link that retrains (R430): it waits. -/
def State.blockHeld (s : State) (a : Agent) (va n : Nat) : Bool := (pieces va n).any fun p => isGlobal p.1 && s.locate a .read p.1 p.2 == .held

/-- Whether the blocks that a record names cannot be read yet. -/
def State.recordHeld (s : State) (a : Agent) (r : BitVec 512) : Bool :=
  s.blockHeld a (addrOf (recDword r 6)) 128 || s.blockHeld a (addrOf (recDword r 5)) 192

/-- The completion word (R395): 1, or 0x100 and the failure code. -/
def State.completionWord (s : State) (l : Launch) (code : BitVec 8) : State :=
  if l.caddr = 0 then s
  else s.storeVa ⟨l.cores.head?.getD 0, some l.id, l.ptroot, false⟩ (addrOf l.caddr) (leBytes 8 (if code = 0 then 1 else 0x100 + code.toNat))

/-- A launch ends: the token is told, then the completion word is written (R390, R392, R395, R398). -/
def State.completeLaunch (s : State) (l : Launch) (code : BitVec 8) : State := (s.answerToken l.ctoken code).completionWord l code

/-- The argument block of a record: zeros when ARGS is 0. -/
def State.argsOf (s : State) (a : Agent) (r : BitVec 512) : Option (List Byte) :=
  if recDword r 6 = 0 then some (List.replicate 128 0) else s.readBlock a (addrOf (recDword r 6)) 128

/-- The seeds of a record (R403): 0 when SEEDS is 0. -/
def State.seedsOf (s : State) (a : Agent) (r : BitVec 512) : Option (List Word) :=
  if recDword r 5 = 0 then some (List.replicate 24 0)
  else (s.readBlock a (addrOf (recDword r 5)) 192).map fun b => (List.range 24).map (recWord b)

/-- Refusing a record (R390). Its number is that of no launch, so its completion word meets no grant (R387). -/
def State.refuseRecord (s : State) (q : Nat) (ptroot : Word) (r : BitVec 512) : State :=
  let s := s.onQueue q fun x => { x with err := true }
  let l := { recLaunch r with ptroot := ptroot, id := s.pkg.nextLaunch }
  let l := match s.argsOf (dispatcherAgent ptroot) r with
    | some b => if addrField (recWord b 8) 8 then { l with caddr := recWord b 8 } else l
    | none => l
  s.completeLaunch l 0x23

/-- Whether a handle of this node is stale at its core (R391). -/
def State.depStale (s : State) (h : Word) : Bool :=
  hNode h == s.node && match hCore h with
    | some c => (s.coreOf c).status h == 2
    | none => true

/-- A set of dependencies as a mask. -/
def depMask (p : Nat → Bool) : BitVec 4 := (List.range 4).foldl (fun m k => if p k then m ||| (1#4 <<< k) else m) 0

/-- Dependency `k` of a launch. -/
def Launch.dep (l : Launch) (k : Nat) : Word := l.deps[k]?.getD 0

/-- The dependencies as admission finds them (R391): a stale handle is satisfied, with its failure bit. -/
def State.withDeps (s : State) (l : Launch) : Launch :=
  let stale := depMask fun k => l.dep k != 0 && s.depStale (l.dep k)
  { l with depReported := stale, depDone := stale, depFailed := stale }

/-- The queue whose head record is admitted next (R390, R409): in ascending number from the cursor, round-robin. -/
def State.nextQueue (s : State) : Option LaunchQueue :=
  let full := decide (256 ≤ (s.pkg.launches.filter (·.ordered)).length)
  let ok := s.pkg.queues.filter fun x => match x.recs.head? with
    | some r => !(full && recOrdered r.record)
    | none => false
  let dist := fun (x : LaunchQueue) => (x.q + 16384 - s.pkg.admitCursor) % 16384
  ok.foldl (fun best x => match best with
    | none => some x
    | some b => if dist x < dist b then some x else some b) none

/-- LAUNCH_ADMISSION (R390, R403, R409): not before the power-up is over, and with it an extended self-test that was due (R423, R431), and
not while the package is quiesced (R429). The entry of the queue is the one that the record found (R383). -/
def State.evAdmit (s : State) : Option State :=
  if 4096 ≤ s.pkg.launches.length ∨ !s.pkg.tested ∨ s.pkg.boot.stage ≠ 3 ∨ 3 ≤ s.pkg.pwr then none
  else
    match s.nextQueue with
    | none => none
    | some x =>
      match x.recs with
      | [] => none
      | k :: rest =>
        let r := k.record
        let root := k.ptroot
        let d1 := k.rights
        let s := (s.onQueue x.q fun x => { x with recs := rest }).onPkg fun p => { p with admitCursor := (x.q + 1) % 16384 }
        let a := dispatcherAgent root
        if s.recordHeld a r then none
        else if !recOk r (d1.extractLsb' 60 3).toNat (d1.extractLsb' 55 5) then some (s.refuseRecord x.q root r)
        else
          match s.argsOf a r, s.seedsOf a r with
          | some b, some seeds =>
            if argsOk b then
              let l := s.withDeps { (recLaunch r).withArgs b with id := s.pkg.nextLaunch, queue := x.q, ptroot := root, seeds := seeds }
              some (s.onPkg fun p => { p with nextLaunch := p.nextLaunch + 1, launches := p.launches ++ [l] })
            else some (s.refuseRecord x.q root r)
          | _, _ => some (s.refuseRecord x.q root r)

/-! ## Dependencies (R391) -/

/-- Whether dependency `k` is present and neither satisfied nor reported. -/
def Launch.watches (l : Launch) (k : Nat) : Bool := l.dep k != 0 && !l.depReported.getLsbD k

/-- The reports that the cells of a launch's dependencies send in the cycle of their change (R391). -/
def State.depReports (s : State) (l : Launch) : List (Nat × Bool) :=
  (List.range 4).filterMap fun k =>
    let h := l.dep k
    if l.watches k && hNode h == s.node then
      match hCore h with
      | some c =>
        let x := (s.coreOf c).status h
        if x = 1 then none else some (k, (0x100#64).ule x)
      | none => none
    else none

/-- The reports of one launch are sent. -/
def State.watchLaunch (s : State) (l : Launch) : State :=
  (s.depReports l).foldl
    (fun s p => (s.onLaunch l.id fun x => { x with depReported := x.depReported ||| (1#4 <<< p.1) }).postAt ((hCore (l.dep p.1)).getD 0) none
      (.dependency l.id p.1 p.2)) s

/-- The dispatcher's watch over the dependencies of waiting launches (R391). -/
def State.watchDeps (s : State) : State := s.pkg.launches.foldl (fun s l => if l.phase = .waiting then s.watchLaunch l else s) s

/-- A dependency is satisfied (R391). -/
def Launch.satisfy (l : Launch) (k : Nat) (failed : Bool) : Launch :=
  { l with
    depReported := l.depReported ||| (1#4 <<< k), depDone := l.depDone ||| (1#4 <<< k)
    depFailed := if failed then l.depFailed ||| (1#4 <<< k) else l.depFailed }

/-- The report of dependency `k` of a launch among the messages in flight. -/
def State.depMessage (s : State) (launch k : Nat) : Option (Nat × Bool) :=
  s.flight.zipIdx.findSome? fun p => match p.1.body with
    | .dependency l j f => if l = launch ∧ j = k then some (p.2, f) else none
    | _ => none

/-- DEPENDENCY_REPORT (R391, R439): the report reaches the dispatcher. One of a cell on another node may come at any time, with a
free choice of failure. DESIGN CHOICE: log 70. -/
def State.evDependency (s : State) (launch k : Nat) : Option State :=
  match s.depMessage launch k with
  | some (i, f) =>
    if s.flight[i]?.any s.msgHeld then none else some (({ s with flight := s.flight.eraseIdx i }).onLaunch launch fun l => l.satisfy k f)
  | none =>
    match s.launchOf launch with
    | some l =>
      if k < 4 ∧ l.watches k ∧ hNode (l.dep k) ≠ s.node ∧ ¬s.podPaused then
        some (({ s with free := s.free + 1 }).onLaunch launch fun l => l.satisfy k (Config.freeBool s.free))
      else none
    | none => none

/-- Whether every dependency of a launch is satisfied. -/
def Launch.depsDone (l : Launch) : Bool := (List.range 4).all fun k => l.dep k == 0 || l.depDone.getLsbD k

/-- DEPSET (R391). -/
def Launch.depset (l : Launch) : Word := (l.depFailed ++ depMask fun k => l.dep k != 0).setWidth 64

/-! ## Placement (R392, R395, R396) -/

/-- The strands of a core. -/
def Core.residents (c : Core) : List Strand := (if c.running then [c.cur] else []) ++ c.images.map (·.st)

/-- Whether a pre-emption for a launch has moved a strand to the Basin (R392). -/
def State.cleared (s : State) (l : Launch) (core : Nat) (t : Strand) : Bool :=
  l.victims.contains (core, t.num) &&
    (s.coreOf core).images.any fun i => i.st.num == t.num && i.preempted && !i.inEntry && i.cleanCopy == 0

/-- The strands that keep a launch from a core (R392, R397): those of other launches when it asks for EXCL, else those of an EXCL launch
that holds the core. Strands that a pre-emption for this launch has moved to the Basin do not count. -/
def State.inTheWay (s : State) (l : Launch) (core : Nat) : List Strand :=
  (s.coreOf core).residents.filter fun t =>
    t.launch != some l.id && !s.cleared l core t && (l.excl || s.pkg.launches.any fun x => x.excl && x.holds core && t.launch == some x.id)

/-- Whether a strand may be a victim of a launch (R396): its class is strictly lower, and it is not the lowest unfinished item of an
ordered launch. -/
def State.isVictim (s : State) (l : Launch) (t : Strand) : Bool := decide (s.classOf t < l.cls) && !s.isLowestItem t

/-- Whether an EXCL launch of others that holds a core gives way there (R396, R397): its class is lower, and its strands hold positions. -/
def State.givesWay (s : State) (l x : Launch) (core : Nat) : Bool :=
  decide (x.cls < l.cls) && (s.coreOf core).residents.any fun t => t.launch == some x.id

/-- Whether a core is eligible for `n` strands of a launch (R392, R397). With `victims`, strands that a pre-emption may take do not
count. -/
def State.eligible (s : State) (l : Launch) (n core : Nat) (victims : Bool) : Bool :=
  let c := s.coreOf core
  c.inService && c.gangHead.isNone && !(c.residents.any fun t => decide (1 < t.sp.gangsz)) && decide (n ≤ c.freeNums) &&
    !(s.pkg.launches.any fun x => x.id != l.id && x.excl && x.holds core && !s.givesWay l x core) &&
    (s.inTheWay l core).all fun t => victims && s.isVictim l t

/-- Cores of a cluster. -/
def coresOf (cluster : Nat) : List Nat := (List.range Config.coresPerCluster).map (firstCoreOf cluster + ·)

/-- Whether the shape of a launch can be placed on cores that `ok` accepts (R392). -/
def Launch.fits (l : Launch) (ok : Nat → Nat → Bool) : Bool :=
  let n := fun (k : Nat) => if l.shrink then 1 else k
  let clu := fun (c : Nat) => decide (n l.perclu ≤ ((coresOf c).filter (ok (n l.percore))).length)
  let die := fun (d : Nat) => decide (n l.perdie ≤ ((List.range Config.clustersPerDie).filter fun c => clu (d * Config.clustersPerDie + c)).length)
  decide (n l.dies ≤ ((List.range 4).filter die).length)

/-- Whether a waiting launch can be placed at this moment, by pre-emption or without. -/
def State.placeable (s : State) (l : Launch) : Bool :=
  l.phase == .waiting && l.depsDone && l.fits fun n c => s.eligible l n c true

/-- Whether the units in service can ever hold the shape of a launch (R392). -/
def State.possible (s : State) (l : Launch) : Bool :=
  l.fits fun n c => (s.coreOf c).inService && decide (n ≤ (s.coreOf c).strandLimit)

/-- The distinct values of a function over a list. -/
def distinct (f : Nat → Nat) (l : List Nat) : List Nat := (l.map f).eraseDups

/-- How many elements of a list each value of a function takes; none when they differ. -/
def evenly (f : Nat → Nat) (l : List Nat) : Option Nat :=
  match distinct f l with
  | [] => none
  | x :: xs =>
    let n := (l.filter fun c => f c == x).length
    if xs.all fun y => (l.filter fun c => f c == y).length == n then some n else none

/-- The shape that a list of cores makes (R392): dies, clusters per die, cores per cluster. -/
def shapeOf (cores : List Nat) : Option (Nat × Nat × Nat) :=
  match evenly clusterOf cores, evenly (fun c => c / Config.clustersPerDie) (distinct clusterOf cores) with
  | some a, some b => some ((distinct dieOf cores).length, b, a)
  | _, _ => none

/-- Strictly ascending core numbers. -/
def ascending : List Nat → Bool
  | [] => true
  | [_] => true
  | a :: b :: l => decide (a < b) && ascending (b :: l)

/-- Whether a granted shape is what a launch asks, or under SHRINK no more in each tier (R392). -/
def Launch.accepts (l : Launch) (dies perdie perclu percore : Nat) : Bool :=
  if l.shrink then
    decide (dies ≤ l.dies) && decide (perdie ≤ l.perdie) && decide (perclu ≤ l.perclu) && decide (1 ≤ percore) && decide (percore ≤ l.percore)
  else dies == l.dies && perdie == l.perdie && perclu == l.perclu && percore == l.percore

/-- LGRANT of a granted shape (R393). -/
def Launch.grantWord (l : Launch) (dies perdie perclu percore : Nat) : Word :=
  BitVec.ofNat 8 percore ++ (BitVec.ofNat 5 perclu ++ (BitVec.ofNat 5 perdie ++ (BitVec.ofNat 3 dies ++ (0#11 ++ BitVec.ofNat 32 l.items))))

/-- The order in which victims are chosen (R396): lowest class, most recently admitted launch, highest core. The key of a core is that
of its least preferred victim, and 0 when it gives none. -/
def State.victimKey (s : State) (l : Launch) (core : Nat) : Nat :=
  let k := fun (t : Strand) => s.classOf t * 2 ^ 64 + (2 ^ 63 - t.launch.getD 0)
  match s.inTheWay l core with
  | [] => 0
  | ts => (ts.foldl (fun m t => max m (k t)) 0) * 2 ^ 16 + (2 ^ 15 - core)

/-- The `k`-th smallest number of a list, when it has so many. -/
def kth (k : Nat) (l : List Nat) : Option Nat :=
  (l.filter fun m => decide (k ≤ (l.filter (· ≤ m)).length)).foldl (fun best m => some (min m (best.getD m))) none

/-- The least preferred victim that `k` cores of a cluster would give, at best. -/
def State.clusterKey (s : State) (l : Launch) (n k cluster : Nat) : Option Nat :=
  kth k (((coresOf cluster).filter fun c => s.eligible l n c true).map (s.victimKey l))

/-- The least preferred victim that `b` clusters of `k` cores of a die would give, at best. -/
def State.dieKey (s : State) (l : Launch) (n k b die : Nat) : Option Nat :=
  kth b (((List.range Config.clustersPerDie).map (die * Config.clustersPerDie + ·)).filterMap (s.clusterKey l n k))

/-- The least preferred victim of a list of cores. -/
def State.worstKey (s : State) (l : Launch) (cores : List Nat) : Nat := cores.foldl (fun m c => max m (s.victimKey l c)) 0

/-- No core of a chosen cluster, no cluster of a chosen die and no die that was left out gives victims that R396 would have chosen before
those taken. DEDUCED: log 67. -/
def State.victimsInOrder (s : State) (l : Launch) (n : Nat) (cores : List Nat) : Bool :=
  let at_ := fun (f : Nat → Nat) (x : Nat) => cores.filter fun c => f c == x
  let dieOfCluster := fun (k : Nat) => k / Config.clustersPerDie
  let a := (at_ clusterOf (clusterOf (cores.headD 0))).length
  let b := (distinct clusterOf (at_ dieOf (dieOf (cores.headD 0)))).length
  cores.all (fun c => s.victimKey l c == 0 ||
    (coresOf (clusterOf c)).all fun x => cores.contains x || !s.eligible l n x true || decide (s.victimKey l c ≤ s.victimKey l x)) &&
  (distinct clusterOf cores).all (fun k => s.worstKey l (at_ clusterOf k) == 0 ||
    (List.range Config.clustersPerDie).all fun x =>
      let x := dieOfCluster k * Config.clustersPerDie + x
      !(at_ clusterOf x).isEmpty || (s.clusterKey l n a x).all fun m => decide (s.worstKey l (at_ clusterOf k) ≤ m)) &&
  (distinct dieOf cores).all fun d => s.worstKey l (at_ dieOf d) == 0 ||
    (List.range 4).all fun x => !(at_ dieOf x).isEmpty || (s.dieKey l n a b x).all fun m => decide (s.worstKey l (at_ dieOf d) ≤ m)

/-- No waiting launch of a higher class could use any of the cores at this moment (R395). -/
def State.higherFirst (s : State) (l : Launch) (cores : List Nat) : Bool :=
  s.pkg.launches.all fun h => !(decide (l.cls < h.cls) && s.placeable h && cores.any fun c => s.eligible h (if h.shrink then 1 else h.percore) c true)

/-- Whether a strand of a core is pre-empted. -/
def Core.isPreempted (c : Core) (num : Nat) : Bool := (c.imageOf num).any (·.preempted)

/-- A launch's pre-emption requests to the strands of a core (R396). One that a pre-emption already holds is held for this launch too. -/
def State.askFor (s : State) (l : Launch) (core : Nat) : List Strand → Option State
  | [] => some s
  | t :: ts =>
    let noted := fun (s : State) => s.onLaunch l.id fun x => { x with victims := (core, t.num) :: x.victims.filter (· != (core, t.num)) }
    if (s.coreOf core).isPreempted t.num then (noted s).askFor l core ts
    else match s.evPreempt core t.num with
      | some s' => (noted s').askFor l core ts
      | none => none

/-- The strands in the way on a core that the launch has not asked for yet. -/
def State.unasked (s : State) (l : Launch) (core : Nat) : List Strand :=
  (s.inTheWay l core).filter fun t => !(l.victims.contains (core, t.num) && (s.coreOf core).isPreempted t.num)

/-- The strand of an item on a core (R388). -/
def State.itemStrand (s : State) (l : Launch) (item core num : Nat) : Strand :=
  { Strand.reset with
    num := num, pc := l.entry, launch := some l.id, isItem := true
    sp := { Specials.reset with
      sctl := BitVec.ofNat 64 (l.cls / 2), item := BitVec.ofNat 64 item, lstb := l.lstab, depset := l.depset, lstn := BitVec.ofNat 64 l.lstn
      pwin := l.pwin, self := mkSelf s.node core num, trapvec := l.handler, ptroot := l.ptroot } }

/-- An item starts at a position (R388, R394): its strand takes the lowest free number. -/
def State.startItem (s : State) (id item rank : Nat) : State :=
  match s.launchOf id with
  | none => s
  | some l =>
    match l.positions.find? (·.rank == rank) with
    | none => s
    | some p =>
      match (s.coreOf p.core).freeNum with
      | none => s
      | some n =>
        let s := s.onLaunch id fun l =>
          { l with
            positions := l.positions.map fun (p : Position) => if p.rank = rank then { p with item := some item } else p
            itemStates := l.itemStates ++ [⟨item, rank, Vector.replicate 8 3, false, false, false, false⟩]
            nextItem := item + 1 }
        s.onCore p.core fun c => c.addStrand (s.itemStrand l item p.core n) c.cycle

/-- The bits that an EXACT or RLOG launch sets in ACCTCTL of its cores (R397). -/
def Launch.acctBits (l : Launch) : Word := (if l.exact then 1#64 <<< 63 else 0) ||| (if l.rlog then 1#64 <<< 62 else 0)

/-- ACCTCTL of a core while such a launch holds it: setting EXACT writes a time record (R186). DEDUCED: log 68. -/
def State.acctOn (s : State) (l : Launch) (core : Nat) : State :=
  if l.acctBits = 0 then s
  else
    let f := s.core.cid
    let s := s.focusOn core
    let was := s.core.exact
    let s := s.onFocus fun c => { c with acctctl := c.acctctl ||| l.acctBits, modes := (l.id, l.acctBits) :: c.modes }
    (if !was && s.core.exact then s.trace 4 0 0 0 s.core.cycle else s).focusOn f

/-- Whether the mode that an entry of a core names has ended: its launch holds no position there (R397). -/
def State.modeOver (s : State) (core : Nat) (p : Nat × Word) : Bool :=
  match s.launchOf p.1 with
  | some l => !l.holds core
  | none => true

/-- ACCTCTL of a core whose EXACT or RLOG launch holds no position there any more: clearing EXACT first writes the open run and the lost
counts (R189). -/
def State.acctOff (s : State) (core : Nat) : State :=
  let ms := (s.coreOf core).modes
  if ms.all fun p => !s.modeOver core p then s
  else
    let keep := ms.filter fun p => !s.modeOver core p
    let off := (ms.foldl (fun m p => m ||| p.2) 0) &&& ~~~(keep.foldl (fun m p => m ||| p.2) 0#64)
    let f := s.core.cid
    let s := s.focusOn core
    let s := if off.getLsbD 63 && s.core.exact then s.closeRun.putLost 16 else s
    (s.onFocus fun c => { c with acctctl := c.acctctl &&& ~~~off, modes := keep }).focusOn f

/-- Whether a DETRED launch is on a die: a position that it holds, or a strand of it, is there (R397). -/
def State.detredHere (s : State) (d : Nat) : Bool :=
  s.pkg.launches.any fun l => l.detred &&
    ((l.cores.any fun c => dieOf c == d && l.holds c) || s.cores.any fun c => dieOf c.cid == d && c.residents.any fun t => t.launch == some l.id)

/-- DETRED is cleared on a die where no DETRED launch remains, after its buffers have drained (R319, R397). -/
def State.detredOff (s : State) (d : Nat) : State :=
  if !(s.dieAt d).detredBy || s.detredHere d then s
  else ((s.arriveReduces fun _ => true).drainDie d fun _ => true).onDie d fun x =>
    { x with redcfg := x.redcfg &&& ~~~(1#64 <<< 63), detredBy := false }

/-- The modes of launches that no longer hold their cores or dies end (R397). -/
def State.endModes (s : State) : State :=
  let s := if s.cores.all fun c => c.modes.isEmpty then s else (s.cores.map (·.cid)).foldl State.acctOff s
  if s.dies.toList.all fun d => !d.detredBy then s else (List.range 4).foldl State.detredOff s

/-- The granted positions in rank order (R392). -/
def grantPositions (cores : List Nat) (percore : Nat) : List Position :=
  (cores.flatMap fun c => List.replicate percore c).zipIdx.map fun p => ⟨p.2, p.1, none, 0⟩

/-- The first wave (R394): items 0 to min(ITEMS, P) - 1 at the positions of their ranks, those of an ordered launch within its window of
16,384 items (R409). -/
def State.firstWave (s : State) (l : Launch) (positions : Nat) : State :=
  (List.range (min (min l.items positions) (if l.ordered then 16384 else positions))).foldl (fun s i => s.startItem l.id i i) s

/-- Placing a launch on cores that its checks accept. -/
def State.place (s : State) (l : Launch) (cores : List Nat) (percore : Nat) (shape : Word) : State :=
  let s := s.onLaunch l.id fun l =>
    { l with phase := .placed, shape := shape, cores := cores, positions := grantPositions cores percore, turn := l.weight, victims := [] }
  let s := cores.foldl (fun s c => s.acctOn l c) s
  let s := if l.detred then (distinct dieOf cores).foldl State.setDetred s else s
  s.firstWave l (cores.length * percore)

/-- The pins of a launch are released (R281, R398). -/
def State.unpin (s : State) (l : Launch) : State :=
  { s with clusters := s.clusters.map fun (c : Cluster) => { c with pins := c.pins.filter fun p => p.launch != l.id } }

/-- A launch leaves the package, and its pins are released (R281); its modes end with the step (R397). -/
def State.dropLaunch (s : State) (l : Launch) : State :=
  (s.unpin l).onPkg fun p => { p with launches := p.launches.filter fun x => x.id != l.id }

/-! ## Turns (R394, R395, R409) -/

/-- The free position of a launch that freed earliest, the lowest rank first. -/
def Launch.nextPosition (l : Launch) : Option Position :=
  (l.positions.filter fun p => p.item.isNone).foldl
    (fun best p => match best with
      | none => some p
      | some b => if p.freedAt < b.freedAt then some p else some b) none

/-- Whether an EXCL launch has given way on a core to one of a higher class (R396): every strand of it there is pre-empted. -/
def State.hasGivenWay (s : State) (l x : Launch) (core : Nat) : Bool :=
  let c := s.coreOf core
  s.givesWay l x core && !(c.running && c.cur.launch == some x.id) && c.images.all fun i => i.st.launch != some x.id || i.preempted

/-- Whether an EXCL launch keeps the next item of a launch from a core that it holds (R397), where it has not given way. -/
def State.closedTo (s : State) (l : Launch) (core : Nat) : Bool :=
  s.pkg.launches.any fun x => x.id != l.id && x.excl && x.holds core && !s.hasGivenWay l x core

/-- Whether a launch can start its next item now, its turn apart. -/
def State.startable (s : State) (l : Launch) : Bool :=
  l.phase == .placed && l.moreItems && (!l.ordered || decide (l.nextItem - l.lowest < 16384)) &&
    match l.nextPosition with
    | some p => (s.coreOf p.core).freeNum.isSome && !s.closedTo l p.core
    | none => false

/-- Whether a waiting launch can be placed at this moment without any further pre-emption. -/
def State.placeableNow (s : State) (l : Launch) : Bool :=
  l.phase == .waiting && l.depsDone && l.fits fun n c => s.eligible l n c false

/-- The other launches of a class that could take a turn: start an item, or be placed (R395). -/
def State.rivals (s : State) (l : Launch) : List Launch :=
  s.pkg.launches.filter fun x => x.id != l.id && x.cls == l.cls && (s.startable x || s.placeableNow x)

/-- Whether it is a launch's turn (R395): it is within its turn, or no rival is and it comes first among those that have not had
theirs, or every rival has had its turn. -/
def State.itsTurn (s : State) (l : Launch) : Bool :=
  let rs := s.rivals l
  if 0 < l.turn ∧ l.turn < l.weight then true
  else if rs.any fun x => decide (0 < x.turn) && decide (x.turn < x.weight) then false
  else if l.turn = 0 then rs.all fun x => decide (x.weight ≤ x.turn) || decide (l.id < x.id)
  else rs.all fun x => decide (x.weight ≤ x.turn) && decide (l.id < x.id)

/-- The checks of a placement on the cores given (R392, R395, R396). -/
def State.placementOk (s : State) (l : Launch) (cores : List Nat) (shape : Nat × Nat × Nat) (percore : Nat) : Bool :=
  ascending cores && decide (cores.all (· < Config.coresPerPackage)) && l.accepts shape.1 shape.2.1 shape.2.2 percore &&
    cores.all (fun c => s.eligible l percore c true) && s.higherFirst l cores && s.victimsInOrder l percore cores

/-- LAUNCH_PLACEMENT (R392, R395, R396): at its turn, the launch's first wave is placed on the cores given; where strands of lower
classes are in the way and the launch cannot be placed otherwise, they get pre-emption requests, and it waits until they are in the Basin.
With no cores, it fails with
NOPLACE when the units in service can never hold its shape. -/
def State.evPlace (s : State) (launch : Nat) (cores : List Nat) (percore : Nat) : Option State :=
  match s.launchOf launch with
  | none => none
  | some l =>
    if l.phase ≠ .waiting ∨ !l.depsDone ∨ 3 ≤ s.pkg.pwr then none
    else if cores.isEmpty then
      if s.possible l then none else some ((s.completeLaunch l 0x24).dropLaunch l)
    else
      match shapeOf cores with
      | none => none
      | some sh =>
        if !s.placementOk l cores sh percore then none
        else if cores.all fun c => (s.inTheWay l c).isEmpty then
          if s.itsTurn l then some (s.place l cores percore (l.grantWord sh.1 sh.2.1 sh.2.2 percore)) else none
        else if s.placeableNow l ∨ cores.all fun c => (s.unasked l c).isEmpty then none
        else cores.foldl (fun r c => r.bind fun u => u.askFor l c (s.unasked l c)) (some s)

/-! ## Later items (R394, R395, R409) -/

/-- A new round begins when the launch has had its turn. -/
def State.newRound (s : State) (l : Launch) : State :=
  if l.weight ≤ l.turn then s.onPkg fun p => { p with launches := p.launches.map fun (x : Launch) => if x.cls = l.cls then { x with turn := 0 } else x } else s

/-- ITEM_START (R394, R395, R409): the next item takes the position that freed earliest. -/
def State.evItem (s : State) (launch : Nat) : Option State :=
  match s.launchOf launch with
  | none => none
  | some l =>
    if s.startable l && s.itsTurn l && decide (s.pkg.pwr < 3) then
      match l.nextPosition with
      | none => none
      | some p => some (((s.newRound l).startItem l.id l.nextItem p.rank).onLaunch l.id fun l => { l with turn := l.turn + 1 })
    else none

/-! ## The finish (R395) -/

/-- Whether a strand of a launch is on a core or on its way to one. -/
def State.hasStrands (s : State) (l : Nat) : Bool :=
  ((s.core :: s.others).any fun c => c.residents.any fun t => t.launch == some l) ||
    s.flight.any fun m => match m.body with
      | .hop t _ _ => t.launch == some l
      | _ => false

/-- Whether an engine operation of a launch has neither completed nor failed. -/
def State.engineBusy (s : State) (l : Nat) : Bool :=
  ((s.core :: s.others).any fun c => (c.drains.any fun d => d.launch == some l) || c.mx.queue.any fun k => k.launch == some l) ||
    (s.clusters.any fun k => k.copies.any fun c => c.launch == some l) || (s.dies.toList.any fun d => d.ssOps.any fun o => o.launch == some l) ||
    s.arrivalsWait l ||
    s.flight.any fun m => match m.body with
      | .matrix _ _ _ _ x => x == some l
      | .ldqReply _ _ _ _ x => x == some l
      | .store _ _ _ _ x => x == some l
      | .barrier _ _ _ _ _ x => x == some l
      | _ => false

/-- Whether every item has finished or will never start. -/
def Launch.allDone (l : Launch) : Bool := !l.moreItems && l.itemStates.all (·.finished)

/-- LAUNCH_FINISH (R395). -/
def State.evFinish (s : State) (launch : Nat) : Option State :=
  match s.launchOf launch with
  | none => none
  | some l =>
    if l.phase == .placed && l.allDone && !s.hasStrands launch && !s.engineBusy launch then some ((s.completeLaunch l 0).dropLaunch l) else none

/-! ## Cancellation (R398) -/

/-- A launch is cancelled (R398, R399): one whose finish conditions hold in this cycle finishes; one that waits for dependencies is refused at
once; every other begins its cancellation. -/
def State.cancelOne (s : State) (l : Launch) : State :=
  match s.evFinish l.id with
  | some t => t
  | none => if l.phase = .waiting ∧ !l.depsDone then (s.completeLaunch l 5).dropLaunch l else s.cancelLaunch (some l.id) 5 []

/-- `wrs` LCANCEL (R398): every admitted, unfinished launch of the queue is cancelled. -/
def execWrsLcancel (st : Bool) (a : BitVec 5) (s : State) : Out :=
  wrsWith st a 0x872 (fun v s => .ok ((s.pkg.launches.filter fun l => l.queue == v.toNat).foldl State.cancelOne s)) s

/-- The strands of a launch on the focus core are stopped and end, with every image of theirs; their trap slots are freed (R398). -/
def State.stopStrands (s : State) (l : Nat) : State :=
  let ours := fun (t : Strand) => t.launch == some l
  let nums := (s.core.residents.filter ours).map (·.num)
  let s := if s.core.running && ours s.cur then
      let t := s.cur
      let s := s.quiesce .basin
      ((s.freeGang t).endStrand t (some 5)).vacate
    else s
  let gone := s.core.images.filter fun i => ours i.st
  let s := s.onFocus fun c =>
    { c with
      images := c.images.filter fun i => !ours i.st
      trapSlots := c.trapSlots.filter fun x => !nums.contains x.strand
      slotQueue := c.slotQueue.filter fun n => !gone.any fun i => i.st.num == n }
  gone.foldl (fun s i => s.endStrand i.st (some 5)) s

/-- The matrix commands of a launch leave the queue of the focus core but for one that runs; their batches fail with CANCELLED,
remote ones fail their tokens; the units of strands that are gone are released (R225, R398). -/
def State.cancelMatrix (s : State) (l : Nat) : State :=
  let s := s.matrixNow s.core.mx.queue.length
  let started := match s.core.mx.headTimes with
    | some (_, b, _) => decide (b < s.core.cycle)
    | none => false
  let q := s.core.mx.queue
  let keep := if started then q.take 1 else []
  let rest := if started then q.drop 1 else q
  let gone := rest.filter fun k => k.launch == some l
  let s := s.onFocus fun c =>
    { c with mx := { c.mx with
      queue := keep ++ rest.filter fun k => k.launch != some l
      batches := c.mx.batches.filter fun b => !gone.any fun k => k.batch == b.handle && k.remote.isNone } }
  let s := ((gone.map fun k => k.remote.getD k.batch).eraseDups).foldl (fun s h => s.failTo h 5) s
  s.onFocus Core.sweepKept

/-- The drains of a launch on the focus core: those under way, a free choice, complete; the others are discarded, and fail the token of
their binding with CANCELLED (R398). Each channel frees when its last drain ends. DEDUCED: log 69. -/
def State.cancelDrains (s : State) (l : Nat) : Nat → State
  | 0 => s
  | n + 1 =>
    match (s.core.drains.zipIdx.find? fun p => p.1.launch == some l) with
    | none => s
    | some (d, i) =>
      let c := s.core.cid
      let u := ({ s with free := s.free + 1 }).endFault (.drain c d.strand d.reg)
      ((if Config.freeBool s.free then u.drainNow c i d else none).getD (u.drainDone c i d 5)).cancelDrains l n

/-- Everything that a launch has on one core is stopped. -/
def State.cancelOnCore (s : State) (l core : Nat) : State :=
  let f := s.core.cid
  let s := ((s.focusOn core).stopStrands l).cancelMatrix l
  ((s.cancelDrains l s.core.drains.length).onFocus (fun c => { c with waiters := c.waiters.filter fun w => w.launch != some l })).focusOn f

/-- The messages of a launch that its cancellation takes out of flight: hops, remote commands and publications. -/
def Msg.cancelled (m : Msg) (l : Nat) : Bool :=
  match m.body with
  | .hop t _ _ => t.launch == some l
  | .matrix _ _ _ _ x => x == some l
  | .publication x _ _ _ => x == l
  | _ => false

/-- The tokens of remote commands that are taken out of flight. -/
def Msg.cancelledToken (m : Msg) (l : Nat) : Option Word :=
  match m.body with
  | .matrix _ _ _ h x => if x = some l then some h else none
  | _ => none

/-- The strands of a launch on their way to another core end: their spawn cells are told, and the cells that they have left behind become
orphans (R153, R168, R398). -/
def State.dropHops (s : State) (l : Nat) : State :=
  s.flight.foldl
    (fun s m => match m.body with
      | .hop t _ _ =>
        if t.launch = some l then
          let s := if hGen t.spawnCell = 0 then s else s.failTo t.spawnCell 5
          t.left.foldl (fun s p => s.onCore p.1 (·.orphanCells p.2)) s
        else s
      | _ => s) s

/-- Steps 1 to 3 of R398. -/
def State.stopLaunch (s : State) (l : Launch) : State :=
  let s := s.dropHops l.id
  let hs := s.flight.filterMap fun m => m.cancelledToken l.id
  let s := { s with flight := s.flight.filter fun m => !m.cancelled l.id }
  let s := hs.foldl (fun s h => s.answerToken h 5) s
  let s := ((s.core :: s.others).map (·.cid)).foldl (fun s c => s.cancelOnCore l.id c) s
  let s := { s with clusters := s.clusters.map fun (c : Cluster) => { c with waiters := c.waiters.filter fun w => w.launch != some l.id } }
  let s := ((s.cancelCopies l.id).dropArrivals l.id).unpin l
  { s with dies := Vector.ofFn fun i =>
      { s.dies[i] with ssOps := s.dies[i].ssOps.map fun (o : MoraineOp) => if o.launch = some l.id then { o with cancelled := true } else o } }

/-- Whether a launch has anything that its cancellation stops. -/
def State.hasWork (s : State) (l : Launch) : Bool :=
  s.hasStrands l.id || ((s.core :: s.others).any fun c => (c.drains.any fun d => d.launch == some l.id) || (c.mx.queue.drop 1).any fun k => k.launch == some l.id) ||
    (s.clusters.any fun k => k.copies.any fun c => c.launch == some l.id) ||
    (s.dies.toList.any fun d => d.ssOps.any fun o => o.launch == some l.id && !o.cancelled) || s.flight.any fun m => m.cancelled l.id

/-- Whether a strand of a launch runs that a Moraine unit owes a reply: it is stopped as a pre-emption stops it, after the reply (R334). -/
def State.replyOwed (s : State) (l : Nat) : Bool := s.cores.any fun c => c.running && c.cur.launch == some l && c.owedReply

/-- CANCEL_COMPLETE (R398): the launch's strands and operations are stopped; once its engine threads have ended, the report is
written and the launch fails. It comes back for a launch whose Moraine operations or running matrix command have still to end. DEDUCED: log 40. -/
def State.evCancel (s : State) (launch : Nat) : Option State :=
  match s.launchOf launch with
  | none => none
  | some l =>
    match l.phase with
    | .cancelling code =>
      let s' := s.stopLaunch l
      if s.replyOwed launch then none
      else if s'.engineBusy launch then (if s.hasWork l then some s' else none)
      else
        let rep := l.trapRecord ++ List.replicate (2048 - l.trapRecord.length) 0
        let s' := if l.report = 0 then s' else s'.storeVa ⟨l.cores.head?.getD 0, some l.id, l.ptroot, false⟩ (addrOf l.report) rep
        some ((s'.completeLaunch l code).dropLaunch l)
    | _ => none

/-! ## The end of an address space (R329) -/

/-- Whether a launch or a strand still runs in an address space. -/
def State.asidInUse (s : State) (asid : BitVec 12) : Bool :=
  (s.pkg.launches.any fun l => asidOf l.ptroot == asid) || s.cores.any fun c => c.residents.any fun t => asidOf t.sp.ptroot == asid

/-- System software tears down an address space that nothing runs in: its slots are closed (R329). DESIGN CHOICE: log 64. -/
def State.tearDown (s : State) (asid : BitVec 12) : State :=
  if s.asidInUse asid then s
  else (List.range 4).foldl (fun s d => ((s.dieAt d).slotsOf asid).foldl (fun s n => s.loseSlot d n) s) s

/-! ## The instructions of the dispatcher -/

/-- LAUNCH_PORT_WRITE (R385). -/
def execLaunchPortWrite (q off size : Nat) (data : BitVec 512) (s : State) : Out := evOut "LAUNCH_PORT_WRITE" (s.evPortWrite q off size data)
/-- LAUNCH_ADMISSION (R390). -/
def execLaunchAdmission (s : State) : Out := evOut "LAUNCH_ADMISSION" s.evAdmit
/-- DEPENDENCY_REPORT (R391). -/
def execDependencyReport (launch k : Nat) (s : State) : Out := evOut "DEPENDENCY_REPORT" (s.evDependency launch k)
/-- LAUNCH_PLACEMENT (R392). -/
def execLaunchPlacement (launch : Nat) (cores : List Nat) (perCore : Nat) (s : State) : Out :=
  evOut "LAUNCH_PLACEMENT" (s.evPlace launch cores perCore)
/-- ITEM_START (R394). -/
def execItemStart (launch : Nat) (s : State) : Out := evOut "ITEM_START" (s.evItem launch)
/-- LAUNCH_FINISH (R395). -/
def execLaunchFinish (launch : Nat) (s : State) : Out := evOut "LAUNCH_FINISH" (s.evFinish launch)
/-- CANCEL_COMPLETE (R398). -/
def execCancelComplete (launch : Nat) (s : State) : Out := evOut "CANCEL_COMPLETE" (s.evCancel launch)

end Sys2Proof.Machine
end

