-- ==== Sys2Proof/Machine/Net.lean ====
section
/-! DEFINITION. The fabric (R435-R447): accesses and messages of other nodes, the remote-memory engine with its queue pairs, and
the key-value placement table. -/

namespace Sys2Proof.Machine

/-! ## The pod window (R436, R437) -/

/-- Where the bytes of an access of another node lie, line by line: none when the package does not back one of them. DESIGN CHOICE: log 81. -/
def State.podHomes (s : State) (exported : Bool) (off n : Nat) : Option (List (Home × Nat)) :=
  (pieces off n).mapM fun p => (s.podLocal exported p.1).map fun pa => (s.localHome pa, p.2)

/-- Whether such an access waits for a link of this package that retrains (R430). -/
def State.podHeld (s : State) (exported : Bool) (off n : Nat) : Bool :=
  s.podPaused || (!s.pkg.links.isEmpty && (pieces off n).any fun p => (s.podLocal exported p.1).any s.localPaused)

/-- Bytes written at homes one after another. -/
def State.putHomes (s : State) : List (Home × Nat) → List Byte → State
  | [], _ => s
  | (h, n) :: rest, bs =>
    let s := match h with
      | .here k => s.storeBytes k (bs.take n)
      | .dead k => s.markPoison k n
      | _ => s
    s.putHomes rest (bs.drop n)

/-- An atomic of another node on `n` bytes: `f old` is the value written, if any. -/
def State.podAtomic (s : State) (h : Home) (n : Nat) (f : Nat → Option Nat) : State :=
  let s := s.homeTouch h n
  match f (s.homeLoad h n) with
  | some x => s.homeStore h n x
  | none => s

/-- What a comparison of 8 bytes writes (R210). -/
def casWrites (c x : Word) (old : Nat) : Option Nat := if BitVec.ofNat 64 old = c then some x.toNat else none

/-- A packet of reduce-adds of another node to elements one after another of the line at a home (R317, R319): its launch is none of this
package's. -/
def State.podAdds (s : State) (h : Home) (fmt : BitVec 5) (item : Word) (n first : Nat) (xs : List Word) : State :=
  match h with
  | .here k =>
    s.addPackets ((List.range xs.length).map fun i =>
      { launch := none, item := item, n := n, j := first + i, fmt := fmt, addr := k + addSize fmt * i, value := xs[i]?.getD 0 })
  | .dead k => s.markPoison k (addSize fmt * xs.length)
  | _ => s

/-- The effect of an access of another node at its homes. -/
def State.podPerform (s : State) (off : Nat) (hs : List (Home × Nat)) : PodOp → Option State
  | .read _ => some (hs.foldl (fun s p => s.homeTouch p.1 p.2) s)
  | .write bs => some (s.putHomes hs bs)
  | .amo op x => if off % amoSize op = 0 then hs.head?.map fun p => s.podAtomic p.1 (amoSize op) fun old => some (amoApply op old x) else none
  | .cas c x => if off % 8 = 0 then hs.head?.map fun p => s.podAtomic p.1 8 (casWrites c x) else none
  | .adds fmt item n first xs =>
    match hs with
    | [p] => if addType fmt ∧ off % addSize fmt = 0 then some (s.podAdds p.1 fmt item n first xs) else none
    | _ => none

/-- Bytes that an access of another node touches. -/
def podBytes : PodOp → Nat
  | .read n => n
  | .write bs => bs.length
  | .amo op _ => amoSize op
  | .cas _ _ => 8
  | .adds fmt _ _ _ xs => addSize fmt * xs.length

/-- POD_REMOTE_ACCESS (R436, R437): an access of another node is performed at its home, or refused, which changes nothing
here. -/
def State.evPod (s : State) (a : PodAccess) : Option State :=
  if s.nodes ≤ a.source ∨ a.source = s.node ∨ podBytes a.op = 0 ∨ s.podHeld a.exported a.offset.toNat (podBytes a.op) then none
  else
    match s.podHomes a.exported a.offset.toNat (podBytes a.op) with
    | none => some s
    | some hs => s.podPerform a.offset.toNat hs a.op

/-! ## Messages between nodes (R439, R440) -/

/-- The node that a message is for. -/
def State.msgNode (s : State) : MsgBody → Nat
  | .signal h => hNode h
  | .fail h _ => hNode h
  | .deposit t _ _ _ => hNode t
  | _ => s.node

/-- A message from another node, delivered here, not while every port retrains (R440, R441); one whose handle names no core is counted at
its sender (R155). -/
def State.messageIn (s : State) (b : MsgBody) : Option State :=
  if s.isLocal b ∧ ¬s.podPaused then some ((s.deliverBody ⟨0, 0, none, b⟩).getD s) else none

/-- REMOTE_CONTROL_MESSAGE (R439): a message from another node takes effect here, or one of ours is delivered there. -/
def State.evControl (s : State) : ControlMsg → Option State
  | .signalIn h => s.messageIn (.signal h)
  | .failIn h e => s.messageIn (.fail h e)
  | .depositIn t r x => s.messageIn (.deposit t r x 0)
  | .outgoing i =>
    match s.flight[i]? with
    | none => none
    | some m =>
      if !s.isLocal m.body && s.arrived m && s.reachable (s.msgNode m.body) && !s.podPaused && !(s.flight.take i).any (·.before m) then some { s with flight := s.flight.eraseIdx i }
      else none

/-- The messages for nodes that cannot be reached are discarded and counted at their senders (R156, R440). -/
def State.dropUnreachable (s : State) : State :=
  let gone := fun (m : Msg) => !s.isLocal m.body && !s.reachable (s.msgNode m.body)
  (s.flight.filter gone).foldl (fun t m => t.onCore m.src Core.countStale) { s with flight := s.flight.filter fun m => !gone m }

/-- PATH_DOWN_TIMEOUT (R440, R441, R450): the last path to a node is declared down, not while a port of it retrains or the package is
quiesced (R434). -/
def State.evPathDown (s : State) (node : Nat) : Option State :=
  if node = s.node ∨ s.nodes ≤ node ∨ s.pkg.nodesDown.contains node ∨ s.podPaused ∨ s.engineStop then none
  else some (s.onPkg fun p => { p with nodesDown := node :: p.nodesDown }).dropUnreachable.reHealth

/-! ## Queue pairs (R443) -/

/-- Dword `i` of a context. -/
def ctxWord (c : BitVec 512) (i : Nat) : Word := c.extractLsb' (64 * i) 64

/-- Whether a context has no reserved bit set and every value in range (R443). -/
def ctxOk (c : BitVec 512) : Bool :=
  let d := ctxWord c
  decide ((d 0).extractLsb' 61 3 ≤ 4#3) && (d 0).extractLsb' 56 3 == 0 && (d 0).extractLsb' 0 6 == 0 &&
  decide (4#4 ≤ (d 1).extractLsb' 48 4) && decide (4#4 ≤ (d 1).extractLsb' 44 4) && (d 1).extractLsb' 0 36 == 0 &&
  (d 2).extractLsb' 56 8 == 0 && (d 2).extractLsb' 0 6 == 0 && (d 3).extractLsb' 56 8 == 0 && (d 3).extractLsb' 0 6 == 0 &&
  (d 4).extractLsb' 24 16 == 0

/-- STATE of a context. -/
def ctxState (c : BitVec 512) : Nat := ((ctxWord c 0).extractLsb' 61 3).toNat
/-- Ethernet port of a queue pair. -/
def QueuePair.port (q : QueuePair) : Nat := ((ctxWord q.ctx 0).extractLsb' 59 2).toNat
/-- Address of the send queue. -/
def QueuePair.sq (q : QueuePair) : Nat := ((ctxWord q.ctx 0).extractLsb' 0 56).toNat
/-- Entries of the send queue. -/
def QueuePair.sqSize (q : QueuePair) : Nat := 2 ^ ((ctxWord q.ctx 1).extractLsb' 48 4).toNat
/-- Address of the receive queue. -/
def QueuePair.rq (q : QueuePair) : Nat := ((ctxWord q.ctx 2).extractLsb' 0 56).toNat
/-- Entries of the receive queue. -/
def QueuePair.rqSize (q : QueuePair) : Nat := 2 ^ ((ctxWord q.ctx 1).extractLsb' 44 4).toNat
/-- Address of the doorbell line. -/
def QueuePair.db (q : QueuePair) : Nat := ((ctxWord q.ctx 3).extractLsb' 0 56).toNat
/-- Address space of the queue pair. -/
def QueuePair.asid (q : QueuePair) : BitVec 12 := (ctxWord q.ctx 1).extractLsb' 52 12
/-- RETRY of the queue pair. -/
def QueuePair.retry (q : QueuePair) : Nat := ((ctxWord q.ctx 1).extractLsb' 41 3).toNat

/-- A queue pair that is not in RESET. -/
def State.qp (s : State) (n : Nat) : Option QueuePair := s.pkg.qps.find? (·.id == n)

/-- Replacing a queue pair. -/
def State.setQp (s : State) (q : QueuePair) : State := s.onPkg fun p => { p with qps := q :: p.qps.filter (·.id != q.id) }

/-- The tokens of requests fail with a code. -/
def State.failSent (s : State) (l : List SentRequest) (code : BitVec 8) : State := l.foldl (fun s r => s.answerToken r.token code) s

/-- A queue pair leaves RTS (R445): its outstanding requests fail, the first `n` of them with `code`, the others as those of a queue
pair that is not in RTS (DEDUCED, log 30). -/
def State.qpError (s : State) (q : QueuePair) (n : Nat) (code : BitVec 8) : State :=
  ((s.failSent (q.sent.take n) code).failSent (q.sent.drop n) 0x51).setQp { q with st := 4, sent := [] }

/-- The queue pair as a reload leaves it (R443, DEDUCED, log 30): a queue pair that was in RESET starts with indices 0 and the context's
PSN; another keeps its indices. -/
def State.reloaded (s : State) (n : Nat) (c : BitVec 512) : QueuePair :=
  match s.qp n with
  | some q => { q with ctx := c }
  | none =>
    let psn := (ctxWord c 4).extractLsb' 0 24
    { id := n, st := 0, ctx := c, sqCons := 0, rqCons := 0, sqProd := 0, rqProd := 0, nextPsn := psn, expPsn := psn, retries := 0, naked := false,
      received := 0, sent := [] }

/-- A reload of a context (R443): ERROR when it is not well formed. With NETQPT.EN = 0 there is no table (DEDUCED, log 30). -/
def State.netReload (s : State) (n : Nat) : State :=
  if !s.pkg.netqpt.getLsbD 63 then s
  else
    let c := BitVec.ofNat 512 (s.loadPa ((s.pkg.netqpt.extractLsb' 6 46).toNat * 64 + 64 * n) 64)
    let q := s.reloaded n c
    if !ctxOk c then s.qpError q 0 0x51
    else if ctxState c = 3 then s.setQp { q with st := 3 }
    else
      let s := s.qpError q 0 0x51
      if ctxState c = 0 then s.onPkg fun p => { p with qps := p.qps.filter (·.id != n) }
      else s.setQp { q with st := ctxState c, sent := [] }

/-- `wrs` NETRELOAD (R443). -/
def execWrsNetreload (st : Bool) (a : BitVec 5) (s : State) : Out :=
  wrsWith st a 0x8B2 (fun v s => .ok (s.netReload (v.extractLsb' 0 16).toNat)) s

/-! ## Accesses of the engine -/

/-- The engine as an agent of an address space, at a die; none when no address space has the ASID (DEDUCED, log 26). -/
def State.unitAgent (s : State) (asid : BitVec 12) (die : Nat) : Option Agent :=
  (s.rootOf asid).map fun r => ⟨die * Config.coresPerDie, none, r, false⟩

/-- The engine as an agent of a queue pair: port d attaches to die d (R421). -/
def State.qpAgent (s : State) (q : QueuePair) : Option Agent := s.unitAgent q.asid q.port

/-- What the engine meets at a local run of bytes (R445): it can go on, the page service cannot map it, or a page of it is not
resident yet. -/
inductive LocalRun where
  | ok
  | refused
  | absent
  deriving DecidableEq, Repr

/-- The state of a local run of bytes. -/
def State.localRun (s : State) (a : Agent) (k : AccKind) (va n : Nat) : LocalRun :=
  if n = 0 then .ok
  else if !isGlobal va || s.runDenied a k va n then .refused
  else if (s.runAbsent a k va n).isEmpty then .ok
  else .absent

/-- A dword of a record that an engine reads at a virtual address. -/
def State.netWord (s : State) (a : Agent) (va i : Nat) : Word := BitVec.ofNat 64 (leValue (s.loadVa a ((va + 8 * i) % 2 ^ 56) 8))

/-- A dword that an engine writes at a virtual address. -/
def State.putNetWord (s : State) (a : Agent) (va i : Nat) (x : Word) : State :=
  s.engineWrite a ((va + 8 * i) % 2 ^ 56) (leBytes 8 x.toNat) false

/-! ## The doorbell (R444) -/

/-- Packets of a message: the path MTU is 4,096 bytes (R442). -/
def mtuPackets (len : Nat) : Nat := max 1 (ceilDiv len 4096)

/-- Whether a work request is malformed (R444, R445): a reserved OP, a nonzero reserved field, a length out of range. -/
def wqeBad (w : Nat → Word) : Bool :=
  let op := ((w 0).extractLsb' 60 4).toNat
  decide (7 ≤ op) || (w 0).extractLsb' 32 28 != 0 || (w 2).extractLsb' 32 32 != 0 || (w 4).extractLsb' 32 32 != 0 ||
  decide (2 ^ 31 < (w 2).toNat) || (decide (5 ≤ op) && (w 2).toNat != 8)

/-- Whether erroneous data lies in a run of bytes. -/
def State.runBad (s : State) (a : Agent) (va n : Nat) : Bool :=
  !(s.poison.isEmpty && s.ue.isEmpty && s.pkg.links.isEmpty && s.pkg.cxlFailed.isEmpty) && (s.engineRead a va n).2.2

/-- Whether accesses of the engine to runs of bytes cannot be performed yet: a page is not resident, or an access is held back (R366, R430). -/
def State.runsWait (s : State) (a : Agent) (k : AccKind) (rs : List (Nat × Nat)) : Bool :=
  rs.any fun r => s.localRun a k r.1 r.2 == .absent || s.runHeld a k r.1 r.2

/-- A well-formed work request of a queue pair in RTS is sent (R445): a local source that the page service cannot map fails its
token, and so do one on a node that cannot be reached (R440) and an erroneous one (R263); a page that is not resident is mapped or not
as the service decides. -/
def State.sendWqe (s : State) (q : QueuePair) (a : Agent) (w : Nat → Word) : State × QueuePair :=
  let op := ((w 0).extractLsb' 60 4).toNat
  let va := addrOf (w 1)
  let n := (w 2).toNat
  let tok := w 5
  let run := if op < 4 then s.localRun a .read va n else .ok
  if run = .refused ∨ (run = .absent ∧ Config.freeBool s.free) then (s.fresh.answerToken tok 0x53, q)
  else if decide (op < 4) && run == .ok && s.runUnreachable a .read va n then (s.answerToken tok 4, q)
  else if decide (op < 4) && run == .ok && s.runBad a va n then (s.answerToken tok 3, q)
  else
    let k := mtuPackets n
    (s.fresh, { q with nextPsn := q.nextPsn + BitVec.ofNat 24 k, sent := q.sent ++ [⟨op, w 1, n, tok, q.nextPsn, q.nextPsn + BitVec.ofNat 24 (k - 1), 0⟩] })

/-- Whether the local source of a work request is held back (R430). -/
def State.wqeHeld (s : State) (a : Agent) (w : Nat → Word) : Bool :=
  decide (((w 0).extractLsb' 60 4).toNat < 4) && s.runHeld a .read (addrOf (w 1)) (w 2).toNat

/-- The next work requests of a queue pair, `n` of them, up to one whose source is held back. -/
def State.takeWqes (s : State) (a : Agent) : Nat → QueuePair → State × QueuePair
  | 0, q => (s, q)
  | n + 1, q =>
    let va := q.sq + 64 * (q.sqCons % q.sqSize)
    let w := fun i => s.netWord a va i
    let q' := { q with sqCons := q.sqCons + 1 }
    if q.st ≠ 3 ∨ wqeBad w then (s.answerToken (w 5) 0x51).takeWqes a n q'
    else if s.wqeHeld a w then (s, q)
    else
      let (s, q') := s.sendWqe q' a w
      s.takeWqes a n q'

/-- Whether the engine can read the doorbell line and the send queue of a queue pair, and write the line (R444). -/
def State.doorbellOk (s : State) (q : QueuePair) (a : Agent) : Bool :=
  s.localRun a .read q.db 64 == .ok && s.localRun a .write q.db 64 == .ok && s.localRun a .read q.sq (64 * q.sqSize) == .ok &&
  !s.runHeld a .write q.db 64 && !s.runHeld a .read q.sq (64 * q.sqSize)

/-- NET_DOORBELL_ACQUIRE (R444, R445): the engine acquires the producer indices and forks the requests that they cover; it writes
the consumer indices. It issues nothing while the package is quiesced (R429). -/
def State.evDoorbell (s : State) (n : Nat) : Option State :=
  match s.qp n with
  | none => none
  | some q =>
    match s.qpAgent q with
    | none => none
    | some a =>
      if !s.doorbellOk q a || s.engineStop then none
      else
        let sp := (s.netWord a q.db 0).toNat
        let rp := (s.netWord a q.db 1).toNat
        let (s, q) := s.takeWqes a (min (sp - q.sqCons) q.sqSize) q
        let s := (s.putNetWord a q.db 2 (BitVec.ofNat 64 q.sqCons)).putNetWord a q.db 3 (BitVec.ofNat 64 q.rqCons)
        some (s.setQp { q with sqProd := sp, rqProd := rp })

/-! ## Requests that complete (R445) -/

/-- Whether a PSN is at or after another, in the circular order of 24 bits. -/
def psnLe (a b : BitVec 24) : Bool := !(b - a).getLsbD 23

/-- A SEND or a WRITE. -/
def SentRequest.plain (r : SentRequest) : Bool := decide (r.op < 4)

/-- The SENDs and WRITEs at the head of the queue that an acknowledgement up to `psn` covers. -/
def acked (psn : BitVec 24) : List SentRequest → List SentRequest
  | [] => []
  | r :: rest => if r.plain && psnLe r.last psn then r :: acked psn rest else []

/-- Requests at the head of a queue pair complete, in queue order (R445). -/
def State.completeAcked (s : State) (q : QueuePair) (psn : BitVec 24) : State × QueuePair :=
  let l := acked psn q.sent
  (s.failSent l 0, { q with sent := q.sent.drop l.length, retries := if l.isEmpty then q.retries else 0 })

/-- The response data of a READ or atomic placed locally; its token once the last has been (R445). -/
def State.placeResponse (s : State) (q : QueuePair) (a : Agent) (r : SentRequest) (rest : List SentRequest) (bs : List Byte) : Option State :=
  let va := (addrOf r.va + 4096 * r.got) % 2 ^ 56
  match s.localRun a .write va bs.length with
  | .absent => if Config.freeBool s.free then some ((s.fresh.answerToken r.token 0x53).setQp { q with sent := rest }) else none
  | .refused => some ((s.answerToken r.token 0x53).setQp { q with sent := rest })
  | .ok =>
    if s.runHeld a .write va bs.length then none
    else if s.runUnreachable a .write va bs.length then some ((s.answerToken r.token 4).setQp { q with sent := rest })
    else
      let s := s.engineWrite a va bs false
      if r.got + 1 < mtuPackets r.len then some (s.setQp { q with sent := { r with got := r.got + 1 } :: rest, retries := 0 })
      else some ((s.answerToken r.token 0).setQp { q with sent := rest, retries := 0 })

/-- Bytes that response packet `i` of a request carries. -/
def SentRequest.part (r : SentRequest) : Nat := min 4096 (r.len - 4096 * r.got)

/-- A response with data: it acknowledges the requests before it, and is accepted only in order (R442, R445). -/
def State.netResponse (s : State) (q : QueuePair) (a : Agent) (psn : BitVec 24) (bs : List Byte) : Option State :=
  let (s, q) := s.completeAcked q (psn - 1)
  match q.sent with
  | [] => some (s.setQp q)
  | r :: rest =>
    if !r.plain && psn == r.first + BitVec.ofNat 24 r.got && bs.length == r.part then s.placeResponse q a r rest bs
    else some (s.setQp q)

/-- The request that a remote refusal names (R445): the ones before it are acknowledged, its token fails with NET_REMOTE, and the
queue pair enters ERROR. -/
def State.netRefused (s : State) (q : QueuePair) (psn : BitVec 24) : State :=
  let (s, q) := s.completeAcked q (psn - 1)
  s.qpError q 1 0x52

/-! ## Incoming requests (R442, R443, R445) -/

/-- The memory region that an RKEY selects, when it matches (R443): VA base, length, ASID and permissions. -/
def State.region_ (s : State) (rkey : BitVec 32) : Option (Nat × Nat × BitVec 12 × Word) :=
  let e := (s.pkg.netmrt.extractLsb' 6 46).toNat * 64 + 32 * (rkey.extractLsb' 16 16).toNat
  if s.pkg.netmrt.getLsbD 63 && (s.descWord e 3).extractLsb' 0 32 == rkey then
    some ((s.descWord e 0).toNat, (s.descWord e 1).toNat, (s.descWord e 2).extractLsb' 52 12, s.descWord e 2)
  else none

/-- The agent and access of an incoming request, checked against its region: bit `perm` of dword 2 permits it. -/
def State.regionAgent (s : State) (q : QueuePair) (rkey : BitVec 32) (va n perm : Nat) : Option Agent :=
  match s.region_ rkey with
  | none => none
  | some (b, l, asid, d) => if d.getLsbD perm && decide (b ≤ va) && decide (va + n ≤ b + l) then s.unitAgent asid q.port else none

/-- The expected packet has been accepted, `n` PSNs of it. -/
def QueuePair.accept (q : QueuePair) (n : Nat) : QueuePair := { q with expPsn := q.expPsn + BitVec.ofNat 24 n, naked := false }

/-- The receive request that an incoming message takes (R444). -/
def State.receiveReq (s : State) (q : QueuePair) (a : Agent) : Option (Nat × Nat × Nat × Word) :=
  if q.rqCons < q.rqProd then
    let e := q.rq + 64 * (q.rqCons % q.rqSize)
    some (e, addrOf (s.netWord a e 1), ((s.netWord a e 2).extractLsb' 0 32).toNat, s.netWord a e 5)
  else none

/-- A receive completes (R445): byte count and IMM in the request, the consumer index, the token. -/
def State.receiveDone (s : State) (q : QueuePair) (a : Agent) (e : Nat) (tok : Word) (n : Nat) (imm : Option (BitVec 32)) : State :=
  let s := (s.putNetWord a e 3 (BitVec.ofNat 64 n)).putNetWord a e 4 ((imm.getD 0).setWidth 64)
  let q := { q with rqCons := q.rqCons + 1, received := 0 }
  ((s.putNetWord a q.db 3 (BitVec.ofNat 64 q.rqCons)).answerToken tok 0).setQp q

/-- A receive whose data cannot be placed: its token fails, and the request is consumed (R445). -/
def State.receiveFails (s : State) (q : QueuePair) (a : Agent) (tok : Word) (code : BitVec 8) : State :=
  ((s.putNetWord a q.db 3 (BitVec.ofNat 64 (q.rqCons + 1))).answerToken tok code).setQp { q.accept 1 with rqCons := q.rqCons + 1, received := 0 }

/-- Whether what the next receive of a queue pair reads and writes for itself, its request and the doorbell line, cannot be performed yet. -/
def State.receiveWaits (s : State) (q : QueuePair) (a : Agent) : Bool :=
  s.runsWait a .write [(q.db, 64), (q.rq + 64 * (q.rqCons % q.rqSize), 64)]

/-- A part of a SEND (R445); it waits for a page that is held back. A message with no receive request, or too long for it, is refused, which
changes nothing here. -/
def State.netSend (s : State) (q : QueuePair) (a : Agent) (bs : List Byte) (last : Bool) (imm : Option (BitVec 32)) : Option State :=
  if s.receiveWaits q a then none
  else
    match s.receiveReq q a with
    | none => some s
    | some (e, va, n, tok) =>
      let at_ := (va + q.received) % 2 ^ 56
      if n < q.received + bs.length then some s
      else
        match s.localRun a .write at_ bs.length with
        | .absent => some s
        | .refused => some (s.receiveFails q a tok 0x53)
        | .ok =>
          if s.runHeld a .write at_ bs.length then none
          else if s.runUnreachable a .write at_ bs.length then some (s.receiveFails q a tok 4)
          else
            let s := s.engineWrite a at_ bs false
            let q := q.accept 1
            some (if last then s.receiveDone q a e tok (q.received + bs.length) imm else s.setQp { q with received := q.received + bs.length })

/-- A part of a WRITE (R445): refused when its region does not permit it. One with an immediate value takes a receive request. -/
def State.netWrite (s : State) (q : QueuePair) (own : Agent) (va : Nat) (rkey : BitVec 32) (bs : List Byte) (last : Bool) (imm : Option (BitVec 32)) : Option State :=
  match s.regionAgent q rkey va bs.length 1 with
  | none => some s
  | some a =>
    if s.localRun a .write va bs.length ≠ .ok then some s
    else if s.runHeld a .write va bs.length then none
    else
      match imm with
      | none => some ((s.engineWrite a va bs false).setQp { q.accept 1 with received := if last then 0 else q.received + bs.length })
      | some i =>
        if s.receiveWaits q own then none
        else
          match s.receiveReq q own with
          | none => some s
          | some (e, _, _, tok) => some ((s.engineWrite a va bs false).receiveDone (q.accept 1) own e tok (q.received + bs.length) (some i))

/-- An incoming READ: its data leaves, in as many packets as it needs. -/
def State.netRead (s : State) (q : QueuePair) (va : Nat) (rkey : BitVec 32) (n : Nat) : Option State :=
  match s.regionAgent q rkey va n 0 with
  | none => some s
  | some a =>
    if s.localRun a .read va n ≠ .ok then some s
    else if s.runHeld a .read va n then none
    else some (((s.engineRead a va n).1).setQp (q.accept (mtuPackets n)))

/-- An incoming atomic on 8 bytes, naturally aligned (R203). -/
def State.netAtomic (s : State) (q : QueuePair) (va : Nat) (rkey : BitVec 32) (f : Nat → Option Nat) : Option State :=
  match s.regionAgent q rkey va 8 2 with
  | none => some s
  | some a =>
    if va % 8 ≠ 0 ∨ s.localRun a .atomic va 8 ≠ .ok then some s
    else if s.runHeld a .atomic va 8 then none
    else
      match s.locate a .atomic va 8 with
      | .at h => some ((s.podAtomic h 8 f).setQp (q.accept 1))
      | _ => some s

/-- The PSN of a packet. -/
def netPsn : NetPacket → BitVec 24
  | .send p _ _ _ => p
  | .write p _ _ _ _ _ => p
  | .readRequest p _ _ _ => p
  | .fetchAdd p _ _ _ => p
  | .compareSwap p _ _ _ _ => p
  | .ack p => p
  | .readResponse p _ => p
  | .nak p => p
  | .remoteError p => p

/-- Whether a packet answers a request of this side. -/
def netReply : NetPacket → Bool
  | .ack _ => true
  | .readResponse _ _ => true
  | .nak _ => true
  | .remoteError _ => true
  | _ => false

/-- A request of the remote side with the expected PSN; none while what it accesses is held back. -/
def State.netRequest (s : State) (q : QueuePair) (a : Agent) : NetPacket → Option State
  | .send _ bs last imm => s.netSend q a bs last imm
  | .write _ va rkey bs last imm => s.netWrite q a (addrOf va) rkey bs last imm
  | .readRequest _ va rkey n => s.netRead q (addrOf va) rkey n
  | .fetchAdd _ va rkey x => s.netAtomic q (addrOf va) rkey fun old => some (amoApply .add old x)
  | .compareSwap _ va rkey c x => s.netAtomic q (addrOf va) rkey (casWrites c x)
  | _ => some s

/-- A reply of the remote side. -/
def State.netAnswer (s : State) (q : QueuePair) (a : Agent) : NetPacket → Option State
  | .ack p => let (s, q) := s.completeAcked q p; some (s.setQp q)
  | .nak p => let (s, q) := s.completeAcked q (p - 1); some (s.setQp q)
  | .readResponse p bs => s.netResponse q a p bs
  | .remoteError p => some (s.netRefused q p)
  | _ => none

/-- NET_PACKET_ARRIVAL (R442, R445): a receiver accepts only the expected PSN and sends one NAK for a later one; a queue pair takes
requests in RTR and RTS, and replies in RTS. -/
def State.evPacket (s : State) (n : Nat) (p : NetPacket) : Option State :=
  match s.qp n with
  | none => none
  | some q =>
    match s.qpAgent q with
    | none => none
    | some a =>
      if s.linkDown (31 + q.port) || s.linkPaused (31 + q.port) then none
      else if netReply p then (if q.st = 3 then s.netAnswer q a p else some s)
      else if q.st ≠ 2 ∧ q.st ≠ 3 then some s
      else if netPsn p = q.expPsn then s.netRequest q a p
      else if psnLe q.expPsn (netPsn p) then some (s.setQp { q with naked := true })
      else some s

/-- NET_RETRANSMIT_TIMEOUT (R442, R445): the timer of the oldest packet expires; it is frozen while the port retrains. -/
def State.evRetransmit (s : State) (n : Nat) : Option State :=
  match s.qp n with
  | none => none
  | some q =>
    if q.st ≠ 3 || q.sent.isEmpty || s.linkPaused (31 + q.port) then none
    else if q.retry ≤ q.retries then some (s.qpError q q.sent.length 0x50)
    else some (s.setQp { q with retries := q.retries + 1 })

/-! ## The placement table (R446, R447) -/

/-- The descriptor of the placement unit (R446), with its agent (DEDUCED, log 31). -/
structure PlaceDesc where
  replica : Nat
  seqNode : Nat
  first : Nat
  count : Nat
  cap : Nat
  ring : Nat
  ringLog : Nat
  db : Nat
  agent : Agent

/-- The descriptor in force. Its dword 1 places CAP in [31:0]. -/
def State.placeDesc (s : State) : Option PlaceDesc :=
  let e := (s.pkg.placecfg.extractLsb' 6 46).toNat * 64
  let d := s.descWord e
  if s.pkg.placecfg.getLsbD 63 then
    (s.unitAgent 0 0).map fun a =>
      { replica := addrOf (d 0), seqNode := ((d 1).extractLsb' 54 10).toNat, first := ((d 1).extractLsb' 44 10).toNat,
        count := ((d 1).extractLsb' 33 11).toNat, cap := ((d 1).extractLsb' 0 32).toNat, ring := addrOf (d 2),
        ringLog := ((d 3).extractLsb' 0 4).toNat, db := addrOf (d 4), agent := a }
  else none

/-- Address of the shard count of member `i`. -/
def PlaceDesc.countAt (p : PlaceDesc) (i : Nat) : Nat := p.replica + 64 + 8 * i
/-- Address of entry `e`. -/
def PlaceDesc.entryAt (p : PlaceDesc) (e : Nat) : Nat := p.replica + ceilDiv (64 + 8 * p.count) 64 * 64 + 16 * e

/-- SEQ of the replica. -/
def State.placeSeq (s : State) (p : PlaceDesc) : Nat := (s.netWord p.agent p.replica 0).toNat
/-- An entry of the replica: SEQID and BLOCK, then NODE and VALID. -/
def State.placeEntry (s : State) (p : PlaceDesc) (e : Nat) : Word × Word := (s.netWord p.agent (p.entryAt e) 0, s.netWord p.agent (p.entryAt e) 1)

/-- One update applied to the replica: the entries and counts first, then SEQ (R447). -/
def State.applyUpdate (s : State) (p : PlaceDesc) (u : PlaceUpdate) : State :=
  let bump := fun (s : State) (node : Nat) (up : Bool) =>
    let c := s.netWord p.agent (p.countAt (node - p.first)) 0
    s.putNetWord p.agent (p.countAt (node - p.first)) 0 (if up then c + 1 else c - 1)
  match u with
  | .applied _ => s
  | .append seq e node seqid block _ _ =>
    let s := s.putNetWord p.agent (p.entryAt e) 0 (seqid ++ block)
    let s := s.putNetWord p.agent (p.entryAt e) 1 (BitVec.ofNat 10 node ++ (1#1 ++ (0#21 ++ BitVec.ofNat 32 seq)))
    (bump s node true).putNetWord p.agent p.replica 0 (BitVec.ofNat 64 seq)
  | .free seq es =>
    let s := es.foldl
      (fun s e =>
        let w := (s.placeEntry p e).2
        if w.getLsbD 53 then bump (s.putNetWord p.agent (p.entryAt e) 1 (w &&& ~~~(1#64 <<< 53))) ((w.extractLsb' 54 10).toNat) false else s) s
    s.putNetWord p.agent p.replica 0 (BitVec.ofNat 64 seq)

/-- The sequencer's table: its replica with the decided updates applied. -/
def State.decidedTable (s : State) (p : PlaceDesc) : State := s.pkg.place.decided.foldl (fun s u => s.applyUpdate p u.1) s

/-- The member with the least shard count; ties: the lowest node. -/
def State.leastMember (s : State) (p : PlaceDesc) : Nat :=
  (List.range p.count).foldl (fun b i => if (s.netWord p.agent (p.countAt i) 0).toNat < (s.netWord p.agent (p.countAt (b - p.first)) 0).toNat then p.first + i else b) p.first

/-- The decision of the sequencer on a request (R447): an update, or the code of its failure. -/
def State.decide_ (t : State) (p : PlaceDesc) (r : PlaceRequest) : PlaceUpdate ⊕ BitVec 8 :=
  let seq := t.placeSeq p + 1
  if r.op = 0 then
    match (List.range p.cap).find? fun e => !(t.placeEntry p e).2.getLsbD 53 with
    | none => .inr 0x54
    | some e => .inl (.append seq e (t.leastMember p) r.seqid r.block r.source r.number)
  else if r.op = 1 then
    .inl (.free seq ((List.range p.cap).filter fun e =>
      let x := t.placeEntry p e
      x.2.getLsbD 53 && x.1.extractLsb' 32 32 == r.seqid && (r.block == 0xFFFFFFFF#32 || x.1.extractLsb' 0 32 == r.block)))
  else .inr 0x55

/-- The sequencer handles a request. -/
def State.sequence (s : State) (p : PlaceDesc) (r : PlaceRequest) : State :=
  match (s.decidedTable p).decide_ p r with
  | .inr code =>
    (s.onPkg fun k => { k with place := { k.place with
      own := if r.source = s.node ∧ r.op = 0 then k.place.own.dropLast else k.place.own } }).answerToken r.token code
  | .inl u => s.onPkg fun k => { k with place := { k.place with decided := k.place.decided ++ [(u, r.token)] } }

/-- The next record of the own ring, as a request, when it has been posted (R447). -/
def State.ownRequest (s : State) (p : PlaceDesc) : Option PlaceRequest :=
  let i := s.pkg.place.ringCons
  if i < (s.netWord p.agent p.db 0).toNat then
    let e := p.ring + 32 * (i % 2 ^ p.ringLog)
    let x := s.netWord p.agent e 1
    some { source := s.node, number := i, op := (s.netWord p.agent e 0).extractLsb' 60 4, seqid := x.extractLsb' 32 32, block := x.extractLsb' 0 32, token := s.netWord p.agent e 2 }
  else none

/-- The own unit takes a record from its ring, in order, and writes the consumer index. -/
def State.takeOwn (s : State) (p : PlaceDesc) (r : PlaceRequest) : State :=
  let i := s.pkg.place.ringCons
  let s := s.putNetWord p.agent p.db 2 (BitVec.ofNat 64 (i + 1))
  s.onPkg fun k => { k with place := { k.place with
    ringCons := i + 1
    own := if r.op = 0 then k.place.own ++ [(i % 2 ^ p.ringLog, r.seqid, r.block)] else k.place.own } }

/-- Whether the unit cannot read its ring or write its doorbell line yet. -/
def State.placeRingWaits (s : State) (p : PlaceDesc) : Bool :=
  s.runsWait p.agent .write [(p.db, 64)] || s.runsWait p.agent .read [(p.ring + 32 * (s.pkg.place.ringCons % 2 ^ p.ringLog), 32)]

/-- PLACEMENT_REQUEST (R447): the own unit forwards the next record of its ring, or a request of another node arrives; the
sequencer handles it. -/
def State.evPlaceRequest (s : State) (r : PlaceRequest) : Option State :=
  match s.placeDesc with
  | none => none
  | some p =>
    if r.source = s.node then
      if s.placeRingWaits p ∨ s.engineStop ∨ s.ownRequest p ≠ some r ∨ (p.seqNode ≠ s.node ∧ (!s.reachable p.seqNode ∨ s.podPaused)) then none
      else
        let t := s.takeOwn p r
        some (if p.seqNode = s.node then t.sequence p r else t)
    else if p.seqNode = s.node ∧ r.source < s.nodes ∧ ¬s.podPaused then some (s.sequence p r)
    else none

/-- The own append, by its place in the ring, that an update has decided. -/
def State.ownAppend (s : State) (p : PlaceDesc) : PlaceUpdate → Option (Nat × BitVec 32 × BitVec 32)
  | .append _ _ _ seqid block source number =>
    if source = s.node then s.pkg.place.own.find? fun x => x == (number % 2 ^ p.ringLog, seqid, block) else none
  | _ => none

/-- The result of an own append, in dword 3 of its record. -/
def State.ownResult (s : State) (p : PlaceDesc) (u : PlaceUpdate) : State :=
  match u with
  | .append _ e node _ _ _ _ =>
    match s.ownAppend p u with
    | none => s
    | some x =>
      (s.putNetWord p.agent (p.ring + 32 * x.1) 3 (BitVec.ofNat 10 node ++ (0#22 ++ BitVec.ofNat 32 e))).onPkg fun k =>
        { k with place := { k.place with own := k.place.own.erase x } }
  | _ => s

/-- The number of an update. -/
def updateSeq : PlaceUpdate → Nat
  | .append seq _ _ _ _ _ _ => seq
  | .free seq _ => seq
  | .applied seq => seq

/-- The bytes that applying an update accesses, its result included. -/
def State.updateRuns (s : State) (p : PlaceDesc) (u : PlaceUpdate) : List (Nat × Nat) :=
  let head := (p.replica, ceilDiv (64 + 8 * p.count) 64 * 64)
  match u with
  | .append _ e _ _ _ _ _ => [head, (p.entryAt e, 16)] ++ ((s.ownAppend p u).toList.map fun x => (p.ring + 32 * x.1, 32))
  | .free _ es => head :: es.map fun e => (p.entryAt e, 16)
  | .applied _ => []

/-- Whether this node's replica is the only one. -/
def State.onlyReplica (s : State) (p : PlaceDesc) : Bool := p.first == s.node && p.count == 1

/-- Every other replica has applied an update of the sequencer: its token is signalled (R447). -/
def State.allApplied (s : State) (p : PlaceDesc) (seq : Nat) : Option State :=
  if s.podPaused ∧ ¬s.onlyReplica p then none
  else
    (s.pkg.place.unapplied.find? (·.1 == seq)).map fun x =>
      (s.onPkg fun k => { k with place := { k.place with unapplied := k.place.unapplied.erase x } }).answerToken x.2 0

/-- PLACEMENT_UPDATE (R447): the next update reaches the replica, once the bytes that it accesses can be; one of the sequencer's is the oldest
decided. Or every other replica has applied one. -/
def State.evPlaceUpdate (s : State) (u : PlaceUpdate) : Option State :=
  match s.placeDesc with
  | none => none
  | some p =>
    match u with
    | .applied seq => if p.seqNode = s.node then s.allApplied p seq else none
    | _ =>
      if updateSeq u ≠ s.placeSeq p + 1 ∨ s.runsWait p.agent .write (s.updateRuns p u) then none
      else if p.seqNode ≠ s.node then (if s.podPaused then none else some ((s.applyUpdate p u).ownResult p u))
      else
        match s.pkg.place.decided with
        | [] => none
        | (v, tok) :: rest =>
          if u ≠ v then none
          else
            some (((s.applyUpdate p u).ownResult p u).onPkg fun k =>
              { k with place := { k.place with decided := rest, unapplied := k.place.unapplied ++ [(updateSeq u, tok)] } })

/-! ## The instructions of the fabric -/

/-- POD_REMOTE_ACCESS (R436). -/
def execPodRemoteAccess (a : PodAccess) (s : State) : Out := evOut "POD_REMOTE_ACCESS" (s.evPod a)
/-- PATH_DOWN_TIMEOUT (R450). -/
def execPathDownTimeout (node : Nat) (s : State) : Out := evOut "PATH_DOWN_TIMEOUT" (s.evPathDown node)
/-- REMOTE_CONTROL_MESSAGE (R439). -/
def execRemoteControlMessage (m : ControlMsg) (s : State) : Out := evOut "REMOTE_CONTROL_MESSAGE" (s.evControl m)
/-- NET_DOORBELL_ACQUIRE (R444). -/
def execNetDoorbellAcquire (qp : Nat) (s : State) : Out := evOut "NET_DOORBELL_ACQUIRE" (s.evDoorbell qp)
/-- NET_PACKET_ARRIVAL (R445). -/
def execNetPacketArrival (qp : Nat) (p : NetPacket) (s : State) : Out := evOut "NET_PACKET_ARRIVAL" (s.evPacket qp p)
/-- NET_RETRANSMIT_TIMEOUT (R442). -/
def execNetRetransmitTimeout (qp : Nat) (s : State) : Out := evOut "NET_RETRANSMIT_TIMEOUT" (s.evRetransmit qp)
/-- PLACEMENT_REQUEST (R447). -/
def execPlacementRequest (r : PlaceRequest) (s : State) : Out := evOut "PLACEMENT_REQUEST" (s.evPlaceRequest r)
/-- PLACEMENT_UPDATE (R447). -/
def execPlacementUpdate (u : PlaceUpdate) (s : State) : Out := evOut "PLACEMENT_UPDATE" (s.evPlaceUpdate u)

end Sys2Proof.Machine
end

