-- ==== Sys2Proof/Machine/DieEvents.lean ====
section
/-! DEFINITION. The steps of a die (R304-R328) and the failures of units (R299, R314, R316, R367): slot tables, packets, requests and
responses, reduce-adds, HBM banks, errors, links. -/

namespace Sys2Proof.Machine

/-! ## Slot tables (R306, R307) -/

/-- A slot table that obeys a policy (DESIGN CHOICE, log 9): the FWD entries of VC2 spread evenly, then the minimum of the others in ascending
slot, the rest SHARED. -/
def slotTable (policy : Word) : List Nat :=
  let fwd := (policy.extractLsb' 8 8).toNat
  let at_ := (List.range fwd).map fun i => i * 64 / max fwd 1
  let req := (policy.extractLsb' 24 8).toNat
  let rsp := (policy.extractLsb' 16 8).toNat
  let ctl := (policy.extractLsb' 0 8).toNat
  (List.range 64).map fun i =>
    let n := i - (at_.filter (· < i)).length
    if at_.contains i then 3 else if n < req then 1 else if n < req + rsp then 2 else if n < req + rsp + ctl then 4 else 0

/-- SLOT_TABLE_SWAP (R307): the tables of every link are exchanged. A new SLOTPOL is written to the shadow tables after the first
boundary and takes effect at the second. DESIGN CHOICE: log 82. -/
def State.evSwap (s : State) (die : Nat) : Option State :=
  if 4 ≤ die then none
  else
    some (s.onDie die fun d =>
      match d.slotpolNext with
      | none => { d with active := d.shadow, shadow := d.active }
      | some (v, n) =>
        if n ≤ 1 then { d with active := d.shadow, shadow := slotTable v, slotpolNext := none }
        else { d with active := d.shadow, shadow := slotTable v, slotpolNext := some (v, n - 1) })

/-! ## Messages in packets (R312) -/

/-- The message with a packet placed. -/
def Assembly.place (m : Assembly) (off : Nat) (bs : List Byte) : Assembly :=
  let got := m.got + bs.length
  { m with got := got, parts := (off, bs) :: m.parts, done := got == m.total }

/-- MESSAGE_PACKET_ARRIVAL (R305, R312): a packet is placed at its offset; LAST plays no part in completion. A complete message's
identifier may be used again. A message has at most 64 packets. -/
def State.evPacketPart (s : State) (id total off : Nat) (bs : List Byte) (_last : Bool) : Option State :=
  if bs.isEmpty ∨ 256 < bs.length ∨ 16384 < total ∨ total < off + bs.length then none
  else
    let old := s.pkg.assemblies.find? fun m => m.id == id && !m.done
    let m := old.getD { id := id, total := total, got := 0, parts := [], done := false }
    if m.total ≠ total ∨ 64 ≤ m.parts.length ∨ (m.parts.any fun p => decide (off < p.1 + p.2.length) && decide (p.1 < off + bs.length)) then none
    else some (s.onPkg fun p => { p with assemblies := m.place off bs :: p.assemblies.filter (·.id != id) })

/-! ## HBM banks (R321-R323) -/

/-- LEVEL1 of a die. -/
def Die.level1 (d : Die) : Nat := (d.hbmrm.extractLsb' 0 16).toNat
/-- LEVEL2 of a die. -/
def Die.level2 (d : Die) : Nat := (d.hbmrm.extractLsb' 16 16).toNat
/-- DEC of a die. -/
def Die.dec (d : Die) : Nat := (d.hbmrm.extractLsb' 32 16).toNat

/-- The stack of a line of HBM within its die, whose controller serves it (R321). -/
def stackOf (line : Nat) : Nat := 64 * line / 2 ^ 36 % 4

/-- The number of the DRAM bank of a line among those of its die: each stack has its own. -/
def dramOf (line : Nat) : Nat := stackOf line * 2 ^ 16 + Config.dramBank line % 2 ^ 16

/-- A DRAM bank. -/
def Die.bank (d : Die) (b : Nat) : DramBank := (d.dram.find? (·.id == b)).getD { id := b, count := 0, opened := none, blocked := false, rfmPending := false }

/-- A bank with a new activation count: refresh management is due at LEVEL1, activates are blocked at LEVEL2. -/
def DramBank.counted (b : DramBank) (d : Die) (n : Nat) : DramBank :=
  { b with count := n, rfmPending := decide (d.level1 ≤ n), blocked := decide (d.level2 ≤ n) }

/-- Replacing a bank. -/
def Die.setBank (d : Die) (b : DramBank) : Die := { d with dram := b :: d.dram.filter (·.id != b.id) }

/-- A refresh-management command to a bank that is due one. DEDUCED: log 76. -/
def Die.manage (d : Die) (b : Nat) : Die := if (d.bank b).rfmPending then d.setBank ((d.bank b).counted d ((d.bank b).count - d.dec)) else d

/-- An activate of the row of a line. -/
def Die.activate (d : Die) (b line : Nat) : Die := d.setBank { (d.bank b).counted d ((d.bank b).count + 1) with opened := some line }

/-- A demand access to a line of HBM that misses in L2 (R313, R321): a refresh-management command that is due comes first; a row
that is not open is activated, unless the bank is blocked. -/
def Die.demand (d : Die) (line : Nat) : Option Die :=
  if d.l2Lines.contains line then some d
  else
    let b := dramOf line
    let d := d.manage b
    let hit := (d.bank b).opened = some line
    if !hit ∧ (d.bank b).blocked then none
    else some { (if hit then d else d.activate b line) with l2Lines := line :: d.l2Lines }

/-- HBM_REFRESH (R321): a refresh of a bank subtracts DEC / 2. -/
def State.evRefresh (s : State) (die bank : Nat) : Option State :=
  if 4 ≤ die then none
  else some (s.onDie die fun d => d.setBank ((d.bank bank).counted d ((d.bank bank).count - d.dec / 2)))

/-- The die and index that position `i` names in the dies' lists, one after another. -/
def State.dieIndex (s : State) (len : Die → Nat) (i : Nat) : Option (Nat × Nat) :=
  ((List.range 4).foldl
    (fun (x : Nat × Option (Nat × Nat)) d =>
      match x.2 with
      | some _ => x
      | none =>
        let n := len (s.dieAt d)
        if x.1 < n then (x.1, some (d, x.1)) else (x.1 - n, none)) (i, none)).2

/-- ROW_ACTIVATE_HINT (R323): the row is opened when no demand request of the package waits for its bank and the count is below LEVEL1;
else the hint is dropped. -/
def State.evHint (s : State) (i : Nat) : Option State :=
  match s.dieIndex (·.hints.length) i with
  | none => none
  | some (k, j) =>
    let d := s.dieAt k
    let line := (d.hints[j]?.getD 0) / 64
    let b := dramOf line
    let waits := fun (r : MemRequest) => s.inHbm r.pa && homeDie r.pa == k && dramOf (r.pa / 64) == b
    let drop := (s.dies.toList.any fun x => x.requests.any waits) || decide (d.level1 ≤ (d.bank b).count)
    let d := { d with hints := d.hints.eraseIdx j }
    some (s.onDie k fun _ => if drop then d else d.activate b line)

/-! ## Requests and responses (R310) -/

/-- A saturating field of a counter register, `n` higher. -/
def addField (x : Word) (lo w n : Nat) : Word := (List.range n).foldl (fun x _ => satField x lo w) x

/-- Corrected errors that an access meets on its way: free choices (R325). DESIGN CHOICE: log 71. -/
def Die.corrected (d : Die) (seed : Nat) : Die :=
  let x := d.ecccnt
  let x := if Config.freeBool (3 * seed) then satField x 16 16 else x
  let x := if Config.freeBool (3 * seed + 1) then satField x 32 32 else x
  { d with ecccnt := if Config.freeBool (3 * seed + 2) then satField x 0 16 else x }

/-- The effect of a request at its target. -/
def State.performRequest (s : State) (r : MemRequest) : State :=
  let s := match r.data with
    | some bs => s.storeBytes r.pa bs
    | none => s.touch r.pa r.len
  match r.line with
  | some (cl, l) => s.onCluster cl fun c => if c.noCache then c else c.addLine l
  | none => s

/-- MEMORY_REQUEST (R310, R321, R324): a request with a free slot reaches its target, which performs it and sends its response; the
requests of a die to one DRAM bank are served in arrival order. -/
def State.evRequest (s : State) (i : Nat) : Option State :=
  match s.dieIndex (·.requests.length) i with
  | none => none
  | some (k, j) =>
    match (s.dieAt k).requests[j]? with
    | none => none
    | some r =>
      let busy := (s.dies.toList.flatMap (·.responses)).filter fun x => x.requester == r.requester && x.target == r.target
      let home := homeDie r.pa
      let same := fun (x : MemRequest) => s.inHbm r.pa && s.inHbm x.pa && homeDie x.pa == home && dramOf (x.pa / 64) == dramOf (r.pa / 64)
      if 8 ≤ busy.length ∨ ((s.dieAt k).requests.take j).any same ∨ s.localPaused r.pa ∨ (!s.pkg.links.isEmpty ∧ !s.diesJoined false k home) then none
      else
        match (if s.inHbm r.pa then (s.dieAt home).demand (r.pa / 64) else some (s.dieAt home)) with
        | none => none
        | some d =>
          let s := s.onDie home fun _ => d.corrected s.free
          let s := s.fresh.performRequest r
          some (s.onDie k fun d =>
            { d with requests := d.requests.eraseIdx j, responses := d.responses ++ [⟨r.requester, r.target, ceilDiv r.len 64⟩] })

/-- RESPONSE_ARRIVAL (R310): the last flit arrives, and the slot and reply space are free again. -/
def State.evResponse (s : State) (i : Nat) : Option State :=
  match s.dieIndex (·.responses.length) i with
  | none => none
  | some (k, j) => some (s.onDie k fun d => { d with responses := d.responses.eraseIdx j })

/-- REDUCE_ADD_ARRIVAL (R317, R319): a reduce-add packet reaches its home. -/
def State.evReduce (s : State) (i : Nat) : Option State :=
  match s.flight[i]? with
  | none => none
  | some m =>
    match m.body with
    | .reduce _ _ items => if s.msgHeld m then none else some ({ s with flight := s.flight.eraseIdx i }.addPackets items)
    | _ => none

/-! ## L2 banks (R313-R316) -/

/-- The largest modulus that a number of banks allows; below 41 the last one stands. -/
def modulusOf (banks : Nat) : Nat := ([61, 59, 53, 47, 43].find? (· ≤ banks)).getD 41

/-- Lines marked poisoned. -/
def State.poisonLines (s : State) (l : List Nat) : State := l.foldl (fun s n => s.markPoison (64 * n) 1) s

/-- The cores of a die leave service: its strands and memory stay (DEDUCED, log 32). -/
def State.retireDie (s : State) (die : Nat) : State :=
  (((List.range Config.coresPerDie).foldl (fun s i => s.onCore (die * Config.coresPerDie + i) fun c => { c with inService := false }) s).onDie die
    fun d => { d with outOfUse := true }).loseSlots die

/-- A bank leaves service (R316): the dirty lines that it cannot supply are poisoned, buffered contributions are written back, the
caches drop the lines of the die, and the modulus changes. A die with fewer than 41 banks leaves use (R314). -/
def State.dropBank (s : State) (die bank : Nat) (lost : List Nat) : State :=
  let s := (s.drainDie die fun _ => true).poisonLines lost
  let s := { s with clusters := s.clusters.map fun (c : Cluster) => { c with lines := c.lines.filter fun l => homeDie (64 * l) != die } }
  let s := s.onDie die fun d =>
    let off := d.l2off ||| (1#64 <<< bank)
    { d with l2off := off, modulus := modulusOf (61 - popCount off), l2Lines := [] }
  if 61 - popCount (s.dieAt die).l2off < 41 ∧ !(s.dieAt die).outOfUse then s.retireDie die else s

/-- L2_BANK_FAILURE (R314, R316, R432): `lost` are lines homed in the bank that it holds dirty and cannot supply. -/
def State.evBankFailure (s : State) (die bank : Nat) (lost : List Nat) : Option State :=
  if 4 ≤ die ∨ 61 ≤ bank ∨ (s.dieAt die).l2off.getLsbD bank ∨ lost.any fun l => !s.backed (64 * l) || homeDie (64 * l) != die || s.homeBank (64 * l) != die * 61 + bank then none
  else some (s.dropBank die bank lost).reHealth

/-! ## Errors (R324, R325) -/

/-- An uncorrectable error in a FIFO bank poisons the entries of one line of its storage, whose place among the entries is free (R299). -/
def Cluster.fifoError (c : Cluster) (b seed : Nat) : Cluster :=
  let n := (c.fifo b).length
  let first := seed % (n + 8)
  { c with fifoBad := c.fifoBad ++ (((List.range n).filter fun j => first ≤ j + 7 ∧ j ≤ first).map fun j => (b, j)).filter fun p => !c.fifoBad.contains p }

/-- An uncorrectable error in a line of cluster SRAM poisons what the line holds: a line of a SCRATCH bank, entries of a FIFO, or a line of
global memory in a CACHE bank, a free one of those known to be there. When it lies in a full bit, the word is left full, and a strand that
waits to read it is woken (R285, R299). Which it is, and of which word, is a free choice. DESIGN CHOICE: log 98. -/
def State.sramError (s : State) (line : Nat) : State :=
  let k := 64 * line + 8 * (Config.freeWait s.free % 8)
  let c := s.clusterAt (keyCluster k)
  let b := keyBank k
  if c.scrMask.getLsbD b then
    let t := (s.fresh).markPoison (64 * line) 64
    if Config.freeBool s.free then t.fillWord k else t
  else if c.fifoMask.getLsbD b then s.fresh.onCluster (keyCluster k) (·.fifoError b (Config.freeWait s.free))
  else
    let ls := c.lines.filter fun l => c.bankOfLine l == some b
    match ls[Config.freeWait s.free % max ls.length 1]? with
    | some l => s.fresh.markPoison (64 * l) 64
    | none => s.fresh

/-- PATROL_SCRUB (R324): a line of HBM is read, and written back when it was corrected. An uncorrectable outcome at another line is an
error in the L2 bank that holds a CXL or host line (R324), or in cluster SRAM (R299). DESIGN CHOICE: log 98. -/
def State.evScrub (s : State) (line : Nat) (e : EccOutcome) : Option State :=
  if !s.inHbm (64 * line) then
    match e with
    | .uncorrectable =>
      if s.backed (64 * line) then some (s.markPoison (64 * line) 64)
      else if isSramKey (64 * line) && decide (keyCluster (64 * line) < 96) then some (s.sramError line)
      else none
    | _ => none
  else
    match e with
    | .clean => some s
    | .corrected => some (s.onDie (homeDie (64 * line)) fun d => { d with ecccnt := satField d.ecccnt 32 32 })
    | .uncorrectable => some { s with ue := if s.ue.contains line then s.ue else line :: s.ue }

/-- CLUSTER_SRAM_BANK_FAULT (R299): the bank leaves service at the next quiesce. -/
def State.evSramFault (s : State) (cluster bank : Nat) : Option State :=
  let c := s.clusterAt cluster
  if 96 ≤ cluster ∨ 64 ≤ bank ∨ c.outMask.getLsbD bank ∨ c.faultMask.getLsbD bank then none
  else some (s.onCluster cluster fun c => { c with faultMask := c.faultMask ||| (1#64 <<< bank) })

/-- CXL_DEVICE_FAILURE (R367): the lines behind a port cannot be read or written any more. -/
def State.evCxlFailure (s : State) (port : Nat) : Option State :=
  if 8 ≤ port ∨ s.pkg.cxlFailed.contains port then none
  else some (s.onPkg fun p => { p with cxlFailed := port :: p.cxlFailed }).reHealth

/-! ## Core failures (R299) -/

/-- The strands of a core: of a trapped strand and its handler, the trapped one. -/
def Core.allStrands (c : Core) : List Strand :=
  (if c.running && c.cur.handler.isNone then [c.cur] else []) ++ (c.images.filter fun i => i.st.handler.isNone).map (·.st)

/-- A core whose state is lost; its cells are all freed, so that no earlier handle matches one. -/
def Core.wiped (c : Core) (spare : Bool) : Core :=
  { Core.reset c.cid with
    inService := spare, spareUsed := spare, gangHead := c.gangHead, cycle := c.cycle, acct := c.acct, basin := c.basin, trapcfg := c.trapcfg,
    mxbase := c.mxbase, entriesOk := c.entriesOk, bodyOk := c.bodyOk
    cells := c.cells.map fun p => (p.1, { p.2 with st := .free, gen := nextGen p.2.gen, orphan := false }) }

/-- The strand of a gang whose partner has failed ends with CONTEXT_LOST (R299). -/
def State.loseGangOf (s : State) (head : Nat) : State :=
  let back := s.core.cid
  let s := s.focusOn head
  let ts := s.core.allStrands.filter fun t => 1 < t.sp.gangsz
  let s := s.onFocus fun c =>
    { c with
      images := c.images.filter fun i => !(ts.any fun t => t.num == i.st.num)
      trapSlots := c.trapSlots.filter fun x => !(ts.any fun t => t.num == x.strand)
      running := c.running && !(ts.any fun t => t.num == c.cur.num) }
  (ts.foldl State.loseStrand s).focusOn back

/-- CORE_FAILURE (R299, R432, DEDUCED, log 33): the cluster's spare takes the place of the first failed core; another leaves the cluster
short. The strands of the core are lost, and so is the strand of its gang. -/
def State.evCoreFailure (s : State) (core : Nat) : Option State :=
  let c := s.coreOf core
  if Config.coresPerPackage ≤ core ∨ !c.inService then none
  else
    let spare := !s.cores.any fun x => clusterOf x.cid == clusterOf core && x.spareUsed
    let back := s.core.cid
    let ts := c.allStrands
    let s := match c.gangHead with
      | some h => s.loseGangOf h
      | none => s
    let s := (s.setCore ((s.coreOf core).wiped spare)).focusOn core
    let s := { s with ue := (List.range (Config.scratchBytes / 64)).map (scratchKey core 0 / 64 + ·) ++ s.ue.filter fun l => !(decide (scratchKey core 0 / 64 ≤ l) && decide (l < scratchKey (core + 1) 0 / 64)) }
    let s := ts.foldl
      (fun s t =>
        if spare then s.loseStrand t
        else ((s.endStrand t (some 7)).finishItem t true).cancelLaunch t.launch 0x21 (trapRecordBytes contextLost { Strand.reset with num := t.num })) s
    some (s.focusOn back).reHealth

/-! ## Links (R430, R441) -/

/-- The WLIMIT counts go on after a retraining (R430): a bound that was running is as many cycles later as it stood still. -/
def Image.thaw (i : Image) (at_ now : Nat) : Image :=
  let w := (i.st.sp.wlimit.extractLsb' 0 32).toNat
  let shift := fun (d : Nat) => d + (now - max at_ (d - w))
  { i with
    cond := (match i.cond with
      | .word k r t d => .word k r t (d.map shift)
      | .deposit r d => .deposit r (d.map shift)
      | x => x)
    st := { i.st with firstRefusal := i.st.firstRefusal.map fun f => f + (now - max at_ f) } }

/-- A core whose WLIMIT counts go on; `f` are the cycles at which they stopped. -/
def Core.thaw (c : Core) (f : List (Nat × Nat)) : Core :=
  let at_ := ((f.find? (·.1 == c.cid)).map (·.2)).getD 0
  { c with
    images := c.images.map fun (i : Image) => i.thaw at_ c.cycle
    cur := { c.cur with firstRefusal := c.cur.firstRefusal.map fun x => x + (c.cycle - max at_ x) } }

/-- The counts go on when no link that freezes them retrains. -/
def State.thaw (s : State) : State :=
  match s.pkg.frozen with
  | none => s
  | some f =>
    if s.pkg.links.any fun p => freezes p.1 && p.2 == .retraining then s
    else { s with core := s.core.thaw f, others := s.others.map fun (c : Core) => c.thaw f, pkg := { s.pkg with frozen := none } }

/-- The dies that a die-to-die link joins. -/
def linkDies (link : Nat) : List Nat := (List.range 4).filter fun a => (List.range 4).any fun b => a != b && dieLink a b == link

/-- LINK_RETRAIN_START (R305, R324, R430): traffic pauses, and the WLIMIT counts stand still. A die-to-die link retrains after
sixteen retries of one flit. -/
def State.evRetrain (s : State) (link : Nat) : Option State :=
  if 35 ≤ link ∨ s.pkg.links.any (·.1 == link) then none
  else
    let s := (linkDies link).foldl (fun s d => s.onDie d fun x => { x with ecccnt := addField x.ecccnt 0 16 16 }) s
    some (s.onPkg fun p =>
      { p with
        links := (link, .retraining) :: p.links
        frozen := if freezes link && p.frozen.isNone then some (s.cores.map fun c => (c.cid, c.cycle)) else p.frozen })

/-- LINK_RETRAIN_COMPLETE (R430, R434): not while the package is quiesced. -/
def State.evRetrained (s : State) (link : Nat) : Option State :=
  if s.pkg.links.contains (link, .retraining) ∧ s.pkg.pwr < 3 then
    some (s.onPkg fun p => { p with links := p.links.filter (·.1 != link) }).thaw
  else none

/-- The count of ports in service of a link's kind, one lower or higher. -/
def Package.countPort (p : Package) (link : Nat) (up : Bool) : Package :=
  let move := fun (x : Word) (lo w : Nat) => putBits x lo w (if up then (x.extractLsb' lo w).toNat + 1 else (x.extractLsb' lo w).toNat - 1)
  if link < 16 then { p with podcap := move p.podcap 38 5 }
  else if link < 24 then { p with cxlPorts := if up then p.cxlPorts + 1 else p.cxlPorts - 1 }
  else if 31 ≤ link then { p with podcap := move p.podcap 35 3 }
  else p

/-- LINK_DOWN_TIMEOUT (R430, R434, R440): the link is declared down, not while the package is quiesced. DEDUCED: log 73. -/
def State.evLinkDown (s : State) (link : Nat) : Option State :=
  if s.pkg.links.contains (link, .retraining) ∧ s.pkg.pwr < 3 then
    let s := s.onPkg fun p => { p.countPort link false with links := (link, .down) :: p.links.filter (·.1 != link) }
    some s.dropUnreachable.thaw.reHealth
  else none

/-! ## The instructions of the die -/

/-- SLOT_TABLE_SWAP (R307). -/
def execSlotTableSwap (die : Nat) (s : State) : Out := evOut "SLOT_TABLE_SWAP" (s.evSwap die)
/-- MESSAGE_PACKET_ARRIVAL (R312). -/
def execMessagePacketArrival (id total offset : Nat) (payload : List Byte) (last : Bool) (s : State) : Out :=
  evOut "MESSAGE_PACKET_ARRIVAL" (s.evPacketPart id total offset payload last)
/-- MEMORY_REQUEST (R310). -/
def execMemoryRequest (i : Nat) (s : State) : Out := evOut "MEMORY_REQUEST" (s.evRequest i)
/-- RESPONSE_ARRIVAL (R310). -/
def execResponseArrival (i : Nat) (s : State) : Out := evOut "RESPONSE_ARRIVAL" (s.evResponse i)
/-- REDUCE_ADD_ARRIVAL (R317). -/
def execReduceAddArrival (i : Nat) (s : State) : Out := evOut "REDUCE_ADD_ARRIVAL" (s.evReduce i)
/-- L2_BANK_FAILURE (R316). -/
def execL2BankFailure (die bank : Nat) (lost : List Nat) (s : State) : Out := evOut "L2_BANK_FAILURE" (s.evBankFailure die bank lost)
/-- ROW_ACTIVATE_HINT (R323). -/
def execRowActivateHint (i : Nat) (s : State) : Out := evOut "ROW_ACTIVATE_HINT" (s.evHint i)
/-- PATROL_SCRUB (R324). -/
def execPatrolScrub (line : Nat) (e : EccOutcome) (s : State) : Out := evOut "PATROL_SCRUB" (s.evScrub line e)
/-- HBM_REFRESH (R321). -/
def execHbmRefresh (die bank : Nat) (s : State) : Out := evOut "HBM_REFRESH" (s.evRefresh die bank)
/-- CORE_FAILURE (R299). -/
def execCoreFailure (core : Nat) (s : State) : Out := evOut "CORE_FAILURE" (s.evCoreFailure core)
/-- CLUSTER_SRAM_BANK_FAULT (R299). -/
def execClusterSramBankFault (cluster bank : Nat) (s : State) : Out := evOut "CLUSTER_SRAM_BANK_FAULT" (s.evSramFault cluster bank)
/-- CXL_DEVICE_FAILURE (R367). -/
def execCxlDeviceFailure (port : Nat) (s : State) : Out := evOut "CXL_DEVICE_FAILURE" (s.evCxlFailure port)
/-- LINK_RETRAIN_START (R430). -/
def execLinkRetrainStart (link : Nat) (s : State) : Out := evOut "LINK_RETRAIN_START" (s.evRetrain link)
/-- LINK_RETRAIN_COMPLETE (R430). -/
def execLinkRetrainComplete (link : Nat) (s : State) : Out := evOut "LINK_RETRAIN_COMPLETE" (s.evRetrained link)
/-- LINK_DOWN_TIMEOUT (R430). -/
def execLinkDownTimeout (link : Nat) (s : State) : Out := evOut "LINK_DOWN_TIMEOUT" (s.evLinkDown link)

end Sys2Proof.Machine
end

