-- ==== Sys2Proof/Machine/Power.lean ====
section
/-! DEFINITION. Profiles, supply, temperature and quiesce (R425-R429, R434). -/

namespace Sys2Proof.Machine

/-! ## ACTIVE (R425, R426) -/

/-- SEL of PROFILE. -/
def Package.sel (p : Package) : BitVec 2 := p.profile.extractLsb' 0 2
/-- ACTIVE of PROFILE. -/
def Package.active (p : Package) : BitVec 2 := p.profile.extractLsb' 8 2

/-- ACTIVE is to become Ride, at the next frame boundary (R426). -/
def Package.goRide (p : Package) : Package := { p with profileNext := some 3 }

/-- ACTIVE is to return to SEL, unless a thermal Ride or a droop RIDE still holds it (R434). -/
def Package.goSel (p : Package) : Package :=
  { p with profileNext := if p.thermalRide || decide (p.pwr = 2) || decide (p.pwr = 3) then p.profileNext else some p.sel }

/-- PROFILE_SWITCH (R426): ACTIVE changes at a frame boundary common to the package. -/
def State.evProfile (s : State) : Option State :=
  match s.pkg.profileNext with
  | none => none
  | some x => some (s.onPkg fun p => { p with profile := (p.profile &&& ~~~0x300#64) ||| (x.setWidth 64 <<< 8), profileNext := none })

/-- BURST_CLOCK_CHANGE (R425): in the Burst profile, CCLK follows the average power. -/
def State.evBurst (s : State) (fast : Bool) : Option State :=
  if s.pkg.active = 2 ∧ s.pkg.burstFast ≠ fast then some (s.onPkg fun p => { p with burstFast := fast }) else none

/-! ## STATE of PWRSTAT (R428) -/

/-- STATE changes, and the host is told (R420). -/
def State.setPwr (s : State) (n : Nat) (f : Package → Package) : State := (s.onPkg fun p => f { p with pwr := n }).notify 3

/-- A saturating counter of 16 bits. -/
def satInc (x : BitVec 16) : BitVec 16 := if x = 0xFFFF#16 then x else x + 1

/-- SUPPLY_DROOP (R428). -/
def State.evDroop (s : State) : Option State := if s.pkg.pwr = 0 then some (s.setPwr 1 id) else none
/-- STRETCH_RECOVERY (R428). -/
def State.evStretchEnd (s : State) : Option State := if s.pkg.pwr = 1 then some (s.setPwr 0 id) else none
/-- RIDE_ENTRY (R428). -/
def State.evRide (s : State) : Option State :=
  if s.pkg.pwr = 1 then some (s.setPwr 2 fun p => { p.goRide with rides := satInc p.rides }) else none
/-- RIDE_RECOVERY (R428, R434). -/
def State.evRideEnd (s : State) : Option State := if s.pkg.pwr = 2 then some (s.setPwr 0 (·.goSel)) else none

/-! ## The quiesce (R429) -/

/-- Every strand of a core is pre-empted to the Basin (R265); one whose Moraine reply is owed runs on until it has come. DEDUCED: log 75. -/
def State.quiesceCore (s : State) (core : Nat) : State :=
  let back := s.core.cid
  let s := s.focusOn core
  let s :=
    if s.core.running && !s.core.owedReply then
      match s.cur.trapDue with
      | some t => (s.takeDue t).preemptHandler s.cur.num
      | none => s.preemptRunning
    else s
  s.allToBasin.focusOn back

/-- Every strand of the package. -/
def State.quiesceStrands (s : State) : State := (s.cores.map (·.cid)).foldl State.quiesceCore s

/-- The strands that a pre-emption already holds, whose hold the quiesce does not end (R429). -/
def State.heldStrands (s : State) : List (Nat × Nat) :=
  s.cores.flatMap fun c => (c.images.filter (·.preempted)).map fun i => (c.cid, i.st.num)

/-- A quiesce begins. -/
def State.enterQuiesce (s : State) : State :=
  (s.setPwr 3 fun p => { p with quiesces := satInc p.quiesces, stayHeld := s.heldStrands }).quiesceStrands

/-- QUIESCE_ENTRY (R428). -/
def State.evQuiesce (s : State) : Option State := if s.pkg.pwr = 1 ∨ s.pkg.pwr = 2 then some s.enterQuiesce else none
/-- THERMAL_QUIESCE (R427, R428). -/
def State.evThermalQuiesce (s : State) : Option State := if s.pkg.pwr < 3 then some s.enterQuiesce else none

/-- Faulted banks of a cluster leave service (R299): BANKS and the masks fall. -/
def Cluster.dropFaulty (c : Cluster) : Cluster :=
  { c with
    outMask := c.outMask ||| c.faultMask, scrMask := c.scrMask &&& ~~~c.faultMask, fifoMask := c.fifoMask &&& ~~~c.faultMask
    fifos := c.fifos.filter fun p => !c.faultMask.getLsbD p.1, fifoBad := c.fifoBad.filter fun p => !c.faultMask.getLsbD p.1, faultMask := 0 }

/-- QUIESCE_COMPLETE (R299, R324, R345, R429): every strand is in the Basin, the caches have written back, rows whose corrected errors
recur are replaced (how many is not stated, a free number), state slots return to service, the clocks stop. -/
def State.evQuiesced (s : State) : Option State :=
  let t := [0, 1, 2, 3].foldl (fun s d => s.drainDie d fun _ => true) (s.quiesceStrands.arriveReduces fun _ => true)
  if s.pkg.pwr ≠ 3 ∨ t.cores.any (·.running) then none
  else
    some (({ t with
      clusters := t.clusters.map Cluster.dropFaulty
      dies := t.dies.map fun (d : Die) => { d with slotsOut := [], l2Lines := [] } }.onPkg fun p => p.spareRows (Config.freeWait t.free)).setPwr 4 id)

/-- The pre-emptions of a core by which the quiesce began are lifted (R267, R429); those held before it are the dispatcher's. -/
def State.liftCore (s : State) (core : Nat) : State :=
  ((s.coreOf core).images.map (·.st.num)).foldl
    (fun s n => if s.pkg.stayHeld.contains (core, n) then (s.evLift core n).getD s else s.liftStrand core n) s

/-- HELD_RESTART (R428, R429, R434): NORMAL, ACTIVE := SEL, the pre-emptions lifted, HEALTH evaluated. -/
def State.evRestart (s : State) : Option State :=
  if s.pkg.pwr = 4 then
    let s := s.setPwr 0 fun p => { p with thermalRide := false, profileNext := some p.sel }
    some ((s.cores.map (·.cid)).foldl State.liftCore s).reHealth
  else none

/-! ## Temperature (R427) -/

/-- THERMAL_RIDE (R427, R434). -/
def State.evThermalRide (s : State) : Option State :=
  if !s.pkg.thermalRide ∧ s.pkg.pwr ≠ 4 then some (s.onPkg fun p => { p.goRide with thermalRide := true }) else none

/-- THERMAL_RETURN (R427, R434). -/
def State.evThermalReturn (s : State) : Option State :=
  if s.pkg.thermalRide ∧ s.pkg.pwr ≠ 4 then some (s.onPkg fun p => { p with thermalRide := false }.goSel) else none

/-! ## The instructions -/

/-- SUPPLY_DROOP (R428). -/
def execSupplyDroop (s : State) : Out := evOut "SUPPLY_DROOP" s.evDroop
/-- STRETCH_RECOVERY (R428). -/
def execStretchRecovery (s : State) : Out := evOut "STRETCH_RECOVERY" s.evStretchEnd
/-- RIDE_ENTRY (R428). -/
def execRideEntry (s : State) : Out := evOut "RIDE_ENTRY" s.evRide
/-- RIDE_RECOVERY (R428). -/
def execRideRecovery (s : State) : Out := evOut "RIDE_RECOVERY" s.evRideEnd
/-- QUIESCE_ENTRY (R428). -/
def execQuiesceEntry (s : State) : Out := evOut "QUIESCE_ENTRY" s.evQuiesce
/-- QUIESCE_COMPLETE (R429). -/
def execQuiesceComplete (s : State) : Out := evOut "QUIESCE_COMPLETE" s.evQuiesced
/-- HELD_RESTART (R428). -/
def execHeldRestart (s : State) : Out := evOut "HELD_RESTART" s.evRestart
/-- THERMAL_RIDE (R427). -/
def execThermalRide (s : State) : Out := evOut "THERMAL_RIDE" s.evThermalRide
/-- THERMAL_RETURN (R427). -/
def execThermalReturn (s : State) : Out := evOut "THERMAL_RETURN" s.evThermalReturn
/-- THERMAL_QUIESCE (R427). -/
def execThermalQuiesce (s : State) : Out := evOut "THERMAL_QUIESCE" s.evThermalQuiesce
/-- PROFILE_SWITCH (R426). -/
def execProfileSwitch (s : State) : Out := evOut "PROFILE_SWITCH" s.evProfile
/-- BURST_CLOCK_CHANGE (R425). -/
def execBurstClockChange (fast : Bool) (s : State) : Out := evOut "BURST_CLOCK_CHANGE" (s.evBurst fast)

end Sys2Proof.Machine
end

