-- ==== Sys2Proof/Machine/Mailbox.lean ====
section
/-! DEFINITION. The host's accesses (R419), Fimet's mailbox commands (R422), boot, attestation and self-test (R9, R423, R424, R429,
R431). -/

namespace Sys2Proof.Machine

/-! ## Host accesses (R419) -/

/-- Bits [8n - 1 : 0] of a pattern as bytes. -/
def patternBytes {w : Nat} (x : BitVec w) (n : Nat) : List Byte := leBytes n x.toNat

/-- The bytes of a run that fall into an 8-byte word at `at_`, as a word; the others 0. -/
def wordPart (off : Nat) (bs : List Byte) (at_ : Nat) : Word :=
  BitVec.ofNat 64 (leValue ((List.range 8).map fun i => if off ≤ at_ + i then bs[at_ + i - off]?.getD 0 else 0))

/-- The request with the bytes of a host write. -/
def Mailbox.hostWrite (m : Mailbox) (off : Nat) (bs : List Byte) : Mailbox :=
  bs.zipIdx.foldl (fun (m : Mailbox) p => if off + p.2 < 0x40 then { m with request := putBits m.request (8 * (off + p.2)) 8 p.1.toNat } else m) m

/-- A host write to the mailbox: the request byte by byte, then the doorbell. -/
def State.hostMailboxWrite (s : State) (off : Nat) (bs : List Byte) : State :=
  let s := s.onPkg fun p => { p with mailbox := p.mailbox.hostWrite off bs }
  if off < 0x88 ∧ 0x80 < off + bs.length then s.ringMailbox else s

/-- A host write to the launch window: a write to a port (R385), or the W1C fields of QSTAT words (R384). -/
def State.hostLaunchWrite (s : State) (off : Nat) (bs : List Byte) : State :=
  if off < 0x100000 then s.portWrite (off / 64) (off % 64) bs.length (BitVec.ofNat 512 (leValue bs))
  else
    ((List.range ((off + bs.length - 1) / 8 - off / 8 + 1)).map (off / 8 + ·)).foldl
      (fun s w => if 8 * w < 0x120000 then s.qstatWrite ((8 * w - 0x100000) / 8) (wordPart off bs (8 * w)) else s) s

/-- Whether a physical address lies in the host's memory window and is backed (R346, R419). -/
def State.hostReaches (s : State) (pa : Nat) : Bool := decide (pa < 2 ^ 52) && (s.backed pa || decide (2 ^ 51 ≤ pa))

/-- The way of the host, whose link is on die 0 (R421), to a physical address. -/
def State.hostWay (s : State) (pa : Nat) : Loc := s.way 0 (s.homeOf pa)

/-- A host write to device memory, line by line; a line that the package does not back ignores it. -/
def State.hostMemWrite (s : State) (pa : Nat) (bs : List Byte) : State :=
  (pieces pa bs.length).foldl
    (fun s p =>
      if s.hostReaches p.1 then
        match s.hostWay p.1 with
        | .at (.here k) => s.storeBytes k ((bs.drop (p.1 - pa)).take p.2)
        | .at (.dead k) => s.markPoison k p.2
        | _ => s
      else s) s

/-- A host read of device memory, line by line: the bytes, after what an access to a line makes happen. A line that the package does not
back, or that lies beyond the window, reads 0. -/
def State.hostMemRead (s : State) (pa n : Nat) : State × List Byte :=
  (pieces pa n).foldl
    (fun r p =>
      if r.1.hostReaches p.1 then
        match r.1.hostWay p.1 with
        | .at h => (r.1.homeTouch h p.2, r.2 ++ leBytes p.2 ((r.1.homeTouch h p.2).homeLoad h p.2))
        | _ => (r.1, r.2 ++ List.replicate p.2 0)
      else (r.1, r.2 ++ List.replicate p.2 0)) (s, [])

/-- Window and window offset of an offset from HBAR below the memory window (R419); none beyond the windows. -/
def hostWindow (off : Nat) : Option (Nat × Nat) :=
  if off < 0x200000 then some (1, off)
  else if off < 0x201000 then some (2, off - 0x200000)
  else if off < 0x202000 then some (3, off - 0x201000)
  else none

/-- The byte that the host reads at an offset below the memory window; beyond a window 0. -/
def State.hostWinByte (s : State) (off : Nat) : Byte :=
  match hostWindow off with
  | some (k, o) => (s.winRead k (o / 8 * 8)).extractLsb' (8 * (o % 8)) 8
  | none => 0

/-- What the host reads reaches it. -/
def State.hostAnswer (s : State) (bs : List Byte) : State := s.onPkg fun p => { p with hostReply := bs }

/-- Whether the host's access can be made now: not while its link, or a link on the way to the memory it names, retrains or is down; no memory
while the clocks stand still; in a package held in reset only the mailbox and the status page (R423). -/
def State.hostMay (s : State) (off len : Nat) : Bool :=
  decide (0 < len) && decide (len ≤ 64) && !s.linkDown 24 && !s.linkPaused 24 &&
    (s.pkg.boot.stage == 3 || (decide (0x200000 ≤ off) && decide (off + len ≤ 0x202000))) &&
    (decide (off < 2 ^ 32) || (s.pkg.pwr != 4 && (pieces (off - 2 ^ 32) len).all fun p => !s.hostReaches p.1 || s.hostWay p.1 != .held))

/-- HOST_MEMORY_ACCESS (R419): `len` bytes at an offset from HBAR. Beyond a window a read gives 0 and a write is ignored. -/
def State.evHost (s : State) (write : Bool) (off len : Nat) (data : BitVec 512) : Option State :=
  if !s.hostMay off len then none
  else
    let bs := patternBytes data len
    if 2 ^ 32 ≤ off then
      let pa := off - 2 ^ 32
      some (if write then s.hostMemWrite pa bs else (s.hostMemRead pa len).1.hostAnswer (s.hostMemRead pa len).2)
    else if !write then some (s.fresh.hostAnswer ((List.range len).map fun i => s.hostWinByte (off + i)))
    else if off + len ≤ 0x200000 then some (s.hostLaunchWrite off bs)
    else if 0x200000 ≤ off ∧ off + len ≤ 0x201000 then some (s.hostMailboxWrite (off - 0x200000) bs)
    else some s

/-! ## Mailbox commands (R422) -/

/-- Fimet's answer to a command (R420, R422): the response with its status, the doorbell, vector 1. -/
def State.respond (s : State) (status : Nat) : State :=
  let s := (s.onPkg fun p => { p with mailbox := { p.mailbox with response := BitVec.ofNat 512 status, busy := false } }).notify 1
  if s.pkg.mailbox.last = 7#8 then s.reHealth else s

/-- Whether Fimet performs commands: its firmware runs (R423), a doorbell has passed it a request, and the package is not quiesced (R434). -/
def Package.commands (p : Package) : Bool := p.mailbox.busy && decide (p.pwr < 3) && decide (1 ≤ p.boot.stage)

/-- A command that Fimet performs: the one whose code the request holds. A request with another code of R422 is not this command; to one with
no code of R422 Fimet answers with status 2. `f` gives the state and the status. DEDUCED: log 72. -/
def State.command (s : State) (code : Nat) (f : State → State × Nat) : Option State :=
  let asked := s.pkg.mailbox.last.toNat
  if !s.pkg.commands then none
  else if asked = code then some ((f s).1.respond (f s).2)
  else if 1 ≤ asked ∧ asked ≤ 7 then none
  else some (s.respond 2)

/-- The attestation report (R424; its layout is the model's, DESIGN CHOICE, log 34): measurements, fuse version, HEALTH, shock count, nonce. -/
def Package.report (p : Package) (nonce : BitVec 256) : List Byte :=
  (p.boot.meas.toList.flatMap fun m => patternBytes m 64) ++ leBytes 8 p.boot.fuse ++ leBytes 8 p.health.toNat ++ leBytes 8 p.shocks ++ leBytes 32 nonce.toNat

/-- The report with its two signatures. -/
def Package.signedReport (p : Package) (nonce : BitVec 256) : List Byte :=
  let r := p.report nonce
  r ++ patternBytes (Config.signature r) 64 ++ leBytes 3309 (Config.signatureMl r)

/-- ATTEST (R424): the report is written to a host address; one that the host does not back is a bad argument. -/
def State.evAttest (s : State) (addr : Nat) (nonce : BitVec 256) : Option State :=
  s.command 1 fun s =>
    let bs := s.pkg.signedReport nonce
    if isHost addr && s.backed addr && isHost (addr + bs.length - 1) && s.backed (addr + bs.length - 1) then (s.hostMemWrite addr bs, 0) else (s, 3)

/-- Bytes of extents mapped. -/
def Package.mapped (p : Package) : Nat := p.extents.foldl (fun n e => n + e.2) 0

/-- EXTENTADD (R367): an offset and size in units of 256 MiB, within the window, apart from the extents mapped; at most 8,192 GB. -/
def State.evExtentAdd (s : State) (off size : Nat) : Option State :=
  s.command 2 fun s =>
    if off % 2 ^ 28 ≠ 0 ∨ size % 2 ^ 28 ≠ 0 ∨ size = 0 ∨ 0x80000000000 < off + size ∨ (s.pkg.extents.any fun e => decide (off < e.1 + e.2) && decide (e.1 < off + size)) then (s, 3)
    else if 8192 * 10 ^ 9 < s.pkg.mapped + size then (s, 1)
    else (s.onPkg fun p => { p with extents := p.extents ++ [(off, size)] }, 0)

/-- EXTENTREL (R367): every translation is dropped as by `tlbinv` of scope 2, which waits for the accesses that have translated their address
(R356); the extent's lines are written back, and it is unbacked. -/
def State.evExtentRel (s : State) (off : Nat) : Option State :=
  if s.flight.any fun m => m.translated.any isGlobalKey then none
  else s.command 3 fun s =>
    match s.pkg.extents.find? (·.1 == off) with
    | none => (s, 3)
    | some e =>
      let inside := fun (l : Nat) => decide (0x100000000000 + e.1 ≤ 64 * l) && decide (64 * l < 0x100000000000 + e.1 + e.2)
      let s := [0, 1, 2, 3].foldl (fun s d => (s.drainDie d inside).onDie d fun x => { x with l2Lines := x.l2Lines.filter (!inside ·) }) s
      let s := { s with tlb := [], clusters := s.clusters.map fun (c : Cluster) => { c with lines := c.lines.filter (!inside ·) } }
      (s.onPkg fun p => { p with extents := p.extents.filter (· != e) }, 0)

/-- SETVEC (R420). -/
def State.evSetvec (s : State) (vec : Nat) (addr : Word) (data : BitVec 32) : Option State :=
  s.command 4 fun s => if 4 ≤ vec then (s, 3) else (s.onPkg fun p => { p with vectors := p.vectors.setIfInBounds vec ⟨addr, data⟩ }, 0)

/-- PROFILE (R426): SEL 3 is a reserved value. -/
def State.evMbxProfile (s : State) (sel : BitVec 2) : Option State :=
  s.command 5 fun s => if sel = 3 then (s, 3) else (s.onPkg (·.select sel), 0)

/-- DEBUGSTOP (R192): a stop takes effect at a convoy boundary; a resume at once. -/
def State.evDebug (s : State) (core : Nat) (stop : Bool) : Option State :=
  s.command 6 fun s =>
    if Config.coresPerPackage ≤ core ∨ !(s.coreOf core).inService then (s, 3)
    else (s.onCore core fun c => if stop then { c with stopWanted := true } else { c with stopWanted := false, stopped := false }, 0)

/-! ## Self-test (R431, R432) -/

/-- Banks of cluster SRAM that a test finds faulty leave service at the next quiesce (R299). -/
def State.testBanks (s : State) (l : List (Nat × Nat)) : State := l.foldl (fun s b => (s.evSramFault b.1 b.2).getD s) s

/-- Ports in service after a test. -/
def State.testPorts (s : State) (t : SelfTestResult) : State :=
  s.onPkg fun p =>
    let c := p.podcap
    ({ p with
      cxlPorts := p.cxlPorts - t.failedCxlPorts
      podcap := putBits (putBits c 38 5 ((c.extractLsb' 38 5).toNat - t.failedUalPorts)) 35 3 ((c.extractLsb' 35 3).toNat - t.failedEthPorts) } :
      Package).spareRows t.rowSpares

/-- Links that were down and have recovered: their ports are in service again, and a UALink port opens the paths of the pod. -/
def State.testLinks (s : State) (l : List Nat) : State :=
  (l.filter fun n => s.pkg.links.contains (n, .down)).foldl
    (fun s n => s.onPkg fun p =>
      { p.countPort n true with links := p.links.filter (·.1 != n), nodesDown := if n < 16 then [] else p.nodesDown }) s

/-- An extended self-test (R431, R432): every unit is exercised, spares are mapped, banks retired, and HEALTH set. A link that is still
down makes the part due for replacement. -/
def State.selfTest (s : State) (t : SelfTestResult) : State :=
  let s := t.failedCores.foldl (fun s c => (s.evCoreFailure c).getD s) s
  let s := s.testBanks t.failedBanks
  let s := t.failedL2.foldl (fun s b => (s.evBankFailure b.1 b.2 []).getD s) s
  let s := t.failedEngines.foldl (fun s e => (s.evEngineLost e.1 e.2).getD s) s
  let s := t.failedStacks.foldl (fun s k => s.onDie k.1 fun d => { d with hbmStacks := d.hbmStacks - 1 }) s
  let s := (s.testPorts t).testLinks t.linksRecovered
  let s := s.onPkg fun p => { p with tested := true, shocksTested := p.shocks }
  s.reHealth (s.pkg.links.any fun p => p.2 == .down && freezes p.1)

/-- SELFTEST (R431): a droop restarts the test after NORMAL returns, so it completes in NORMAL. -/
def State.evSelftest (s : State) (t : SelfTestResult) : Option State :=
  if s.pkg.pwr ≠ 0 then none else s.command 7 fun s => (s.selfTest t, 0)

/-- SHOCK_EVENT (R431): a shock above 15 g is logged and counted, and a test is due. -/
def State.evShock (s : State) (milliG : Nat) : State :=
  if milliG ≤ 15000 then s
  else (s.onPkg fun p => { p with shocks := p.shocks + 1, shockLog := p.shockLog ++ [milliG] }).reHealth

/-! ## Reset, loss of supply, boot (R9, R423, R429) -/

/-- A core at reset with the part's configuration. -/
def Core.afterReset (c : Core) : Core :=
  { Core.reset c.cid with inService := c.inService, spareUsed := c.spareUsed, entriesOk := c.entriesOk, bodyOk := c.bodyOk }

/-- Whether nothing of a core has been lost or replaced: its cfg fields (R9, R150) are those of `Core.reset`. -/
def Core.whole (c : Core) : Bool := c.inService && !c.spareUsed && c.entriesOk == (Core.reset c.cid).entriesOk && c.bodyOk == (Core.reset c.cid).bodyOk

/-- A cluster at reset with the part's configuration: banks out of service, engines in service. -/
def Cluster.afterReset (c : Cluster) : Cluster := { Cluster.reset c.id with outMask := c.outMask ||| c.faultMask, engines := c.engines }

/-- A die at reset with the part's configuration. -/
def Die.afterReset (d : Die) : Die :=
  { Die.reset with
    hbmrm := d.hbmrm, l2off := d.l2off, hbmStacks := d.hbmStacks, modulus := d.modulus, outOfUse := d.outOfUse, slotsOut := d.slotsOut }

/-- The package at reset with the part's configuration, its sensors' records and what stands outside it (DEDUCED, log 35). -/
def Package.afterReset (p : Package) : Package :=
  { Package.reset with
    health := p.health, rowSpares := p.rowSpares, shocks := p.shocks, shockLog := p.shockLog, shocksTested := p.shocksTested, tested := p.tested, cxlPorts := p.cxlPorts
    cxlFailed := p.cxlFailed, hostBacked := p.hostBacked, podcap := p.podcap, links := p.links, nodesDown := p.nodesDown, boot := p.boot }

/-- A device reset (R9): every field at its Reset value, and the cfg fields as the part's configuration gives them. -/
def State.afterReset (s : State) : State :=
  { State.reset with
    core := (s.coreOf 0).afterReset
    others := (s.cores.filter fun c => c.cid != 0 && !c.whole).map Core.afterReset
    clusters := (s.clusters.filter fun c => c.outMask != 0 || c.faultMask != 0 || decide (c.engines < 4)).map Cluster.afterReset
    dies := Vector.ofFn fun i => s.dies[i].afterReset
    pkg := s.pkg.afterReset
    turns := s.turns
    free := s.free }

/-- SUPPLY_LOSS (R429): nothing survives; Fimet's event log records the loss, and the next power-up is a cold start. -/
def State.evLoss (s : State) : State :=
  let t := s.afterReset
  { t with pkg := { t.pkg with
      extents := [], boot := { t.pkg.boot with stage := 0, failed := none, meas := Vector.replicate 3 0, version := 0, lossLogged := t.pkg.boot.lossLogged + 1 } } }

/-- Whether an image is accepted (R423). -/
def stageAccepted (i : StageImage) (fuse : Nat) : Bool := i.ed25519Ok && i.mldsaOk && decide (fuse ≤ i.version)

/-- The next boot stages: each is measured and run once it is accepted; the first that is not stops the boot (R423). -/
def Boot.stages (b : Boot) : List StageImage → Boot
  | [] => b
  | i :: rest =>
    if stageAccepted i b.fuse then
      ({ b with stage := b.stage + 1, meas := b.meas.setIfInBounds b.stage i.digest, version := max b.version i.version } : Boot).stages rest
    else { b with failed := some (b.stage + 1) }

/-- POWER_UP (R423, R431): a cold start verifies and measures the three stages. When all run, the self-test that is due runs before
any queue admits a record. When one does not, the package stays in reset. -/
def State.evPowerUp (s : State) (images : List StageImage) (t : SelfTestResult) : Option State :=
  if s.pkg.boot.stage ≠ 0 ∨ s.pkg.boot.failed.isSome ∨ images.length ≠ 3 then none
  else
    let s := s.onPkg fun p => { p with boot := p.boot.stages images }
    some (if s.pkg.boot.failed.isNone && s.pkg.testDue then s.selfTest t else s)

/-- FUSE_VERSION_ADVANCE (R423): on a mailbox request, to which R422 gives no code, upward only, and never below the version that runs. -/
def State.evFuse (s : State) (version : Nat) : Option State :=
  let asked := s.pkg.mailbox.last.toNat
  if s.pkg.commands ∧ !(1 ≤ asked ∧ asked ≤ 7) ∧ s.pkg.boot.fuse < version ∧ s.pkg.boot.version ≤ version then
    some ((s.onPkg fun p => { p with boot := { p.boot with fuse := version } }).respond 0)
  else none

/-! ## The instructions -/

/-- HOST_MEMORY_ACCESS (R419). -/
def execHostMemoryAccess (write : Bool) (off len : Nat) (data : BitVec 512) (s : State) : Out := evOut "HOST_MEMORY_ACCESS" (s.evHost write off len data)
/-- ATTEST (R424). -/
def execAttest (addr : Nat) (nonce : BitVec 256) (s : State) : Out := evOut "ATTEST" (s.evAttest addr nonce)
/-- EXTENTADD (R367). -/
def execExtentadd (off size : Nat) (s : State) : Out := evOut "EXTENTADD" (s.evExtentAdd off size)
/-- EXTENTREL (R367). -/
def execExtentrel (off : Nat) (s : State) : Out := evOut "EXTENTREL" (s.evExtentRel off)
/-- SETVEC (R420). -/
def execSetvec (vec : Nat) (addr : Word) (data : BitVec 32) (s : State) : Out := evOut "SETVEC" (s.evSetvec vec addr data)
/-- MBX_PROFILE (R426). -/
def execMbxProfile (sel : BitVec 2) (s : State) : Out := evOut "MBX_PROFILE" (s.evMbxProfile sel)
/-- DEBUGSTOP (R192). -/
def execDebugstop (core : Nat) (stop : Bool) (s : State) : Out := evOut "DEBUGSTOP" (s.evDebug core stop)
/-- SELFTEST (R431). -/
def execSelftest (t : SelfTestResult) (s : State) : Out := evOut "SELFTEST" (s.evSelftest t)
/-- SHOCK_EVENT (R431). -/
def execShockEvent (milliG : Nat) (s : State) : Out := .next (s.evShock milliG)
/-- DEVICE_RESET (R9). -/
def execDeviceReset (s : State) : Out := .next s.afterReset
/-- SUPPLY_LOSS (R429). -/
def execSupplyLoss (s : State) : Out := .next s.evLoss
/-- POWER_UP (R423). -/
def execPowerUp (images : List StageImage) (t : SelfTestResult) (s : State) : Out := evOut "POWER_UP" (s.evPowerUp images t)
/-- FUSE_VERSION_ADVANCE (R423). -/
def execFuseVersionAdvance (version : Nat) (s : State) : Out := evOut "FUSE_VERSION_ADVANCE" (s.evFuse version)

end Sys2Proof.Machine
end

