-- ==== Sys2Proof/Machine/Sched.lean ====
section
/-! DEFINITION. What moves next when no turn is given (DESIGN CHOICE, log 4): the resume decision (R163) with the restore it starts (R148), the
slots that pass while no strand issues (R148, R180, R192, R259), and the steps of the device that are due. -/

namespace Sys2Proof.Machine

/-! ## Resuming a strand (R148, R160, R162, R163, R260) -/

/-- The first faulting address and the failure of a fault token that the page service has failed (R260, R261). -/
def pageInvalid (t : Strand) (first : Word) (e : BitVec 8) : TrapInfo :=
  { mkTrap 0x15 first with lanes := t.vf.fltm, ecode := e, attempts := t.attempts }

/-- A strand back from the page-fault path (R260): the token is observed; the access is reissued, or PAGE_INVALID is due. -/
def State.resumeFault (s : State) (h first : Word) : State :=
  let x := s.core.status h
  let s := s.observe h
  if (0x100#64).ule x then s.onCur fun t => { t with trapDue := some (pageInvalid t first (x.extractLsb' 0 8)) }
  else s.onCur fun t => { t with reissue := true }

/-- A strand back from an `AWAIT` (R160, R22): its own address is the one before PC. -/
def State.resumeAwait (s : State) (d : BitVec 5) (h : Word) (st : Bool) : State :=
  match s.awaited d h (s.cur.pc - 4) with
  | (s, some t) => s.takeTrap t
  | (s, none) => s.settleAfter st

/-- What a strand does first when it is back on the core. -/
def State.resumed (s : State) : Resume → State
  | .go => s
  | .waitLimit => s.onCur fun t => { t with trapDue := some (mkTrap 0x12 0) }
  | .fault h first => s.resumeFault h first
  | .await d h st => s.resumeAwait d h st

/-- The chosen strand comes onto the core (R86, R148, R244). -/
def State.bring (s : State) (i : Image) : State :=
  (((s.restore i).accRestore i).onCur (·.restoredBanks)).resumed i.resume

/-- RESUME_DECISION (R163, R193, R194): a core with no running strand takes the one that the decision names. A full trace ring
makes the decision wait (R193). None when no strand can be taken, or a delivery that waits comes first (R251). -/
def State.decide1 (s : State) : Option State :=
  if s.core.running ∨ s.core.parkedTill.isSome ∨ s.core.stopped ∨ (!s.core.slotQueue.isEmpty ∧ s.core.freeSlot.isSome) then none
  else
    match s.decideNow with
    | (_, none) => none
    | (t, some (i, rd)) =>
      if s.resumeWaits then some (s.charge .stolen none 0 0 1)
      else some (((t.logResume i).replayTo rd).bring i)

/-- RESUME_DECISION on a core. -/
def State.evResume (s : State) (core : Nat) : Option State := ((s.focusOn core).decide1).map fun t => t.focusOn s.core.cid

/-- RESUME_DECISION (R163). -/
def execResumeDecision (core : Nat) (s : State) : Out := evOut "RESUME_DECISION" (s.evResume core)

/-! ## Steps of the device that need no choice from outside -/

/-- Message `i` in flight, whatever it carries. -/
def State.evFlight (s : State) (i : Nat) : Option State :=
  match s.flight[i]? with
  | none => none
  | some m =>
    match m.body with
    | .signal _ => if s.isLocal m.body then s.evMsg s.isLocal i else s.evControl (.outgoing i)
    | .fail _ _ => if s.isLocal m.body then s.evMsg s.isLocal i else s.evControl (.outgoing i)
    | .deposit _ _ _ _ => if s.isLocal m.body then s.evMsg s.isLocal i else s.evControl (.outgoing i)
    | .ldqReply _ _ _ _ _ => s.evReply i
    | .store _ _ _ _ _ => s.evSignal i
    | .wake _ _ _ => s.evWake i
    | .hop _ _ _ => s.evHop i
    | .barrier _ _ _ _ _ _ => s.evBarrier i
    | .publication _ _ _ _ => s.evPublication i
    | .matrix _ _ _ _ _ => s.evRemoteMatrix i
    | .reduce _ _ _ => s.evReduce i
    | .dependency l k _ => s.evDependency l k

/-- The first of the numbers below a bound that gives a state. -/
def firstOf (n : Nat) (f : Nat → Option State) : Option State := (List.range n).findSome? f

/-- The messages with a stated cycle that can be delivered: the states once they are, and their cycles. -/
def State.deliverable (s : State) : List (State × Nat) :=
  (List.range s.flight.length).filterMap fun i =>
    match s.flight[i]?.bind (·.due) with
    | some t => (s.evFlight i).map fun u => (u, t)
    | none => none

/-- The matrix commands that have completed, in the cycles in which their ends take effect, and the states once they have. -/
def State.matrixEnds (s : State) : List (State × Nat) :=
  s.cores.filterMap fun c => match c.matrixDue with
    | some t => (s.evMatrix c.cid).map fun u => (u, t)
    | none => none

/-- The event with the earliest stated cycle (R152). -/
def State.evDue (s : State) : Option State := (earliestOf (s.deliverable ++ s.matrixEnds)).map (·.1)

/-- The waits of the strands of a core that have run out. -/
def State.evExpired (s : State) (c : Core) : Option State :=
  c.images.findSome? fun i => match s.evTableTimeout c.cid i.st.num with
    | some t => some t
    | none => s.evWaitLimit c.cid i.st.num

/-- The ends of the waits of a core. -/
def State.evCore (s : State) (c : Core) : Option State :=
  match s.evParkTimeout c.cid with
  | some t => some t
  | none => s.evExpired c

/-- Steps that are due by the clocks of the cores: messages and matrix commands, then the ends of waits. -/
def State.evClock (s : State) : Option State :=
  match s.evDue with
  | some t => some t
  | none => s.cores.findSome? s.evCore

/-- The streams of a core. -/
def State.evStreams (s : State) (c : Core) : Option State :=
  match firstOf c.drains.length (s.evDrain c.cid) with
  | some t => some t
  | none =>
    ((if c.running then [c.cur] else []) ++ c.images.map (·.st)).findSome? fun t => t.bindings.findSome? fun b => s.evFill c.cid t.num b.reg

/-- The units of the clusters and dies. -/
def State.evUnits (s : State) : Option State :=
  match s.clusters.findSome? fun c => match firstOf c.copies.length (s.evCopy c.id) with
      | some t => some t
      | none => s.evBankMode c.id with
  | some t => some t
  | none =>
    match firstOf 4 fun d => match s.evMoraine d with
        | some t => some t
        | none => firstOf (s.dieAt d).ssOps.length (s.evMovement d) with
    | some t => some t
    | none =>
      match s.evRequest 0 with
      | some t => some t
      | none =>
        match s.evResponse 0 with
        | some t => some t
        | none => s.evHint 0

/-- The dispatcher, once launches are placed. -/
def State.evLaunches (s : State) : Option State :=
  match s.evAdmit with
  | some t => some t
  | none => s.pkg.launches.findSome? fun l => match s.evItem l.id with
      | some t => some t
      | none => match s.evFinish l.id with
        | some t => some t
        | none => s.evCancel l.id

/-- The page service's engines. -/
def State.evPages (s : State) : Option State :=
  match s.evBatch with
  | some t => some t
  | none =>
    match firstOf s.pkg.migrations.length fun i => match s.evMigStep i with
        | some t => some t
        | none => s.evMigFinish i with
    | some t => some t
    | none =>
      match s.evMigStart with
      | some t => some t
      | none =>
        match s.evDumpPage with
        | some t => some t
        | none =>
          match s.evDumpDone with
          | some t => some t
          | none => s.evDumpStart

/-- The first step of the device that is enabled and needs no choice from outside. -/
def State.internal (s : State) : Option State :=
  match firstOf s.flight.length s.evFlight with
  | some t => some t
  | none =>
    match s.cores.findSome? s.evStreams with
    | some t => some t
    | none =>
      match s.evUnits with
      | some t => some t
      | none =>
        match s.evLaunches with
        | some t => some t
        | none =>
          match s.evPages with
          | some t => some t
          | none => firstOf s.engineOps.length s.evEngineFault

/-! ## A core's step -/

/-- Whether the package runs: it has booted, and its clocks move (R423, R429). -/
def State.clocked (s : State) : Bool := decide (s.pkg.boot.stage = 3) && decide (s.pkg.pwr ≠ 4)

/-- The steps that do not stand while the clocks of the package do (R423, R428-R431, R434): those of the supply, the sensors, the links, the host,
Fimet and reset, and the failures of units. -/
def timeless : Instr → Bool
  | .supplyDroop => true
  | .stretchRecovery => true
  | .rideEntry => true
  | .rideRecovery => true
  | .quiesceEntry => true
  | .quiesceComplete => true
  | .heldRestart => true
  | .thermalRide => true
  | .thermalReturn => true
  | .thermalQuiesce => true
  | .linkRetrainStart _ => true
  | .linkRetrainComplete _ => true
  | .linkDownTimeout _ => true
  | .pathDownTimeout _ => true
  | .hostMemoryAccess _ _ _ _ => true
  | .launchPortWrite _ _ _ _ => true
  | .attest _ _ => true
  | .extentadd _ _ => true
  | .extentrel _ => true
  | .setvec _ _ _ => true
  | .mbxProfile _ => true
  | .debugstop _ _ => true
  | .selftest _ => true
  | .shockEvent _ => true
  | .deviceReset => true
  | .supplyLoss => true
  | .powerUp _ _ => true
  | .fuseVersionAdvance _ => true
  | .l2BankFailure _ _ _ => true
  | .coreFailure _ => true
  | .clusterSramBankFault _ _ => true
  | .cxlDeviceFailure _ => true
  | .gondolaEngineFailure _ _ => true
  | .moraineMetadataError _ _ => true
  | .barrierCellError _ _ _ => true
  | .imageUncorrectable _ _ => true
  | .cellUncorrectable _ _ => true
  | _ => false

/-- Whether the device takes a step now: while its clocks stand still, or while it is held in reset, only one that needs no clock. -/
def State.mayTurn (s : State) (i : Instr) : Bool := s.clocked || timeless i

/-- Whether the focus core issues in this step: a strand runs that no trap or stop holds, no step is due by the clocks, and a
waiting instruction finds nothing else to happen first. -/
def State.runs (s : State) : Bool :=
  s.core.running && s.cur.trapDue.isNone && !s.core.stopped && !s.core.atStop && s.clocked && s.evClock.isNone && !(s.core.waiting && s.internal.isSome)

/-- A slot of the focus core that nothing takes: IDLE (R148), or STOLEN while the droop and thermal response halts it (R179). -/
def State.idleSlot (s : State) : State := s.charge (if s.pkg.pwr = 3 then .stolen else .idle) none 0 0 1

/-- A slot of the focus core in which a debug stop or a park holds it (R192, R259). DEDUCED: log 74. -/
def State.stolenSlot (s : State) : State := s.charge .stolen (if s.core.running then some s.cur.num else none) s.cur.pc s.cur.pc 1

/-- A core without a running strand: waiting deliveries first, then the decision, then other steps, then an idle
slot. -/
def State.vacant (s : State) : State :=
  match s.evSlotFreed s.core.cid with
  | some t => t
  | none =>
    match s.decide1 with
    | some t => t
    | none =>
      match s.internal with
      | some t => t
      | none => { s with core := s.decideNow.1.core }.idleSlot

/-- A step of the focus core when no instruction issues. -/
def State.between (s : State) : Out :=
  if s.pkg.boot.stage ≠ 3 then .fault .heldInReset
  else if s.pkg.pwr = 4 then .fault .clocksStopped
  else .next <|
    match s.evClock with
    | some t => t
    | none =>
      if s.core.atStop then (s.evDebugStop s.core.cid).getD s
      else if s.core.stopped || s.core.parkedTill.isSome then s.stolenSlot
      else if !s.core.running then s.vacant
      else
        match s.evTrap s.core.cid with
        | some t => t
        | none => (s.internal).getD s.idleSlot

/-- The strands of every core that wait for a kind-5 cell (R260). -/
def State.grantAll (s : State) : State :=
  let waits := s.cores.filter fun c => c.images.any fun i => match i.cond with
    | .faultCell _ _ _ => true
    | _ => false
  waits.foldl (fun s c => ((s.focusOn c.cid).grantFaultCells c.images.length).focusOn s.core.cid) s

/-- The copies and state movements under way move on, while the clocks run and no quiesce holds the engines (R296, R343, R380, R429). -/
def State.drift (s : State) : State :=
  if !s.clocked || decide (3 ≤ s.pkg.pwr) || ((s.clusters.all fun c => c.copies.isEmpty) && s.dies.toList.all fun d => d.ssOps.isEmpty) then s
  else (List.range 4).foldl State.driftDie (s.clusters.foldl State.driftCluster s)

/-- What follows every step: waiting fault paths get the kind-5 cells that are free (R260), the dispatcher watches over the
dependencies of waiting launches (R391), engine threads move on, and the modes of launches that have left end (R397). -/
def afterStep : Out → Out
  | .next s => .next s.grantAll.watchDeps.drift.endModes
  | o => o

end Sys2Proof.Machine
end

