-- ==== Sys2Proof/Machine/VecMove.lean ====
section
/-! DEFINITION. Shape, mask, scale and move instructions and the permutations (R127, R129, R131-R136). -/

namespace Sys2Proof.Machine

/-! ## SETL (R127) -/

/-- `setl` (R127): two-dimensional when the a field is not 0, else one-dimensional. -/
def execSetl (st : Bool) (d a b : BitVec 5) (s : State) : Out :=
  issue st 4 { g := [a, b] }
    (fun s =>
      let x := (s.rg a).toNat
      let y := (s.rg b).toNat
      let c := 1024 / s.vw
      let top := 32 * s.cur.sp.gangsz
      let rows := if a = 0 then min top (ceilDiv y c) else min x top
      let cols := if a = 0 then c else min y c
      let vl := if a = 0 then min y (rows * cols) else rows * cols
      .ok ((s.onSp fun p => { p with vrows := rows, vcols := cols, vl := vl }).wg d (BitVec.ofNat 64 vl))) s

/-! ## Masks (R129) -/

/-- The mask register that a field names. -/
abbrev mreg (r : BitVec 5) : BitVec 4 := r.setWidth 4

/-- A bitwise mask function on every member. -/
def maskWord (st : Bool) (d a b : BitVec 5) (f : BitVec 8192 → BitVec 8192 → BitVec 8192) (s : State) : Out :=
  issue st 4 (vuse [] [] [] [mreg a, mreg b])
    (fun s => .ok ((s.putMask (mreg d) (s.files.map fun x => f (x.getM (mreg a)) (x.getM (mreg b)))).enqueue
      { m := govern (mreg a) ++ govern (mreg b), md := govern (mreg d), t := 1, lam := 2 })) s

/-- `mand` (R129). -/
def execMand (st : Bool) (d a b : BitVec 5) (s : State) : Out := maskWord st d a b (fun x y => x &&& y) s
/-- `mor` (R129). -/
def execMor (st : Bool) (d a b : BitVec 5) (s : State) : Out := maskWord st d a b (fun x y => x ||| y) s
/-- `mxor` (R129). -/
def execMxor (st : Bool) (d a b : BitVec 5) (s : State) : Out := maskWord st d a b (fun x y => x ^^^ y) s
/-- `mandn` (R129). -/
def execMandn (st : Bool) (d a b : BitVec 5) (s : State) : Out := maskWord st d a b (fun x y => x &&& ~~~y) s

/-- The domain positions at which a mask is 1, ascending. -/
def State.domain (s : State) (m : BitVec 4) : List Nat :=
  let ms := s.files.map (·.getM m)
  let c := s.vcols
  (List.range s.vl).filter fun j => maskAt ms c j

/-- Extra cycles of a gang-wide function. -/
def State.gangExtra (s : State) (n : Nat) : Nat := if 1 < s.cur.sp.gangsz then n else 0

/-- A mask function that writes a `g` register. -/
def maskToG (st : Bool) (d a : BitVec 5) (f : List Nat → Word) (s : State) : Out :=
  issue st 4 (vuse [] [] [] [mreg a])
    (fun s => .ok ((s.wg d (f (s.domain (mreg a)))).enqueue
      { m := govern (mreg a), gd := some d, t := 2 + s.gangExtra 4, lam := 4 })) s

/-- `mpop` (R129). -/
def execMpop (st : Bool) (d a : BitVec 5) (s : State) : Out := maskToG st d a (fun l => BitVec.ofNat 64 l.length) s
/-- `mfirst` (R129). -/
def execMfirst (st : Bool) (d a : BitVec 5) (s : State) : Out :=
  maskToG st d a (fun l => match l with | j :: _ => BitVec.ofNat 64 j | [] => BitVec.allOnes 64) s

/-- A mask with the domain positions that `f` picks from the first set position. -/
def maskPrefix (st : Bool) (d a : BitVec 5) (f : Nat → Nat → Bool) (s : State) : Out :=
  issue st 4 (vuse [] [] [] [mreg a])
    (fun s =>
      let j0 := ((s.domain (mreg a)).head?).getD s.vl
      .ok ((s.putMask (mreg d) (s.maskOf ((List.range s.vl).filter fun j => f j j0))).enqueue
        { m := govern (mreg a), md := govern (mreg d), t := 1, lam := 2 })) s

/-- `mupto` (R129). -/
def execMupto (st : Bool) (d a : BitVec 5) (s : State) : Out := maskPrefix st d a (fun j j0 => decide (j ≤ j0)) s
/-- `mbefore` (R129). -/
def execMbefore (st : Bool) (d a : BitVec 5) (s : State) : Out := maskPrefix st d a (fun j j0 => decide (j < j0)) s

/-- `mscan` (R129): counts of set bits below each domain position. -/
def execMscan (st : Bool) (d a : BitVec 5) (s : State) : Out :=
  issue st 4 (vuse [] [] [d] [mreg a])
    (fun s => s.vecCheck (isIntType s.vt) true [] fun s =>
      let on := s.domain (mreg a)
      let es := (List.range s.vl).map fun j => (j, (on.takeWhile (· < j)).length % 2 ^ s.vw)
      .ok ((s.putElems d s.vw es).enqueue
        { vd := [d], m := govern (mreg a), t := s.occ false 1 s.vw [], lam := 2, js := List.range s.vl })) s

/-- What a field of `mmov` reads on a member: `m0`-`m15`, XM or FLTM. -/
def VFile.getMX (f : VFile) (r : BitVec 5) : BitVec 8192 :=
  if r.toNat < 16 then f.getM (mreg r) else if r.toNat = 16 then f.xm else f.fltm

/-- A member after `mmov` has written a field. -/
def VFile.setMX (f : VFile) (r : BitVec 5) (x : BitVec 8192) : VFile :=
  if r.toNat < 16 then f.setM (mreg r) x else if r.toNat = 16 then { f with xm := x } else { f with fltm := x }

/-- The mask registers among the fields of `mmov`. -/
def maskField (r : BitVec 5) : List (BitVec 4) := if r.toNat < 16 then [mreg r] else []

/-- `mmov` (R129). -/
def execMmov (st : Bool) (d a : BitVec 5) (s : State) : Out :=
  issue st 4 (vuse [] [] [] (maskField a))
    (fun s =>
      let xs := s.files.map (·.getMX a)
      let o := s.own
      let s' :=
        if d.toNat < 16 then s.putMask (mreg d) xs
        else s.onCur fun t => t.setFiles o (((t.files o).zip xs).map fun (f, x) => f.setMX d x)
      .ok (s'.enqueue { m := (maskField a).flatMap govern, md := (maskField d).flatMap govern, t := 1, lam := 2 })) s

/-- `msetl` (R129): the bits of the shape whose index lies below `g`a. -/
def execMsetl (st : Bool) (d a : BitVec 5) (s : State) : Out :=
  issue st 4 (vuse [a] [] [] [])
    (fun s =>
      let n := (s.rg a).toNat
      .ok ((s.putMask (mreg d) (s.maskOf ((List.range (s.vrows * s.vcols)).filter fun j => decide (j < n)))).enqueue
        { md := govern (mreg d), t := 1, lam := 2 })) s

/-! ## Scale registers (R131) -/

/-- The scale register that a field names. -/
abbrev creg (r : BitVec 5) : BitVec 3 := r.setWidth 3

/-- A scale register of equal bytes. -/
def fillScale (x : BitVec 8) : BitVec 8192 := (List.range 1024).foldl (fun m i => m ||| (x.setWidth 8192 <<< (8 * i))) 0

/-- Writing a scale register on every member. -/
def State.putScaleReg (s : State) (d : BitVec 3) (f : VFile → CReg) : State :=
  let xs := s.files.map f
  let o := s.own
  s.onCur (·.writeC o d xs)

/-- `cset` (R131). -/
def execCset (st : Bool) (d a b : BitVec 5) (s : State) : Out :=
  issue st 4 (vuse [a, b] [] [] [])
    (fun s =>
      let tag := (s.rg a).extractLsb' 0 8
      if tag = 0 ∨ scaleTagOk tag then
        let x := fillScale ((s.rg b).extractLsb' 0 8)
        .ok ((s.putScaleReg (creg d) fun _ => ⟨x, tag⟩).enqueue { cd := [creg d], t := 1, lam := 3 })
      else s.raise 0x05 0) s

/-- `cmov` (R131). -/
def execCmov (st : Bool) (d a : BitVec 5) (s : State) : Out :=
  issue st 4 { vuse [] [] [] [] with c := [creg a] }
    (fun s => .ok ((s.putScaleReg (creg d) (·.getC (creg a))).enqueue { c := [creg a], cd := [creg d], t := 1, lam := 3 })) s

/-! ## Moves (R132) -/

/-- A vector instruction that moves elements: what it checks, what it reads, what it writes, its queue entry. -/
def State.vecMove (s : State) (typeOk shapeOk : Bool) (reads : List (BitVec 5 × List Nat)) (d : BitVec 5) (q : VQ)
    (es : State → List (Nat × Nat)) : Res :=
  s.vecCheck typeOk shapeOk (reads.map fun r => (r.1, s.vw, r.2)) fun s => .ok ((s.putElems d s.vw (es s)).enqueue q)

/-- The λ = 2 moves of every type. -/
def moveOp : VOp := { types := isType, lam := 2, f := 1 }

/-- `vmv` (R132). -/
def execVmv (st : Bool) (d a : BitVec 5) (m : BitVec 4) (x : Bool) (s : State) : Out :=
  vecWord st moveOp d a .none m x (fun _ x _ _ => plain x) s

/-- `vbrd` (R132). -/
def execVbrd (st : Bool) (d b : BitVec 5) (m : BitVec 4) (x : Bool) (s : State) : Out :=
  issue st 4 (vuse [b] [] [d] [m])
    (fun s =>
      let js := s.active m
      s.vecMove true true [] d { vd := [d], m := govern m, t := s.occ x 1 s.vw js, lam := 2, js := js }
        fun s => js.map fun j => (j, s.bElt s.vt (.g b) j)) s

/-- An element as a `g` register shows it: sign-extended for signed integer types (R132). -/
def extElem (t : BitVec 5) (x : Nat) : Word :=
  if isIntType t && isSigned t then BitVec.ofInt 64 (tval t x) else BitVec.ofNat 64 x

/-- `vext` (R132). -/
def execVext (st : Bool) (d a b : BitVec 5) (s : State) : Out :=
  issue st 4 (vuse [b] [a] [] [])
    (fun s =>
      let i := (s.rg b).toNat
      let js := if i < s.vrows * s.vcols then [i] else []
      s.vecCheck true true [(a, s.vw, js)] fun s =>
        let y := if i < s.vrows * s.vcols then extElem s.vt (s.eltOf s.vt a i) else 0
        .ok ((s.wg d y).enqueue { v := [a], gd := some d, t := 1, lam := 3 })) s

/-- `vins` (R132): an index outside the shape has no effect. -/
def execVins (st : Bool) (d a b : BitVec 5) (s : State) : Out :=
  issue st 4 (vuse [a, b] [] [d] [])
    (fun s =>
      let i := (s.rg b).toNat
      let t := if i < s.vrows * s.vcols then s.putElems d s.vw [(i, s.bElt s.vt (.g a) i)] else s
      .ok (t.enqueue { vd := [d], t := 1, lam := 3 })) s

/-- `vmrg` (R132): every position below VL is written. -/
def execVmrg (st : Bool) (d a b : BitVec 5) (m : BitVec 4) (x : Bool) (s : State) : Out :=
  issue st 4 (vuse [] [a, b] [d] [m])
    (fun s =>
      let on := s.active m
      let off := (List.range s.vl).filter fun j => !on.contains j
      s.vecMove true true [(a, on), (b, off)] d
        { v := [a, b], vd := [d], m := govern m, t := s.occ x 1 s.vw on, lam := 2, js := on }
        fun s => (on.map fun j => (j, s.eltOf s.vt a j)) ++ off.map fun j => (j, s.eltOf s.vt b j)) s

/-- `viota` (R132). -/
def execViota (st : Bool) (d : BitVec 5) (m : BitVec 4) (x : Bool) (s : State) : Out :=
  issue st 4 (vuse [] [] [d] [m])
    (fun s =>
      let js := s.active m
      s.vecMove (isIntType s.vt) true [] d { vd := [d], m := govern m, t := s.occ x 1 s.vw js, lam := 2, js := js }
        fun s => js.map fun j => (j, j % 2 ^ s.vw)) s

/-- The row that `vrowb` reads for element `j` (R132): the local row on the member of `j` in a gang. -/
def State.rowOf (s : State) (y j : Nat) : Nat := if 1 < s.cur.sp.gangsz then j / s.vcols / 32 * 32 + y % 32 else y

/-- An instruction that reads another element of a for each active one: `src` names it, or `none` for a zero (R132, R133); `all` when
its sources are read at every position below VL, whatever the mask (R133). -/
def gatherWord (st : Bool) (g v : List (BitVec 5)) (shapeOk : State → Bool) (lam k extra : Nat) (d a : BitVec 5) (m : BitVec 4)
    (x : Bool) (src : State → Nat → Option Nat) (fill : State → Nat) (s : State) (all : Bool := true) : Out :=
  issue st 4 (vuse g (a :: v) [d] [m])
    (fun s =>
      let js := s.active m
      let reads := if all then (a :: v).map fun r => (r, List.range s.vl) else [(a, js.filterMap (src s))]
      s.vecMove true (shapeOk s) reads d
        { v := a :: v, vd := [d], m := govern m, t := k * s.occ x 1 s.vw js + extra, lam := lam, js := js }
        fun s => js.map fun j => (j, match src s j with | some i => s.eltOf s.vt a i | none => fill s)) s

/-- `vrowb` (R132). DEDUCED: log 41. -/
def execVrowb (st : Bool) (d a b : BitVec 5) (m : BitVec 4) (x : Bool) (s : State) : Out :=
  gatherWord st [b] [] (fun _ => true) 2 1 0 d a m x
    (fun s j =>
      let r := s.rowOf (s.rg b).toNat j
      if r < s.vrows then some (r * s.vcols + j % s.vcols) else none) (fun _ => 0) s (all := false)

/-- `vcolb` (R132). -/
def execVcolb (st : Bool) (d a b : BitVec 5) (m : BitVec 4) (x : Bool) (s : State) : Out :=
  gatherWord st [b] [] (fun _ => true) 2 1 0 d a m x
    (fun s j => if (s.rg b).toNat < s.vcols then some (j / s.vcols * s.vcols + (s.rg b).toNat) else none) (fun _ => 0) s (all := false)

/-! ## Permutations (R133-R136) -/

/-- No gang: the permutations stay on one core (R133). -/
def State.single (s : State) : Bool := decide (s.cur.sp.gangsz ≤ 1)

/-- `vslup` (R133). -/
def execVslup (st : Bool) (d a b : BitVec 5) (m : BitVec 4) (x : Bool) (s : State) : Out :=
  gatherWord st [b] [] State.single 3 1 0 d a m x
    (fun s j => if (s.rg b).toNat ≤ j then some (j - (s.rg b).toNat) else none) (fun _ => 0) s

/-- `vsldn` (R133). -/
def execVsldn (st : Bool) (d a b : BitVec 5) (m : BitVec 4) (x : Bool) (s : State) : Out :=
  gatherWord st [b] [] State.single 3 1 0 d a m x
    (fun s j => if j + (s.rg b).toNat < s.vl then some (j + (s.rg b).toNat) else none) (fun _ => 0) s

/-- `vsl1up` (R133). -/
def execVsl1up (st : Bool) (d a b : BitVec 5) (m : BitVec 4) (x : Bool) (s : State) : Out :=
  gatherWord st [b] [] State.single 3 1 0 d a m x (fun _ j => if 1 ≤ j then some (j - 1) else none)
    (fun s => s.bElt s.vt (.g b) 0) s

/-- `vsl1dn` (R133). -/
def execVsl1dn (st : Bool) (d a b : BitVec 5) (m : BitVec 4) (x : Bool) (s : State) : Out :=
  gatherWord st [b] [] State.single 3 1 0 d a m x (fun s j => if j + 1 < s.vl then some (j + 1) else none)
    (fun s => s.bElt s.vt (.g b) 0) s

/-- `vgath` (R133): b holds the indices. -/
def execVgath (st : Bool) (d a b : BitVec 5) (m : BitVec 4) (x : Bool) (s : State) : Out :=
  gatherWord st [] [b] State.single 4 2 0 d a m x
    (fun s j => if s.eltOf s.vt b j < s.vl then some (s.eltOf s.vt b j) else none) (fun _ => 0) s

/-- `vtrn` (R134). -/
def execVtrn (st : Bool) (d a : BitVec 5) (m : BitVec 4) (s : State) : Out :=
  issue st 4 (vuse [] [a] [d] [m])
    (fun s =>
      let w := s.vw
      let js := s.active m
      s.vecCheck true (s.single && decide (s.vcols ≤ 32) && decide (s.vrows ≤ 1024 / w)) [(a, w, List.range s.vl)] fun s =>
        let wr := js.foldl (fun y j => y.add w (j % s.vcols) (j / s.vcols) (s.eltOf s.vt a j)) VWrite.none
        let o := s.own
        let s' := (s.onCur (·.writeV o d [wr])).enqueue
          { v := [a], vd := [d], m := govern m, t := s.vrows + 2, lam := 2, js := js }
        .ok (s'.onSp fun p => { p with vrows := p.vcols, vcols := p.vrows, vl := p.vrows * p.vcols })) s

/-- `vcprs` (R135): the active elements packed, zeros after them up to VL. -/
def execVcprs (st : Bool) (d a : BitVec 5) (m : BitVec 4) (x : Bool) (s : State) : Out :=
  issue st 4 (vuse [] [a] [d] [m])
    (fun s =>
      let js := s.active m
      s.vecMove true s.single [(a, List.range s.vl)] d
        { v := [a], vd := [d], m := govern m, t := 2 * s.occ x 1 s.vw js, lam := 4, js := js }
        fun s => (List.range s.vl).map fun i => (i, match js[i]? with | some j => s.eltOf s.vt a j | none => 0)) s

/-- `vexpd` (R135). -/
def execVexpd (st : Bool) (d a : BitVec 5) (m : BitVec 4) (x : Bool) (s : State) : Out :=
  issue st 4 (vuse [] [a] [d] [m])
    (fun s =>
      let js := s.active m
      s.vecMove true s.single [(a, List.range s.vl)] d
        { v := [a], vd := [d], m := govern m, t := 2 * s.occ x 1 s.vw js, lam := 4, js := js }
        fun s => js.zipIdx.map fun (j, k) => (j, s.eltOf s.vt a k)) s

/-- `vgxch` (R136): local rows of the member `s` places on. -/
def execVgxch (st : Bool) (d a b : BitVec 5) (m : BitVec 4) (s : State) : Out :=
  gatherWord st [b] [] (fun _ => true) 8 2 4 d a m false
    (fun s j =>
      let g := max 1 s.cur.sp.gangsz
      let row := j / s.vcols
      some (((row / 32 + (s.rg b).toNat) % g * 32 + row % 32) * s.vcols + j % s.vcols)) (fun _ => 0) s

end Sys2Proof.Machine
end

