-- ==== Sys2Proof/Machine/VecRed.lean ====
section
/-! DEFINITION. Reductions (R70, R137) and the online softmax instructions (R138-R141). -/

namespace Sys2Proof.Machine

/-! ## Writing by row and column -/

/-- Writes of elements of `w` bits given by (row over the gang, column, value). -/
def State.cellWrites (s : State) (w : Nat) (es : List (Nat × Nat × Nat)) : List VWrite :=
  es.foldl (fun ws (row, col, v) => ws.modify (row / 32) fun y => y.add w (row % 32) col v)
    (List.replicate s.files.length VWrite.none)

/-- A vector register written at rows and columns. -/
def State.putCells (s : State) (d : BitVec 5) (w : Nat) (es : List (Nat × Nat × Nat)) : State :=
  let ws := s.cellWrites w es
  let o := s.own
  s.onCur (·.writeV o d ws)

/-- The element at a row over the gang and a column. -/
def State.cell (s : State) (r : BitVec 5) (w row col : Nat) : Nat :=
  match s.files[row / 32]? with
  | some f => (f.getV r).elem w (row % 32) col
  | none => 0

/-- The POISONED trap of the first source register with a poisoned cell (R262). -/
def State.cellPoison (s : State) (w : Nat) (reads : List (BitVec 5 × List (Nat × Nat))) : Option TrapInfo :=
  let bad := fun (r : BitVec 5) (cs : List (Nat × Nat)) => cs.filter fun (row, col) =>
    match s.files[row / 32]? with
    | some f => (f.getV r).bad w (row % 32) col
    | none => false
  (reads.find? fun (r, cs) => !(bad r cs).isEmpty).map fun (r, cs) =>
    { mkTrap 0x0F (infoAt (s.elOrigin r (((bad r cs).map fun p => p.1 * s.vcols + p.2).headD 0))) with
      rclass := 2, reg := r, lanes := laneMask ((bad r cs).map fun p => p.1 * s.vcols + p.2) }

/-- What a row raised (R65): the index is the row number, held by the member of the row (DEDUCED, log 17). -/
def rowRaised (row flags : Nat) : Raised := { lane := row, mem := row / 32, bit := row % 32, flags := flags }

/-! ## Reductions (R70, R137) -/

/-- A reduction of a list of elements, ascending; the second list says which leaf of the tree each takes;
`fp` when it is a floating-point function. -/
structure RedOp where
  types : BitVec 5 → Bool
  run : State → List (Nat × Nat) → Nat → Rounded
  ordered : Bool := false
  fp : Bool := true

/-- An integer fold. -/
def redFold (f : State → Nat → Nat → Nat) (unit : State → Nat) (s : State) (es : List (Nat × Nat)) (_ : Nat) : Rounded :=
  plain (es.foldl (fun acc e => f s acc e.2) (unit s))

/-- A single element as a floating-point reduction returns it (R70): flushed, or the canonical NaN. -/
def RCtx.first (c : RCtx) (x : Nat) : Rounded :=
  let v := c.read x
  ⟨if v.isNan then c.f.nan else c.f.flushIn c.fz x, v.nanFlag⟩

/-- The context of the sums on the way (R70): plain roundings, which FZ does not flush. -/
def RCtx.inner (c : RCtx) : RCtx := { c with fz := false }

/-- `vfredo` (R70): each further element is added and rounded; the result that is written is flushed under FZ (R60). -/
def redOrdered (s : State) (es : List (Nat × Nat)) (_ : Nat) : Rounded :=
  let c := s.fpCtx
  match es with
  | [] => ⟨c.f.sign true, 0⟩
  | e :: rest =>
    c.f.flushOut c.fz <| rest.foldl
      (fun acc e =>
        let r := c.inner.add (c.f.decode acc.bits) (c.read e.2)
        ⟨r.bits, acc.flags ||| r.flags⟩)
      (c.first e.2)

/-- One level of the tree: neighbours are added and rounded. -/
def treeLevel (c : RCtx) : List Nat → List Nat × Nat
  | x :: y :: rest =>
    let r := c.add (c.f.decode x) (c.f.decode y)
    let (l, fl) := treeLevel c rest
    (r.bits :: l, r.flags ||| fl)
  | l => (l, 0)

/-- The levels of a tree until one value remains. -/
def treeSum (c : RCtx) : Nat → List Nat → Nat → Nat × Nat
  | 0, l, fl => (l.head?.getD (c.f.sign true), fl)
  | n + 1, l, fl =>
    let (l', f') := treeLevel c l
    treeSum c n l' (fl ||| f')

/-- Levels of the tree over `n` leaf positions: log2 of the smallest power of two not below n. -/
def treeDepth (n : Nat) : Nat := if n ≤ 1 then 0 else (n - 1).log2 + 1

/-- `vfredt` (R70) over `n` leaf positions; the result that is written is flushed under FZ (R60). -/
def redTree (s : State) (es : List (Nat × Nat)) (n : Nat) : Rounded :=
  let c := s.fpCtx
  match es with
  | [] => ⟨c.f.sign true, 0⟩
  | [e] => c.first e.2
  | _ =>
    let leaf := fun j => match es.find? (·.1 == j) with
      | some e => c.f.flushIn c.fz e.2
      | none => c.f.sign true
    let (x, fl) := treeSum c.inner (treeDepth n) ((List.range (2 ^ treeDepth n)).map leaf) 0
    c.f.flushOut c.fz ⟨x, fl⟩

/-- `vfredmax` and `vfredmin` (R47, R70). -/
def redExtreme (big : Bool) (s : State) (es : List (Nat × Nat)) (_ : Nat) : Rounded :=
  let c := s.fpCtx
  match es with
  | [] => ⟨c.f.inf big, 0⟩
  | e :: rest =>
    rest.foldl
      (fun acc e =>
        let r := c.f.minmax big acc.bits (c.f.flushIn c.fz e.2)
        ⟨r.bits, acc.flags ||| r.flags⟩)
      (c.first e.2)

/-- A reduction (R137): `row` is fn[4]. Result elements are written whatever their own mask bit. -/
def State.vecRed (s : State) (o : RedOp) (d a : BitVec 5) (m : BitVec 4) (x row : Bool) : Res :=
  let w := s.vw
  let t := s.vt
  let js := s.active m
  let c := s.vcols
  s.vecCheck (o.types t) true [(a, w, js)] fun s =>
    let rs : List (Nat × Rounded) :=
      if row then
        (List.range s.vrows).map fun r =>
          (r, o.run s ((js.filter fun j => j / c == r).map fun j => (j % c, s.eltOf t a j)) c)
      else [(0, o.run s (js.map fun j => (j, s.eltOf t a j)) (s.vrows * c))]
    let tt := if o.ordered then js.length + 3 * max 1 s.cur.sp.gangsz else s.occ x 1 w js + 5 + if row then 0 else s.gangExtra 12
    s.vecFinish (rs.map fun p => rowRaised p.1 p.2.flags)
      { v := [a], vd := [d], m := govern m, t := tt, lam := 4, js := js, fp := o.fp && isWideFp t }
      fun s => s.putCells d w (rs.map fun p => (p.1, 0, p.2.bits))

/-- A reduction word. -/
def redWord (st : Bool) (o : RedOp) (d a : BitVec 5) (m : BitVec 4) (x r : Bool) (s : State) : Out :=
  issue st 4 (vuse [] [a] [d] [m]) (fun s => s.vecRed o d a m x r) s

/-- `vredsum` (R137). -/
def execVredsum (st : Bool) (d a : BitVec 5) (m : BitVec 4) (x r : Bool) (s : State) : Out :=
  redWord st { types := isIntType, run := redFold (fun s p y => (p + y) % 2 ^ s.vw) fun _ => 0 } d a m x r s
/-- `vredmin` (R137). -/
def execVredmin (st : Bool) (d a : BitVec 5) (m : BitVec 4) (x r : Bool) (s : State) : Out :=
  redWord st { types := isIntType, run := redFold (fun s p y => vPickS false s.vw p y) fun s => 2 ^ (s.vw - 1) - 1 } d a m x r s
/-- `vredmax` (R137). -/
def execVredmax (st : Bool) (d a : BitVec 5) (m : BitVec 4) (x r : Bool) (s : State) : Out :=
  redWord st { types := isIntType, run := redFold (fun s p y => vPickS true s.vw p y) fun s => 2 ^ (s.vw - 1) } d a m x r s
/-- `vredminn` (R137). -/
def execVredminn (st : Bool) (d a : BitVec 5) (m : BitVec 4) (x r : Bool) (s : State) : Out :=
  redWord st { types := isIntType, run := redFold (fun _ p y => vPickN false p y) fun s => 2 ^ s.vw - 1 } d a m x r s
/-- `vredmaxn` (R137). -/
def execVredmaxn (st : Bool) (d a : BitVec 5) (m : BitVec 4) (x r : Bool) (s : State) : Out :=
  redWord st { types := isIntType, run := redFold (fun _ p y => vPickN true p y) fun _ => 0 } d a m x r s
/-- `vredand` (R137). -/
def execVredand (st : Bool) (d a : BitVec 5) (m : BitVec 4) (x r : Bool) (s : State) : Out :=
  redWord st { types := isType, run := redFold (fun _ p y => p &&& y) fun s => 2 ^ valueBits s.vt - 1, fp := false } d a m x r s
/-- `vredor` (R137). -/
def execVredor (st : Bool) (d a : BitVec 5) (m : BitVec 4) (x r : Bool) (s : State) : Out :=
  redWord st { types := isType, run := redFold (fun _ p y => p ||| y) fun _ => 0, fp := false } d a m x r s
/-- `vredxor` (R137). -/
def execVredxor (st : Bool) (d a : BitVec 5) (m : BitVec 4) (x r : Bool) (s : State) : Out :=
  redWord st { types := isType, run := redFold (fun _ p y => p ^^^ y) fun _ => 0, fp := false } d a m x r s
/-- `vfredo` (R70, R137). -/
def execVfredo (st : Bool) (d a : BitVec 5) (m : BitVec 4) (x r : Bool) (s : State) : Out :=
  redWord st { types := isWideFp, run := redOrdered, ordered := true } d a m x r s
/-- `vfredt` (R70, R137). -/
def execVfredt (st : Bool) (d a : BitVec 5) (m : BitVec 4) (x r : Bool) (s : State) : Out :=
  redWord st { types := isWideFp, run := redTree } d a m x r s
/-- `vfredmax` (R47, R137). -/
def execVfredmax (st : Bool) (d a : BitVec 5) (m : BitVec 4) (x r : Bool) (s : State) : Out :=
  redWord st { types := isWideFp, run := redExtreme true } d a m x r s
/-- `vfredmin` (R47, R137). -/
def execVfredmin (st : Bool) (d a : BitVec 5) (m : BitVec 4) (x r : Bool) (s : State) : Out :=
  redWord st { types := isWideFp, run := redExtreme false } d a m x r s

/-! ## Online softmax (R138-R141) -/

/-- The context of every internal step (R138): FP32, RNE, SATM 0, no flush. Inputs and written results are not flushed either
(DESIGN CHOICE, log 85). -/
def softCtx : RCtx := ⟨fp32, .rne, false, false⟩
/-- −∞ in FP32. -/
abbrev negInf : Nat := 0xFF800000

/-- A computed value with the flags raised on the way: the internal steps of R139-R141 chain on it. -/
def Rounded.then (x : Rounded) (f : Nat → Rounded) : Rounded :=
  let y := f x.bits
  ⟨y.bits, x.flags ||| y.flags⟩

/-- maxnum (R47). -/
def softMax (x y : Nat) : Rounded := fp32.minmax true x y
/-- round(exp2(round(x − y))). -/
def softExp (x y : Nat) : Rounded :=
  (softCtx.add (fp32.decode x) (fp32.decode y).neg).then fun z => softCtx.finish (fp32.decode z).exp2

/-- What `vsmx` computes for one row (R139). -/
structure SoftRow where
  m : Nat
  l : Nat
  al : Nat
  ps : List Nat
  flags : Nat

/-- `vsmx` on one row: `ts` are the active products by column, `none` where inactive. -/
def softRow (mo lo : Nat) (ts : List (Option Rounded)) : SoftRow :=
  let fl := ts.foldl (fun f t => f ||| (t.map (·.flags)).getD 0) 0
  let mb := ts.foldl (fun acc t => match t with
    | some t => acc.then fun x => softMax x t.bits
    | none => acc) (Rounded.mk negInf 0)
  let mn := mb.then fun x => softMax mo x
  let fl := fl ||| mn.flags
  if mn.bits = negInf then ⟨mn.bits, 0, 0, ts.map fun _ => 0, fl⟩
  else
    let al := if mo = negInf then Rounded.mk 0 0 else softExp mo mn.bits
    let ps := ts.map fun t => match t with
      | some t => softExp t.bits mn.bits
      | none => ⟨0, 0⟩
    let fl := ps.foldl (fun f p => f ||| p.flags) (fl ||| al.flags)
    let n := treeDepth ps.length
    let leaves := ps.map (·.bits) ++ List.replicate (2 ^ n - ps.length) (fp32.sign true)
    let (rs, f2) := treeSum softCtx n leaves 0
    let l := softCtx.fma (fp32.decode al.bits) (fp32.decode lo) (fp32.decode rs)
    ⟨mn.bits, l.bits, al.bits, ps.map (·.bits), fl ||| f2 ||| l.flags⟩

/-- `vsmx` (R139). -/
def execVsmx (st : Bool) (d a b : BitVec 5) (m : BitVec 4) (x : Bool) (s : State) : Out :=
  issue st 4 (vuse [b] [d, a] [d, a] [m])
    (fun s =>
      let js := s.active m
      let c := fp32.decode ((s.rg b).toNat % 2 ^ 32)
      if s.vt ≠ 0x10 then s.raise 0x0C 0
      else
        match s.cellPoison 32 [(d, (List.range s.vrows).flatMap fun r => [(r, 0), (r, 1)]), (a, js.map fun j => (j / s.vcols, j % s.vcols))] with
        | some t => .trap s t
        | none =>
          let rows := (List.range s.vrows).map fun r =>
            (r, softRow (s.cell d 32 r 0) (s.cell d 32 r 1)
              ((List.range s.vcols).map fun k =>
                if js.contains (r * s.vcols + k) then some (softCtx.mul c (fp32.decode (s.cell a 32 r k))) else none))
          s.vecFinish (rows.map fun p => rowRaised p.1 p.2.flags)
            { v := [d, a], vd := [d, a], m := govern m, t := 4 * s.occ x 1 32 js + 6, lam := 12, js := js, fp := true }
            fun s =>
              (s.putCells a 32 (rows.flatMap fun (r, y) => y.ps.zipIdx.map fun (p, k) => (r, k, p))).putCells d 32
                (rows.flatMap fun (r, y) => [(r, 0, y.m), (r, 1, y.l), (r, 2, y.al)])) s

/-- round(a1 × x + a2 × y) with both products exact (R140). -/
def softMix (a1 x a2 y : Nat) : Rounded :=
  let p := (fp32.decode a1).mul (fp32.decode x)
  let q := (fp32.decode a2).mul (fp32.decode y)
  softCtx.finish (sumFV false [p.v, q.v] (p.flags ||| q.flags))

/-- `vsmg` on one row (R140): m, l, α, the output row and the flags. -/
def mergeRow (m1 l1 m2 l2 : Nat) (os : List (Nat × Nat)) : SoftRow :=
  let mn := softMax m1 m2
  if mn.bits = negInf then ⟨negInf, 0, 0, os.map fun _ => 0, mn.flags⟩
  else
    let a1 := if m1 = negInf then Rounded.mk 0 0 else softExp m1 mn.bits
    let a2 := if m2 = negInf then Rounded.mk 0 0 else softExp m2 mn.bits
    let l := softMix a1.bits l1 a2.bits l2
    let o := os.map fun (x, y) => softMix a1.bits x a2.bits y
    ⟨mn.bits, l.bits, a1.bits, o.map (·.bits), o.foldl (fun f p => f ||| p.flags) (mn.flags ||| a1.flags ||| a2.flags ||| l.flags)⟩

/-- The register after `r`: the second of a state pair. -/
def nextReg (r : BitVec 5) : BitVec 5 := r + 1

/-- The cells of a state pair that an instruction reads. -/
def State.pairCells (s : State) (r : BitVec 5) : List (BitVec 5 × List (Nat × Nat)) :=
  [(r, (List.range s.vrows).flatMap fun i => [(i, 0), (i, 1)]),
    (nextReg r, (List.range s.vrows).flatMap fun i => (List.range s.vcols).map fun k => (i, k))]

/-- `vsmg` (R140). -/
def execVsmg (st : Bool) (d a : BitVec 5) (s : State) : Out :=
  issue st 4 (vuse [] [d, nextReg d, a, nextReg a] [d, nextReg d] [])
    (fun s =>
      if s.vt ≠ 0x10 then s.raise 0x0C 0
      else
        match s.cellPoison 32 (s.pairCells d ++ s.pairCells a) with
        | some t => .trap s t
        | none =>
          let rows := (List.range s.vrows).map fun r =>
            (r, mergeRow (s.cell d 32 r 0) (s.cell d 32 r 1) (s.cell a 32 r 0) (s.cell a 32 r 1)
              ((List.range s.vcols).map fun k => (s.cell (nextReg d) 32 r k, s.cell (nextReg a) 32 r k)))
          s.vecFinish (rows.map fun p => rowRaised p.1 p.2.flags)
            { v := [d, nextReg d, a, nextReg a], vd := [d, nextReg d], t := 4 * s.occ false 1 32 [] + 4, lam := 12, js := List.range s.vl, fp := true }
            fun s =>
              (s.putCells d 32 (rows.flatMap fun (r, y) => [(r, 0, y.m), (r, 1, y.l), (r, 2, y.al)])).putCells (nextReg d) 32
                (rows.flatMap fun (r, y) => y.ps.zipIdx.map fun (p, k) => (r, k, p))) s

/-- m + log2(l) rounded once (R141). The truncated logarithm lies within one unit of its last place of the true one, which its
mark says is farther from zero. -/
def softLog (m l : Nat) : Rounded :=
  let a := fp32.decode m
  let g := (fp32.decode l).log2
  match a, g.v with
  | .fin n x e, .fin k y f =>
    if g.sticky then
      let u : Int := min e f
      let lo := scaled n x e u + scaled k y f u - (if k then 1 else 0)
      softCtx.finish (if 0 ≤ lo then ⟨.fin false lo.toNat u, true, g.flags⟩ else ⟨.fin true (-(lo + 1)).toNat u, true, g.flags⟩)
    else softCtx.finish (sumFV false [a, g.v] g.flags)
  | _, _ => softCtx.finish (sumFV false [a, g.v] g.flags)

/-- `vsmf` on one row (R141): the output row, the log-sum, the flags, and whether the row is empty. -/
def finishRow (m l : Nat) (os : List Nat) : SoftRow × Bool :=
  if m = negInf then (⟨0, negInf, 0, os.map fun _ => 0, 0⟩, true)
  else
    let o := os.map fun x => softCtx.finish ((fp32.decode x).div (fp32.decode l))
    let g := softLog m l
    (⟨0, g.bits, 0, o.map (·.bits), o.foldl (fun f p => f ||| p.flags) g.flags⟩, false)

/-- `vsmf` (R141). An all-masked row sets its bit of XM when XSEL selects EMPTYROW. -/
def execVsmf (st : Bool) (d a : BitVec 5) (s : State) : Out :=
  issue st 4 (vuse [] [a, nextReg a] [d, a] [])
    (fun s =>
      if s.vt ≠ 0x10 then s.raise 0x0C 0
      else
        match s.cellPoison 32 (s.pairCells a) with
        | some t => .trap s t
        | none =>
          let rows := (List.range s.vrows).map fun r =>
            (r, finishRow (s.cell a 32 r 0) (s.cell a 32 r 1) ((List.range s.vcols).map fun k => s.cell (nextReg a) 32 r k))
          s.vecFinish (rows.map fun p => rowRaised p.1 p.2.1.flags)
            { v := [a, nextReg a], vd := [d, a], t := 4 * s.occ false 1 32 [] + 4, lam := 12, js := List.range s.vl, fp := true }
            fun s =>
              let s := (s.putCells d 32 (rows.flatMap fun (r, y, _) => y.ps.zipIdx.map fun (p, k) => (r, k, p))).putCells a 32
                (rows.map fun (r, y, _) => (r, 3, y.l))
              if s.cur.sp.xsel.extractLsb' 0 4 = 7 then
                s.captureXm ((rows.filter fun p => p.2.2).map fun p => (p.1 / 32, p.1 % 32))
              else s) s

end Sys2Proof.Machine
end

