-- ==== Sys2Proof/Machine/Dispatch.lean ====
section
/-! DEFINITION. The dispatch of every constructor of `Instr` to its meaning. -/

namespace Sys2Proof.Machine

/-- The meaning of every step of the opcode table. -/
def exec (i : Instr) (s : State) : Host.Outcome State Fault Refusal :=
  match i with
  | .deviceReset => Sys2Proof.Machine.execDeviceReset s
  | .powerUp images t => Sys2Proof.Machine.execPowerUp images t s
  | .shockEvent milliG => Sys2Proof.Machine.execShockEvent milliG s
  | .pendingResultReturn core ix => Sys2Proof.Machine.execPendingResultReturn core ix s
  | .ldqReply ix => Sys2Proof.Machine.execLdqReply ix s
  | .tokenSignalArrival ix => Sys2Proof.Machine.execTokenSignalArrival ix s
  | .tokenFailArrival ix => Sys2Proof.Machine.execTokenFailArrival ix s
  | .depositArrival ix => Sys2Proof.Machine.execDepositArrival ix s
  | .resumeDecision core => Sys2Proof.Machine.execResumeDecision core s
  | .preemptRequest core strand => Sys2Proof.Machine.execPreemptRequest core strand s
  | .suspendedImageMove core strand => Sys2Proof.Machine.execSuspendedImageMove core strand s
  | .cleanRowCopy core strand => Sys2Proof.Machine.execCleanRowCopy core strand s
  | .preemptLift core strand => Sys2Proof.Machine.execPreemptLift core strand s
  | .trapDelivery core => Sys2Proof.Machine.execTrapDelivery core s
  | .trapSlotFreed core => Sys2Proof.Machine.execTrapSlotFreed core s
  | .imageUncorrectable core strand => Sys2Proof.Machine.execImageUncorrectable core strand s
  | .cellUncorrectable core cell => Sys2Proof.Machine.execCellUncorrectable core cell s
  | .parkTimeout core => Sys2Proof.Machine.execParkTimeout core s
  | .fimetUnpark core => Sys2Proof.Machine.execFimetUnpark core s
  | .vectorExecute core => Sys2Proof.Machine.execVectorExecute core s
  | .debugStopTakesEffect core => Sys2Proof.Machine.execDebugStopTakesEffect core s
  | .streamFillArrival core strand reg => Sys2Proof.Machine.execStreamFillArrival core strand reg s
  | .streamDrainComplete core ix => Sys2Proof.Machine.execStreamDrainComplete core ix s
  | .matrixCommandExecute core => Sys2Proof.Machine.execMatrixCommandExecute core s
  | .remoteMatrixCommand ix => Sys2Proof.Machine.execRemoteMatrixCommand ix s
  | .feBankAnswer core => Sys2Proof.Machine.execFeBankAnswer core s
  | .waiterWake ix => Sys2Proof.Machine.execWaiterWake ix s
  | .waiterTableTimeout core strand => Sys2Proof.Machine.execWaiterTableTimeout core strand s
  | .waitLimitExpiry core strand => Sys2Proof.Machine.execWaitLimitExpiry core strand s
  | .bankModeChange cluster => Sys2Proof.Machine.execBankModeChange cluster s
  | .barrierArrival ix => Sys2Proof.Machine.execBarrierArrival ix s
  | .gondolaCopyComplete cluster ix => Sys2Proof.Machine.execGondolaCopyComplete cluster ix s
  | .barrierCellError level unit cell => Sys2Proof.Machine.execBarrierCellError level unit cell s
  | .gondolaEngineFailure cluster engine => Sys2Proof.Machine.execGondolaEngineFailure cluster engine s
  | .coreFailure core => Sys2Proof.Machine.execCoreFailure core s
  | .slotTableSwap die => Sys2Proof.Machine.execSlotTableSwap die s
  | .messagePacketArrival id total offset payload last => Sys2Proof.Machine.execMessagePacketArrival id total offset payload last s
  | .memoryRequest ix => Sys2Proof.Machine.execMemoryRequest ix s
  | .responseArrival ix => Sys2Proof.Machine.execResponseArrival ix s
  | .reduceAddArrival ix => Sys2Proof.Machine.execReduceAddArrival ix s
  | .l2BankFailure die bank lost => Sys2Proof.Machine.execL2BankFailure die bank lost s
  | .rowActivateHint ix => Sys2Proof.Machine.execRowActivateHint ix s
  | .patrolScrub line e => Sys2Proof.Machine.execPatrolScrub line e s
  | .linkRetrainStart link => Sys2Proof.Machine.execLinkRetrainStart link s
  | .linkRetrainComplete link => Sys2Proof.Machine.execLinkRetrainComplete link s
  | .linkDownTimeout link => Sys2Proof.Machine.execLinkDownTimeout link s
  | .moraineRequest die => Sys2Proof.Machine.execMoraineRequest die s
  | .moraineMovementComplete die ix => Sys2Proof.Machine.execMoraineMovementComplete die ix s
  | .moraineMetadataError die slot => Sys2Proof.Machine.execMoraineMetadataError die slot s
  | .faultBatchWrite => Sys2Proof.Machine.execFaultBatchWrite s
  | .engineFaultReport ix => Sys2Proof.Machine.execEngineFaultReport ix s
  | .migrationStart => Sys2Proof.Machine.execMigrationStart s
  | .migrationCopyStep ix => Sys2Proof.Machine.execMigrationCopyStep ix s
  | .migrationFinish ix => Sys2Proof.Machine.execMigrationFinish ix s
  | .dumpStart => Sys2Proof.Machine.execDumpStart s
  | .dumpPageCopy => Sys2Proof.Machine.execDumpPageCopy s
  | .dumpComplete => Sys2Proof.Machine.execDumpComplete s
  | .launchPortWrite q off size data => Sys2Proof.Machine.execLaunchPortWrite q off size data s
  | .launchAdmission => Sys2Proof.Machine.execLaunchAdmission s
  | .dependencyReport launch k => Sys2Proof.Machine.execDependencyReport launch k s
  | .launchPlacement launch cores perCore => Sys2Proof.Machine.execLaunchPlacement launch cores perCore s
  | .itemStart launch => Sys2Proof.Machine.execItemStart launch s
  | .launchFinish launch => Sys2Proof.Machine.execLaunchFinish launch s
  | .cancelComplete launch => Sys2Proof.Machine.execCancelComplete launch s
  | .couloirPublicationDelivery ix => Sys2Proof.Machine.execCouloirPublicationDelivery ix s
  | .podRemoteAccess a => Sys2Proof.Machine.execPodRemoteAccess a s
  | .pathDownTimeout node => Sys2Proof.Machine.execPathDownTimeout node s
  | .remoteControlMessage m => Sys2Proof.Machine.execRemoteControlMessage m s
  | .netDoorbellAcquire qp => Sys2Proof.Machine.execNetDoorbellAcquire qp s
  | .netPacketArrival qp p => Sys2Proof.Machine.execNetPacketArrival qp p s
  | .netRetransmitTimeout qp => Sys2Proof.Machine.execNetRetransmitTimeout qp s
  | .placementRequest r => Sys2Proof.Machine.execPlacementRequest r s
  | .placementUpdate u => Sys2Proof.Machine.execPlacementUpdate u s
  | .supplyDroop => Sys2Proof.Machine.execSupplyDroop s
  | .stretchRecovery => Sys2Proof.Machine.execStretchRecovery s
  | .rideEntry => Sys2Proof.Machine.execRideEntry s
  | .rideRecovery => Sys2Proof.Machine.execRideRecovery s
  | .quiesceEntry => Sys2Proof.Machine.execQuiesceEntry s
  | .quiesceComplete => Sys2Proof.Machine.execQuiesceComplete s
  | .heldRestart => Sys2Proof.Machine.execHeldRestart s
  | .thermalRide => Sys2Proof.Machine.execThermalRide s
  | .thermalReturn => Sys2Proof.Machine.execThermalReturn s
  | .thermalQuiesce => Sys2Proof.Machine.execThermalQuiesce s
  | .profileSwitch => Sys2Proof.Machine.execProfileSwitch s
  | .hostMemoryAccess write off len data => Sys2Proof.Machine.execHostMemoryAccess write off len data s
  | .attest addr nonce => Sys2Proof.Machine.execAttest addr nonce s
  | .extentadd off size => Sys2Proof.Machine.execExtentadd off size s
  | .extentrel off => Sys2Proof.Machine.execExtentrel off s
  | .setvec vec addr data => Sys2Proof.Machine.execSetvec vec addr data s
  | .mbxProfile sel => Sys2Proof.Machine.execMbxProfile sel s
  | .debugstop core stop => Sys2Proof.Machine.execDebugstop core stop s
  | .selftest t => Sys2Proof.Machine.execSelftest t s
  | .wrsVtype st a => Sys2Proof.Machine.execWrsVtype st a s
  | .wrsVbank st a => Sys2Proof.Machine.execWrsVbank st a s
  | .wrsCclimit st a => Sys2Proof.Machine.execWrsCclimit st a s
  | .wrsSlotpol st a => Sys2Proof.Machine.execWrsSlotpol st a s
  | .wrsRedcfg st a => Sys2Proof.Machine.execWrsRedcfg st a s
  | .wrsProfile st a => Sys2Proof.Machine.execWrsProfile st a s
  | .wrsAcctctl st a => Sys2Proof.Machine.execWrsAcctctl st a s
  | .wrsTrptr st a => Sys2Proof.Machine.execWrsTrptr st a s
  | .wrsLcancel st a => Sys2Proof.Machine.execWrsLcancel st a s
  | .wrsMigdoor st a => Sys2Proof.Machine.execWrsMigdoor st a s
  | .wrsDumpdoor st a => Sys2Proof.Machine.execWrsDumpdoor st a s
  | .wrsNetreload st a => Sys2Proof.Machine.execWrsNetreload st a s
  | .illegal st => Sys2Proof.Machine.execIllegal st s
  | .trap st a => Sys2Proof.Machine.execTrap st a s
  | .rett st a => Sys2Proof.Machine.execRett st a s
  | .synci st => Sys2Proof.Machine.execSynci st s
  | .mapfence st => Sys2Proof.Machine.execMapfence st s
  | .tlbinv st a b => Sys2Proof.Machine.execTlbinv st a b s
  | .uefix st a => Sys2Proof.Machine.execUefix st a s
  | .mxsave st a => Sys2Proof.Machine.execMxsave st a s
  | .mxrst st a => Sys2Proof.Machine.execMxrst st a s
  | .park st a => Sys2Proof.Machine.execPark st a s
  | .rds st d x => Sys2Proof.Machine.execRds st d x s
  | .wrs st a x => Sys2Proof.Machine.execWrs st a x s
  | .add st d a b k n => Sys2Proof.Machine.execAdd st d a b k n s
  | .sub st d a b k n => Sys2Proof.Machine.execSub st d a b k n s
  | .and st d a b k n => Sys2Proof.Machine.execAnd st d a b k n s
  | .or st d a b k n => Sys2Proof.Machine.execOr st d a b k n s
  | .xor st d a b k n => Sys2Proof.Machine.execXor st d a b k n s
  | .andn st d a b k n => Sys2Proof.Machine.execAndn st d a b k n s
  | .orn st d a b k n => Sys2Proof.Machine.execOrn st d a b k n s
  | .shl st d a b k n => Sys2Proof.Machine.execShl st d a b k n s
  | .shr st d a b k n => Sys2Proof.Machine.execShr st d a b k n s
  | .sra st d a b k n => Sys2Proof.Machine.execSra st d a b k n s
  | .rot st d a b k n => Sys2Proof.Machine.execRot st d a b k n s
  | .min st d a b k n => Sys2Proof.Machine.execMin st d a b k n s
  | .max st d a b k n => Sys2Proof.Machine.execMax st d a b k n s
  | .minn st d a b k n => Sys2Proof.Machine.execMinn st d a b k n s
  | .maxn st d a b k n => Sys2Proof.Machine.execMaxn st d a b k n s
  | .mul st d a b k n => Sys2Proof.Machine.execMul st d a b k n s
  | .mulh st d a b k n => Sys2Proof.Machine.execMulh st d a b k n s
  | .mulhn st d a b k n => Sys2Proof.Machine.execMulhn st d a b k n s
  | .div st d a b k n => Sys2Proof.Machine.execDiv st d a b k n s
  | .divn st d a b k n => Sys2Proof.Machine.execDivn st d a b k n s
  | .rem st d a b k n => Sys2Proof.Machine.execRem st d a b k n s
  | .remn st d a b k n => Sys2Proof.Machine.execRemn st d a b k n s
  | .clz st d a k n => Sys2Proof.Machine.execClz st d a k n s
  | .ctz st d a k n => Sys2Proof.Machine.execCtz st d a k n s
  | .popc st d a k n => Sys2Proof.Machine.execPopc st d a k n s
  | .sext st d a b k n => Sys2Proof.Machine.execSext st d a b k n s
  | .zext st d a b k n => Sys2Proof.Machine.execZext st d a b k n s
  | .sel st d a b k n => Sys2Proof.Machine.execSel st d a b k n s
  | .addi st d a ix => Sys2Proof.Machine.execAddi st d a ix s
  | .andi st d a ix => Sys2Proof.Machine.execAndi st d a ix s
  | .ori st d a ix => Sys2Proof.Machine.execOri st d a ix s
  | .xori st d a ix => Sys2Proof.Machine.execXori st d a ix s
  | .shli st d a h => Sys2Proof.Machine.execShli st d a h s
  | .shri st d a h => Sys2Proof.Machine.execShri st d a h s
  | .srai st d a h => Sys2Proof.Machine.execSrai st d a h s
  | .roti st d a h => Sys2Proof.Machine.execRoti st d a h s
  | .li st d ix => Sys2Proof.Machine.execLi st d ix s
  | .lsh st d ix => Sys2Proof.Machine.execLsh st d ix s
  | .addpc st d ix => Sys2Proof.Machine.execAddpc st d ix s
  | .seteq st d a b k n => Sys2Proof.Machine.execSeteq st d a b k n s
  | .setne st d a b k n => Sys2Proof.Machine.execSetne st d a b k n s
  | .setlt st d a b k n => Sys2Proof.Machine.execSetlt st d a b k n s
  | .setge st d a b k n => Sys2Proof.Machine.execSetge st d a b k n s
  | .setltn st d a b k n => Sys2Proof.Machine.execSetltn st d a b k n s
  | .setgen st d a b k n => Sys2Proof.Machine.execSetgen st d a b k n s
  | .seteqi st d a ix => Sys2Proof.Machine.execSeteqi st d a ix s
  | .setnei st d a ix => Sys2Proof.Machine.execSetnei st d a ix s
  | .setlti st d a ix => Sys2Proof.Machine.execSetlti st d a ix s
  | .setgei st d a ix => Sys2Proof.Machine.execSetgei st d a ix s
  | .setltni st d a ix => Sys2Proof.Machine.execSetltni st d a ix s
  | .setgeni st d a ix => Sys2Proof.Machine.execSetgeni st d a ix s
  | .bfx st d a p w => Sys2Proof.Machine.execBfx st d a p w s
  | .bfi st d a p w => Sys2Proof.Machine.execBfi st d a p w s
  | .adda st d a b k n => Sys2Proof.Machine.execAdda st d a b k n s
  | .tagset st d a b k n => Sys2Proof.Machine.execTagset st d a b k n s
  | .tagget st d a k n => Sys2Proof.Machine.execTagget st d a k n s
  | .pdiff st d a b k n => Sys2Proof.Machine.execPdiff st d a b k n s
  | .beqz st a o => Sys2Proof.Machine.execBeqz st a o s
  | .bnez st a o => Sys2Proof.Machine.execBnez st a o s
  | .bltz st a o => Sys2Proof.Machine.execBltz st a o s
  | .bgez st a o => Sys2Proof.Machine.execBgez st a o s
  | .blez st a o => Sys2Proof.Machine.execBlez st a o s
  | .bgtz st a o => Sys2Proof.Machine.execBgtz st a o s
  | .beq st a b o => Sys2Proof.Machine.execBeq st a b o s
  | .bne st a b o => Sys2Proof.Machine.execBne st a b o s
  | .blt st a b o => Sys2Proof.Machine.execBlt st a b o s
  | .bge st a b o => Sys2Proof.Machine.execBge st a b o s
  | .bltn st a b o => Sys2Proof.Machine.execBltn st a b o s
  | .bgen st a b o => Sys2Proof.Machine.execBgen st a b o s
  | .jal st o => Sys2Proof.Machine.execJal st o s
  | .j st o => Sys2Proof.Machine.execJ st o s
  | .jr st a => Sys2Proof.Machine.execJr st a s
  | .jalr st d a => Sys2Proof.Machine.execJalr st d a s
  | .dbnz st d o => Sys2Proof.Machine.execDbnz st d o s
  | .ldp st d w o => Sys2Proof.Machine.execLdp st d w o s
  | .ldI8 st d a o => Sys2Proof.Machine.execLdI8 st d a o s
  | .ldN8 st d a o => Sys2Proof.Machine.execLdN8 st d a o s
  | .ldI16 st d a o => Sys2Proof.Machine.execLdI16 st d a o s
  | .ldN16 st d a o => Sys2Proof.Machine.execLdN16 st d a o s
  | .ldI32 st d a o => Sys2Proof.Machine.execLdI32 st d a o s
  | .ldN32 st d a o => Sys2Proof.Machine.execLdN32 st d a o s
  | .ldI64 st d a o => Sys2Proof.Machine.execLdI64 st d a o s
  | .st8 st d a o => Sys2Proof.Machine.execSt8 st d a o s
  | .st16 st d a o => Sys2Proof.Machine.execSt16 st d a o s
  | .st32 st d a o => Sys2Proof.Machine.execSt32 st d a o s
  | .st64 st d a o => Sys2Proof.Machine.execSt64 st d a o s
  | .ldq st d a b => Sys2Proof.Machine.execLdq st d a b s
  | .stq st d a b => Sys2Proof.Machine.execStq st d a b s
  | .amoadd st d a b p o => Sys2Proof.Machine.execAmoadd st d a b p o s
  | .amoand st d a b p o => Sys2Proof.Machine.execAmoand st d a b p o s
  | .amoor st d a b p o => Sys2Proof.Machine.execAmoor st d a b p o s
  | .amoxor st d a b p o => Sys2Proof.Machine.execAmoxor st d a b p o s
  | .amomin st d a b p o => Sys2Proof.Machine.execAmomin st d a b p o s
  | .amomax st d a b p o => Sys2Proof.Machine.execAmomax st d a b p o s
  | .amominn st d a b p o => Sys2Proof.Machine.execAmominn st d a b p o s
  | .amomaxn st d a b p o => Sys2Proof.Machine.execAmomaxn st d a b p o s
  | .amoswap st d a b p o => Sys2Proof.Machine.execAmoswap st d a b p o s
  | .amofadd32 st d a b p o => Sys2Proof.Machine.execAmofadd32 st d a b p o s
  | .amofmax32 st d a b p o => Sys2Proof.Machine.execAmofmax32 st d a b p o s
  | .cas st d a b p o => Sys2Proof.Machine.execCas st d a b p o s
  | .ldfe st d a => Sys2Proof.Machine.execLdfe st d a s
  | .stfe st d a => Sys2Proof.Machine.execStfe st d a s
  | .feinit st a b => Sys2Proof.Machine.execFeinit st a b s
  | .fefill st d a => Sys2Proof.Machine.execFefill st d a s
  | .feq st d a => Sys2Proof.Machine.execFeq st d a s
  | .fence st c k => Sys2Proof.Machine.execFence st c k s
  | .pin st d a => Sys2Proof.Machine.execPin st d a s
  | .unpin st d a => Sys2Proof.Machine.execUnpin st d a s
  | .cflush st a b => Sys2Proof.Machine.execCflush st a b s
  | .cinv st a b => Sys2Proof.Machine.execCinv st a b s
  | .pref st a b => Sys2Proof.Machine.execPref st a b s
  | .bankcfg st d a b => Sys2Proof.Machine.execBankcfg st d a b s
  | .setl st d a b => Sys2Proof.Machine.execSetl st d a b s
  | .strip st d a e f g h n => Sys2Proof.Machine.execStrip st d a e f g h n s
  | .vld st d a b m x c => Sys2Proof.Machine.execVld st d a b m x c s
  | .vlds st d a b m x c => Sys2Proof.Machine.execVlds st d a b m x c s
  | .vldx st d a b m x c => Sys2Proof.Machine.execVldx st d a b m x c s
  | .vldff st d a b m x c => Sys2Proof.Machine.execVldff st d a b m x c s
  | .vst st d a b m x c => Sys2Proof.Machine.execVst st d a b m x c s
  | .vsts st d a b m x c => Sys2Proof.Machine.execVsts st d a b m x c s
  | .vstx st d a b m x c => Sys2Proof.Machine.execVstx st d a b m x c s
  | .vstra st d a b m x c => Sys2Proof.Machine.execVstra st d a b m x c s
  | .vadd st d a b m x => Sys2Proof.Machine.execVadd st d a b m x s
  | .vsub st d a b m x => Sys2Proof.Machine.execVsub st d a b m x s
  | .vmul st d a b m x => Sys2Proof.Machine.execVmul st d a b m x s
  | .vmulh st d a b m x => Sys2Proof.Machine.execVmulh st d a b m x s
  | .vmulhn st d a b m x => Sys2Proof.Machine.execVmulhn st d a b m x s
  | .vmin st d a b m x => Sys2Proof.Machine.execVmin st d a b m x s
  | .vmax st d a b m x => Sys2Proof.Machine.execVmax st d a b m x s
  | .vminn st d a b m x => Sys2Proof.Machine.execVminn st d a b m x s
  | .vmaxn st d a b m x => Sys2Proof.Machine.execVmaxn st d a b m x s
  | .vand st d a b m x => Sys2Proof.Machine.execVand st d a b m x s
  | .vor st d a b m x => Sys2Proof.Machine.execVor st d a b m x s
  | .vxor st d a b m x => Sys2Proof.Machine.execVxor st d a b m x s
  | .vshl st d a b m x => Sys2Proof.Machine.execVshl st d a b m x s
  | .vshr st d a b m x => Sys2Proof.Machine.execVshr st d a b m x s
  | .vsra st d a b m x => Sys2Proof.Machine.execVsra st d a b m x s
  | .vrshr st d a b m x => Sys2Proof.Machine.execVrshr st d a b m x s
  | .vrnshr st d a b m x => Sys2Proof.Machine.execVrnshr st d a b m x s
  | .vadds st d a b m x => Sys2Proof.Machine.execVadds st d a b m x s
  | .vsubs st d a b m x => Sys2Proof.Machine.execVsubs st d a b m x s
  | .vmac st d a b m x => Sys2Proof.Machine.execVmac st d a b m x s
  | .vdot2 st d a b m x => Sys2Proof.Machine.execVdot2 st d a b m x s
  | .vdot4 st d a b m x => Sys2Proof.Machine.execVdot4 st d a b m x s
  | .vabs st d a m x => Sys2Proof.Machine.execVabs st d a m x s
  | .vavg st d a b m x => Sys2Proof.Machine.execVavg st d a b m x s
  | .vwmul st d a b m x => Sys2Proof.Machine.execVwmul st d a b m x s
  | .vwadd st d a b m x => Sys2Proof.Machine.execVwadd st d a b m x s
  | .vaddG st d a b m x => Sys2Proof.Machine.execVaddG st d a b m x s
  | .vsubG st d a b m x => Sys2Proof.Machine.execVsubG st d a b m x s
  | .vmulG st d a b m x => Sys2Proof.Machine.execVmulG st d a b m x s
  | .vmulhG st d a b m x => Sys2Proof.Machine.execVmulhG st d a b m x s
  | .vmulhnG st d a b m x => Sys2Proof.Machine.execVmulhnG st d a b m x s
  | .vminG st d a b m x => Sys2Proof.Machine.execVminG st d a b m x s
  | .vmaxG st d a b m x => Sys2Proof.Machine.execVmaxG st d a b m x s
  | .vminnG st d a b m x => Sys2Proof.Machine.execVminnG st d a b m x s
  | .vmaxnG st d a b m x => Sys2Proof.Machine.execVmaxnG st d a b m x s
  | .vandG st d a b m x => Sys2Proof.Machine.execVandG st d a b m x s
  | .vorG st d a b m x => Sys2Proof.Machine.execVorG st d a b m x s
  | .vxorG st d a b m x => Sys2Proof.Machine.execVxorG st d a b m x s
  | .vshlG st d a b m x => Sys2Proof.Machine.execVshlG st d a b m x s
  | .vshrG st d a b m x => Sys2Proof.Machine.execVshrG st d a b m x s
  | .vsraG st d a b m x => Sys2Proof.Machine.execVsraG st d a b m x s
  | .vrshrG st d a b m x => Sys2Proof.Machine.execVrshrG st d a b m x s
  | .vrnshrG st d a b m x => Sys2Proof.Machine.execVrnshrG st d a b m x s
  | .vaddsG st d a b m x => Sys2Proof.Machine.execVaddsG st d a b m x s
  | .vsubsG st d a b m x => Sys2Proof.Machine.execVsubsG st d a b m x s
  | .vmacG st d a b m x => Sys2Proof.Machine.execVmacG st d a b m x s
  | .vdot2G st d a b m x => Sys2Proof.Machine.execVdot2G st d a b m x s
  | .vdot4G st d a b m x => Sys2Proof.Machine.execVdot4G st d a b m x s
  | .vavgG st d a b m x => Sys2Proof.Machine.execVavgG st d a b m x s
  | .vwmulG st d a b m x => Sys2Proof.Machine.execVwmulG st d a b m x s
  | .vwaddG st d a b m x => Sys2Proof.Machine.execVwaddG st d a b m x s
  | .vfadd st d a b m x => Sys2Proof.Machine.execVfadd st d a b m x s
  | .vfsub st d a b m x => Sys2Proof.Machine.execVfsub st d a b m x s
  | .vfmul st d a b m x => Sys2Proof.Machine.execVfmul st d a b m x s
  | .vfma st d a b m x => Sys2Proof.Machine.execVfma st d a b m x s
  | .vfms st d a b m x => Sys2Proof.Machine.execVfms st d a b m x s
  | .vfdiv st d a b m x => Sys2Proof.Machine.execVfdiv st d a b m x s
  | .vfsqrt st d a m x => Sys2Proof.Machine.execVfsqrt st d a m x s
  | .vfmin st d a b m x => Sys2Proof.Machine.execVfmin st d a b m x s
  | .vfmax st d a b m x => Sys2Proof.Machine.execVfmax st d a b m x s
  | .vfabs st d a m x => Sys2Proof.Machine.execVfabs st d a m x s
  | .vfneg st d a m x => Sys2Proof.Machine.execVfneg st d a m x s
  | .vfexp2 st d a m x => Sys2Proof.Machine.execVfexp2 st d a m x s
  | .vflog2 st d a m x => Sys2Proof.Machine.execVflog2 st d a m x s
  | .vfrcp st d a m x => Sys2Proof.Machine.execVfrcp st d a m x s
  | .vfrsq st d a m x => Sys2Proof.Machine.execVfrsq st d a m x s
  | .vfclass st d a m x => Sys2Proof.Machine.execVfclass st d a m x s
  | .vfsgnj st d a b m x => Sys2Proof.Machine.execVfsgnj st d a b m x s
  | .vfaddG st d a b m x => Sys2Proof.Machine.execVfaddG st d a b m x s
  | .vfsubG st d a b m x => Sys2Proof.Machine.execVfsubG st d a b m x s
  | .vfmulG st d a b m x => Sys2Proof.Machine.execVfmulG st d a b m x s
  | .vfmaG st d a b m x => Sys2Proof.Machine.execVfmaG st d a b m x s
  | .vfmsG st d a b m x => Sys2Proof.Machine.execVfmsG st d a b m x s
  | .vfdivG st d a b m x => Sys2Proof.Machine.execVfdivG st d a b m x s
  | .vfminG st d a b m x => Sys2Proof.Machine.execVfminG st d a b m x s
  | .vfmaxG st d a b m x => Sys2Proof.Machine.execVfmaxG st d a b m x s
  | .vfsgnjG st d a b m x => Sys2Proof.Machine.execVfsgnjG st d a b m x s
  | .vcmpeq st d a b m x g => Sys2Proof.Machine.execVcmpeq st d a b m x g s
  | .vcmpne st d a b m x g => Sys2Proof.Machine.execVcmpne st d a b m x g s
  | .vcmplt st d a b m x g => Sys2Proof.Machine.execVcmplt st d a b m x g s
  | .vcmpge st d a b m x g => Sys2Proof.Machine.execVcmpge st d a b m x g s
  | .vcmpltn st d a b m x g => Sys2Proof.Machine.execVcmpltn st d a b m x g s
  | .vcmpgen st d a b m x g => Sys2Proof.Machine.execVcmpgen st d a b m x g s
  | .vcmpfeq st d a b m x g => Sys2Proof.Machine.execVcmpfeq st d a b m x g s
  | .vcmpfne st d a b m x g => Sys2Proof.Machine.execVcmpfne st d a b m x g s
  | .vcmpflt st d a b m x g => Sys2Proof.Machine.execVcmpflt st d a b m x g s
  | .vcmpfge st d a b m x g => Sys2Proof.Machine.execVcmpfge st d a b m x g s
  | .vcmpfun st d a b m x g => Sys2Proof.Machine.execVcmpfun st d a b m x g s
  | .vcvt st d a t m x r u c => Sys2Proof.Machine.execVcvt st d a t m x r u c s
  | .vmv st d a m x => Sys2Proof.Machine.execVmv st d a m x s
  | .vbrd st d b m x => Sys2Proof.Machine.execVbrd st d b m x s
  | .vext st d a b => Sys2Proof.Machine.execVext st d a b s
  | .vins st d a b => Sys2Proof.Machine.execVins st d a b s
  | .vmrg st d a b m x => Sys2Proof.Machine.execVmrg st d a b m x s
  | .viota st d m x => Sys2Proof.Machine.execViota st d m x s
  | .vrowb st d a b m x => Sys2Proof.Machine.execVrowb st d a b m x s
  | .vcolb st d a b m x => Sys2Proof.Machine.execVcolb st d a b m x s
  | .vslup st d a b m x => Sys2Proof.Machine.execVslup st d a b m x s
  | .vsldn st d a b m x => Sys2Proof.Machine.execVsldn st d a b m x s
  | .vsl1up st d a b m x => Sys2Proof.Machine.execVsl1up st d a b m x s
  | .vsl1dn st d a b m x => Sys2Proof.Machine.execVsl1dn st d a b m x s
  | .vgath st d a b m x => Sys2Proof.Machine.execVgath st d a b m x s
  | .vtrn st d a m => Sys2Proof.Machine.execVtrn st d a m s
  | .vcprs st d a m x => Sys2Proof.Machine.execVcprs st d a m x s
  | .vexpd st d a m x => Sys2Proof.Machine.execVexpd st d a m x s
  | .vgxch st d a b m => Sys2Proof.Machine.execVgxch st d a b m s
  | .vredsum st d a m x r => Sys2Proof.Machine.execVredsum st d a m x r s
  | .vredmin st d a m x r => Sys2Proof.Machine.execVredmin st d a m x r s
  | .vredmax st d a m x r => Sys2Proof.Machine.execVredmax st d a m x r s
  | .vredminn st d a m x r => Sys2Proof.Machine.execVredminn st d a m x r s
  | .vredmaxn st d a m x r => Sys2Proof.Machine.execVredmaxn st d a m x r s
  | .vredand st d a m x r => Sys2Proof.Machine.execVredand st d a m x r s
  | .vredor st d a m x r => Sys2Proof.Machine.execVredor st d a m x r s
  | .vredxor st d a m x r => Sys2Proof.Machine.execVredxor st d a m x r s
  | .vfredo st d a m x r => Sys2Proof.Machine.execVfredo st d a m x r s
  | .vfredt st d a m x r => Sys2Proof.Machine.execVfredt st d a m x r s
  | .vfredmax st d a m x r => Sys2Proof.Machine.execVfredmax st d a m x r s
  | .vfredmin st d a m x r => Sys2Proof.Machine.execVfredmin st d a m x r s
  | .vsmx st d a b m x => Sys2Proof.Machine.execVsmx st d a b m x s
  | .vsmg st d a => Sys2Proof.Machine.execVsmg st d a s
  | .vsmf st d a => Sys2Proof.Machine.execVsmf st d a s
  | .mand st d a b => Sys2Proof.Machine.execMand st d a b s
  | .mor st d a b => Sys2Proof.Machine.execMor st d a b s
  | .mxor st d a b => Sys2Proof.Machine.execMxor st d a b s
  | .mandn st d a b => Sys2Proof.Machine.execMandn st d a b s
  | .mpop st d a => Sys2Proof.Machine.execMpop st d a s
  | .mfirst st d a => Sys2Proof.Machine.execMfirst st d a s
  | .mupto st d a => Sys2Proof.Machine.execMupto st d a s
  | .mbefore st d a => Sys2Proof.Machine.execMbefore st d a s
  | .mscan st d a => Sys2Proof.Machine.execMscan st d a s
  | .mmov st d a => Sys2Proof.Machine.execMmov st d a s
  | .mld st d a => Sys2Proof.Machine.execMld st d a s
  | .mst st d a => Sys2Proof.Machine.execMst st d a s
  | .msetl st d a => Sys2Proof.Machine.execMsetl st d a s
  | .cld st d a => Sys2Proof.Machine.execCld st d a s
  | .cst st d a => Sys2Proof.Machine.execCst st d a s
  | .cset st d a b => Sys2Proof.Machine.execCset st d a b s
  | .cmov st d a => Sys2Proof.Machine.execCmov st d a s
  | .mring st d a => Sys2Proof.Machine.execMring st d a s
  | .mrcommit st d a => Sys2Proof.Machine.execMrcommit st d a s
  | .mma st d a => Sys2Proof.Machine.execMma st d a s
  | .mmas st d a b => Sys2Proof.Machine.execMmas st d a b s
  | .mzero st d => Sys2Proof.Machine.execMzero st d s
  | .mrd st d a b => Sys2Proof.Machine.execMrd st d a b s
  | .mwr st d a b => Sys2Proof.Machine.execMwr st d a b s
  | .mbeg st d => Sys2Proof.Machine.execMbeg st d s
  | .mend st => Sys2Proof.Machine.execMend st s
  | .mrpop st d a => Sys2Proof.Machine.execMrpop st d a s
  | .mrq st d a => Sys2Proof.Machine.execMrq st d a s
  | .toka st d a => Sys2Proof.Machine.execToka st d a s
  | .tokf st a => Sys2Proof.Machine.execTokf st a s
  | .toks st a => Sys2Proof.Machine.execToks st a s
  | .tokt st d a => Sys2Proof.Machine.execTokt st d a s
  | .tokr st d a b => Sys2Proof.Machine.execTokr st d a b s
  | .toke st a b => Sys2Proof.Machine.execToke st a b s
  | .await st d a l => Sys2Proof.Machine.execAwait st d a l s
  | .yield st l => Sys2Proof.Machine.execYield st l s
  | .spawn st d a b => Sys2Proof.Machine.execSpawn st d a b s
  | .exit st => Sys2Proof.Machine.execExit st s
  | .hop st d a b => Sys2Proof.Machine.execHop st d a b s
  | .deposit st d a b => Sys2Proof.Machine.execDeposit st d a b s
  | .prio st a => Sys2Proof.Machine.execPrio st a s
  | .self st d a => Sys2Proof.Machine.execSelf st d a s
  | .pub st d a => Sys2Proof.Machine.execPub st d a s
  | .cadv st => Sys2Proof.Machine.execCadv st s
  | .item st d a => Sys2Proof.Machine.execItem st d a s
  | .cxq st d a => Sys2Proof.Machine.execCxq st d a s
  | .bara st d a b => Sys2Proof.Machine.execBara st d a b s
  | .barq st d a => Sys2Proof.Machine.execBarq st d a s
  | .gang st d a => Sys2Proof.Machine.execGang st d a s
  | .ungang st => Sys2Proof.Machine.execUngang st s
  | .gshape st a b => Sys2Proof.Machine.execGshape st a b s
  | .gcp st d a b => Sys2Proof.Machine.execGcp st d a b s
  | .gcpm st d a b => Sys2Proof.Machine.execGcpm st d a b s
  | .gfill st d a b => Sys2Proof.Machine.execGfill st d a b s
  | .gred st d a b => Sys2Proof.Machine.execGred st d a b s
  | .gq st d => Sys2Proof.Machine.execGq st d s
  | .gcpr st d a b => Sys2Proof.Machine.execGcpr st d a b s
  | .ssopen st d a => Sys2Proof.Machine.execSsopen st d a s
  | .ssld st d a b => Sys2Proof.Machine.execSsld st d a b s
  | .sscm st d a b => Sys2Proof.Machine.execSscm st d a b s
  | .ssroll st d a b => Sys2Proof.Machine.execSsroll st d a b s
  | .ssfork st d a b => Sys2Proof.Machine.execSsfork st d a b s
  | .sspin st d a b => Sys2Proof.Machine.execSspin st d a b s
  | .ssunpin st d a b => Sys2Proof.Machine.execSsunpin st d a b s
  | .ssq st d a b => Sys2Proof.Machine.execSsq st d a b s
  | .ssclose st d a => Sys2Proof.Machine.execSsclose st d a s
  | .launch st d a b => Sys2Proof.Machine.execLaunch st d a b s
  | .sbind st d a b => Sys2Proof.Machine.execSbind st d a b s
  | .sunb st d a => Sys2Proof.Machine.execSunb st d a s
  | .sq st d a => Sys2Proof.Machine.execSq st d a s
  | .acctrd st d a => Sys2Proof.Machine.execAcctrd st d a s
  | .mark st a => Sys2Proof.Machine.execMark st a s
  | .acctclr st a => Sys2Proof.Machine.execAcctclr st a s
  | .lix st d e => Sys2Proof.Machine.execLix st d e s
  | .lixh st d e => Sys2Proof.Machine.execLixh st d e s
  | .mcmd st d a b e => Sys2Proof.Machine.execMcmd st d a b e s
  | .mdist st d a b e => Sys2Proof.Machine.execMdist st d a b e s
  | .unassignedEncoding r w => Sys2Proof.Machine.execUnassignedEncoding r w s
  | .hopArrival ix => Sys2Proof.Machine.execHopArrival ix s
  | .hbmRefresh die bank => Sys2Proof.Machine.execHbmRefresh die bank s
  | .burstClockChange fast => Sys2Proof.Machine.execBurstClockChange fast s
  | .supplyLoss => Sys2Proof.Machine.execSupplyLoss s
  | .fuseVersionAdvance version => Sys2Proof.Machine.execFuseVersionAdvance version s
  | .clusterSramBankFault cluster bank => Sys2Proof.Machine.execClusterSramBankFault cluster bank s
  | .cxlDeviceFailure port => Sys2Proof.Machine.execCxlDeviceFailure port s

end Sys2Proof.Machine
end

