-- ==== Sys2Proof/Machine/Fetch.lean ====
section
/-! DEFINITION. Instruction fetch (R13, R31, R195, R353): the word at PC through the translation and the instruction cache, with
the payload of a `WIDE` instruction. -/

namespace Sys2Proof.Machine

/-- What a fetch meets. -/
inductive Fetched where
  | word (s : State) (w : BitVec 32)
  | trap (s : State) (t : TrapInfo)
  | absent (s : State) (level : Nat)
  | hold (s : State)
  | miss (s : State)

/-- The word at byte `off` of a line of 64 bytes. -/
def lineWord (line : BitVec 512) (off : Nat) : BitVec 32 := line.extractLsb' (8 * off) 32

/-- A line enters the instruction cache. -/
def Core.cacheLine (c : Core) (n : Nat) (x : BitVec 512) : Core := { c with icache := (n, x) :: c.icache.filter (·.1 != n) }

/-- The word at a key through the instruction cache: a line that memory no longer holds may still be used until `synci`
(R259), a free choice; a miss waits, charged to FETCH (R92), and the word is read when the line has come. -/
def State.fetchLine (s : State) (va k : Nat) : Fetched :=
  let s := s.touch k 4
  let now := BitVec.ofNat 32 (Memory.getN s.mem k 4)
  match s.core.icache.find? (·.1 == k / 64) with
  | some (_, line) =>
    let old := lineWord line (k % 64)
    .word s (if old = now then now else if Config.freeBool (s.free * 2 ^ 64 + va) then old else now)
  | none =>
    match s.badAt k 4 with
    | some (p, b) => .trap s (mkTrap (if p then 0x0F else 0x0E) (infoAt (va + (b - k))))
    | none => .miss ((s.freeStall .fetch).onFocus (·.cacheLine (k / 64) (BitVec.ofNat 512 (Memory.getN s.mem (k / 64 * 64) 64))))

/-- The word at a virtual address. -/
def State.fetchWord (s : State) (va : Nat) : Fetched :=
  if !isGlobal va then .trap s (mkTrap 0x07 (infoAt va))
  else
    let s := s.cacheFor s.agent va
    match s.locate s.agent .fetch va 4 with
    | .at (.here k) => s.fetchLine va k
    | .at (.remote _) => .word (s.freeStall .fetch) ((Config.freeWord s.free).setWidth 32)
    | .at _ => .trap s (mkTrap 0x0F (infoAt va))
    | .held => .hold s
    | .absent l => .absent s l
    | _ => .trap s (mkTrap 0x07 (infoAt va))

/-- Recording the word at issue, which a trap record shows (R256). -/
def State.setIr (s : State) (w p : BitVec 32) : State := s.onFocus fun c => { c with ir := w, irPayload := p }

/-- A fetch at an address that goes on, traps at the PC of the first word, or takes the fault path (R31, R260). -/
def Fetched.andThen (f : Fetched) (va : Nat) (k : BitVec 32 → State → State ⊕ State) : State ⊕ State :=
  match f with
  | .word s w => k w s
  | .trap s t => .inl (s.takeTrap t)
  | .hold s => .inl (s.waitSlots .fetch)
  | .miss s => .inl s
  | .absent s l => .inl (s.faultPath [(pageOf va, l)] (accBits .fetch) (infoAt va))

/-- Fetching the instruction at PC: `inl` when the fetch ends in a trap or a fault, `inr` with the word and payload in the
core's instruction register. `wide` says which words have a payload. -/
def State.fetch (s : State) (wide : BitVec 32 → Bool) : State ⊕ State :=
  let s := s.setIr 0 0
  let va := addrOf s.cur.pc
  let va2 := (va + 4) % 2 ^ 56
  (s.fetchWord va).andThen va fun w s =>
    let s := s.setIr w 0
    if wide w then (s.fetchWord va2).andThen va2 fun p s => .inr (s.setIr w p) else .inr s

end Sys2Proof.Machine
end

