-- ==== Sys2Proof/Machine/Place.lean ====
section
/-! DEFINITION. Placing an instruction where the next step fetches it: what a launch and its page tables leave when a strand
of core 0 is about to run at one address (DESIGN CHOICE, log 14). -/

namespace Sys2Proof.Machine

/-- The address at which the placed instruction stands, virtual and physical. -/
abbrev placeAt : Nat := 0x100000

/-- The page table of the placed strand: a root entry and a 1 GiB leaf that maps the first GiB onto itself. -/
def placeTables (m : List Host.Cell) : List Host.Cell :=
  Memory.putN (Memory.putN m 0x8000 8 (2 ^ 63 + 0x20000)) 0x20000 8 (0xF8 * 2 ^ 56)

/-- The placed strand: PRIV = 1, so that a privileged instruction runs, in the address space of the table. -/
def placeStrand (t : Strand) : Strand :=
  { t with pc := BitVec.ofNat 64 placeAt, sp := { t.sp with ptroot := 0x8000#64, sctl := t.sp.sctl ||| 0x10#64, self := mkSelf 0 0 0 } }

/-- A state in which the next step fetches and runs the instruction whose words are `w`. -/
def State.placeWord (s : State) (w : Nat) : State :=
  let m := placeTables (Memory.putN s.mem placeAt 8 w)
  let s := { s.focusOn 0 with turns := [], mem := m }
  s.onFocus fun c =>
    { c with
      running := true
      cycle := s.now
      waiting := false
      stopped := false
      cur := placeStrand c.cur
      icache := [(placeAt / 64, BitVec.ofNat 512 (Memory.getN m placeAt 64))] }

/-- The counter behind free values moves on with every step of a core (DESIGN CHOICE, log 5). -/
def State.tick (s : State) : State := { s with free := s.free + 1 }

end Sys2Proof.Machine
end

