-- ==== Sys2Proof/Machine/Step.lean ====
section
/-! DEFINITION. One step of the machine: the turn that is given, or a step of the focus core; and the placing of an
instruction where the next step fetches. -/

namespace Sys2Proof.Machine

/-- A step of the focus core: the instruction at PC, or what happens when none issues. -/
noncomputable def coreStep (s : State) : Host.Outcome State Fault Refusal :=
  if s.runs then
    match s.tick.fetch isWide with
    | .inl s => .next s
    | .inr s => exec (decode s.core.ir s.core.irPayload) s
  else s.between

/-- The move that a step makes. Every core counts the cycles of the one clock (R2, R5): only a core that no other is behind takes a step
(DEDUCED, log 97). -/
noncomputable def move (s : State) : Host.Outcome State Fault Refusal :=
  match s.turns with
  | .event i :: ts => if s.mayTurn i then exec i { s with turns := ts } else .refused (.notEnabled "DEVICE STEP")
  | .tearDown a :: ts => .next (({ s with turns := ts } : State).tearDown a)
  | .run c :: ts =>
    let t := ({ s with turns := ts } : State).focusOn c
    if t.inTime then coreStep t else .refused (.notEnabled "CORE STEP")
  | [] => coreStep (s.focusOn s.slowest)

/-- One step. -/
noncomputable def step (s : State) : Host.Outcome State Fault Refusal := afterStep (move s)

/-- The state with an instruction placed where the next step fetches. -/
def State.withFetchWord (s : State) (nbits w : Nat) : State := s.placeWord (w % 2 ^ nbits)

end Sys2Proof.Machine
end

