-- ==== Sys2Proof/Safety.lean ====
section
/-! DEFINITION. The terms in which the statements speak: a memory in canonical form, the accounting of a state, a next state up
to accounting, and the conditions under which an instruction issues with its own effect. -/

namespace Sys2Proof.Machine

/-- The memory of a state is in its canonical form (DESIGN CHOICE, log 3). -/
def State.memOk (s : State) : Prop := Memory.wf s.mem = true

/-- A step answers a next state. -/
def Runs (o : Out) : Prop := ∃ t, o = .next t

/-- What only counts and times (R91, R123, R179-R191): the cycle, the counters of core and strand, the latencies that run, the
vector queue with its retire buffer and convoy, the divider, the multiplications in progress, and the counter behind free values. -/
structure Accounting where
  cycle : Nat
  acct : Vector Word 16
  counters : Vector (BitVec 48) 16
  gReady : List (BitVec 5 × Nat)
  vq : List VQEntry
  vuFree : Nat
  divBusy : Nat
  mulDone : Nat
  retire : List (Nat × RetireEntry)
  vrhead : BitVec 32
  convoy : Option Convoy
  free : Nat

/-- The state with other accounting; everything else is as it was. -/
def State.counted (s : State) (x : Accounting) : State :=
  { s with
    free := x.free
    core := { s.core with
      cycle := x.cycle, acct := x.acct, vq := x.vq, vuFree := x.vuFree, divBusy := x.divBusy, mulDone := x.mulDone, retire := x.retire,
      vrhead := x.vrhead, convoy := x.convoy
      cur := { s.core.cur with counters := x.counters, gReady := x.gReady } } }

/-- The outcome is the next state `t`, with whatever accounting: every register, special register, unit, message and byte of
memory is that of `t`. -/
def Gives (o : Out) (t : State) : Prop := ∃ x, o = .next (t.counted x)

/-- Two states that differ in accounting only. -/
def Like (t s : State) : Prop := ∃ x, t = s.counted x

/-- Every pending result that a settle takes carries no error, an `LDQ` reply among them has arrived, and its banks are ON. -/
def Strand.Calm (t : Strand) : Prop :=
  ∀ e ∈ t.pend, e.due = true → e.err = none ∧ (e.token = 0 ∨ e.present = true) ∧ ∀ r ∈ e.wr.vregs, t.bankOf r = 0

/-- The conditions under which an instruction that names `u`, with settle marker `st`, issues with its own effect: its core runs
it, no exact trace is written or open, the privilege and the sources are as R31 asks, nothing that it waits for is outstanding (R180
rule 4), and its settle, if it has one, finds no erroneous result. -/
structure Issues (s : State) (u : Use) (st : Bool) : Prop where
  running : s.core.running = true
  untraced : s.core.exact = false
  noRun : s.core.run = none
  priv : u.priv = true → s.cur.priv = true
  full : s.cur.emptySources u = 0
  live : s.cur.deadSource u = none
  banks : ∀ r ∈ u.banks, s.cur.bankOf r = 0
  powered : s.cur.powerTill ≤ s.core.cycle
  streams : s.cur.streamBlocks u = false
  room : s.cur.pend.length + u.pends ≤ 16
  chain : s.chainWaits u = false
  ready : s.depWait u = 0
  queue : s.vqNow.core.queueWait u = 0
  going : s.vqNow.core.stopFirst u = false
  calm : st = true → s.cur.Calm

/-- The same with an empty vector queue. -/
structure AtOnce (s : State) (u : Use) (st : Bool) : Prop extends Issues s u st where
  idle : s.core.vq = []

/-- The instance is over, and the strand goes on at a PC: no replay of it is owed, nothing waits (R261, R285). -/
def State.goOn (s : State) (pc : Word) : State :=
  { s with
    core := { s.core with
      waiting := false, posted := false, reply := .none
      cur := { s.core.cur with pc := pc, attempts := 0, reissue := false, masked := false, firstRefusal := none } } }

/-- Every pending result that a settle takes has landed (R20, R22): those that no later write cancelled (R21). -/
def State.landed (s : State) : State :=
  s.onCur fun t =>
    { (t.pend.filter fun e => e.due && !e.cancelled).foldl (fun t e => t.land s.own e) t with pend := t.pend.filter fun e => !e.due }

/-- The strand goes on at a PC, after the settle that a settle marker asks for. -/
def State.after (s : State) (st : Bool) (pc : Word) : State := if st then (s.goOn pc).landed else s.goOn pc

/-- The strand goes on behind an instruction of 4 bytes. -/
def State.after4 (s : State) (st : Bool) : State := s.after st (s.cur.pc + 4)

/-- The strand goes on behind an instruction of 8 bytes. -/
def State.after8 (s : State) (st : Bool) : State := s.after st (s.cur.pc + 8)

/-- Operand a of an `ALU`, `SET` or `PTR` word (R17, R90): its value, and the state in which a chain operand has been consumed;
`none` while a chain value is missing or its read traps. -/
def State.operandA (s : State) (a : BitVec 5) (k : BitVec 2) (n : Bool) : Option (Word × State) :=
  if k = 0 then some (s.rg a, s)
  else
    match s.chainRead a k.toNat with
    | .value x early => some (x, s.chainTake a k.toNat n early)
    | _ => none

/-- An access of `n` bytes through the pointer `ea` passes the checks of R223 and reaches the key `key` of this package: the tag
fits, the region is not 0xE or 0xF, the address is aligned, and its translation or window leads there. -/
structure Reaches (s : State) (k : AccKind) (n : Nat) (fp : Bool) (ea : Word) (key : Nat) : Prop where
  tag : scalarTagOk n fp ea = true
  region : region (addrOf ea) < 14
  aligned : addrOf ea % n = 0
  leads : s.locate s.agent k (addrOf ea) n = .at (.here key)

/-- The state in which an access of `n` bytes at an address is performed: its translation is cached (R354), and the reduce-adds
that are on their way to its lines have been added (R319, DESIGN CHOICE, log 20). -/
def State.opened (s : State) (va key n : Nat) : State := (s.cacheFor s.agent va).touch key n

/-- The same for an atomic with order `o` (R211): a release order performs the core's earlier reduce-adds first. -/
def State.released (s : State) (o : BitVec 3) (va key n : Nat) : State :=
  if o.getLsbD 1 then (s.opened va key n).performReduces else s.opened va key n

/-- No byte of `n` from a key is erroneous, when the access is performed (R262). -/
def State.sound (s : State) (va key n : Nat) : Prop := (s.opened va key n).badAt key n = none

/-- No cached translation is out of date (R354): from each, an access goes where a walk does. -/
def State.tlbFresh (s : State) : Prop := ∀ p va, ∀ e ∈ s.tlb, e.covers (asidOf p) va = true → s.walkFrom e va = s.walk p va

/-- The address of an FE-class access passes its checks (R223, R283) and names the word at a key of region 0xC or 0xD whose bank is
not changing its mode (R279). -/
structure NamesWord (s : State) (ea : Word) (key : Nat) : Prop where
  tag : scalarTagOk 8 false ea = true
  region : region (addrOf ea) = 12 ∨ region (addrOf ea) = 13
  aligned : addrOf ea % 8 = 0
  leads : s.locate s.agent .read (addrOf ea) 8 = .at (.here key)
  settled : s.bankChanging key = false

/-- It names the DATA word of a FIFO port (R277). -/
structure NamesPort (s : State) (ea : Word) (p : Port) : Prop where
  tag : scalarTagOk 8 false ea = true
  region : region (addrOf ea) = 14
  kind : winKind (addrOf ea) = 0
  aligned : addrOf ea % 8 = 0
  port : s.portAt s.agent (addrOf ea) = some p
  data : p.status = false
  settled : s.bankChanging p.key = false

/-- A trap as its record shows it: with the word at issue, and with ATTEMPTS for an instruction issued again (R257). -/
def State.recorded (s : State) (i : TrapInfo) : TrapInfo :=
  { i with
    word := s.core.irPayload ++ s.core.ir
    attempts := if i.attempts = 0 ∧ s.cur.reissue = true then s.cur.attempts else i.attempts }

/-- The delivery of a trap moves no other context: the entries held, with the one out of which clean rows are copied, are within the limit
(R147, R150, R266). -/
def State.noTrim (s : State) : Prop := s.core.heldEntries + (if s.cleanRows = 0 then 0 else 1) ≤ s.core.entryLimit

/-- `t` is `s` once the trap `i` of its running strand has been delivered into the free slot `n` (R251, R253, R256). Bytes of the record
go where the slot area leads, and are lost where it leads nowhere (DESIGN CHOICE, log 13), in the address space of the strand (log 10). -/
structure Delivered (s t : State) (n : Nat) (i : TrapInfo) : Prop where
  running : t.core.running = true
  pc : t.cur.pc = s.cur.sp.trapvec
  num : t.cur.num = s.cur.num
  mode : t.cur.sp.sctl = 0x13
  gang : t.cur.sp.gangsz = 1
  record : t.cur.sp.traprec = BitVec.ofNat 64 (s.core.slotBase n)
  inherited : t.cur.sp.item = s.cur.sp.item ∧ t.cur.sp.lstb = s.cur.sp.lstb ∧ t.cur.sp.lstn = s.cur.sp.lstn ∧
    t.cur.sp.pwin = s.cur.sp.pwin ∧ t.cur.sp.depset = s.cur.sp.depset ∧ t.cur.sp.trapvec = s.cur.sp.trapvec ∧
    t.cur.sp.self = s.cur.sp.self ∧ t.cur.sp.ptroot = s.cur.sp.ptroot ∧ t.cur.launch = s.cur.launch
  fresh : t.cur.g = Strand.reset.g ∧ t.cur.vf = VFile.reset ∧ t.cur.pend = []
  serves : t.cur.handler = some ⟨n, i.cause, false, false, false, s.core.ownsMatrix s.cur⟩
  slot : t.core.trapSlots = ⟨n, s.cur.num⟩ :: s.core.trapSlots
  saved : ∃ j, t.core.images = j :: s.core.images ∧ j.place = .slot n ∧ j.cond = .trapped ∧ j.st.num = s.cur.num ∧
    j.st.pc = s.cur.pc ∧ j.st.g = s.cur.g ∧ j.st.sp = s.cur.sp ∧ j.st.trapDue = some i
  memory : t.mem = (s.storeVa s.supervisor (s.core.slotBase n) (trapRecordBytes i s.cur)).mem

/-- Every byte of `n` from an address is held in this package, where an agent may read it. -/
def State.heldHere (s : State) (a : Agent) (va n : Nat) : Prop := ∀ p ∈ pieces va n, ∃ k, s.locate a .read p.1 p.2 = .at (.here k)

/-- The address of live-set entry `ix` of the running strand (R81). -/
def liveAddr (s : State) (ix : Nat) : Nat := (addrOf s.cur.sp.lstb + 16 * ix) % 2 ^ 56

/-- Live-set entry `ix` of the running strand is `e`, read at a key in one piece and without error, with no reserved bit set. -/
structure HasLiveSet (s : State) (ix : Nat) (e : BitVec 128) (key : Nat) : Prop where
  below : ix < s.cur.sp.lstn.toNat
  inLine : liveAddr s ix % 64 ≤ 48
  leads : s.locate s.agent .read (liveAddr s ix) 16 = .at (.here key)
  sound : s.sound (liveAddr s ix) key 16
  entry : e = BitVec.ofNat 128 (Memory.getN (s.opened (liveAddr s ix) key 16).mem key 16)
  legal : liveOk e = true

/-- The word at a virtual address is `w`: the address is global, its translation leads to the key `k`, the four bytes there are those
of `w`, and the instruction cache holds them (R13, R195, R353). -/
structure FetchesFrom (s : State) (va k : Nat) (w : BitVec 32) : Prop where
  global : isGlobal va = true
  leads : (s.cacheFor s.agent va).locate s.agent .fetch va 4 = .at (.here k)
  bytes : BitVec.ofNat 32 (Memory.getN (s.opened va k 4).mem k 4) = w
  cached : ∃ n line, (s.core.icache.find? fun x => x.1 == k / 64) = some (n, line) ∧ lineWord line (k % 64) = w

/-! ## Vector instructions -/

/-- A vector register written with the results of its elements, and their flags noted (R79, R110, R111). -/
def State.elemWritten (s : State) (d : BitVec 5) (w : Nat) (rs : List (Nat × Rounded)) : State :=
  (s.putElems d w (rs.map fun p => (p.1, p.2.bits))).noteFlags (rs.map fun p => s.raisedAt p.1 p.2.flags)

/-- An element-wise word (R107-R111): it issues, the shape holds its widest container, no active element of the sources `rs` is
poisoned, and no enabled flag is raised; then each active element `j` of d, in containers of `w'` bits, is `f j`, and nothing else
changes but the flags. -/
def ElemWord (i : Instr) (s : State) (st : Bool) (g rs : List (BitVec 5)) (d : BitVec 5) (m : BitVec 4) (w' : Nat) (f : Nat → Rounded) : Prop :=
  Issues s (vuse g rs [d] [m]) st → s.vcols * max s.vw w' ≤ 1024 → (∀ r ∈ rs, s.badElems r s.vw (s.active m) = []) →
    let out := (s.active m).map fun j => (j, f j)
    s.fpTrap (out.map fun p => s.raisedAt p.1 p.2.flags) = none → Gives (exec i s) ((s.elemWritten d w' out).after4 st)

/-- Every byte of every access of a vector instruction passes the checks of R198 and R223 for the alignment given, and lies in this
package. -/
def State.elsHere (s : State) (k : AccKind) (align : Nat) (els : List VEl) : Prop :=
  ∀ x ∈ els, 0 < x.n ∧ region x.va < 14 ∧ x.va % align = 0 ∧
    ∀ p ∈ pieces x.va x.n, region p.1 = x.reg ∧ ∃ key, s.locate s.agent k p.1 p.2 = .at (.here key)

end Sys2Proof.Machine
end

