-- ==== Sys2Proof/Certificates/Slice0/Obligations.lean ====
section
/-! DEFINITION. The statements for the provers, each with the rules of the spec that it formalises. -/

open Sys2Proof Sys2Proof.Machine

/-! ## Scalar instructions (R90-R101) -/

/-- R94, R95, R99, R101 with operand a in every form of R17 and R90: each register-register word of `ALU`, `SET` and `PTR` writes
its result to d and nothing else, for S = 0 and S = 1; so do the words of one operand, and `sel`, which reads d (R90). -/
def Obligations.ScalarRegisterResults : Prop :=
  (∀ (s s' : State) (st : Bool) (d a b : BitVec 5) (k : BitVec 2) (n : Bool) (x : Word),
      Issues s (srcA a k [b]) st → s.operandA a k n = some (x, s') →
      let y := s.rg b
      let sh := (y.extractLsb' 0 6).toNat
      let w := if sh = 0 then 64 else sh
      let put := fun v : Word => (s'.wg d v).after4 st
      let truth := fun c : Prop => fun [Decidable c] => put (if c then 1 else 0)
      Gives (exec (.add st d a b k n) s) (put (x + y)) ∧
      Gives (exec (.sub st d a b k n) s) (put (x - y)) ∧
      Gives (exec (.and st d a b k n) s) (put (x &&& y)) ∧
      Gives (exec (.or st d a b k n) s) (put (x ||| y)) ∧
      Gives (exec (.xor st d a b k n) s) (put (x ^^^ y)) ∧
      Gives (exec (.andn st d a b k n) s) (put (x &&& ~~~y)) ∧
      Gives (exec (.orn st d a b k n) s) (put (x ||| ~~~y)) ∧
      Gives (exec (.shl st d a b k n) s) (put (x <<< sh)) ∧
      Gives (exec (.shr st d a b k n) s) (put (x >>> sh)) ∧
      Gives (exec (.sra st d a b k n) s) (put (x.sshiftRight sh)) ∧
      Gives (exec (.rot st d a b k n) s) (put ((x >>> sh) ||| (x <<< (64 - sh)))) ∧
      Gives (exec (.min st d a b k n) s) (put (if x.toInt ≤ y.toInt then x else y)) ∧
      Gives (exec (.max st d a b k n) s) (put (if x.toInt ≤ y.toInt then y else x)) ∧
      Gives (exec (.minn st d a b k n) s) (put (if x.toNat ≤ y.toNat then x else y)) ∧
      Gives (exec (.maxn st d a b k n) s) (put (if x.toNat ≤ y.toNat then y else x)) ∧
      Gives (exec (.mul st d a b k n) s) (put (x * y)) ∧
      Gives (exec (.mulh st d a b k n) s) (put (BitVec.ofInt 64 (x.toInt * y.toInt / 2 ^ 64))) ∧
      Gives (exec (.mulhn st d a b k n) s) (put (BitVec.ofNat 64 (x.toNat * y.toNat / 2 ^ 64))) ∧
      (Issues s (srcA a k [b] true) st →
        Gives (exec (.div st d a b k n) s) (put (if y = 0 then 0 else BitVec.ofInt 64 (x.toInt.tdiv y.toInt))) ∧
        Gives (exec (.divn st d a b k n) s) (put (if y = 0 then 0 else BitVec.ofNat 64 (x.toNat / y.toNat))) ∧
        Gives (exec (.rem st d a b k n) s) (put (if y = 0 then x else BitVec.ofInt 64 (x.toInt.tmod y.toInt))) ∧
        Gives (exec (.remn st d a b k n) s) (put (if y = 0 then x else BitVec.ofNat 64 (x.toNat % y.toNat)))) ∧
      Gives (exec (.sext st d a b k n) s) (put ((x.setWidth w).signExtend 64)) ∧
      Gives (exec (.zext st d a b k n) s) (put ((x.setWidth w).setWidth 64)) ∧
      Gives (exec (.seteq st d a b k n) s) (truth (x = y)) ∧
      Gives (exec (.setne st d a b k n) s) (truth (x ≠ y)) ∧
      Gives (exec (.setlt st d a b k n) s) (truth (x.toInt < y.toInt)) ∧
      Gives (exec (.setge st d a b k n) s) (truth (y.toInt ≤ x.toInt)) ∧
      Gives (exec (.setltn st d a b k n) s) (truth (x.toNat < y.toNat)) ∧
      Gives (exec (.setgen st d a b k n) s) (truth (y.toNat ≤ x.toNat)) ∧
      Gives (exec (.adda st d a b k n) s) (put (x.extractLsb' 56 8 ++ (x.extractLsb' 0 56 + y.extractLsb' 0 56))) ∧
      Gives (exec (.tagset st d a b k n) s) (put (y.extractLsb' 0 8 ++ x.extractLsb' 0 56)) ∧
      Gives (exec (.pdiff st d a b k n) s) (put ((x.extractLsb' 0 56 - y.extractLsb' 0 56).signExtend 64))) ∧
  (∀ (s s' : State) (st : Bool) (d a b : BitVec 5) (k : BitVec 2) (n : Bool) (x : Word), s.operandA a k n = some (x, s') →
      let put := fun v : Word => (s'.wg d v).after4 st
      (Issues s (srcA a k []) st →
        Gives (exec (.clz st d a k n) s) (put (BitVec.ofNat 64 (if x = 0 then 64 else 63 - x.toNat.log2))) ∧
        Gives (exec (.ctz st d a k n) s) (put (BitVec.ofNat 64 (((List.range 64).find? fun i => x.getLsbD i).getD 64))) ∧
        Gives (exec (.popc st d a k n) s) (put (BitVec.ofNat 64 ((List.range 64).filter fun i => x.getLsbD i).length)) ∧
        Gives (exec (.tagget st d a k n) s) (put ((x.extractLsb' 56 8).setWidth 64))) ∧
      (Issues s (srcA a k [b, d]) st →
        Gives (exec (.sel st d a b k n) s) (put (if s.rg d ≠ 0 then x else s.rg b))))

/-- R18, R96-R100: the immediate, constant and bit-field words. `bfi`, `lsh` and `lixh` read d. A write of `g0` is discarded and `g0`
reads 0; a write of another register changes that register alone. -/
def Obligations.ScalarImmediateResults : Prop :=
  (∀ (s : State) (st : Bool) (d a : BitVec 5),
    let put := fun v : Word => (s.wg d v).after4 st
    let x := s.rg a
    (Issues s { g := [a] } st →
      (∀ i : BitVec 15,
        Gives (exec (.addi st d a i) s) (put (x + i.signExtend 64)) ∧
        Gives (exec (.andi st d a i) s) (put (x &&& i.signExtend 64)) ∧
        Gives (exec (.ori st d a i) s) (put (x ||| i.setWidth 64)) ∧
        Gives (exec (.xori st d a i) s) (put (x ^^^ i.setWidth 64))) ∧
      (∀ h : BitVec 6,
        Gives (exec (.shli st d a h) s) (put (x <<< h.toNat)) ∧
        Gives (exec (.shri st d a h) s) (put (x >>> h.toNat)) ∧
        Gives (exec (.srai st d a h) s) (put (x.sshiftRight h.toNat)) ∧
        Gives (exec (.roti st d a h) s) (put ((x >>> h.toNat) ||| (x <<< (64 - h.toNat))))) ∧
      (∀ i : BitVec 12,
        let y := i.signExtend 64
        Gives (exec (.seteqi st d a i) s) (put (if x = y then 1 else 0)) ∧
        Gives (exec (.setnei st d a i) s) (put (if x ≠ y then 1 else 0)) ∧
        Gives (exec (.setlti st d a i) s) (put (if x.toInt < y.toInt then 1 else 0)) ∧
        Gives (exec (.setgei st d a i) s) (put (if y.toInt ≤ x.toInt then 1 else 0)) ∧
        Gives (exec (.setltni st d a i) s) (put (if x.toNat < y.toNat then 1 else 0)) ∧
        Gives (exec (.setgeni st d a i) s) (put (if y.toNat ≤ x.toNat then 1 else 0))) ∧
      ∀ p w : BitVec 6, Gives (exec (.bfx st d a p w) s) (put (BitVec.ofNat 64 (x.toNat / 2 ^ p.toNat % 2 ^ (w.toNat + 1))))) ∧
    (Issues s { g := [a, d] } st →
      ∀ p w : BitVec 6,
        let m := BitVec.ofNat 64 (2 ^ (w.toNat + 1) - 1)
        Gives (exec (.bfi st d a p w) s) (put ((s.rg d &&& ~~~(m <<< p.toNat)) ||| ((x &&& m) <<< p.toNat)))) ∧
    (Issues s {} st →
      (∀ i : BitVec 20,
        Gives (exec (.li st d i) s) (put (i.signExtend 64)) ∧
        Gives (exec (.addpc st d i) s) (put (((s.cur.pc + 4 * i.signExtend 64).extractLsb' 0 56).setWidth 64))) ∧
      ∀ e : BitVec 32, Gives (exec (.lix st d e) s) ((s.wg d (e.signExtend 64)).after8 st)) ∧
    (Issues s { g := [d] } st →
      (∀ i : BitVec 20, Gives (exec (.lsh st d i) s) (put ((s.rg d <<< 20) ||| i.setWidth 64))) ∧
      ∀ e : BitVec 32, Gives (exec (.lixh st d e) s) ((s.wg d (e ++ (s.rg d).extractLsb' 0 32)).after8 st))) ∧
  ∀ (s : State) (r q : BitVec 5) (v : Word),
    s.rg 0 = 0 ∧ s.wg 0 v = s ∧ (r ≠ 0 → (s.wg r v).rg r = v) ∧ (q ≠ r → (s.wg r v).rg q = s.rg q)

/-! ## Branches and jumps (R102, R103) -/

/-- R16, R99, R102, R103: a branch goes on at its target when its condition holds, else behind itself; no register changes but the
counter of `dbnz`. `jal` links in g31; `jr` and `jalr` with a target whose two low bits are not zero trap with PC_ALIGN, with no link
written. -/
def Obligations.ControlResults : Prop :=
  (∀ (s : State) (st : Bool) (a b : BitVec 5),
    let x := s.rg a
    let y := s.rg b
    let target := fun (m : Nat) (o : BitVec m) => (((s.cur.pc + 4 * o.signExtend 64).extractLsb' 0 56).setWidth 64 : Word)
    let way := fun (t : State) (c : Bool) (m : Nat) (o : BitVec m) => if c then t.after st (target m o) else t.after4 st
    (Issues s { g := [a] } st →
      ∀ o : BitVec 16,
        Gives (exec (.beqz st a o) s) (way s (decide (x = 0)) 16 o) ∧
        Gives (exec (.bnez st a o) s) (way s (decide (x ≠ 0)) 16 o) ∧
        Gives (exec (.bltz st a o) s) (way s (decide (x.toInt < 0)) 16 o) ∧
        Gives (exec (.bgez st a o) s) (way s (decide (0 ≤ x.toInt)) 16 o) ∧
        Gives (exec (.blez st a o) s) (way s (decide (x.toInt ≤ 0)) 16 o) ∧
        Gives (exec (.bgtz st a o) s) (way s (decide (0 < x.toInt)) 16 o)) ∧
    (Issues s { g := [a, b] } st →
      ∀ o : BitVec 11,
        Gives (exec (.beq st a b o) s) (way s (decide (x = y)) 11 o) ∧
        Gives (exec (.bne st a b o) s) (way s (decide (x ≠ y)) 11 o) ∧
        Gives (exec (.blt st a b o) s) (way s (decide (x.toInt < y.toInt)) 11 o) ∧
        Gives (exec (.bge st a b o) s) (way s (decide (y.toInt ≤ x.toInt)) 11 o) ∧
        Gives (exec (.bltn st a b o) s) (way s (decide (x.toNat < y.toNat)) 11 o) ∧
        Gives (exec (.bgen st a b o) s) (way s (decide (y.toNat ≤ x.toNat)) 11 o)) ∧
    (Issues s { g := [a] } st →
      ∀ o : BitVec 15, Gives (exec (.dbnz st a o) s) (way (s.wg a (x - 1)) (decide (x ≠ 1)) 15 o))) ∧
  (∀ (s : State) (st : Bool) (d a : BitVec 5) (o : BitVec 25),
    let x := s.rg a
    let target : Word := ((s.cur.pc + 4 * o.signExtend 64).extractLsb' 0 56).setWidth 64
    (Issues s {} st →
      Gives (exec (.jal st o) s) ((s.wg 31 (s.cur.pc + 4)).after st target) ∧
      Gives (exec (.j st o) s) (s.after st target)) ∧
    (Issues s { g := [a] } st →
      (x.extractLsb' 0 2 = 0 →
        Gives (exec (.jr st a) s) (s.after st ((x.extractLsb' 0 56).setWidth 64)) ∧
        Gives (exec (.jalr st d a) s) ((s.wg d (s.cur.pc + 4)).after st ((x.extractLsb' 0 56).setWidth 64))) ∧
      (x.extractLsb' 0 2 ≠ 0 →
        ∃ t, Like t s ∧ exec (.jr st a) s = .next (t.unwait.takeTrap (mkTrap 0x03 0)) ∧
          exec (.jalr st d a) s = .next (t.unwait.takeTrap (mkTrap 0x03 0)))))

/-! ## Scalar memory accesses (R104, R206-R212) -/

/-- R206: each load of an address that passes its checks defers its value, sign- or zero-extended, as the result of g d; the next
instruction follows, and with S = 1 the value is in g d (R20). -/
def Obligations.LoadResults : Prop :=
  ∀ (s : State) (st : Bool) (d a : BitVec 5) (o : BitVec 12) (key : Nat), AtOnce s { g := [a], pends := 1 } st →
    let ea := fun n : Nat => adda (s.rg a) (o.signExtend 64 * BitVec.ofNat 64 n)
    let load := fun (i : Instr) (n : Nat) (v : Nat → Word) =>
      let va := addrOf (ea n)
      let r := s.opened va key n
      Reaches s .read n false (ea n) key → s.sound va key n →
        Gives (exec i s) ((r.deferred (.g d (v (Memory.getN r.mem key n))) va none).after4 st)
    load (.ldI8 st d a o) 1 (fun x => (BitVec.ofNat 8 x).signExtend 64) ∧
    load (.ldN8 st d a o) 1 (fun x => (BitVec.ofNat 8 x).setWidth 64) ∧
    load (.ldI16 st d a o) 2 (fun x => (BitVec.ofNat 16 x).signExtend 64) ∧
    load (.ldN16 st d a o) 2 (fun x => (BitVec.ofNat 16 x).setWidth 64) ∧
    load (.ldI32 st d a o) 4 (fun x => (BitVec.ofNat 32 x).signExtend 64) ∧
    load (.ldN32 st d a o) 4 (fun x => (BitVec.ofNat 32 x).setWidth 64) ∧
    load (.ldI64 st d a o) 8 (fun x => BitVec.ofNat 64 x)

/-- R88, R104: `ldp` reads a dword of a bound window; at or beyond SIZE it writes 0 and sets PARAMOOB with no access; an unbound
window traps with PARAM_UNBOUND. -/
def Obligations.ParameterLoad : Prop :=
  ∀ (s : State) (st : Bool) (d : BitVec 5) (w : BitVec 2) (o : BitVec 13), AtOnce s (ldpUse (s.window w) o) st →
    let pw := s.cur.sp.pwin[w.toNat]'w.isLt
    let va := ((pw.extractLsb' 0 50).toNat * 64 + 8 * o.toNat) % 2 ^ 56
    (pw.getLsbD 63 = false → exec (.ldp st d w o) s = .next (s.unwait.takeTrap (mkTrap 0x09 0))) ∧
    (pw.getLsbD 63 = true → (pw.extractLsb' 50 13).toNat ≤ o.toNat →
      Gives (exec (.ldp st d w o) s) (((s.wg d 0).onSp fun p => { p with sflags := p.sflags ||| 1 }).after4 st)) ∧
    (pw.getLsbD 63 = true → o.toNat < (pw.extractLsb' 50 13).toNat →
      ∀ key, Reaches s .read 8 false (BitVec.ofNat 64 va) key → s.sound va key 8 →
        Gives (exec (.ldp st d w o) s)
          (((s.opened va key 8).deferred (.g d (BitVec.ofNat 64 (Memory.getN (s.opened va key 8).mem key 8))) va none).after4 st))

/-- R207: each store of an address that passes its checks writes the low bytes of g d, little-endian, and nothing else. -/
def Obligations.StoreResults : Prop :=
  ∀ (s : State) (st : Bool) (d a : BitVec 5) (o : BitVec 13) (key : Nat), AtOnce s { g := [d, a] } st →
    let ea := fun n : Nat => adda (s.rg a) (o.signExtend 64 * BitVec.ofNat 64 n)
    let store := fun (i : Instr) (n : Nat) =>
      let va := addrOf (ea n)
      Reaches s .write n false (ea n) key →
        Gives (exec i s) (((s.opened va key n).homeStore (.here key) n ((s.rg d).toNat % 2 ^ (8 * n))).after4 st)
    store (.st8 st d a o) 1 ∧ store (.st16 st d a o) 2 ∧ store (.st32 st d a o) 4 ∧ store (.st64 st d a o) 8

/-- What a store at a key leaves, in a memory in canonical form: the `n` bytes of the value there, every other byte of memory as it read before, when no
reduce-add is under way; and the register files untouched. -/
def Obligations.StoredBytes : Prop :=
  ∀ (s : State) (key n v : Nat), s.memOk → s.dies.toList.all (fun d => d.detred.isEmpty) = true → (s.flight.all fun m => !m.reducesTo fun _ => true) = true →
    let t := s.homeStore (.here key) n v
    (∀ i, i < n → Memory.get t.mem (key + i) = BitVec.ofNat 8 (v / 256 ^ i)) ∧
    (∀ k, k < key ∨ key + n ≤ k → Memory.get t.mem k = Memory.get s.mem k) ∧
    t.core = s.core ∧ t.fullWords = s.fullWords ∧ t.memOk

/-- R195, R199, R223, R353 at every scalar load and store of 1 to 8 bytes: the checks in their order FORMAT, ACCESS (region 0xE but for the
words of 8 bytes, region 0xF, the first 64-byte line that a global address may not reach), MISALIGN, BOUNDS, each with the address that INFO
names; nothing else happens but the trap. That INFO is the address as it was formed, in a self alias of region 0xC or 0xD too, is log 78. -/
def Obligations.AccessChecks : Prop :=
  ∀ (s : State) (st : Bool) (d a : BitVec 5) (o : BitVec 12) (q : BitVec 13),
    let traps := fun (i : Instr) (n : Nat) (k : AccKind) (off : Word) =>
      let ea := adda (s.rg a) (off * BitVec.ofNat 64 n)
      let va := addrOf ea
      let takes := fun (c : BitVec 8) (info : Nat) => exec i s = .next (s.unwait.takeTrap (mkTrap c (BitVec.ofNat 64 info)))
      let refused := (pieces va n).find? fun p => s.locate s.agent k p.1 p.2 == .denied
      (scalarTagOk n false ea = false → takes 0x05 va) ∧
      (scalarTagOk n false ea = true →
        (region va = 15 ∨ (region va = 14 ∧ n ≠ 8) → takes 0x07 va) ∧
        (region va < 14 →
          (∀ p, refused = some p → takes 0x07 p.1) ∧
          (refused = none → va % n ≠ 0 → takes 0x04 va) ∧
          (va % n = 0 → s.locate s.agent k va n = .bounds → takes 0x06 (s.firstBound s.agent k va n))))
    (AtOnce s { g := [a], pends := 1 } st →
      let load := fun (i : Instr) (n : Nat) => traps i n .read (o.signExtend 64)
      load (.ldI8 st d a o) 1 ∧ load (.ldN8 st d a o) 1 ∧ load (.ldI16 st d a o) 2 ∧ load (.ldN16 st d a o) 2 ∧
      load (.ldI32 st d a o) 4 ∧ load (.ldN32 st d a o) 4 ∧ load (.ldI64 st d a o) 8) ∧
    (AtOnce s { g := [d, a] } st →
      let store := fun (i : Instr) (n : Nat) => traps i n .write (q.signExtend 64)
      store (.st8 st d a q) 1 ∧ store (.st16 st d a q) 2 ∧ store (.st32 st d a q) 4 ∧ store (.st64 st d a q) 8)

/-- R208: `ldq` allocates a kind-3 cell, writes its token to g b and leaves the load pending under it; `stq` sends its store, with the value
read at issue, as a message under its token. Neither waits. -/
def Obligations.TokenAccesses : Prop :=
  ∀ (s r : State) (st : Bool) (d a b : BitVec 5) (key : Nat) (tok : Word),
    let ea := adda (s.rg a) 0
    let va := addrOf ea
    (AtOnce s { g := [a], pends := 1 } st → (b ≠ d ∨ d = 0) → Reaches s .read 8 false ea key →
      (s.opened va key 8).allocCell 3 1 = some (tok, r) → tok ≠ 0 →
      let e : Pending :=
        { wr := .g d 0, token := tok, addr := BitVec.ofNat 64 va, pc := s.cur.pc, word := s.core.ir, present := false,
          observed := false, cancelled := false, err := none }
      Gives (exec (.ldq st d a b) s)
        ((((r.wg b tok).defer e).post r.replyDue (.ldqReply s.core.cid s.cur.num tok (r.targetKey r.agent .read va (.here key)) s.cur.launch)).after4 st)) ∧
    (AtOnce s { g := [d, a] } st → Reaches s .write 8 false ea key → (s.opened va key 8).allocCell 3 1 = some (tok, r) →
      Gives (exec (.stq st d a b) s)
        (((r.wg b tok).post r.replyDue (.store s.core.cid tok (r.targetKey r.agent .write va (.here key)) (s.rg d) s.cur.launch)).after4 st))

/-- R209, R210: an atomic defers the old value to g d and writes its function of the old value and g b; `cas` writes g b only when
the old value is g d. The orders of R211 only wait; a release order performs the core's earlier reduce-adds first. -/
def Obligations.AtomicResults : Prop :=
  ∀ (s : State) (st : Bool) (d a b : BitVec 5) (p o : BitVec 3) (key : Nat),
    let ea := adda (s.rg a) 0
    let va := addrOf ea
    let amo := fun (i : Instr) (n : Nat) (fp : Bool) (f : Nat → Option Nat) =>
      let r := s.released o va key n
      let old := Memory.getN r.mem key n
      let w := match f old with
        | some x => r.homeStore (.here key) n (x % 2 ^ (8 * n))
        | none => r
      Reaches s .atomic n fp ea key → r.badAt key n = none →
        Gives (exec i s) ((w.deferred (.g d (BitVec.ofNat 64 old)) va none).after4 st)
    let y := s.rg b
    let word := fun (f : Word → Word) (old : Nat) => some (f (BitVec.ofNat 64 old)).toNat
    (AtOnce s { g := [a, b], pends := 1 } st →
      amo (.amoadd st d a b p o) 8 false (word fun x => x + y) ∧
      amo (.amoand st d a b p o) 8 false (word fun x => x &&& y) ∧
      amo (.amoor st d a b p o) 8 false (word fun x => x ||| y) ∧
      amo (.amoxor st d a b p o) 8 false (word fun x => x ^^^ y) ∧
      amo (.amomin st d a b p o) 8 false (word fun x => if y.toInt < x.toInt then y else x) ∧
      amo (.amomax st d a b p o) 8 false (word fun x => if x.toInt < y.toInt then y else x) ∧
      amo (.amominn st d a b p o) 8 false (word fun x => if y.toNat < x.toNat then y else x) ∧
      amo (.amomaxn st d a b p o) 8 false (word fun x => if x.toNat < y.toNat then y else x) ∧
      amo (.amoswap st d a b p o) 8 false (word fun _ => y) ∧
      amo (.amofadd32 st d a b p o) 4 true (fun old => some (addElem 0x10 old (y.toNat % 2 ^ 32))) ∧
      amo (.amofmax32 st d a b p o) 4 true (fun old => some (fp32.minmax true old (y.toNat % 2 ^ 32)).bits)) ∧
    (AtOnce s { g := [d, a, b], pends := 1 } st →
      amo (.cas st d a b p o) 8 false (fun old => if old = (s.rg d).toNat then some y.toNat else none))

/-! ## Full/empty words, FIFO ports and device windows (R277, R282-R285, R419) -/

/-- R283: the full/empty instructions at a word that is ready for them: `ldfe` takes a full word and leaves it empty, `stfe` fills an
empty one, `fefill` fills any, `feq` reads the full bit, `feinit` empties `c` words. A wake goes to the strands that wait. -/
def Obligations.FullEmptyWords : Prop :=
  ∀ (s : State) (st : Bool) (d a b : BitVec 5) (key : Nat),
    let ea := adda (s.rg a) 0
    let va := addrOf ea
    (AtOnce s { g := [a], pends := 1 } st → NamesWord s ea key → s.isFull key = true → s.badAt key 8 = none →
      Gives (exec (.ldfe st d a) s) (((s.emptyWord key).deferredNow (.g d (BitVec.ofNat 64 (Memory.getN s.mem key 8))) va none).after4 st)) ∧
    (AtOnce s { g := [d, a] } st → NamesWord s ea key →
      (s.isFull key = false → Gives (exec (.stfe st d a) s) (((s.homeStore (.here key) 8 (s.rg d).toNat).fillWord key).after4 st)) ∧
      Gives (exec (.fefill st d a) s) (((s.homeStore (.here key) 8 (s.rg d).toNat).fillWord key).after4 st)) ∧
    (AtOnce s { g := [a] } st → NamesWord s ea key →
      Gives (exec (.feq st d a) s) ((s.wg d (if s.isFull key then 1 else 0)).after4 st)) ∧
    (AtOnce s { g := [a, b] } st →
      let c := (s.rg b).toNat
      c ≤ 16384 → scalarTagOk 8 false ea = true → (region va = 12 ∨ region va = 13) → va % 8 = 0 → s.feRefused va c = none →
      s.feHeld va c = false → (∀ k ∈ s.feKeys va c, s.bankChanging k = false) →
      Gives (exec (.feinit st a b) s) (((s.feKeys va c).foldl State.emptyWord s).after4 st))

/-- R277, R283, R419: in region 0xE, a FIFO port pops on `ldfe` and `ld.i64`, pushes on `stfe` and `st.64`, is counted by `feq` and
emptied by `feinit`, and `fefill` traps with ACCESS; a popped entry that an uncorrectable error struck is a poisoned result (R299). A STATUS
port is read by `ld.i64` and written by nothing. `ld.i64` and `st.64` in a device window read its word as a deferred result and act on the
window; a user access of the mailbox, an offset beyond the window and a write of the status page trap with ACCESS. What an offset without
stated contents holds is log 18; that INFO is the address as formed is log 78. -/
def Obligations.WindowAccesses : Prop :=
  (∀ (s : State) (st : Bool) (d a b : BitVec 5) (p : Port) (x : Word) (rest : List Word),
      let ea := adda (s.rg a) 0
      let va := addrOf ea
      let fifo := (s.clusterAt p.cluster).fifo p.bank
      let struck := (s.clusterAt p.cluster).fifoBad.contains (p.bank, 0)
      let popped :=
        ((s.onCluster p.cluster fun c =>
          { c.setFifo p.bank rest with
            fifoBad := (c.fifoBad.filter (· != (p.bank, 0))).map fun q => if q.1 = p.bank then (p.bank, q.2 - 1) else q }).wakeWaiters
          p.key false).deferredNow (.g d x) va (if struck then some { poisoned := true, addr := BitVec.ofNat 64 va, lanes := 1 } else none)
      let pushed := (s.onCluster p.cluster fun c => c.setFifo p.bank (c.fifo p.bank ++ [s.rg d])).wakeWaiters p.key true
      NamesPort s ea p →
      (AtOnce s { g := [a], pends := 1 } st → fifo = x :: rest → (st = true → struck = false) →
        Gives (exec (.ldfe st d a) s) (popped.after4 st) ∧ Gives (exec (.ldI64 st d a 0) s) (popped.after4 st)) ∧
      (AtOnce s { g := [d, a] } st →
        (fifo.length ≠ 16384 → Gives (exec (.stfe st d a) s) (pushed.after4 st) ∧ Gives (exec (.st64 st d a 0) s) (pushed.after4 st)) ∧
        exec (.fefill st d a) s = .next (s.unwait.takeTrap (mkTrap 0x07 (BitVec.ofNat 64 va)))) ∧
      (AtOnce s { g := [a] } st → Gives (exec (.feq st d a) s) ((s.wg d (BitVec.ofNat 64 fifo.length)).after4 st)) ∧
      (AtOnce s { g := [a, b] } st →
        Gives (exec (.feinit st a b) s) (((s.onCluster p.cluster fun c =>
          { c.setFifo p.bank [] with fifoBad := c.fifoBad.filter (·.1 != p.bank) }).wakeWaiters p.key false).after4 st))) ∧
  (∀ (s : State) (st : Bool) (d a : BitVec 5) (p : Port),
      let ea := adda (s.rg a) 0
      let va := addrOf ea
      scalarTagOk 8 false ea = true → region va = 14 → winKind va = 0 → va % 8 = 0 → s.portAt s.agent va = some p → p.status = true →
      (AtOnce s { g := [a], pends := 1 } st →
        Gives (exec (.ldI64 st d a 0) s)
          ((s.deferred (.g d (BitVec.ofNat 64 (16384 * 2 ^ 16 + ((s.clusterAt p.cluster).fifo p.bank).length))) va none).after4 st)) ∧
      (AtOnce s { g := [d, a] } st → exec (.st64 st d a 0) s = .next (s.unwait.takeTrap (mkTrap 0x07 (BitVec.ofNat 64 va))))) ∧
  (∀ (s : State) (st : Bool) (d a : BitVec 5) (o : BitVec 12) (q : BitVec 13),
      let le := adda (s.rg a) (o.signExtend 64 * 8)
      let se := adda (s.rg a) (q.signExtend 64 * 8)
      let names := fun ea : Word => scalarTagOk 8 false ea = true ∧ region (addrOf ea) = 14 ∧ winKind (addrOf ea) ≠ 0
      let reached := fun ea : Word =>
        winOff (addrOf ea) < (if winKind (addrOf ea) = 1 then 0x200000 else 0x1000) ∧ (winKind (addrOf ea) = 2 → s.cur.priv = true)
      let inWindow := fun ea : Word => names ea ∧ reached ea ∧ addrOf ea % 8 = 0
      let refuses := fun (i : Instr) (ea : Word) => exec i s = .next (s.unwait.takeTrap (mkTrap 0x07 (BitVec.ofNat 64 (addrOf ea))))
      (AtOnce s { g := [a], pends := 1 } st → names le → ¬reached le → refuses (.ldI64 st d a o) le) ∧
      (AtOnce s { g := [d, a] } st → names se → ¬reached se ∨ winKind (addrOf se) = 3 → refuses (.st64 st d a q) se) ∧
      (AtOnce s { g := [a], pends := 1 } st → inWindow le →
        Gives (exec (.ldI64 st d a o) s)
          ((s.deferred (.g d (s.winRead (winKind (addrOf le)) (winOff (addrOf le)))) (addrOf le) none).after4 st)) ∧
      (AtOnce s { g := [d, a] } st → inWindow se → winKind (addrOf se) ≠ 3 →
        Gives (exec (.st64 st d a q) s) ((s.winWrite (winKind (addrOf se)) (winOff (addrOf se)) (s.rg d)).after4 st)))

/-! ## The cluster cache and bank modes (R212, R278-R281) -/

/-- R212, R278-R281: the fence and the cache functions complete: `fence` waits until the core's earlier stores, reduce-adds among them, are
performed, `cflush` only waits, `cinv` drops unpinned lines from the cluster cache, `pref` requests lines, `pin` and `unpin` count pins and answer a status.
That `fence` performs the core's reduce-adds whatever kinds it names is log 20, the order of the statuses of `pin` log 21. `bankcfg` with no other request of the cluster under way is served at once: its status goes to g d, and an accepted request changes the
banks; a reserved mode traps with CLUSTER_CFG. -/
def Obligations.CacheAndBankWords : Prop :=
  (∀ (s : State) (st : Bool) (d a b : BitVec 5) (c : BitVec 3) (k : BitVec 4),
      let cl := clusterOf s.core.cid
      let va := s.cacheVa a
      (Issues s {} st → Gives (exec (.fence st c k) s) (s.performReduces.after4 st)) ∧
      (AtOnce s { g := [a, b] } st →
        Gives (exec (.cflush st a b) s) (s.after4 st) ∧
        (s.ownCluster.noCache = true → Gives (exec (.cinv st a b) s) (s.after4 st) ∧ Gives (exec (.pref st a b) s) (s.after4 st)) ∧
        (s.ownCluster.noCache = false →
          Gives (exec (.cinv st a b) s)
            ((s.onCluster cl fun x =>
              { x with
                lines := x.lines.filter fun l =>
                  x.pinned l || !(if s.ownCluster.lines.isEmpty then [] else s.linesOf va (min (s.rg b).toNat (2 ^ 56))).contains l }).after4 st) ∧
          Gives (exec (.pref st a b) s)
            (((s.linesOf va (min (s.rg b).toNat (2 ^ 20))).foldl (fun s l =>
              s.request { requester := s.core.cid, target := s.homeBank (64 * l), pa := 64 * l, len := 64, data := none, line := some (cl, l) }) s).after4 st))) ∧
      (AtOnce s { g := [a] } st → s.tlbFresh →
        (∀ l, s.pinStatus va = 0 → s.lineOf va = some l →
          Gives (exec (.pin st d a) s) (((s.onCluster cl fun x => x.addPin s.pinOwner l).wg d 0).after4 st)) ∧
        (s.pinStatus va ≠ 0 → Gives (exec (.pin st d a) s) ((s.wg d (BitVec.ofNat 64 (s.pinStatus va))).after4 st)) ∧
        (∀ l, s.lineOf va = some l → s.cur.launch.isSome = true → (s.ownCluster.pins.any fun p => p.launch == s.pinOwner && p.line == l) = true →
          Gives (exec (.unpin st d a) s) (((s.onCluster cl fun x => x.dropPin s.pinOwner l).wg d 0).after4 st)) ∧
        ((∀ l, s.lineOf va = some l →
            s.cur.launch.isSome = false ∨ (s.ownCluster.pins.any fun p => p.launch == s.pinOwner && p.line == l) = false) →
          Gives (exec (.unpin st d a) s) ((s.wg d 1).after4 st)))) ∧
  (∀ (s : State) (st : Bool) (d a b : BitVec 5), AtOnce s { g := [a, b] } st →
      let y := s.rg b
      let cl := clusterOf s.core.cid
      let r : BankReq := ⟨s.core.cid, s.cur.num, s.rg a, y.toNat, s.cur.launch⟩
      (2 < y.toNat → exec (.bankcfg st d a b) s = .next (s.unwait.takeTrap (mkTrap 0x17 0))) ∧
      (y.toNat ≤ 2 → s.core.posted = false → s.core.reply = .none → (s.clusterAt cl).bankReqs = [] → s.sramBusy = false →
        Gives (exec (.bankcfg st d a b) s)
          (((if s.bankStatus cl r = 0 ∧ r.mask ≠ 0 then s.changeBanks cl r.mask r.mode else s).wg d (BitVec.ofNat 64 (s.bankStatus cl r))).after4 st)))

/-! ## Special registers (R73-R77, R84, R105, R150, R186, R307, R320, R362, R365, R426) -/

/-- R8, R76, R105: `rds` writes the value of an assigned special to g d, and clears the RC fields it has read; an unassigned index
traps with ILLEGAL, a supervisor index in user mode with PRIVILEGE, and the record names the special (R257). -/
def Obligations.ReadSpecial : Prop :=
  ∀ (s : State) (st : Bool) (d : BitVec 5) (x : BitVec 12),
    let named := fun c : BitVec 8 => { mkTrap c (x.setWidth 64) with rclass := 5 }
    (AtOnce s { priv := decide (0x800 ≤ x.toNat) } st →
      (∀ v, s.readSpecial x = some v → Gives (exec (.rds st d x) s) (((s.clearRead x).wg d v).after4 st)) ∧
      (s.readSpecial x = none → exec (.rds st d x) s = .next (s.unwait.takeTrap (named 0x01)))) ∧
    (0x800 ≤ x.toNat → s.cur.priv = false → exec (.rds st d x) s = .next (s.unwait.takeTrap (named 0x02)))

/-- R76, R77, R105: `wrs` of an index without a row of its own writes the special when the value's fields are allowed and the shape
stays legal; else it traps with ILLEGAL or VSHAPE, naming the special (R257), and writes nothing. The writes that are rows of their own: VTYPE clamps VCOLS and VL
(R77), VBANK lowers and raises banks, the raised ones waking first, slot by slot (R84, R85; DEDUCED, log 94), CCLIMIT keeps 1 to ENTRIES (R150), SLOTPOL keeps R308 and swaps two frames later (R307),
REDCFG (R320), PROFILE selects (R426), ACCTCTL and TRPTR (R186), and the doorbells queue a descriptor (R362, R365). -/
def Obligations.WriteSpecial : Prop :=
  (∀ (s : State) (st : Bool) (a : BitVec 5) (x : BitVec 12), AtOnce s { priv := decide (0x800 ≤ x.toNat), g := [a] } st →
      let v := s.rg a
      let named := fun c : BitVec 8 => { mkTrap c (x.setWidth 64) with rclass := 5 }
      (s.fieldsOk x v = true → reservedValue x.toNat v = false → s.shapeOk x.toNat v.toNat = true →
        Gives (exec (.wrs st a x) s) ((s.putSpecial x v).after4 st)) ∧
      (s.fieldsOk x v = true → reservedValue x.toNat v = false → s.shapeOk x.toNat v.toNat = false →
        exec (.wrs st a x) s = .next (s.unwait.takeTrap (named 0x0B))) ∧
      ((s.fieldsOk x v = false ∨ reservedValue x.toNat v = true) → exec (.wrs st a x) s = .next (s.unwait.takeTrap (named 0x01)))) ∧
  (∀ (s : State) (st : Bool) (a : BitVec 5),
      let v := s.rg a
      let ok := fun x : Nat => s.fieldsOk (BitVec.ofNat 12 x) v = true ∧ reservedValue x v = false
      let user : Use := { priv := false, g := [a] }
      let super : Use := { priv := true, g := [a] }
      let die := dieOf s.core.cid
      (AtOnce s user st →
        (ok 0x006 → isType (v.extractLsb' 0 5) = true →
          let t := v.extractLsb' 0 5
          let cols := min s.cur.sp.vcols (1024 / width t)
          Gives (exec (.wrsVtype st a) s)
            ((s.onSp fun p => { p with vtype := t, vcols := cols, vl := min p.vl (p.vrows * cols) }).after4 st)) ∧
        (ok 0x024 → (∀ b ∈ [0, 1, 2, 3], bankState v b ≠ 3) →
          let old := bankState s.cur.sp.vbank
          let raised := [0, 1, 2, 3].filter fun b => bankState v b = 0 ∧ old b ≠ 0
          let lost := [0, 1, 2, 3].filter fun b => bankState v b = 2 ∨ old b = 2 ∧ bankState v b = 1
          (raised = [] →
            Gives (exec (.wrsVbank st a) s) (((s.onCur fun t => lost.foldl Strand.loseBank t).onSp fun p => { p with vbank := v }).after4 st)) ∧
          (raised ≠ [] →
            ∃ t, exec (.wrsVbank st a) s = .next t ∧ t.cur.pc = s.cur.pc ∧ t.core.cycle = s.core.cycle + 1 ∧
              (∀ b < 4, bankState t.cur.sp.vbank b = if b ∈ raised then 0 else old b) ∧
              t.cur.powerTill = s.core.cycle + if ∃ b ∈ raised, old b ≠ 1 then 40 else 12)) ∧
        (ok 0x023 → 1 ≤ v.toNat → v.toNat ≤ s.core.entriesOk →
          Gives (exec (.wrsCclimit st a) s) ((s.onFocus fun c => { c with cclimit := v }).after4 st))) ∧
      (AtOnce s super st →
        (ok 0x841 → slotpolOk v = true →
          Gives (exec (.wrsSlotpol st a) s) ((s.onDie die fun d => { d with slotpol := v, slotpolNext := some (v, 2) }).after4 st)) ∧
        (ok 0x840 → v.getLsbD 63 = (s.dieAt die).redcfg.getLsbD 63 ∨ s.reduceInFlight die = false →
          Gives (exec (.wrsRedcfg st a) s)
            (((if (s.dieAt die).redcfg.getLsbD 63 && !v.getLsbD 63 then s.drainDie die fun _ => true else s).onDie die fun d =>
              { d with redcfg := (v &&& bits 63 63) ||| (d.redcfg &&& bits 62 62 &&& ~~~v) }).after4 st)) ∧
        (ok 0x880 → v.extractLsb' 0 2 ≠ 3 → Gives (exec (.wrsProfile st a) s) ((s.onPkg (·.select (v.extractLsb' 0 2))).after4 st)) ∧
        (ok 0x813 → 10 ≤ (v.extractLsb' 0 5).toNat → (v.extractLsb' 0 5).toNat ≤ 24 → v.getLsbD 63 = false →
          Gives (exec (.wrsAcctctl st a) s) ((s.onFocus fun c => { c with acctctl := acctctlAfter c.acctctl v }).after4 st)) ∧
        (ok 0x815 → s.core.lost = Vector.replicate 16 0 →
          Gives (exec (.wrsTrptr st a) s) ((s.onFocus fun c => { c with trptr := v }).after4 st)) ∧
        (ok 0x863 → s.pkg.migQueue.length < 64 →
          Gives (exec (.wrsMigdoor st a) s) ((s.onPkg fun p => { p with migQueue := p.migQueue ++ [v.toNat] }).after4 st)) ∧
        (ok 0x864 → s.pkg.dumpQueue.length < 64 →
          Gives (exec (.wrsDumpdoor st a) s) ((s.onPkg fun p => { p with dumpQueue := p.dumpQueue ++ [v.toNat] }).after4 st))))

/-! ## Traps, handlers and the system words (R251-R259, R264, R355, R356) -/

/-- R251-R253, R256, R257: a trap of a strand that is no handler, has a handler PC and finds a free slot is delivered: its image and its
record go to the lowest free slot, and the handler strand takes the core at once, with the registers that R253 gives. The record is
2,048 bytes: STATUS with its fields, PC, NEXTPC, INFO, WORD, RESUMEPC, DEADG, the G and SPEC areas, and LANES, all else zero. Where its
bytes go is log 10, and that they are lost where the slot area leads nowhere log 13. -/
def Obligations.TrapDelivery : Prop :=
  (∀ (s : State) (i : TrapInfo) (n : Nat), s.core.running = true → s.core.exact = false → s.cur.pend = [] →
    s.cur.handler = none → s.cur.sp.trapvec ≠ 0 → s.core.freeSlot = some n → i.settledAt = none → s.noTrim →
    Delivered s (s.takeTrap i) n (s.recorded i)) ∧
  (∀ (i : TrapInfo) (t : Strand),
    let b := trapRecordBytes i t
    let w := recWord b
    let size : Word := if i.word.extractLsb' 25 6 = 0x3E then 8 else 4
    let p := t.sp
    b.length = 2048 ∧
    (w 0 = 0#8 ++ i.ecode ++ BitVec.ofNat 8 i.attempts ++ BitVec.ofNat 8 t.num ++ 0#8 ++ 0#1 ++ BitVec.ofBool i.settledAt.isSome ++ i.rclass ++
      i.reg ++ 0#6 ++ i.cause) ∧
    (i.settledAt = none → i.cause ≠ 0x13 → w 1 = t.pc ∧ w 2 = t.pc + size ∧ w 5 = if i.cause = 0x1C then t.pc + size else t.pc) ∧
    (i.settledAt = none → i.cause = 0x13 → w 1 = 0) ∧
    (∀ q r, i.settledAt = some (q, r) → w 1 = q ∧ w 2 = q + size ∧ w 5 = r) ∧
    w 3 = i.info ∧ w 4 = i.word ∧ w 6 = t.gdead.setWidth 64 ∧ w 7 = 0 ∧
    (∀ r : BitVec 5, w (8 + r.toNat) = t.readG r) ∧
    w 40 = p.fpcr ∧ w 41 = p.fpsr ∧ w 42 = (p.sflags &&& ~~~4#64) ||| (if p.fpsr.getLsbD 5 then 4#64 else 0#64) ∧ w 43 = p.sctl ∧
    w 44 = p.wlimit ∧ w 45 = p.xsel ∧ w 46 = p.vbank ∧ w 47 = p.acctcfg ∧ (∀ k, 48 ≤ k → k < 128 → w k = 0) ∧
    BitVec.ofNat 8192 (leValue (b.drop 1024)) = i.lanes)

/-- R30, R259: `trap` is delivered as USER with INFO the register; ILLEGAL and every word of R30 as ILLEGAL: the next state is the
delivered trap, at the word's own PC. Where the record's bytes go is logs 10 and 13. -/
def Obligations.TrapWords : Prop :=
  ∀ (s : State) (st : Bool) (a : BitVec 5) (r : EncodingFault) (w : BitVec 32) (n : Nat), s.cur.pend = [] →
    s.cur.handler = none → s.cur.sp.trapvec ≠ 0 → s.core.freeSlot = some n → s.noTrim →
    let is := fun i : TrapInfo => s.recorded i
    (AtOnce s { g := [a] } st → ∃ t, exec (.trap st a) s = .next t ∧ Delivered s t n (is (mkTrap 0x1C (s.rg a)))) ∧
    (AtOnce s {} st → ∃ t, exec (.illegal st) s = .next t ∧ Delivered s t n (is (mkTrap 0x01 0))) ∧
    (AtOnce s {} (w.getLsbD 31) → ∃ t, exec (.unassignedEncoding r w) s = .next t ∧ Delivered s t n (is (mkTrap 0x01 0)))

/-- R254, R255: a trap in a handler, and a trap of a strand whose TRAPVEC is 0, start no handler: the strand is gone from the core,
and its launch, if it was placed, is being cancelled with DOUBLE_TRAP or UNHANDLED. -/
def Obligations.TrapWithoutHandler : Prop :=
  ∀ (s : State) (i : TrapInfo) (l : Nat) (x : Launch), s.core.running = true → s.core.exact = false → s.cur.pend = [] →
    i.settledAt = none → s.cur.launch = some l → x ∈ s.pkg.launches → x.id = l → x.phase = .placed →
    let ends := fun code : BitVec 8 => (s.takeTrap i).core.running = false ∧
      ∃ y ∈ (s.takeTrap i).pkg.launches, y.id = l ∧ y.phase = .cancelling code
    (s.cur.handler = none → s.cur.sp.trapvec = 0 → ends 0x21) ∧
    (∀ h, s.cur.handler = some h → ends 0x22 ∧ ∀ k ∈ (s.takeTrap i).core.trapSlots, k.slot ≠ h.slot)

/-- R31, R76, R83, R172: before its own effect an instruction checks its privilege (PRIVILEGE), the deposit registers among its
sources (an empty one suspends the strand at its own PC with every register kept), and under DEADTRAP the first dead source (DEAD_READ,
with the register in the record), the first of its sources as log 103 orders them. R91, R180: while the latency of a source runs, the instruction only waits: nothing changes but the
accounting. -/
def Obligations.IssueChecks : Prop :=
  (∀ (s : State) (st : Bool) (a b : BitVec 5), s.cur.priv = false →
    let traps := fun i : Instr => exec i s = .next (s.unwait.takeTrap (mkTrap 0x02 0))
    traps (.mapfence st) ∧ traps (.tlbinv st a b) ∧ traps (.rett st a) ∧ (s.cur.handler = none → traps (.park st a))) ∧
  (∀ (s : State) (st : Bool) (d a b : BitVec 5), s.cur.sp.sctl.getLsbD 2 = true → s.cur.emptySources { g := [a, b] } = 0 →
    s.cur.powerTill ≤ s.core.cycle →
    (s.cur.deadG a = true →
      exec (.add st d a b 0 false) s = .next (s.unwait.takeTrap { mkTrap 0x08 0 with rclass := 1, reg := a })) ∧
    (s.cur.deadG a = false → s.cur.deadG b = true →
      exec (.add st d a b 0 false) s = .next (s.unwait.takeTrap { mkTrap 0x08 0 with rclass := 1, reg := b }))) ∧
  (∀ (s : State) (st : Bool) (d a : BitVec 5) (i : BitVec 15), s.core.running = true → s.core.exact = false → s.cur.pend = [] →
    s.cur.emptyG a = true →
    ∃ t c, exec (.addi st d a i) s = .next t ∧ t.core.running = false ∧
      ∃ j ∈ t.core.images, j.st.num = s.cur.num ∧ j.st.pc = s.cur.pc ∧ j.st.g = s.cur.g ∧
        j.cond = .deposit (1#4 <<< (depositIx a).toNat) c) ∧
  (∀ (s : State) (st : Bool) (d a b : BitVec 5), s.core.running = true → s.core.exact = false → s.core.vq = [] → s.cur.pend.length ≤ 16 →
    s.cur.emptySources { g := [a, b] } = 0 → s.cur.deadSource { g := [a, b] } = none → s.depWait { g := [a, b] } ≠ 0 →
    ∃ t, Like t s ∧ exec (.add st d a b 0 false) s = .next t)

/-- R259, R355, R356: `synci` empties the instruction cache, `mapfence` and `tlbinv` wait until the core's earlier stores, reduce-adds among
them, are performed; `tlbinv`, with no access in flight that has translated its address, drops the cached translations that cover an
address, those of an address space, or all; a reserved operand of it traps with ILLEGAL. -/
def Obligations.FenceWords : Prop :=
  ∀ (s : State) (st : Bool) (a b : BitVec 5),
    let x := s.rg a
    let y := s.rg b
    let asid := y.extractLsb' 2 12
    let r := s.performReduces
    let left := fun l : List TlbEntry => Gives (exec (.tlbinv st a b) s) (({ r with tlb := l } : State).after4 st)
    (Issues s {} st → Gives (exec (.synci st) s) ((s.onFocus fun c => { c with icache := [] }).after4 st)) ∧
    (Issues s { priv := true } st → Gives (exec (.mapfence st) s) (r.after4 st)) ∧
    (AtOnce s { priv := true, g := [a, b] } st →
      (y.extractLsb' 14 50 ≠ 0 ∨ y.extractLsb' 0 2 = 3 → exec (.tlbinv st a b) s = .next (s.unwait.takeTrap (mkTrap 0x01 0))) ∧
      ((∀ m ∈ s.flight, ∀ k, m.translated = some k → isGlobalKey k = false) →
        (y.extractLsb' 14 50 = 0 → y.extractLsb' 0 2 = 0 →
          left (r.tlb.filter fun e => !(e.asid == asid && e.page == addrOf x / e.kind.size))) ∧
        (y.extractLsb' 14 50 = 0 → y.extractLsb' 0 2 = 1 → left (r.tlb.filter fun e => e.asid != asid)) ∧
        (y.extractLsb' 14 50 = 0 → y.extractLsb' 0 2 = 2 → left [])))

/-- R259, R264: `rett` with 0 brings the trapped strand back at RESUMEPC with the registers of G, the marks of DEADG and the specials of SPEC,
over which deposits that came meanwhile stand, and frees the slot; a held result that `uefix` has repaired lands as `State.returned` says (log 48); with 1 the trapped strand ends;
with matrix state saved and not taken back it traps with MATRIX_OWNED (R246); `park` takes the strand off the core, which then resumes none for the cycles given. `uefix` in a handler of
UNCORRECTABLE or POISONED copies the lanes of the record from its register into the trapped strand's register or held result (log 55), changes
no register when the record names none, and marks the record; elsewhere it traps with ILLEGAL. The record is read through the address space
of the strand (log 10); INFO in it is as log 78 says. -/
def Obligations.HandlerWords : Prop :=
  (∀ (s : State) (st : Bool) (a : BitVec 5) (h : HandlerCtx) (i : Image),
      AtOnce s { priv := true, g := [a], holds := fun s => s.rettWaits (s.rg a) } st → s.cur.pend = [] →
      s.cur.handler = some h → s.cur.sp.traprec ≠ 0 → s.trappedImage = some i → s.flight = [] → s.core.mx.queue = [] →
      ((s.rg a).toNat ≤ 1 → h.mxowed = true →
        ∃ t, Like t s ∧ exec (.rett st a) s = .next (t.unwait.takeTrap (mkTrap 0x18 0))) ∧
      (s.rg a = 0 → h.mxowed = false → s.tlbFresh → s.heldHere s.supervisor (s.core.slotBase h.slot) 2048 →
        s.core.heldEntries ≤ s.core.entryLimit →
        let b := s.loadVa s.supervisor (s.core.slotBase h.slot) 2048
        let w := recWord b
        let came := fun r : BitVec 5 => if 24 ≤ r.toNat ∧ r.toNat < 28 then (i.slots[r.toNat - 24]?).join else none
        i.st.recordOk b = true →
        ∃ t, exec (.rett st a) s = .next t ∧ t.core.running = true ∧ t.cur.num = i.st.num ∧ t.cur.pc = w 5 ∧
          t.cur.g = (s.returned i h b).2.g ∧ t.cur.sp = (s.returned i h b).2.sp ∧
          (h.uefixed = false ∨ i.st.trapDue.bind (·.held) = none →
            (∀ r : BitVec 5, r ≠ 0 →
              t.cur.readG r = (came r).getD (w (8 + r.toNat)) ∧ t.cur.gdead.getLsbD r.toNat = ((came r).isNone && (w 6).getLsbD r.toNat)) ∧
            t.cur.sp =
              { i.st.sp with
                fpcr := w 40, fpsr := (w 41 &&& ~~~0x20#64) ||| (if (w 42).getLsbD 2 then 0x20 else 0), sflags := w 42 &&& 0xB
                sctl := w 43, wlimit := w 44, xsel := w 45, vbank := w 46, acctcfg := w 47 }) ∧
          t.core.trapSlots = s.core.trapSlots.filter (·.slot != h.slot) ∧ t.mem = s.mem) ∧
      (s.rg a = 1 → h.mxowed = false → s.exitBlocked i.deposited = false →
        ∃ t, exec (.rett st a) s = .next t ∧ t.core.running = false ∧ t.core.trapSlots = s.core.trapSlots.filter (·.slot != h.slot))) ∧
  (∀ (s : State) (st : Bool) (a : BitVec 5), AtOnce s { priv := true, g := [a] } st → s.cur.pend = [] → s.cur.handler = none →
      ∃ t, exec (.park st a) s = .next t ∧ t.core.running = false ∧
        t.core.parkedTill = some (if s.rg a = 0 then none else some (t.core.cycle + (s.rg a).toNat)) ∧
        ∃ j ∈ t.core.images, j.st.num = s.cur.num ∧ j.st.pc = s.cur.pc + 4 ∧ j.cond = .parked none) ∧
  (∀ (s : State) (st : Bool) (a : BitVec 5),
      (∀ h i t, s.served = some (h, i, t) → t.cause = 0x0E ∨ t.cause = 0x0F → uefixFits t.rclass a = true →
        (AtOnce s (uefixUse t.rclass a) st → Gives (exec (.uefix st a) s) ((s.uefix h i t a).after4 st)) ∧
        ∃ j, (s.uefix h i t a).trappedImage = some j ∧ j.place = i.place ∧ j.st.g = i.st.g ∧
          (t.settledAt = none → t.rclass = 0 → j.st.vf = i.st.vf ∧ j.st.vdead = i.st.vdead) ∧
          (t.settledAt = none → t.rclass = 2 → i.st.partners = [] → i.st.sp.gangsz ≤ 1 →
            let w := width i.st.sp.vtype
            let c := i.st.sp.vcols
            0 < c → w * c ≤ 1024 →
            j.st.vdead.getLsbD t.reg.toNat = false ∧
            ∀ n k, n < 32 * c → k < w →
              let at_ := 1024 * (n / c) + w * (n % c) + k
              (j.st.vf.getV t.reg).bits.getLsbD at_ =
                if t.lanes.getLsbD n then (s.cur.vf.getV a).bits.getLsbD at_ else (i.st.vf.getV t.reg).bits.getLsbD at_) ∧
          (t.settledAt ≠ none → j.st.vf = i.st.vf ∧
            ∀ e, t.held = some e → ∃ f, j.st.trapDue.bind (·.held) = some f ∧
              (∀ r x, e.wr = .g r x → f.wr = .g r (s.rg a)) ∧
              ∀ r xs, e.wr = .m r xs → f.wr = .m r (xs.map fun x => (x &&& ~~~t.lanes) ||| (s.cur.vf.getM (a.extractLsb' 0 4) &&& t.lanes)))) ∧
      (s.cur.handler = none → AtOnce s {} st → exec (.uefix st a) s = .next (s.unwait.takeTrap (mkTrap 0x01 0))))

/-! ## Tokens and strands (R152-R170) -/

/-- R152-R159: the token words. A free cell is armed by `toka`, freed by `tokf`, re-armed under a new generation by `tokr`, read (and
observed) by `tokt`; `toks` and `toke` send a message; a foreign handle traps with TOKEN_FOREIGN. -/
def Obligations.TokenWords : Prop :=
  ∀ (s : State) (st : Bool) (d a b : BitVec 5),
    let h := s.rg a
    let own := hGen h = 0 ∨ hPrefix h = hPrefix s.cur.sp.self
    let stale := s.onSp fun p => { p with sflags := p.sflags ||| 8 }
    (AtOnce s { g := [a] } st →
      (∀ tok r, s.allocCell 0 (h.extractLsb' 0 16).toNat = some (tok, r) → Gives (exec (.toka st d a) s) ((r.wg d tok).after4 st)) ∧
      (s.allocCell 0 (h.extractLsb' 0 16).toNat = none → Gives (exec (.toka st d a) s) ((s.wg d 0).after4 st)) ∧
      (own → s.core.liveHandle h = true → Gives (exec (.tokf st a) s) ((s.onFocus (·.freeCell (hCell h))).after4 st)) ∧
      (own → s.core.liveHandle h = false → Gives (exec (.tokf st a) s) (stale.after4 st)) ∧
      (own → s.flight = [] → s.core.mx.queue = [] →
        let x := s.core.status h
        let r := if observes x then s.observe h else s
        (st = true → r.cur.Calm) →
        Gives (exec (.tokt st d a) s) (((if x = 2 then r.onSp fun p => { p with sflags := p.sflags ||| 8 } else r).wg d x).after4 st)) ∧
      (¬own → exec (.tokf st a) s = .next (s.unwait.takeTrap (mkTrap 0x10 h)) ∧
        exec (.tokt st d a) s = .next (s.unwait.takeTrap (mkTrap 0x10 h))) ∧
      Gives (exec (.toks st a) s) ((s.strandSend h (.signal h)).after4 st)) ∧
    (AtOnce s { g := [a, b] } st →
      let n := ((s.rg b).extractLsb' 0 16).toNat
      let e := (s.rg b).extractLsb' 0 8
      (own → s.core.liveHandle h = true →
        Gives (exec (.tokr st d a b) s) (((s.onFocus (·.rearm h n)).wg d (withGen h (nextGen (hGen h)))).after4 st)) ∧
      (own → s.core.liveHandle h = false → Gives (exec (.tokr st d a b) s) ((stale.wg d 0).after4 st)) ∧
      Gives (exec (.toke st a b) s) ((s.strandSend h (.fail h (if e = 0 then 1 else e))).after4 st))

/-- R152, R155: where a signal goes and what it does. A handle of the own core that matches a cell in use sends a message due 2 cycles later;
one that does not, or names a FREE cell, is discarded, counted in STALECNT, and sets STALE. At the cell, ARMED counts down to SIGNALLED or
becomes FAILED; a FREE cell counts a stale message, a settled cell stays and counts a late one. -/
def Obligations.TokenMessages : Prop :=
  (∀ (s : State) (h : Word) (b : MsgBody), hNode h = s.node → hCore h = some s.core.cid → s.node < s.nodes →
    (s.core.hMatches h = true → (s.core.cell (hCell h)).st ≠ .free →
      s.strandSend h b = { s with flight := s.flight ++ [⟨s.core.cid, s.core.cid, some (s.core.cycle + 2), b⟩] }) ∧
    (s.core.hMatches h = false ∨ (s.core.cell (hCell h)).st = .free →
      s.strandSend h b = (s.onFocus fun c => { c with stalecnt := satField c.stalecnt 0 24 }).onSp fun p => { p with sflags := p.sflags ||| 8 })) ∧
  (∀ (c : Core) (h : Word) (e : BitVec 8), c.hMatches h = true →
    let i := hCell h
    let x := c.cell i
    (∀ n, x.st = .armed n → 1 < n → (c.signal h).cell i = { x with st := .armed (n - 1) }) ∧
    (∀ n, x.st = .armed n → n ≤ 1 → x.orphan = false → (c.signal h).cell i = { x with st := .signalled, sigTime := c.cycle }) ∧
    (∀ n, x.st = .armed n → x.orphan = false → (c.fail h e).cell i = { x with st := .failed e, sigTime := c.cycle }) ∧
    (x.st = .free → c.signal h = { c with stalecnt := satField c.stalecnt 0 24 } ∧ c.fail h e = { c with stalecnt := satField c.stalecnt 0 24 }) ∧
    ((x.st = .signalled ∨ ∃ f, x.st = .failed f) →
      c.signal h = { c with stalecnt := satField c.stalecnt 24 24 } ∧ c.fail h e = { c with stalecnt := satField c.stalecnt 24 24 }))

/-- R160, R161: an `await` of a token that is not ARMED goes on with its status in g d, the registers outside the live set killed; of
one that is ARMED, it suspends the strand. A `yield` with no other strand runnable goes on. -/
def Obligations.AwaitAndYield : Prop :=
  ∀ (s : State) (st : Bool) (d a : BitVec 5) (l : BitVec 10) (e : BitVec 128) (key : Nat), s.cur.pend = [] → s.cur.handler = none →
    s.cur.batch = none → s.flight = [] → s.core.mx.queue = [] → HasLiveSet s l.toNat e key →
    let r := (s.opened (liveAddr s l.toNat) key 16).onCur (·.kill e)
    let h := s.rg a
    let x := r.core.status h
    (AtOnce s { g := [a] } st → (hGen h = 0 ∨ hPrefix h = hPrefix s.cur.sp.self) →
      (x ≠ 1 → Gives (exec (.await st d a l) s) (((if observes x then r.observe h else r).wg d x).after4 st)) ∧
      (x = 1 → liveAcc e = false →
        ∃ t, exec (.await st d a l) s = .next t ∧ t.core.running = false ∧
          ∃ i ∈ t.core.images, i.st.num = s.cur.num ∧ i.st.pc = s.cur.pc + 4 ∧ i.st.g = r.cur.g ∧ i.cond = .cell h ∧
            i.resume = .await d h st)) ∧
    (AtOnce s {} st → s.core.rlog = false → s.core.replay = false → s.core.images.all (fun i => !i.runnable) = true →
      Gives (exec (.yield st l) s) (r.after4 st))

/-- R166, R167: `spawn` with a free number and cell starts a child at an aligned PC with the argument in g4, and g d holds the token of
its end; `exit` takes the strand off the core. A misaligned PC traps with PC_ALIGN. -/
def Obligations.SpawnAndExit : Prop :=
  ∀ (s : State) (st : Bool) (d a b : BitVec 5), s.cur.handler = none →
    (AtOnce s { g := [a, b] } st →
      ((s.rg a).extractLsb' 0 2 = 0 →
        (∀ n h r, s.core.freeNum = some n → s.allocCell 0 1 = some (h, r) →
          Gives (exec (.spawn st d a b) s)
            (((r.onFocus fun c => c.addStrand (s.child n (s.rg a) (s.rg b) h) c.cycle).wg d h).after4 st)) ∧
        (s.core.freeNum = none → Gives (exec (.spawn st d a b) s) ((s.wg d 0).after4 st))) ∧
      ((s.rg a).extractLsb' 0 2 ≠ 0 → exec (.spawn st d a b) s = .next (s.unwait.takeTrap (mkTrap 0x03 0)))) ∧
    (AtOnce s { holds := fun s => s.exitBlocked s.cur } st → s.cur.pend = [] → s.flight = [] → s.core.mx.queue = [] →
      ∃ t, exec (.exit st) s = .next t ∧ t.core.running = false ∧ t.mem = s.mem)

/-- R168-R170: `hop` to an address that is not another core's stays with a status; to a core that can take the strand it leaves as a
message. `deposit` sends its value, `prio` sets the priority, `self` reads what the operand asks for. -/
def Obligations.HopDepositSelf : Prop :=
  ∀ (s : State) (st : Bool) (d a b : BitVec 5),
    (∀ e key, AtOnce s { g := [a, b] } st → s.cur.pend = [] → s.flight = [] → s.core.mx.queue = [] → s.cur.handler = none → s.cur.batch = none →
      let ix := ((s.rg b).extractLsb' 0 10).toNat
      let va := addrOf (s.rg a)
      let r := s.opened (liveAddr s ix) key 16
      HasLiveSet s ix e key → popCount (liveG e) ≤ 16 → liveV e = 0 → liveM e = 0 → liveC e = 0 → liveAcc e = false →
      s.cur.vf.xm = 0 → s.cur.vf.fltm = 0 →
      (region va = 12 ∨ region va = 14 ∨ region va = 15 →
        Gives (exec (.hop st d a b) s) (((r.onCur (·.kill e)).wg d 1).after4 st)) ∧
      (∀ c, region va = 13 → s.scratchAt s.agent va 1 ≠ none → s.pkg.links = [] → r.hopStatus va = .inr c →
        ∃ t u, exec (.hop st d a b) s = .next t ∧ t.core.running = false ∧ ⟨s.core.cid, s.core.cid, none, .hop u c d⟩ ∈ t.flight ∧
          u.num = s.cur.num ∧ u.pc = s.cur.pc + 4 ∧ u.g = (s.cur.kill e).g)) ∧
    (AtOnce s { g := [a, b] } st → isDepositReg d = true →
      Gives (exec (.deposit st d a b) s) ((s.sendTo (s.rg a) (.deposit (s.rg a) d (s.rg b) (senderKey s.core.cid s.cur.num))).after4 st)) ∧
    (AtOnce s {} st → isDepositReg d = false → exec (.deposit st d a b) s = .next (s.unwait.takeTrap (mkTrap 0x01 0))) ∧
    (AtOnce s { g := [a] } st →
      Gives (exec (.prio st a) s)
        ((s.onSp fun p => { p with sctl := (p.sctl &&& ~~~3#64) ||| ((s.rg a).extractLsb' 0 2).setWidth 64 }).after4 st) ∧
      Gives (exec (.self st d a) s)
        ((s.wg d (match (s.rg a).toNat with
          | 0 => s.cur.sp.self
          | 1 => s.cur.sp.self &&& ~~~bits 42 0
          | 2 => BitVec.ofNat 64 s.core.freeNums
          | 3 => BitVec.ofNat 64 s.core.freeCells
          | _ => 0)).after4 st))

/-! ## Couloir, accounting and streams (R184, R185, R219-R221, R400-R407) -/

/-- R404-R407: the chain words of an item of an ordered launch. `pub` makes a publication once, `cadv` the missing ones and closes the
chain, `cxq` reports on an operand; a strand that is no such item traps with CHAIN_CFG. `item` answers every strand. -/
def Obligations.ChainWords : Prop :=
  ∀ (s : State) (st : Bool) (d a : BitVec 5),
    let bit := fun (c : Prop) (n : Word) => fun [Decidable c] => if c then n else 0#64
    (∀ l i, s.orderedOf s.cur = some l → l.item s.cur.itemIx = some i →
      let j := s.cur.itemIx
      (AtOnce s { g := [a], holds := fun s => s.pubWaits a } st → l.carries a = true →
        (i.closed = true ∨ (l.pub j a).isSome = true → Gives (exec (.pub st d a) s) ((s.wg d 1).after4 st)) ∧
        (i.closed = false → l.pub j a = none → l.slotFree j a = true →
          Gives (exec (.pub st d a) s) (((s.publish l j a (s.rg a) false).wg d 0).after4 st))) ∧
      (AtOnce s { holds := State.cadvWaits, glate := s.cadvReads } st →
        (i.closed = true → Gives (exec (.cadv st) s) (s.after4 st)) ∧
        (i.closed = false → (∀ r ∈ l.unpublished j, l.slotFree j r = true) →
          Gives (exec (.cadv st) s) ((s.closeChain s.cur l false).after4 st))) ∧
      (AtOnce s { g := [a], holds := fun s => s.cxqWaits (s.rg a) } st → ∀ (r : BitVec 3) (k : Nat), 1 ≤ k → k ≤ 3 → l.carries (16 + r.setWidth 5) = true →
        s.rg a = BitVec.ofNat 64 (16 * k + r.toNat) →
        let n : BitVec 5 := 16 + r.setWidth 5
        let p := if j < k then none else l.pub (j - k) n
        Gives (exec (.cxq st d a) s)
          ((s.wg d (bit (j < k ∨ ∃ q ∈ p, s.chainHere q = true) 1 + bit (∃ q ∈ p, q.early = true) 2 + bit (j < k) 4 +
            bit (i.closed = true ∨ i.cur n < k) 8 + bit (k ≤ j ∧ p = none ∧ l.isLost (j - k) = true) 16)).after4 st))) ∧
    (s.orderedOf s.cur = none → AtOnce s {} st → exec (.cadv st) s = .next (s.unwait.takeTrap (mkTrap 0x1D 0))) ∧
    (AtOnce s { g := [a] } st →
      (s.rg a = 0 → Gives (exec (.item st d a) s) ((s.wg d s.cur.sp.item).after4 st)) ∧
      ∀ l, s.cur.launch.bind s.launchOf = some l →
        (s.rg a = 1 → Gives (exec (.item st d a) s) ((s.wg d (BitVec.ofNat 64 l.lowest)).after4 st)) ∧
        (s.rg a = 2 → Gives (exec (.item st d a) s) ((s.wg d (BitVec.ofNat 64 l.highest)).after4 st)) ∧
        (s.rg a = 3 → ∀ t, l.ordered = true → l.earlyExit = some t → Gives (exec (.item st d a) s) ((s.wg d (BitVec.ofNat 64 t)).after4 st)) ∧
        (s.rg a = 3 → l.ordered = false ∨ l.earlyExit = none → Gives (exec (.item st d a) s) ((s.wg d (BitVec.allOnes 64)).after4 st)) ∧
        (s.rg a = 4 → Gives (exec (.item st d a) s) ((s.wg d (BitVec.ofNat 64 l.items)).after4 st)) ∧
        (4 < (s.rg a).toNat → Gives (exec (.item st d a) s) ((s.wg d (BitVec.allOnes 64)).after4 st)))

/-- R184-R188: `acctrd` reads a counter of the strand or of the core, or their sum; `acctclr` clears the strand's counters that a mask
names before its own slot is charged; `mark` and `acctclr` change nothing else. Setting ACCTCTL.EXACT writes a time record, and the
write's own slot opens the first run. -/
def Obligations.AccountingWords : Prop :=
  (∀ (s : State) (st : Bool) (d a : BitVec 5), AtOnce s { g := [a] } st →
    let x := s.rg a
    let sum := fun (w : Nat) (v : Vector (BitVec w) 16) => (v.toList.map BitVec.toNat).sum
    (∀ c : Fin 16,
      (x = BitVec.ofNat 64 c.val → Gives (exec (.acctrd st d a) s) ((s.wg d (s.cur.counters[c].setWidth 64)).after4 st)) ∧
      (x = BitVec.ofNat 64 (256 + c.val) → Gives (exec (.acctrd st d a) s) ((s.wg d s.core.acct[c]).after4 st))) ∧
    (x = 16 → Gives (exec (.acctrd st d a) s) ((s.wg d (BitVec.ofNat 64 (sum 48 s.cur.counters % 2 ^ 48))).after4 st)) ∧
    (x = 272 → Gives (exec (.acctrd st d a) s) ((s.wg d (BitVec.ofNat 64 (sum 64 s.core.acct))).after4 st)) ∧
    Gives (exec (.mark st a) s) (s.after4 st) ∧
    Gives (exec (.acctclr st a) s) (s.after4 st) ∧
    (st = false → ∃ t, exec (.acctclr st a) s = .next t ∧
      ∀ i : Fin 16, t.cur.counters[i] = (if x.getLsbD i.val then 0 else s.cur.counters[i]) + (if i.val = 0 then 1 else 0))) ∧
  (∀ (s : State) (a : BitVec 5), AtOnce s { priv := true, g := [a] } false →
    let v := s.rg a
    let c := { s.core with acctctl := acctctlAfter s.core.acctctl v }
    s.fieldsOk 0x813 v = true → 10 ≤ (v.extractLsb' 0 5).toNat → (v.extractLsb' 0 5).toNat ≤ 24 → v.getLsbD 63 = true →
    s.core.lost = Vector.replicate 16 0 → c.ringFull = false →
    ∃ t, exec (.wrsAcctctl false a) s = .next t ∧ t.core.acctctl = c.acctctl ∧ t.cur.pc = s.cur.pc + 4 ∧
      t.core.trptr.extractLsb' 0 32 = s.core.trptr.extractLsb' 0 32 + 1 ∧
      t.core.run = some ⟨.issue, s.cur.num, s.cur.pc, s.cur.pc + 4, 1⟩)

/-- R219-R221: `sbind` adds a binding with its count and its first block (an empty block is there at once, and its elements read 0), `sunb` ends one and its token is signalled once no drain is
under way, `sq` reads one. A second binding of a register, a fifth binding, a count of 0 and a set bit of y[62:32] trap with STREAM_STATE. `sunb` with
drains under way gives them its token, which the last of them signals or fails. -/
def Obligations.StreamWords : Prop :=
  ∀ (s : State) (st : Bool) (d a b : BitVec 5),
    let x := s.rg a
    let y := s.rg b
    let n := (y.extractLsb' 0 32).toNat
    let bd : Binding :=
      { reg := d, out := y.getLsbD 63, etype := s.vt, cols := s.vcols, cursor := x, bit := 0, remaining := n
        blockLen := if y.getLsbD 63 then 0 else min s.vl n, arrived := y.getLsbD 63 || decide (min s.vl n = 0), drains := 0, failed := 0
        faults := 0, written := [], taken := [] }
    let begun := fun t : Strand => if bd.out = false ∧ bd.blockLen = 0 then t.fill s.own bd [] else t
    (AtOnce s { g := [a, b], vnew := [d] } st → s.plainTag x 0 = true →
      s.bindCheck (if y.getLsbD 63 then .write else .read) (addrOf x) (elAlign (memWidth s.vt)) (ceilDiv (n * memWidth s.vt) 8) = none →
      (s.cur.bindings.any (·.reg == d) = false → s.cur.bindings.length < 4 → n ≠ 0 → y.extractLsb' 32 31 = 0 → s.core.channels < 8 →
        Gives (exec (.sbind st d a b) s)
          (((s.onCur fun t => begun { t with bindings := t.bindings ++ [bd] }).onFocus fun c => { c with channels := c.channels + 1 }).after4 st)) ∧
      (s.cur.bindings.any (·.reg == d) = true ∨ 4 ≤ s.cur.bindings.length ∨ n = 0 ∨ y.extractLsb' 32 31 ≠ 0 →
        exec (.sbind st d a b) s = .next (s.unwait.takeTrap (mkTrap 0x14 0)))) ∧
    (AtOnce s { vref := [a] } st →
      (s.cur.binding a = none →
        Gives (exec (.sunb st d a) s) ((s.wg d 0).after4 st) ∧ Gives (exec (.sq st d a) s) ((s.wg d 0).after4 st)) ∧
      ∀ x, s.cur.binding a = some x →
        Gives (exec (.sq st d a) s) ((s.wg d (BitVec.ofNat 64 (2 ^ 63 + (if x.out then 2 ^ 62 else 0) + x.remaining))).after4 st) ∧
        ∀ h r, s.allocCell 1 1 = some (h, r) →
          let u := (r.onCur fun t => { t with bindings := t.bindings.filter (·.reg != a) }).wg d h
          let free := u.onFocus fun c => { c with channels := c.channels - 1 }
          (x.drains = 0 → Gives (exec (.sunb st d a) s) ((if x.failed = 0 then free.signalTo h else free.failTo h x.failed).after4 st)) ∧
          (x.drains ≠ 0 →
            Gives (exec (.sunb st d a) s)
              ((u.onFocus fun c =>
                { c with drains := c.drains.map fun q =>
                    if q.strand = s.cur.num ∧ q.handler = s.cur.handler.isSome ∧ q.reg = a ∧ q.last = false then
                      { q with token := h, last := true, failed := x.failed }
                    else q }).after4 st)))

/-! ## Cluster engines: barriers, gangs, copies (R288-R298) -/

/-- R288, R289, R291: `bara` sends an arrival under a fresh token, `barq` reads a cell, `gang` takes the largest block of idle cores, up to
the one that it asks for, or none, `ungang` releases it; a value out of range traps with CLUSTER_CFG. Which cores the dispatcher has reserved is log 66. -/
def Obligations.BarrierAndGang : Prop :=
  ∀ (s : State) (st : Bool) (d a b : BitVec 5),
    let cfg := fun i : Instr => exec i s = .next (s.unwait.takeTrap (mkTrap 0x17 0))
    (∀ lv i, barOf (s.rg a) = some (lv, i) → s.barGranted s.cur.launch lv i = true →
      let c := s.bar lv (barUnit s.core.cid lv) i
      (AtOnce s { g := [a, b] } st →
        let n := (s.rg b).toNat
        (∀ h r, 1 ≤ n → n ≤ 65535 → s.allocCell 2 1 = some (h, r) →
          Gives (exec (.bara st d a b) s)
            (((r.post (if lv = 0 then some (r.core.cycle + 4) else none) (.barrier lv (barUnit s.core.cid lv) i n h s.cur.launch)).wg d h).after4 st)) ∧
        (n = 0 ∨ 65535 < n → cfg (.bara st d a b))) ∧
      (AtOnce s { g := [a] } st →
        Gives (exec (.barq st d a) s) ((s.wg d (0#16 ++ (c.phase ++ (BitVec.ofNat 16 c.n ++ BitVec.ofNat 16 c.arrivals.length)))).after4 st))) ∧
    (barOf (s.rg a) = none → (AtOnce s { g := [a, b] } st → cfg (.bara st d a b)) ∧ (AtOnce s { g := [a] } st → cfg (.barq st d a))) ∧
    (AtOnce s { g := [a] } st →
      let x := (s.rg a).toNat
      (x ∈ [2, 4, 8, 16] → s.cur.sp.gangsz ≤ 1 → ∀ g ∈ [2, 4, 8, 16], g ≤ x → (∀ c ∈ blockOf s.core.cid g, s.coreFree c = true) →
        (∀ k ∈ [2, 4, 8, 16], g < k → k ≤ x → ∃ c ∈ blockOf s.core.cid k, s.coreFree c = false) →
        Gives (exec (.gang st d a) s) (((s.joinGang g).wg d (BitVec.ofNat 64 g)).after4 st)) ∧
      (x ∈ [2, 4, 8, 16] → s.cur.sp.gangsz ≤ 1 → (∀ g ∈ [2, 4, 8, 16], g ≤ x → ∃ c ∈ blockOf s.core.cid g, s.coreFree c = false) →
        Gives (exec (.gang st d a) s) ((s.wg d 1).after4 st)) ∧
      (x ∉ [2, 4, 8, 16] ∨ 1 < s.cur.sp.gangsz → cfg (.gang st d a))) ∧
    (AtOnce s {} st →
      (s.cur.sp.gangsz ≤ 1 → Gives (exec (.ungang st) s) (s.after4 st)) ∧
      (1 < s.cur.sp.gangsz →
        Gives (exec (.ungang st) s)
          (((s.freeGang s.cur).onCur fun t =>
            { t with
              partners := []
              sp := { t.sp with gangsz := 1, vrows := min t.sp.vrows 32, vl := min t.sp.vl (min t.sp.vrows 32 * t.sp.vcols) } }).after4 st)))

/-- R294, R295, R297, R298: a copy of a shape in range, whose rows lie where its agent may reach, gets a token and joins the copies of
the cluster; `gshape` sets the shape, `gq` counts the copies; a shape out of range traps with CLUSTER_CFG. -/
def Obligations.CopyWords : Prop :=
  ∀ (s : State) (st : Bool) (d a b : BitVec 5),
    let x := s.rg a
    let y := s.rg b
    let sp := s.cur.sp
    let legal := fun c : Copy => (c.runs.any fun r => runAccess r.2 c.bytes) = false ∧
      ∀ r ∈ c.runs, s.runBound c.agent r.1 r.2 c.bytes = none
    let started := fun (c : Copy) (h : Word) (r : State) =>
      (r.onCluster (clusterOf r.core.cid) fun k => { k with copies := k.copies ++ [{ c with token := h }] }).onFocus fun k =>
        { k with copies := k.copies + 1 }
    let rows := (x.extractLsb' 0 32).toNat
    let bytes := (x.extractLsb' 32 32).toNat
    (AtOnce s { g := [a, b] } st →
      (1 ≤ rows → rows ≤ 65536 → 1 ≤ bytes → bytes ≤ 2 ^ 24 →
        Gives (exec (.gshape st a b) s)
          ((s.onSp fun p =>
            { p with
              grows := (x.extractLsb' 0 32).setWidth 64, growb := (x.extractLsb' 32 32).setWidth 64
              gsstr := (y.extractLsb' 0 32).signExtend 64, gdstr := (y.extractLsb' 32 32).signExtend 64 }).after4 st)) ∧
      (rows = 0 ∨ 65536 < rows ∨ bytes = 0 ∨ 2 ^ 24 < bytes → exec (.gshape st a b) s = .next (s.unwait.takeTrap (mkTrap 0x17 0))) ∧
      (sp.shapeOk = false → exec (.gcp st d a b) s = .next (s.unwait.takeTrap (mkTrap 0x17 0))) ∧
      (sp.shapeOk = true → s.core.copies < 1024 → ∀ h r, s.allocCell 1 1 = some (h, r) →
        let cores := sp.gmcast.extractLsb' 0 16
        let cp := s.newCopy .copy x y
        let mc := s.newCopy (.multicast cores) x y
        let fl := s.newCopy (.fill x) x y
        let rd := s.newCopy (.reduce (ptrFmt x)) x y
        let q : BitVec 3 := y.extractLsb' 0 3
        let n := (y.extractLsb' 8 8).toNat
        let rc := s.ringCopy x q n (s.mx.ring q)
        (legal cp → Gives (exec (.gcp st d a b) s) (((started cp h r).wg d h).after4 st)) ∧
        (legal mc → cores ≠ 0 → region (addrOf y) = 13 → Gives (exec (.gcpm st d a b) s) (((started mc h r).wg d h).after4 st)) ∧
        (legal fl → Gives (exec (.gfill st d a b) s) (((started fl h r).wg d h).after4 st)) ∧
        (legal rd → redTags x y = true → rd.aligned (addSize (ptrFmt x)) = true →
          Gives (exec (.gred st d a b) s)
            ((((started rd h r).onCur fun t => { t with redCount := t.redCount + 1 }).wg d h).after4 st)) ∧
        (legal rc → y = BitVec.ofNat 64 (256 * n + q.toNat) → 1 ≤ n → n ≤ 64 → s.matrixHeld = false → s.ringOther q = false →
          (s.mx.ring q).depth ≠ 0 → (s.mx.ring q).occupancy + n ≤ (s.mx.ring q).depth →
          Gives (exec (.gcpr st d a b) s) (((started rc h r).wg d h).after4 st)))) ∧
    (AtOnce s {} st → Gives (exec (.gq st d) s) ((s.wg d (BitVec.ofNat 64 (s.core.copies * 2 ^ 16 + (1024 - s.core.copies)))).after4 st))

/-! ## Moraine and launches (R329-R341, R389, R398, R443) -/

/-- R330, R334-R341: a Moraine word, with no request before it and room in the unit, sends its request and writes the unit's reply to
g d; a request that the unit turns into a trap of the core traps. `ssopen` reads its 16-byte descriptor first. -/
def Obligations.MoraineWords : Prop :=
  ∀ (s : State) (st : Bool) (d a b : BitVec 5),
    let word := fun (i : Instr) (fn : SsFn) (die : Nat) (dw x y : Word) (cell : Bool) =>
      (s.dieAt die).ssOps.length < 1024 → (s.dieAt die).ssQueue = [] →
      (cell = true → (s.core.firstFree Config.faultCells 0).isSome = true) →
      (∀ v r, s.serveSs die (s.ssRequest fn dw x y 0) = (.reply v, r) → (st = true → r.cur.Calm) → Gives (exec i s) ((r.wg d v).after4 st)) ∧
      ∀ c v r, s.serveSs die (s.ssRequest fn dw x y 0) = (.trap c v, r) → ∃ t, Like t s ∧ exec i s = .next (t.unwait.takeTrap (mkTrap c v))
    let x := s.rg a
    let y := s.rg b
    s.core.posted = false → s.core.reply = .none →
    (AtOnce s { g := [a, b, d] } st →
      word (.ssld st d a b) .ld (ssDie x) (s.rg d) x y true ∧ word (.sscm st d a b) .cm (ssDie x) (s.rg d) x y true ∧
      word (.ssfork st d a b) .fork (ssDie x) (s.rg d) x y false) ∧
    (AtOnce s { g := [a, b] } st →
      word (.ssroll st d a b) .roll (ssDie x) 0 x y false ∧ word (.sspin st d a b) .pin (ssDie x) 0 x y false ∧
      word (.ssunpin st d a b) .unpin (ssDie x) 0 x y false ∧ word (.ssq st d a b) .query (ssDie x) 0 x y false) ∧
    (AtOnce s { g := [a] } st →
      word (.ssclose st d a) .close (ssDie x) 0 x 0 true ∧
      ∀ key r v, Reaches s .read 16 false x key → s.sound (addrOf x) key 16 →
        let o := s.opened (addrOf x) key 16
        let die := dieOf s.core.cid
        (o.dieAt die).ssOps.length < 1024 → (o.dieAt die).ssQueue = [] →
        o.serveSs die (o.ssRequest .opn 0 0 0 (BitVec.ofNat 128 (Memory.getN o.mem key 16))) = (.reply v, r) →
        (st = true → r.cur.Calm) → Gives (exec (.ssopen st d a) s) ((r.wg d v).after4 st))

/-- R329, R333-R341: what the Moraine unit answers for a current handle: an opened slot's handle; the operations and tables of a load, a
commit and a close that are accepted, with a kind-6 cell; a roll, a fork, a pin; and refusals with their statuses. A handle that is not
current is answered with 1, or all ones to a query. -/
def Obligations.MoraineAnswers : Prop :=
  ∀ (s : State) (die : Nat) (r : SsRequest), die < 4 →
    (∀ depth size base n, r.fn = .opn → slotDesc r.desc = some (depth, size, base) → (s.dieAt die).freeSlots.head? = some n →
      let g := nextGen ((s.dieAt die).slot n).gen
      let t := (s.serveSs die r).2
      (s.serveSs die r).1 = .reply (g ++ (0#25 ++ (BitVec.ofNat 2 die ++ BitVec.ofNat 13 n))) ∧
        (t.dieAt die).slot n =
          { isOpen := true, closing := false, gen := g, ptroot := r.ptroot, base := base, size := size, depth := depth, table := [],
            forks := List.replicate depth 0, reads := List.replicate depth 0 }) ∧
    (r.fn ≠ .opn → s.current r.ptroot r.x = none → s.serveSs die r = (.reply (if r.fn = .query then BitVec.allOnes 64 else 1), s)) ∧
    (∀ m, s.current r.ptroot r.x = some m →
      let n := ssSlot r.x
      let va := addrOf r.d
      let range := fun k => runAccess va m.size = false ∧ va % 64 = 0 ∧ s.runBound ⟨r.core, r.launch, r.ptroot, r.priv⟩ k va m.size = none
      let named := fun x => (r.y = BitVec.allOnes 64 ∧ m.newest = some x) ∨ (r.y.extractLsb' 48 16 = 0 ∧ m.at r.y.toNat = some x)
      let op : MoraineOp :=
        { slot := n, gen := m.gen, commit := false, close := false, pos := 0, buf := 0, bufSlot := n, addr := r.d, token := 0, core := r.core,
          strand := r.strand, launch := r.launch, ptroot := r.ptroot, priv := r.priv, cancelled := false, aborted := false, faults := 0, maker := 0
          mv := Moves.start }
      let begun := fun (c : Core) (op : MoraineOp) => (s.setCore c).onDie die fun d => { d with ssOps := d.ssOps ++ [op] }
      (∀ h c, (s.coreOf r.core).alloc s.node 0 Config.faultCells 6 1 r.strand = some (h, c) →
        (∀ x, r.fn = .ld → named x → range .write →
          let o := x.lender.getD n
          s.serveSs die r =
            (.reply h, (begun c { op with pos := x.pos, buf := x.buf, bufSlot := o, maker := x.maker, token := h }).onReads die o x.buf (· + 1))) ∧
        (∀ b, r.fn = .cm → r.y.extractLsb' 48 16 = 0 → (∀ x, m.newest = some x → x.pos < r.y.toNat) → m.choose = .inr b → range .read →
          let e := m.enter r.y.toNat b h
          s.serveSs die r =
            (.reply h, ((begun c { op with commit := true, pos := r.y.toNat, buf := b, token := h }).onSlot die n fun m =>
              { m with table := e.1 }).returnBases die e.2)) ∧
        (r.fn = .close → (∀ f ∈ m.forks, f = 0) →
          s.serveSs die r =
            (.reply h, ((begun c { op with close := true, token := h }).onSlot die n fun m =>
              { m with isOpen := false, closing := true, table := [] }).returnBases die m.table))) ∧
      (∀ b, m.choose = .inr b → b < m.depth ∧ m.newestBuf ≠ some b ∧ m.pinnedBuf b = false ∧ m.forkCount b = 0 ∧ m.readCount b = 0) ∧
      (∀ x, r.fn = .roll → r.y.extractLsb' 48 16 = 0 → m.at r.y.toNat = some x →
        (∀ z ∈ m.table, x.pos < z.pos → z.pins = 0 ∧ (z.lender = none → m.forkCount z.buf = 0 ∧ m.readCount z.buf = 0)) →
        s.serveSs die r =
          (.reply 0, (s.onSlot die n fun m => { m with table := m.table.filter fun z => decide (z.pos ≤ x.pos) }).returnBases die
            (m.table.filter fun z => decide (x.pos < z.pos)))) ∧
      (∀ x k, r.fn = .fork → named x → s.current r.ptroot r.d = some k → ssDie r.d = die → k.size = m.size → k.table = [] →
        let o := x.lender.getD n
        ((s.dieAt die).slot o).forkCount x.buf < 255 →
          s.serveSs die r =
            (.reply 0, (s.onSlot die (ssSlot r.d) fun c => { c with table := [⟨x.pos, x.buf, some o, 0, x.maker⟩] }).onForks die o x.buf (· + 1))) ∧
      (r.fn = .roll → r.y.extractLsb' 48 16 = 0 → m.at r.y.toNat = none → s.serveSs die r = (.reply 4, s)) ∧
      (r.fn = .cm → r.y.extractLsb' 48 16 = 0 → (∃ x, m.newest = some x ∧ r.y.toNat ≤ x.pos) → s.serveSs die r = (.reply 5, s)) ∧
      (r.fn = .close → (∃ f ∈ m.forks, f ≠ 0) → s.serveSs die r = (.reply 10, s)) ∧
      (∀ x, r.fn = .unpin → r.y.extractLsb' 48 16 = 0 → m.at r.y.toNat = some x → x.pins ≠ 0 →
        s.serveSs die r = (.reply 0, s.onPins die n x.pos (· - 1))) ∧
      (∀ x, r.fn = .pin → r.y = BitVec.allOnes 64 → m.newest = some x → x.pins ≠ 0 → x.pins ≠ 255 →
        s.serveSs die r = (.reply 0, s.onPins die n x.pos (· + 1))) ∧
      (r.fn = .query → r.y = 0 → s.serveSs die r = (.reply ((m.newest.map fun x => BitVec.ofNat 64 x.pos).getD (BitVec.allOnes 64)), s)))

/-- R383, R389, R398, R399, R443: `launch` reads a 64-byte record and joins it, with the entry of its queue, to a launch queue when its
status is 0; LCANCEL begins the cancellation of every admitted launch of a queue, but one that has met its finish conditions finishes and one
that waits for its dependencies is refused at once; NETRELOAD reloads a context. -/
def Obligations.LaunchWords : Prop :=
  ∀ (s : State) (st : Bool) (d a b : BitVec 5),
    let va := addrOf (s.rg a)
    let ok := fun x : Nat => s.fieldsOk (BitVec.ofNat 12 x) (s.rg a) = true ∧ reservedValue x (s.rg a) = false
    (∀ key, AtOnce s { g := [a, b] } st → s.cur.handler = none → ptrTagOk (s.rg a) = true → region va < 14 → va % 64 = 0 → s.locate s.agent .read va 64 = .at (.here key) →
      s.sound va key 64 →
      let r := s.opened va key 64
      let q := (s.rg b).toNat
      let rec64 := BitVec.ofNat 512 (Memory.getN r.mem key 64)
      let x :=
        if 16384 ≤ q ∨ r.queueEn q = false ∨ (s.cur.priv = false ∧ asidOf (r.queueEntry q).1 ≠ asidOf s.cur.sp.ptroot) then 2
        else if r.queueMaxClass q < (rec64.extractLsb' 189 3).toNat then 3
        else if (r.pkg.queue q).recs.length = 256 then 1
        else 0
      Gives (exec (.launch st d a b) s)
        (((if x = 0 then r.onQueue q fun k => { k with recs := k.recs ++ [⟨rec64, (r.queueEntry q).1, (r.queueEntry q).2⟩] } else r).wg d (BitVec.ofNat 64 x)).after4 st)) ∧
    (AtOnce s { priv := true, g := [a] } st →
      (ok 0x872 →
        Gives (exec (.wrsLcancel st a) s)
          (((s.pkg.launches.filter fun l => l.queue == (s.rg a).toNat).foldl
            (fun s l => match s.evFinish l.id with
              | some t => t
              | none =>
                if l.phase = .waiting ∧ l.depsDone = false then (s.completeLaunch l 5).dropLaunch l else s.cancelLaunch (some l.id) 5 []) s).after4 st)) ∧
      (ok 0x8B2 →
        (st = true → (s.netReload ((s.rg a).extractLsb' 0 16).toNat).cur.Calm) →
        Gives (exec (.wrsNetreload st a) s) ((s.netReload ((s.rg a).extractLsb' 0 16).toNat).after4 st)))

/-! ## Vector instructions (R77-R80, R107-R141) -/

/-- R112-R115: the integer vector words, with a vector register or a `g` register as operand b. Each element's result is that of its
bits as a natural number or, where the rule says so, as an integer of its type; results that do not fit wrap, or are clamped with SAT. -/
def Obligations.VectorIntegerResults : Prop :=
  ∀ (s : State) (st : Bool) (d a b : BitVec 5) (m : BitVec 4) (x : Bool),
    let t := s.vt
    let w := s.vw
    let bv := fun (n : Nat) => BitVec.ofNat w n
    let val := fun n : Nat => if isSigned t then (bv n).toInt else (n : Int)
    let put := fun (k : Nat) (v : Int) => (⟨(BitVec.ofInt k v).toNat, 0⟩ : Rounded)
    let sat := fun (k : Nat) (v : Int) =>
      let lo : Int := if isSigned t then -(2 ^ (k - 1)) else 0
      let hi : Int := if isSigned t then 2 ^ (k - 1) - 1 else 2 ^ k - 1
      (⟨(BitVec.ofInt k (max lo (min hi v))).toNat, if v < lo ∨ hi < v then fSAT else 0⟩ : Rounded)
    let halfUp := fun (n z : Nat) => if z = 0 then val n else (val n + 2 ^ (z - 1)) / 2 ^ z
    let both := fun (i ig : Instr) (w' : Nat) (acc : Bool) (f : Nat → Nat → Nat → Rounded) =>
      let ds := if acc then [d] else []
      let el := fun j => s.eltOf t a j
      ElemWord i s st [] (a :: [b] ++ ds) d m w' (fun j => f (el j) (s.eltOf t b j) (s.elt d w' j)) ∧
      ElemWord ig s st [b] (a :: ds) d m w' (fun j => f (el j) ((s.rg b).toNat % 2 ^ memWidth t) (s.elt d w' j))
    let bits := fun (i ig : Instr) (f : BitVec w → BitVec w → BitVec w) => both i ig w false fun n z _ => ⟨(f (bv n) (bv z)).toNat, 0⟩
    let ints := fun (i ig : Instr) (f : Nat → Nat → Rounded) => both i ig w false fun n z _ => f n z
    let js := s.active m
    let dot := fun (i : Instr) (p : Nat) (g bs : List (BitVec 5)) (z : Nat → Nat) =>
      let per := s.vcols / p
      let first := fun k => k / per * s.vcols + k % per * p
      let on := (List.range (s.vrows * per)).filter fun k => (List.range p).any fun n => js.contains (first k + n)
      let out := on.map fun k =>
        let sum := (List.range p).foldl
          (fun acc n => if js.contains (first k + n) then acc + val (s.eltOf t a (first k + n)) * val (z (first k + n)) else acc)
          (BitVec.ofNat 32 (s.cell d 32 (k / per) (k % per))).toInt
        (k, (⟨(BitVec.ofInt 32 (max (-(2 ^ 31)) (min (2 ^ 31 - 1) sum))).toNat, if sum < -(2 ^ 31) ∨ 2 ^ 31 - 1 < sum then fSAT else 0⟩ : Rounded))
      let raised := out.map fun o => s.raisedAt (first o.1) o.2.flags
      Issues s (vuse g (a :: bs ++ [d]) [d] [m]) st → w * p = 32 → s.vcols % p = 0 → (∀ r ∈ a :: bs, s.badElems r w js = []) →
        s.badElems d 32 (on.map fun k => k / per * s.vcols + k % per) = [] → s.fpTrap raised = none →
        Gives (exec i s) (((s.putCells d 32 (out.map fun o => (o.1 / per, o.1 % per, o.2.bits))).noteFlags raised).after4 st)
    (isType t = true →
      bits (.vand st d a b m x) (.vandG st d a b m x) (fun n z => n &&& z) ∧
      bits (.vor st d a b m x) (.vorG st d a b m x) (fun n z => n ||| z) ∧
      bits (.vxor st d a b m x) (.vxorG st d a b m x) (fun n z => n ^^^ z)) ∧
    (isIntType t = true →
      bits (.vadd st d a b m x) (.vaddG st d a b m x) (fun n z => n + z) ∧
      bits (.vsub st d a b m x) (.vsubG st d a b m x) (fun n z => n - z) ∧
      bits (.vmul st d a b m x) (.vmulG st d a b m x) (fun n z => n * z) ∧
      bits (.vmulh st d a b m x) (.vmulhG st d a b m x) (fun n z => BitVec.ofInt w (n.toInt * z.toInt / 2 ^ w)) ∧
      bits (.vmulhn st d a b m x) (.vmulhnG st d a b m x) (fun n z => BitVec.ofNat w (n.toNat * z.toNat / 2 ^ w)) ∧
      bits (.vmin st d a b m x) (.vminG st d a b m x) (fun n z => if n.toInt ≤ z.toInt then n else z) ∧
      bits (.vmax st d a b m x) (.vmaxG st d a b m x) (fun n z => if n.toInt ≤ z.toInt then z else n) ∧
      bits (.vminn st d a b m x) (.vminnG st d a b m x) (fun n z => if n.toNat ≤ z.toNat then n else z) ∧
      bits (.vmaxn st d a b m x) (.vmaxnG st d a b m x) (fun n z => if n.toNat ≤ z.toNat then z else n) ∧
      bits (.vshl st d a b m x) (.vshlG st d a b m x) (fun n z => n <<< z.toNat) ∧
      bits (.vshr st d a b m x) (.vshrG st d a b m x) (fun n z => n >>> z.toNat) ∧
      bits (.vsra st d a b m x) (.vsraG st d a b m x) (fun n z => n.sshiftRight z.toNat) ∧
      ints (.vrshr st d a b m x) (.vrshrG st d a b m x) (fun n z => put w (halfUp n z)) ∧
      ints (.vadds st d a b m x) (.vaddsG st d a b m x) (fun n z => sat w (val n + val z)) ∧
      ints (.vsubs st d a b m x) (.vsubsG st d a b m x) (fun n z => sat w (val n - val z)) ∧
      ints (.vavg st d a b m x) (.vavgG st d a b m x) (fun n z => put w ((val n + val z + 1) / 2)) ∧
      both (.vmac st d a b m x) (.vmacG st d a b m x) w true (fun n z y => ⟨(bv y + bv n * bv z).toNat, 0⟩) ∧
      ElemWord (.vabs st d a m x) s st [] [a] d m w (fun j => sat w (if val (s.eltOf t a j) < 0 then -val (s.eltOf t a j) else val (s.eltOf t a j))) ∧
      dot (.vdot2 st d a b m x) 2 [] [b] (s.eltOf t b) ∧ dot (.vdot2G st d a b m x) 2 [b] [] (fun _ => (s.rg b).toNat % 2 ^ w) ∧
      dot (.vdot4 st d a b m x) 4 [] [b] (s.eltOf t b) ∧ dot (.vdot4G st d a b m x) 4 [b] [] (fun _ => (s.rg b).toNat % 2 ^ w) ∧
      (8 ≤ w →
        both (.vrnshr st d a b m x) (.vrnshrG st d a b m x) (w / 2) false (fun n z _ => sat (w / 2) (halfUp n z))) ∧
      (w ≤ 32 →
        both (.vwmul st d a b m x) (.vwmulG st d a b m x) (2 * w) false (fun n z _ => put (2 * w) (val n * val z)) ∧
        both (.vwadd st d a b m x) (.vwaddG st d a b m x) (2 * w) false (fun n z _ => put (2 * w) (val n + val z))))

/-- R56, R59-R61, R67-R69, R116, R117, R120, R121: the floating-point words and `vcvt`. Operands are flushed under FZ, computed exactly
and rounded once under FPCR (RNE for R67); sign words work on bits; a narrowing `vcvt` with stochastic rounding steps SRSTATE once an element (which conversions are narrowing: DEDUCED, log
110; a conversion between types of one width rounds: DESIGN CHOICE, log 111). -/
def Obligations.VectorFloatResults : Prop :=
  ∀ (s : State) (st : Bool) (d a b : BitVec 5) (m : BitVec 4) (x : Bool),
    let t := s.vt
    let w := s.vw
    let c := s.fpCtx
    let rne := { c with mode := .rne }
    let bits := fun n : Nat => (⟨n, 0⟩ : Rounded)
    let both := fun (i ig : Instr) (acc : Bool) (f : Nat → Nat → Nat → Rounded) =>
      let ds := if acc then [d] else []
      ElemWord i s st [] (a :: [b] ++ ds) d m w (fun j => f (s.eltOf t a j) (s.eltOf t b j) (s.elt d w j)) ∧
      ElemWord ig s st [b] (a :: ds) d m w (fun j => f (s.eltOf t a j) ((s.rg b).toNat % 2 ^ w) (s.elt d w j))
    let two := fun (i ig : Instr) (f : Nat → Nat → Rounded) => both i ig false fun n z _ => f n z
    let one := fun (i : Instr) (f : Nat → Rounded) => ElemWord i s st [] [a] d m w fun j => f (s.eltOf t a j)
    let rd := fun n => c.f.decode (c.f.flushIn c.fz n)
    (isWideFp t = true →
      two (.vfadd st d a b m x) (.vfaddG st d a b m x) (fun n z => c.finish (sumFV c.mode.isRdn [rd n, rd z] 0)) ∧
      two (.vfsub st d a b m x) (.vfsubG st d a b m x) (fun n z => c.finish (sumFV c.mode.isRdn [rd n, (rd z).neg] 0)) ∧
      two (.vfmul st d a b m x) (.vfmulG st d a b m x) (fun n z => c.finish ((rd n).mul (rd z))) ∧
      two (.vfdiv st d a b m x) (.vfdivG st d a b m x) (fun n z => c.finish ((rd n).div (rd z))) ∧
      two (.vfmin st d a b m x) (.vfminG st d a b m x) (fun n z => c.f.minmax false (c.f.flushIn c.fz n) (c.f.flushIn c.fz z)) ∧
      two (.vfmax st d a b m x) (.vfmaxG st d a b m x) (fun n z => c.f.minmax true (c.f.flushIn c.fz n) (c.f.flushIn c.fz z)) ∧
      two (.vfsgnj st d a b m x) (.vfsgnjG st d a b m x) (fun n z => bits (n % 2 ^ (w - 1) + z / 2 ^ (w - 1) * 2 ^ (w - 1))) ∧
      both (.vfma st d a b m x) (.vfmaG st d a b m x) true (fun n z y =>
        c.finish (sumFV c.mode.isRdn [((rd n).mul (rd z)).v, rd y] ((rd n).mul (rd z)).flags)) ∧
      both (.vfms st d a b m x) (.vfmsG st d a b m x) true (fun n z y =>
        c.finish (sumFV c.mode.isRdn [((rd n).neg.mul (rd z)).v, rd y] ((rd n).neg.mul (rd z)).flags)) ∧
      one (.vfsqrt st d a m x) (fun n => c.finish (rd n).sqrt) ∧
      one (.vfabs st d a m x) (fun n => bits (n % 2 ^ (w - 1))) ∧
      one (.vfneg st d a m x) (fun n => bits (if n < 2 ^ (w - 1) then n + 2 ^ (w - 1) else n - 2 ^ (w - 1))) ∧
      one (.vfexp2 st d a m x) (fun n => rne.finish (rd n).exp2) ∧
      one (.vflog2 st d a m x) (fun n => rne.finish (rd n).log2) ∧
      one (.vfrcp st d a m x) (fun n => rne.finish (rd n).rcp) ∧
      one (.vfrsq st d a m x) (fun n => rne.finish (rd n).rsq) ∧
      one (.vfclass st d a m x) (fun n =>
        let sub := c.f.subnormal n
        bits (match c.f.decode n with
          | .inf neg => if neg then 1 else 128
          | .nan sig => if sig then 256 else 512
          | .fin neg k _ => if k = 0 then (if neg then 8 else 16) else if sub then (if neg then 4 else 32) else if neg then 2 else 64))) ∧
    (∀ (src : BitVec 5) (r u : Bool) (cr : BitVec 3),
      let cs := if u then some cr else none
      let js := s.active m
      let steps := lfsrRun js.length (s.cur.sp.fpcr.extractLsb' 32 32)
      let sr := r && decide (memWidth t < memWidth src)
      let mode := fun i => match (if sr then steps[i]? else none) with
        | some y => RMode.sr (y.toNat % 2 ^ 16)
        | none => rmOf s.cur.sp.fpcr
      let out := js.zipIdx.map fun p => (p.1, s.cvtElem src cs d a (mode p.2) p.1)
      let y := if u && isWideFp src then (s.elemWritten d w out).unitBand d else s.elemWritten d w out
      Issues s { vuse [] [a] [d] [m] with c := cs.toList } st → (r = true → t ≠ 0x10 ∧ isIntType t = false) → s.vcols * max (width src) w ≤ 1024 →
        s.cvtTagOk src cs = true → s.badElems a (width src) js = [] → s.fpTrap (out.map fun p => s.raisedAt p.1 p.2.flags) = none →
        Gives (exec (.vcvt st d a src m x r u cr) s)
          ((match (if sr then steps.getLast? else none) with
            | some z => y.onSp fun p => { p with fpcr := z ++ p.fpcr.extractLsb' 0 32 }
            | none => y).after4 st))

/-- R56, R57: rounding to FP32, BF16 or FP16 keeps, in every mode and with no flag, each finite value that the format holds. -/
def Obligations.RoundingKeepsValues : Prop :=
  ∀ f ∈ [fp32, bf16, fp16], ∀ (mode : RMode) (satm neg : Bool) (n k : Nat) (e : Int), n < 2 ^ (1 + f.e + f.m) → f.decode n = .fin neg k e →
    f.round mode satm neg ⟨k, e, false⟩ = ⟨n, 0⟩

/-- R47, R118: a comparison writes the whole mask d: the bit of each active element by its relation, every other bit 0. A NaN compares
false but for `vcmpfne` and `vcmpfun`; the ordering relations raise NV on any NaN, the others on a signalling one. -/
def Obligations.VectorCompareResults : Prop :=
  ∀ (s : State) (st : Bool) (d a b : BitVec 5) (m : BitVec 4) (x g : Bool),
    let t := s.vt
    let w := s.vw
    let js := s.active m
    let z := fun j => if g then (s.rg b).toNat % 2 ^ memWidth t else s.eltOf t b j
    let cmp := fun (i : Instr) (f : Nat → Nat → Bool × Nat) =>
      let out := js.map fun j => (j, f (s.eltOf t a j) (z j))
      let raised := out.map fun p => s.raisedAt p.1 p.2.2
      let rs := if g then [a] else [a, b]
      Issues s (vuse (if g then [b] else []) rs [] [m]) st → (∀ r ∈ rs, s.badElems r w js = []) → s.fpTrap raised = none →
        Gives (exec i s) (((s.putMask (d.setWidth 4) (s.maskOf ((out.filter fun p => p.2.1).map (·.1)))).noteFlags raised).after4 st)
    let int := fun n : Nat => (BitVec.ofNat w n).toInt
    let c := s.fpCtx
    let rd := fun n => c.f.decode (c.f.flushIn c.fz n)
    let fp := fun (i : Instr) (order : Bool) (f : FV → FV → Bool) =>
      cmp i fun n y => (f (rd n) (rd y), if order then (if (rd n).isNan || (rd y).isNan then fNV else 0) else (rd n).nanFlag ||| (rd y).nanFlag)
    (isType t = true →
      cmp (.vcmpeq st d a b m x g) (fun n y => (n == y, 0)) ∧ cmp (.vcmpne st d a b m x g) (fun n y => (n != y, 0))) ∧
    (isIntType t = true →
      cmp (.vcmplt st d a b m x g) (fun n y => (decide (int n < int y), 0)) ∧ cmp (.vcmpge st d a b m x g) (fun n y => (decide (int y ≤ int n), 0)) ∧
      cmp (.vcmpltn st d a b m x g) (fun n y => (decide (n < y), 0)) ∧ cmp (.vcmpgen st d a b m x g) (fun n y => (decide (y ≤ n), 0))) ∧
    (isWideFp t = true →
      fp (.vcmpfeq st d a b m x g) false FV.eq ∧ fp (.vcmpfne st d a b m x g) false (fun p q => !p.eq q) ∧
      fp (.vcmpflt st d a b m x g) true FV.lt ∧ fp (.vcmpfge st d a b m x g) true (fun p q => !p.isNan && !q.isNan && !p.lt q) ∧
      fp (.vcmpfun st d a b m x g) false (fun p q => p.isNan || q.isNan))

/-- R132-R136: the moves and permutations. Each written element takes the element of a that the rule names, or 0 or the fill. In a gang every
permutation but `vgxch` traps with VSHAPE (R133, R126), whatever its operands hold. That `vrowb` in a gang reads a row whose number over the whole gang is
at or above VROWS as zero is log 41. -/
def Obligations.VectorMoveResults : Prop :=
  ∀ (s : State) (st : Bool) (d a b : BitVec 5) (m : BitVec 4) (x : Bool),
    let t := s.vt
    let w := s.vw
    let c := s.vcols
    let js := s.active m
    let y := (s.rg b).toNat
    let el := s.eltOf t a
    let low := y % 2 ^ memWidth t
    let takes := fun (i : Instr) (g vs : List (BitVec 5)) (read : List Nat) (src : Nat → Option Nat) (fill : Nat) =>
      Issues s (vuse g (a :: vs) [d] [m]) st → (∀ r ∈ a :: vs, s.badElems r w read = []) →
        Gives (exec i s) ((s.putElems d w (js.map fun j => (j, ((src j).map el).getD fill))).after4 st)
    let moved := fun (i : Instr) (g : List (BitVec 5)) (src : Nat → Option Nat) => takes i g [] (js.filterMap src) src 0
    let all := List.range s.vl
    (isType t = true → ElemWord (.vmv st d a m x) s st [] [a] d m w (fun j => ⟨el j, 0⟩)) ∧
    (Issues s (vuse [b] [] [d] [m]) st → Gives (exec (.vbrd st d b m x) s) ((s.putElems d w (js.map fun j => (j, low))).after4 st)) ∧
    (Issues s (vuse [b] [a] [] []) st →
      (y < s.vrows * c → s.badElems a w [y] = [] →
        Gives (exec (.vext st d a b) s)
          ((s.wg d (if isIntType t && isSigned t then (BitVec.ofNat w (el y)).signExtend 64 else BitVec.ofNat 64 (el y))).after4 st)) ∧
      (s.vrows * c ≤ y → Gives (exec (.vext st d a b) s) ((s.wg d 0).after4 st))) ∧
    (Issues s (vuse [a, b] [] [d] []) st →
      Gives (exec (.vins st d a b) s)
        ((if y < s.vrows * c then s.putElems d w [(y, (s.rg a).toNat % 2 ^ memWidth t)] else s).after4 st)) ∧
    (Issues s (vuse [] [a, b] [d] [m]) st → s.badElems a w js = [] →
      let off := (List.range s.vl).filter fun j => !js.contains j
      s.badElems b w off = [] →
        Gives (exec (.vmrg st d a b m x) s)
          ((s.putElems d w ((js.map fun j => (j, el j)) ++ off.map fun j => (j, s.eltOf t b j))).after4 st)) ∧
    (Issues s (vuse [] [] [d] [m]) st → isIntType t = true →
      Gives (exec (.viota st d m x) s) ((s.putElems d w (js.map fun j => (j, j % 2 ^ w))).after4 st)) ∧
    moved (.vrowb st d a b m x) [b]
      (fun j => let r := if 1 < s.cur.sp.gangsz then j / c / 32 * 32 + y % 32 else y; if r < s.vrows then some (r * c + j % c) else none) ∧
    moved (.vcolb st d a b m x) [b] (fun j => if y < c then some (j / c * c + y) else none) ∧
    takes (.vgxch st d a b m) [b] [] all
      (fun j => some (((j / c / 32 + y) % max 1 s.cur.sp.gangsz * 32 + j / c % 32) * c + j % c)) 0 ∧
    (1 < s.cur.sp.gangsz → ∀ p ∈ ([(.vslup st d a b m x, [b], []), (.vsldn st d a b m x, [b], []), (.vsl1up st d a b m x, [b], []),
        (.vsl1dn st d a b m x, [b], []), (.vgath st d a b m x, [], [b]), (.vtrn st d a m, [], []), (.vcprs st d a m x, [], []),
        (.vexpd st d a m x, [], [])] : List (Instr × List (BitVec 5) × List (BitVec 5))),
      AtOnce s (vuse p.2.1 (a :: p.2.2) [d] [m]) st → exec p.1 s = .next (s.unwait.takeTrap (mkTrap 0x0B 0))) ∧
    (s.cur.sp.gangsz ≤ 1 →
      takes (.vslup st d a b m x) [b] [] all (fun j => if y ≤ j then some (j - y) else none) 0 ∧
      takes (.vsldn st d a b m x) [b] [] all (fun j => if j + y < s.vl then some (j + y) else none) 0 ∧
      takes (.vsl1up st d a b m x) [b] [] all (fun j => if 1 ≤ j then some (j - 1) else none) low ∧
      takes (.vsl1dn st d a b m x) [b] [] all (fun j => if j + 1 < s.vl then some (j + 1) else none) low ∧
      takes (.vgath st d a b m x) [] [b] all (fun j => if s.eltOf t b j < s.vl then some (s.eltOf t b j) else none) 0 ∧
      (Issues s (vuse [] [a] [d] [m]) st → s.badElems a w all = [] →
        Gives (exec (.vcprs st d a m x) s) ((s.putElems d w (all.map fun k => (k, (js[k]?.map el).getD 0))).after4 st) ∧
        (c ≤ 32 → s.vrows ≤ 1024 / w → s.vl ≤ s.vrows * c →
          Gives (exec (.vtrn st d a m) s)
            (((s.putCells d w (js.map fun j => (j % c, j / c, el j))).onSp fun p =>
              { p with vrows := p.vcols, vcols := p.vrows, vl := p.vrows * p.vcols }).after4 st)) ∧
        Gives (exec (.vexpd st d a m x) s) ((s.putElems d w (js.zipIdx.map fun p => (p.1, el p.2))).after4 st)))


/-- R70, R137: a reduction writes column 0 of row 0, or with the row form of every row, with the ascending fold of the active elements
from the rule's start value; ordered sums round at each step, the tree sum by levels of neighbours, and FZ flushes inputs and the written
result alone (R60). -/
def Obligations.ReductionResults : Prop :=
  ∀ (s : State) (st : Bool) (d a : BitVec 5) (m : BitVec 4) (x row : Bool),
    let t := s.vt
    let w := s.vw
    let c := s.vcols
    let js := s.active m
    let red := fun (i : Instr) (f : List (Nat × Nat) → Nat → Rounded) =>
      let part := fun p : Nat → Bool => (js.filter p).map fun j => (j, s.eltOf t a j)
      let out :=
        if row then (List.range s.vrows).map fun r => (r, f ((part fun j => j / c == r).map fun e => (e.1 % c, e.2)) c)
        else [(0, f (part fun _ => true) (s.vrows * c))]
      let raised := out.map fun p => rowRaised p.1 p.2.flags
      Issues s (vuse [] [a] [d] [m]) st → s.badElems a w js = [] → s.fpTrap raised = none →
        Gives (exec i s) (((s.putCells d w (out.map fun p => (p.1, 0, p.2.bits))).noteFlags raised).after4 st)
    let fold := fun (i : Instr) (f : BitVec w → BitVec w → BitVec w) (z : BitVec w) =>
      red i fun es _ => ⟨(es.foldl (fun acc e => f acc (BitVec.ofNat w e.2)) z).toNat, 0⟩
    let k := s.fpCtx
    let one := fun n : Nat => let v := k.f.decode (k.f.flushIn k.fz n); (⟨if v.isNan then k.f.nan else k.f.flushIn k.fz n, v.nanFlag⟩ : Rounded)
    let exact := { k with fz := false }
    let chain := fun (g : Nat → Nat → Rounded) (last : Rounded → Rounded) (z : Rounded) (es : List (Nat × Nat)) => match es with
      | [] => z
      | e :: rest => last (rest.foldl (fun acc e => let r := g acc.bits e.2; ⟨r.bits, acc.flags ||| r.flags⟩) (one e.2))
    (isType t = true →
      fold (.vredand st d a m x row) (fun n z => n &&& z) (BitVec.ofNat w (2 ^ memWidth t - 1)) ∧
      fold (.vredor st d a m x row) (fun n z => n ||| z) 0 ∧
      fold (.vredxor st d a m x row) (fun n z => n ^^^ z) 0) ∧
    (isIntType t = true →
      fold (.vredsum st d a m x row) (fun n z => n + z) 0 ∧
      fold (.vredmin st d a m x row) (fun n z => if n.toInt ≤ z.toInt then n else z) (BitVec.intMax w) ∧
      fold (.vredmax st d a m x row) (fun n z => if n.toInt ≤ z.toInt then z else n) (BitVec.intMin w) ∧
      fold (.vredminn st d a m x row) (fun n z => if n.toNat ≤ z.toNat then n else z) (BitVec.allOnes w) ∧
      fold (.vredmaxn st d a m x row) (fun n z => if n.toNat ≤ z.toNat then z else n) 0) ∧
    (isWideFp t = true →
      red (.vfredo st d a m x row) (fun es _ =>
        chain (fun acc n => exact.add (k.f.decode acc) (k.f.decode (k.f.flushIn k.fz n))) (k.f.flushOut k.fz) ⟨k.f.sign true, 0⟩ es) ∧
      red (.vfredmax st d a m x row) (fun es _ => chain (fun acc n => k.f.minmax true acc (k.f.flushIn k.fz n)) id ⟨k.f.inf true, 0⟩ es) ∧
      red (.vfredmin st d a m x row) (fun es _ => chain (fun acc n => k.f.minmax false acc (k.f.flushIn k.fz n)) id ⟨k.f.inf false, 0⟩ es) ∧
      red (.vfredt st d a m x row) (fun es n => redTree s es n))

/-- R138-R141: the online softmax words work in FP32 on every row of the shape: `vsmx` leaves the products' exponentials in a and the
running maximum, sum and correction in columns 0 to 2 of d; `vsmg` merges two state pairs, `vsmf` divides by the sum and leaves the log-sum in
column 3. An all-masked row sets its bit of XM when XSEL selects EMPTYROW; which bit that is in a gang is log 17. That inputs and results
stay unflushed whatever FZ says is the model's choice (log 85). -/
def Obligations.SoftmaxResults : Prop :=
  ∀ (s : State) (st : Bool) (d a b : BitVec 5) (m : BitVec 4) (x : Bool), s.vt = 0x10 →
    let rows := List.range s.vrows
    let cols := List.range s.vcols
    let js := s.active m
    let line := fun (r : BitVec 5) (i : Nat) => cols.map fun k => s.cell r 32 i k
    let puts := fun (t : State) (r : BitVec 5) (es : List (Nat × Nat × Nat)) => t.putCells r 32 es
    let spread := fun (i : Nat) (l : List Nat) => l.zipIdx.map fun q => (i, q.2, q.1)
    let heads := fun (y : Nat → SoftRow) => rows.flatMap fun i => [(i, 0, (y i).m), (i, 1, (y i).l), (i, 2, (y i).al)]
    let body := fun (y : Nat → SoftRow) => rows.flatMap fun i => spread i (y i).ps
    let flags := fun (y : Nat → SoftRow) => rows.map fun i => rowRaised i (y i).flags
    (let c := fp32.decode ((s.rg b).toNat % 2 ^ 32)
     let y := fun i => softRow (s.cell d 32 i 0) (s.cell d 32 i 1)
       (cols.map fun k => if js.contains (i * s.vcols + k) then some (softCtx.mul c (fp32.decode (s.cell a 32 i k))) else none)
     Issues s (vuse [b] [d, a] [d, a] [m]) st →
       s.cellPoison 32 [(d, rows.flatMap fun r => [(r, 0), (r, 1)]), (a, js.map fun j => (j / s.vcols, j % s.vcols))] = none →
       s.fpTrap (flags y) = none →
       Gives (exec (.vsmx st d a b m x) s) (((puts (puts s a (body y)) d (heads y)).noteFlags (flags y)).after4 st)) ∧
    (let y := fun i => mergeRow (s.cell d 32 i 0) (s.cell d 32 i 1) (s.cell a 32 i 0) (s.cell a 32 i 1) ((line (d + 1) i).zip (line (a + 1) i))
     Issues s (vuse [] [d, d + 1, a, a + 1] [d, d + 1] []) st → s.cellPoison 32 (s.pairCells d ++ s.pairCells a) = none → s.fpTrap (flags y) = none →
       Gives (exec (.vsmg st d a) s) (((puts (puts s d (heads y)) (d + 1) (body y)).noteFlags (flags y)).after4 st)) ∧
    (let y := fun i => finishRow (s.cell a 32 i 0) (s.cell a 32 i 1) (line (a + 1) i)
     let z := puts (puts s d (body fun i => (y i).1)) a (rows.map fun i => (i, 3, (y i).1.l))
     let z := if s.cur.sp.xsel.extractLsb' 0 4 = 7 then
         z.captureXm ((rows.filter fun i => s.cell a 32 i 0 == negInf).map fun i => (i / 32, i % 32))
       else z
     Issues s (vuse [] [a, a + 1] [d, a] []) st → s.cellPoison 32 (s.pairCells a) = none → s.fpTrap (flags fun i => (y i).1) = none →
       Gives (exec (.vsmf st d a) s) ((z.noteFlags (flags fun i => (y i).1)).after4 st))

/-- R127-R129, R131: shapes, masks and scale registers. `setl` and `strip` set the shape and the remaining count; mask words work on
whole masks or on the positions below VL; `m0` ignores a write. -/
def Obligations.ShapeAndMaskWords : Prop :=
  ∀ (s : State) (st : Bool) (d a b : BitVec 5),
    let md : BitVec 4 := d.setWidth 4
    let ma : BitVec 4 := a.setWidth 4
    let mb : BitVec 4 := b.setWidth 4
    let x := (s.rg a).toNat
    let y := (s.rg b).toNat
    (Issues s { g := [a, b] } st →
      let per := 1024 / s.vw
      let top := 32 * s.cur.sp.gangsz
      let shaped := fun (rows cols vl : Nat) =>
        Gives (exec (.setl st d a b) s)
          (((s.onSp fun p => { p with vrows := rows, vcols := cols, vl := vl }).wg d (BitVec.ofNat 64 vl)).after4 st)
      (a = 0 → shaped (min top ((y + per - 1) / per)) per (min y (min top ((y + per - 1) / per) * per))) ∧
      (a ≠ 0 → shaped (min x top) (min y per) (min x top * min y per))) ∧
    (∀ (e f g h n : BitVec 3),
      let rs := ([e, f, g, h].take n.toNat).map fun p => 1#2 ++ p
      AtOnce s { g := a :: rs } st → (∀ r ∈ rs, (s.stripBits (s.rg r)).isSome = true) →
        let t := min s.vl x
        let vl := min (x - t) (s.vrows * s.vcols)
        let p := rs.foldl (fun s r => s.advance t r) s
        let q := p.cur.bindings.foldl (fun s b => s.advanceBinding t vl b) p
        (st = true → q.cur.Calm) →
        Gives (exec (.strip st d a e f g h n) s) (((q.onSp fun p => { p with vl := vl }).wg d (BitVec.ofNat 64 (x - t))).after4 st)) ∧
    (Issues s (vuse [] [] [] [ma, mb]) st →
      let put := fun f : BitVec 8192 → BitVec 8192 → BitVec 8192 => (s.putMask md (s.files.map fun k => f (k.getM ma) (k.getM mb))).after4 st
      Gives (exec (.mand st d a b) s) (put fun p q => p &&& q) ∧ Gives (exec (.mor st d a b) s) (put fun p q => p ||| q) ∧
      Gives (exec (.mxor st d a b) s) (put fun p q => p ^^^ q) ∧ Gives (exec (.mandn st d a b) s) (put fun p q => p &&& ~~~q)) ∧
    (let on := s.active ma
     let first := on.head?.getD s.vl
     (Issues s (vuse [] [] [] [ma]) st →
       Gives (exec (.mpop st d a) s) ((s.wg d (BitVec.ofNat 64 on.length)).after4 st) ∧
       Gives (exec (.mfirst st d a) s) ((s.wg d ((on.head?.map (BitVec.ofNat 64)).getD (BitVec.allOnes 64))).after4 st) ∧
       Gives (exec (.mupto st d a) s) ((s.putMask md (s.maskOf ((List.range s.vl).filter fun j => decide (j ≤ first)))).after4 st) ∧
       Gives (exec (.mbefore st d a) s) ((s.putMask md (s.maskOf ((List.range s.vl).filter fun j => decide (j < first)))).after4 st)) ∧
     (Issues s (vuse [] [] [d] [ma]) st → isIntType s.vt = true →
       Gives (exec (.mscan st d a) s)
         ((s.putElems d s.vw ((List.range s.vl).map fun j => (j, (on.filter fun k => decide (k < j)).length % 2 ^ s.vw))).after4 st))) ∧
    (Issues s (vuse [] [] [] (if a.toNat < 16 then [ma] else [])) st →
      let read := fun f : VFile => if a.toNat < 16 then f.getM ma else if a.toNat = 16 then f.xm else f.fltm
      let put := fun g : VFile → BitVec 8192 → VFile =>
        (s.onCur fun t => t.setFiles s.own (((t.files s.own).zip (s.files.map read)).map fun q => g q.1 q.2)).after4 st
      (d.toNat < 16 → Gives (exec (.mmov st d a) s) ((s.putMask md (s.files.map read)).after4 st)) ∧
      (d.toNat = 16 → Gives (exec (.mmov st d a) s) (put fun f v => { f with xm := v })) ∧
      (16 < d.toNat → Gives (exec (.mmov st d a) s) (put fun f v => { f with fltm := v }))) ∧
    (Issues s (vuse [a] [] [] []) st →
      Gives (exec (.msetl st d a) s) ((s.putMask md (s.maskOf ((List.range (s.vrows * s.vcols)).filter fun j => decide (j < x)))).after4 st)) ∧
    (Issues s (vuse [a, b] [] [] []) st →
      let tag := (s.rg a).extractLsb' 0 8
      let v := (List.range 1024).foldl (fun k i => k ||| (((s.rg b).extractLsb' 0 8).setWidth 8192 <<< (8 * i))) 0#8192
      (tag = 0 ∨ scaleTagOk tag = true → Gives (exec (.cset st d a b) s) ((s.putScaleReg (d.setWidth 3) fun _ => ⟨v, tag⟩).after4 st)) ∧
      (tag ≠ 0 → scaleTagOk tag = false → ∃ t, Like t s ∧ exec (.cset st d a b) s = .next (t.unwait.takeTrap (mkTrap 0x05 0)))) ∧
    (Issues s { vuse [] [] [] [] with c := [a.setWidth 3] } st →
      Gives (exec (.cmov st d a) s) ((s.putScaleReg (d.setWidth 3) (·.getC (a.setWidth 3))).after4 st))

/-- R79, R110: what a vector write of elements leaves in d on a core without partners: each element of the list that lies in the register reads its
value (the last one, when the list names it twice), every other element of the register in the same shape reads as before, and no other
vector, mask or scale register changes. -/
def Obligations.ElementsWritten : Prop :=
  ∀ (s : State) (d : BitVec 5) (w : Nat) (es : List (Nat × Nat)), s.cur.partners = [] → s.cur.sp.gangsz ≤ 1 → 0 < w → 0 < s.vcols →
    w * s.vcols ≤ 1024 → (∀ e ∈ es, e.1 < 32 * s.vcols) →
    let t := s.putElems d w es
    (∀ j, j < 32 * s.vcols →
      t.elt d w j = match es.reverse.find? (·.1 == j) with
        | some e => e.2 % 2 ^ w
        | none => s.elt d w j) ∧
    (∀ r, r ≠ d → t.cur.vf.getV r = s.cur.vf.getV r) ∧ t.cur.vf.m = s.cur.vf.m ∧ t.cur.vf.c = s.cur.vf.c ∧ t.cur.g = s.cur.g ∧
    t.cur.sp = s.cur.sp ∧ t.mem = s.mem

/-- R130, R131, R201-R205, R213-R217: vector loads and stores through plain pointers, at addresses that pass their checks: unit, strided
and indexed elements; a load is a deferred result of d, a store writes the low bits of each active element in ascending order, `vstra`
adds at each home, and `vldff` cuts VL at the first element that would fault. Mask and scale registers move whole. A tile load gives what its
packed form or its widening gives. -/
def Obligations.VectorMemoryResults : Prop :=
  ∀ (s : State) (st : Bool) (d a b : BitVec 5) (m : BitVec 4) (x : Bool), s.cur.masked = false →
    let p := s.rg a
    let base := addrOf p
    let e := memWidth s.vt
    let c := s.vcols
    let js := s.active m
    let els := fun rel : Nat → Int => js.map fun j => elAt base (rel j) e j
    let flat := els fun j => ((j * e : Nat) : Int)
    let rowed := els fun j => 8 * ((j / c : Nat) : Int) * (s.rg b).toInt + ((j % c * e : Nat) : Int)
    let indexed := els fun j => 8 * (BitVec.ofNat 32 (s.elt b 32 j)).toInt
    let loads := fun (i : Instr) (l : List VEl) =>
      s.elsHere .read (elAlign e) l →
        let r := s.openedEls .read l
        (∀ y ∈ l, r.elBad s.agent y = none) →
          Gives (exec i s)
            ((r.deferred (.v d (r.writes s.vw (l.map fun y => (y.j, r.readEl s.agent e y))) none) ((l.head?.map (·.va)).getD 0) none).after4 st)
    let stores := fun (i : Instr) (l : List VEl) (clean : List VEl → State → State) =>
      s.elsHere .write (elAlign e) l → s.badElems d s.vw js = [] →
        Gives (exec i s)
          ((clean l (l.foldl (fun r y => r.writeEl s.agent e y (s.elt d s.vw y.j % 2 ^ e)) (s.cacheEls s.agent l))).after4 st)
    let rows := fun (l : List VEl) (r : State) => r.cleanRowLines s.agent e l
    let plain := s.plainTag p 0 = true
    let unit := plain ∧ blockTag p = false
    (AtOnce s { vuse [a] [] [d] [m] with pends := 1 } st → unit →
      loads (.vld st d a 0 m x 0) flat ∧ loads (.vldff st d a 0 m x 0) flat ∧
      ∀ k f, flat[k]? = some f → 0 < k → s.ffFaults s.agent f = true → region f.va < 14 → f.va % elAlign e = 0 →
        s.elsHere .read (elAlign e) (flat.take k) → (∀ y ∈ flat.drop k, region y.va < 14 ∧ y.va % elAlign e = 0) →
        let r := (s.openedEls .read (flat.take k))
        (∀ y ∈ flat.take k, r.elBad s.agent y = none) →
          Gives (exec (.vldff st d a 0 m x 0) s)
            (((r.deferred (.v d (r.writes s.vw ((flat.take k).map fun y => (y.j, r.readEl s.agent e y))) none)
              (((flat.take k).head?.map (·.va)).getD 0) none).onSp fun q => { q with vl := f.j }).after4 st)) ∧
    (AtOnce s { vuse [a, b] [] [d] [m] with pends := 1 } st → plain →
      loads (.vlds st d a b m x 0) rowed ∧ (b ≠ 0 → loads (.vldff st d a b m x 0) rowed)) ∧
    (AtOnce s { vuse [a] [b] [d] [m] with pends := 1 } st → plain → 8 ≤ e → c ≤ 32 → s.badElems b 32 js = [] → loads (.vldx st d a b m x 0) indexed) ∧
    (AtOnce s { vuse [a] [d] [] [m] with c := s.unitScale a 0 } st → unit → stores (.vst st d a 0 m x 0) flat rows) ∧
    (AtOnce s (vuse [a, b] [d] [] [m]) st → plain → stores (.vsts st d a b m x 0) rowed rows) ∧
    (AtOnce s (vuse [a] [d, b] [] [m]) st → plain → 8 ≤ e → c ≤ 32 → s.badElems b 32 js = [] →
      stores (.vstx st d a b m x 0) indexed (fun _ r => r) ∧
      (addType s.vt = true → s.elsHere .write (elAlign e) indexed → s.badElems d s.vw js = [] →
        let r := s.cacheEls s.agent indexed
        Gives (exec (.vstra st d a b m x 0) s)
          ((((r.sendReduces s.cur.redCount (r.contributionsOf s.agent d s.cur.redCount indexed)).poisonDead s.agent indexed).onCur fun t =>
            { t with redCount := s.cur.redCount + 1 }).after4 st))) ∧
    (∀ (cr : BitVec 3) (t : TileAt), AtOnce s { vuse (s.unitSrc a b) [] [d] [m] with pends := 1 } st → blockTag p = true → base % 64 = 0 →
      (blockElem (ptrFmt p) = some s.vt ∨ s.vt = 0x10 ∨ s.vt = 0x11) →
      s.tilePos (ptrFmt p) (tagBlk (ptrTag p)) (if b = 0 then 0 else s.rg b) = some t →
      let f := ptrFmt p
      let len := 2 ^ (tagBlk (ptrTag p)).toNat
      let per := tileCols f / len
      let l := s.tileElems t base js
      let h := s.tileHdrs t base
      let o := s.openedEls .read (l ++ h)
      let hdr := fun (at_ n : Nat) => o.readEl s.agent (8 * n) { j := 0, va := (base + at_) % 2 ^ 56, bit := 0, n := n, hdr := true, reg := region base }
      let scale := fun row k : Nat => hdr ((t.h + row) * per + t.c0 / len + k) 1
      let band : BitVec 16 := if f = 0x1D then BitVec.ofNat 16 (hdr (64 * per) 2) else 0x3F80
      let packed := blockElem f = some s.vt
      let fpcr := s.cur.sp.fpcr &&& ~~~0x10#64
      let out := l.map fun y =>
        let v := o.readEl s.agent (memWidth ((blockElem f).getD 1)) y
        (y.j, if packed then (⟨v, 0⟩ : Rounded) else dequantElem f s.vt fpcr (rmOf fpcr) v (scale (y.j / c) (y.j % c / len)) band)
      let raised := out.map fun q => o.raisedAt q.1 q.2.flags
      let ws := (o.writes s.vw (out.map fun q => (q.1, q.2.bits))).map fun w => { w with band := if packed then band else 0x3F80 }
      let at_ := fun row k : Nat => d.toNat % (1024 / (32 * per)) * (32 * per) + row % 32 * per + k
      s.elsHere .read 1 (l ++ h) → 0 < c → (∀ y ∈ l ++ t.hdrBytes base h, o.elBad s.agent y = none) → o.fpTrap raised = none →
        ∃ sc : CWrite, sc.reg = cr ∧ sc.tag = f ++ tagBlk (ptrTag p) ∧
          (∀ row < s.vrows, row / 32 < s.files.length → ∀ k < per,
            scaleByte (sc.mask[row / 32]?.getD 0) (at_ row k) = 255 ∧
            scaleByte (sc.data[row / 32]?.getD 0) (at_ row k) = if k < per - t.c0 / len then scale row k else 0) ∧
          (∀ i n, n < 1024 → scaleByte (sc.mask[i]?.getD 0) n ≠ 0 → ∃ row < s.vrows, row / 32 = i ∧ ∃ k < per, n = at_ row k) ∧
          Gives (exec (.vld st d a b m x cr) s)
            (((o.noteFlags raised).deferred (.v d ws (some sc)) ((l.head?.map (·.va)).getD base) none).after4 st)) ∧
    (∀ (cr : BitVec 3) (t : TileAt), AtOnce s { vuse (s.unitSrc a b) [d] [] [m] with c := s.unitScale a cr } st → blockTag p = true → base % 64 = 0 →
      blockElem (ptrFmt p) = some s.vt → s.tagsPass cr (· == ptrTag p) = true →
      s.tilePos (ptrFmt p) (tagBlk (ptrTag p)) (if b = 0 then 0 else s.rg b) = some t → s.badElems d s.vw js = [] →
      let l := s.tileElems t base js
      let h := s.tileStoreHdrs t base js
      s.elsHere .write 1 (l ++ h) →
        Gives (exec (.vst st d a b m x cr) s)
          ((((s.cacheEls s.agent (l ++ h)).writeEls s.agent d t.e l).writeHdrs s.agent t base d cr (s.tileBlocks t js) h).after4 st)) ∧
    (let whole := s.regMoveEls base
     let md : BitVec 4 := d.setWidth 4
     let cd : BitVec 3 := d.setWidth 3
     let r := s.openedEls .read whole
     let w := s.openedEls .write whole
     let words := (List.range s.files.length).map fun i => r.regMoveRead base i
     (s.elsHere .read 64 whole → (∀ y ∈ whole, r.elBad s.agent y = none) →
       (AtOnce s { g := [a], md := [md], pends := 1 } st → ptrTag p = 0 →
         Gives (exec (.mld st d a) s) ((r.deferred (.m md words) base none).after4 st)) ∧
       (AtOnce s { g := [a], pends := 1 } st → blockTag p = true →
         Gives (exec (.cld st d a) s) ((r.deferred (.c cd words (ptrTag p)) base none).after4 st))) ∧
     (s.elsHere .write 64 whole →
       (AtOnce s { g := [a], m := [md], vec := true } st → ptrTag p = 0 →
         Gives (exec (.mst st d a) s) ((w.regMoveWrite base (s.files.map fun f => f.getM md)).after4 st)) ∧
       (AtOnce s { g := [a], c := [cd], vec := true } st → ptrTag p = 0 ∨ (ptrTag p = (s.cur.vf.getC cd).tag ∧ blockTag p = true) →
         Gives (exec (.cst st d a) s) ((w.regMoveWrite base (s.files.map fun f => (f.getC cd).data)).after4 st))))

/-! ## The matrix unit (R225-R247) -/

/-- R225-R246: the matrix words, in the state of the unit that each asks for. A command joins the queue for the open batch and takes its
tile; rings are set up, committed, queried and popped; `mrd` and `mwr` move a quadrant once no queued command names the tile; commands to other
cores travel as messages. -/
def Obligations.MatrixWords : Prop :=
  ∀ (s : State) (st : Bool) (d a b : BitVec 5),
    let m := s.core.mx
    let n := s.cur.num
    let x := s.rg a
    let y := s.rg b
    let t : BitVec 3 := d.extractLsb' 0 3
    let q : BitVec 3 := d.extractLsb' 0 3
    let mine := fun o : Option Nat => o = none ∨ o = some n
    let quiet := ∀ k i j, m.headTimes = some (k, i, j) → s.core.cycle ≤ j
    let push := fun (r : State) (h : Word) (op : MOp) (v : Word) =>
      r.onMx fun u => { u with queue := u.queue ++
        [{ op := op, owner := n, batch := h, remote := none, word := s.core.ir, operand := v, issuedAt := s.core.cycle, launch := s.cur.launch }] }
    let owns := s.onMx fun u => u.setTile t { u.tile t with owner := some ((u.tile t).owner.getD n) }
    s.matrixHeld = false →
    (∀ h, s.cur.batch = some h → quiet → m.queue.length < 64 →
      let qa : BitVec 3 := x.extractLsb' 0 3
      let qb : BitVec 3 := x.extractLsb' 16 3
      let oa := (x.extractLsb' 8 6).toNat
      let ob := (x.extractLsb' 24 6).toNat
      (AtOnce s {} st → mine (m.tile t).owner → Gives (exec (.mzero st d) s) ((push owns h (.zero t) 0).after4 st)) ∧
      (AtOnce s { g := [a] } st → mine (m.tile t).owner → mine (m.ring qa).owner → mine (m.ring qb).owner → x &&& ~~~0x3F073F07#64 = 0 →
        (m.classOf qa qb).isSome = true → oa < (m.ring qa).depth → ob < (m.ring qb).depth →
        Gives (exec (.mma st d a) s) ((push owns h (.mma t qa qb oa ob) x).after4 st)) ∧
      (AtOnce s { g := [a] } st → mine (m.ring q).owner → (m.ring q).depth ≠ 0 → x ≠ 0 → x.toNat ≤ (m.ring q).depth →
        Gives (exec (.mrpop st d a) s) ((push s h (.pop q x.toNat) x).after4 st)) ∧
      (let mask := (s.cur.vf.getM (b.extractLsb' 0 4)).extractLsb' 0 512
       ∀ c, AtOnce s { g := [a], m := [b.extractLsb' 0 4] } st → mine (m.tile t).owner → mine (m.ring qa).owner → mine (m.ring qb).owner →
        x &&& ~~~0x3F073F07#64 = 0 → m.classOf qa qb = some c → ((List.range (2 * c.k)).filter fun i => mask.getLsbD i).length ≤ c.k →
        oa + 1 < (m.ring qa).depth → ob < (m.ring qb).depth →
        Gives (exec (.mmas st d a b) s) ((push owns h (.mmas t qa qb oa ob mask) x).after4 st)) ∧
      (AtOnce s {} st → Gives (exec (.mend st) s) (((s.closeBatch h).onCur fun z => { z with batch := none }).after4 st))) ∧
    (s.cur.batch = none → AtOnce s {} st →
      (∀ h r, s.allocCell 4 1 = some (h, r) →
        Gives (exec (.mbeg st d) s)
          ((((r.onMx fun u => { u with batches := u.batches ++
              [{ handle := h, owner := n, closed := false, signalled := false, flags := 0, poisoned := false, sat := false }] }).onCur fun z =>
            { z with batch := some h }).wg d h).after4 st)) ∧
      exec (.mend st) s = .next (s.unwait.takeTrap (mkTrap 0x1B 0)) ∧ exec (.mzero st d) s = .next (s.unwait.takeTrap (mkTrap 0x1B 0))) ∧
    (mine (m.ring q).owner →
      ((m.queue.any fun k => k.op.namesRing q) = false →
        (a = 0 → AtOnce s {} st → Gives (exec (.mring st d a) s) ((s.onMx fun u => u.setRing q Ring.reset).after4 st)) ∧
        (∀ key, a ≠ 0 → AtOnce s { g := [a] } st → Reaches s .read 16 false x key → s.sound (addrOf x) key 16 →
          let r := s.opened (addrOf x) key 16
          let e := BitVec.ofNat 128 (Memory.getN r.mem key 16)
          let depth := (e.extractLsb' 64 8).toNat
          ringDescOk e q s.core.cid = true → r.ringBound (e.extractLsb' 0 56).toNat (depth * ringTileBytes (e.extractLsb' 56 8)) = none →
          Gives (exec (.mring st d a) s)
            ((r.onMx fun u => u.setRing q
              { base := (e.extractLsb' 0 56).setWidth 64, tag := e.extractLsb' 56 8, depth := depth, head := 0, tail := 0, owner := some n }).after4 st))) ∧
      (AtOnce s { g := [a] } st → m.queue = [] → (m.ring q).depth ≠ 0 → x ≠ 0 → (m.ring q).occupancy + x.toNat ≤ (m.ring q).depth →
        Gives (exec (.mrcommit st d a) s)
          ((s.onMx fun u => u.setRing q { u.ring q with tail := (u.ring q).tail + BitVec.ofNat 16 x.toNat }).after4 st))) ∧
    (AtOnce s {} st → quiet →
      let r := m.ring (a.extractLsb' 0 3)
      Gives (exec (.mrq st d a) s)
        ((s.wg d ((r.owner.map (BitVec.ofNat 8)).getD 0xFF ++ (0#8 ++ (r.tag ++ (BitVec.ofNat 8 r.depth ++ (r.tail ++ r.head)))))).after4 st)) ∧
    (let ta : BitVec 3 := a.extractLsb' 0 3
     AtOnce s { g := [b], vd := [d], vec := true } st → mine (m.tile ta).owner → y &&& ~~~0x103#64 = 0 → (m.tile ta).poison = false →
      (m.queue.any fun k => k.op.namesTile ta) = false →
      let r := (s.take ta).putOwn d (quadOf (m.tile ta).data (y.extractLsb' 0 2))
      Gives (exec (.mrd st d a b) s) ((if y.getLsbD 8 then r.onMx fun u => u.setTile ta Tile.reset else r).after4 st)) ∧
    (AtOnce s { g := [b], v := [a], vec := true } st → mine (m.tile t).owner → y &&& ~~~3#64 = 0 → (s.cur.vf.getV a).badWords = [] →
      (m.queue.any fun k => k.op.namesTile t) = false →
      Gives (exec (.mwr st d a b) s)
        ((owns.onMx fun u => u.setTile t
          { u.tile t with data := putQuad (u.tile t).data (y.extractLsb' 0 2) (s.cur.vf.getV a).bits }).after4 st)) ∧
    (∀ e : BitVec 32, AtOnce s { g := [a, b, b + 1] } st → b.getLsbD 0 = false → (payloadOp e).isSome = true →
      let base := dieOf s.core.cid * 384
      let cap := s.rg (b + 1) ++ y
      let sent := fun (r : State) (h : Word) (cores : List Nat) =>
        (cores.foldl (fun r c => r.post r.replyDue (.matrix (base + c) e cap h r.cur.launch)) r).wg d h
      (∀ h r, x.toNat < 384 → s.allocCell 4 1 = some (h, r) →
        Gives (exec (.mcmd st d a b e) s) ((sent r h [x.toNat]).after8 st)) ∧
      (let k := (x.extractLsb' 16 7).toNat + 1
       let step := (x.extractLsb' 32 9).toNat
       let cores := (List.range k).map fun p => (x.extractLsb' 0 9).toNat + p * step
       ∀ h r, x &&& ~~~0x1FF007F01FF#64 = 0 → k ≤ 64 → 1 ≤ step → step ≤ 383 → (∀ c ∈ cores, c < 384) → s.allocCell 7 k = some (h, r) →
        Gives (exec (.mdist st d a b e) s) ((sent r h cores).after8 st)))

/-- R246: `mxsave` in a handler writes the units of the interrupted strand to the image and releases them, with an empty queue;
`mxrst` takes them back from an image that names free units. Outside a handler both trap with ILLEGAL. -/
def Obligations.MatrixSaveRestore : Prop :=
  ∀ (s : State) (st : Bool) (a : BitVec 5), AtOnce s { priv := true, g := if s.cur.sp.traprec == 0 then [] else [a] } st →
    let ea := s.rg a
    let n := s.cur.num
    (s.cur.sp.traprec = 0 →
      exec (.mxsave st a) s = .next (s.unwait.takeTrap (mkTrap 0x01 0)) ∧ exec (.mxrst st a) s = .next (s.unwait.takeTrap (mkTrap 0x01 0))) ∧
    (s.cur.sp.traprec ≠ 0 →
      (s.runCheck .write 64 ea 138240 = .go → s.core.mx.queue = [] →
        let units := s.core.mx.unitsOf n
        let batch := (s.trappedImage.bind (·.st.batch)).bind fun h => s.core.mx.batches.find? (·.handle == h)
        let w := (s.core.mx.imageParts units batch []).foldl (fun r p => r.engineWrite r.agent ((addrOf ea + p.1) % 2 ^ 56) p.2 false) s
        Gives (exec (.mxsave st a) s) (((w.onMx (·.releaseUnits units)).onHandler fun h => { h with mxsaved := true, mxowed := true }).after4 st)) ∧
      (∀ h x r, s.cur.handler = some h → h.mxsaved = true → s.runCheck .read 64 ea 64 = .go → s.core.mx.lifted = [] →
        let state := leValue (s.loadVa s.agent (addrOf ea) 8)
        s.core.mx.unitsFree (BitVec.ofNat 16 state) = true → imageOk state 0 = true → s.runCheck .read 64 ea 138240 = .go →
        (∀ body, s.readDesc (addrOf ea) 138240 body = body x r) → r.core = s.core → s.trappedImage.bind (·.st.batch) = none →
        Gives (exec (.mxrst st a) s) (((r.onMx fun m => m.reload x n).onHandler fun h => { h with mxowed := false }).after4 st)))

/-! ## What the device does on its own -/

/-- R152, R155, R164, R168, R170, R243, R285, R289, R317, R411: a message in flight whose cycle has passed takes effect: a signal and a
fail at their cell, the store of an `stq` at its home and then its signal, a deposit and a reply at their strand, a wake, a hop, a
publication, a reduce-add, a matrix command, an arrival at a barrier cell. No link on its way retrains, and no event of an earlier cycle at
the same core is left (R152). -/
def Obligations.MessageArrivals : Prop :=
  ∀ (s : State) (i : Nat) (m : Msg), s.flight[i]? = some m → s.arrived m = true → (∀ e ∈ s.flight.take i, e.before m = false) →
    s.msgHeld m = false → s.comesLater m = false →
    let r : State := { s with flight := s.flight.eraseIdx i }
    (∀ h c, m.body = .signal h → hNode h = s.node → hCore h = some c →
      exec (.tokenSignalArrival i) s = .next (r.arriveAt m c (·.signal h))) ∧
    (∀ h e c, m.body = .fail h e → hNode h = s.node → hCore h = some c →
      exec (.tokenFailArrival i) s = .next (r.arriveAt m c (·.fail h e))) ∧
    (∀ t g x n c, m.body = .deposit t g x n → hNode t = s.node → hCore t = some c →
      exec (.depositArrival i) s =
        .next (r.arriveAt m c fun k => k.deposit (t.extractLsb' 0 8).toNat g x (r.countsTo c k.cycle))) ∧
    (∀ c h k x l, m.body = .store c h k x l → s.replyHeld m.body = false → r.cutOff c k = false → r.unreachable true k = false →
      exec (.tokenSignalArrival i) s = .next ((r.homeStore (r.targetHome k) 8 x.toNat).arriveAt m c (·.signal h))) ∧
    (∀ c g h k l, m.body = .ldqReply c g h k l → s.replyHeld m.body = false → r.unreachable false k = false → r.cutOff c k = false →
      let home := r.targetHome k
      let o := r.homeTouch home 8
      o.homeBad home 8 = none →
      exec (.ldqReply i) s =
        .next (({ o with free := o.free + 1 } : State).arriveAt m c fun x =>
          (x.onReply h fun l => l.map fun e =>
            if e.token = h then
              { e with
                wr := (match e.wr with | .g q _ => .g q (BitVec.ofNat 64 (o.homeLoad home 8)) | w => w)
                present := true, err := none }
            else e).signal h)) ∧
    (∀ c n k, m.body = .wake c n k → exec (.waiterWake i) s =
      .next (r.arriveAt m c fun x => x.wakeStrand n (Image.waitsAt k (r.countsTo c x.cycle)) .go)) ∧
    (∀ st c d n, m.body = .hop st c d → (s.coreOf c).freeNum = some n →
      let u := match st.left with
        | p :: _ => r.renameSender (senderKey p.1 p.2) (senderKey c n)
        | [] => r
      exec (.hopArrival i) s =
        .next (((u.detredAt st (dieOf c)).pubsFollow st.launch c).onCore c fun x =>
          x.addStrand (({ st with num := n, sp := { st.sp with self := mkSelf s.node c n } }).writeG d 0) x.cycle)) ∧
    (∀ l j g c, m.body = .publication l j g c →
      exec (.couloirPublicationDelivery i) s =
        .next (r.onLaunch l fun x =>
          { x with pubs := x.pubs.map fun p => if p.item = j ∧ p.reg = g then { p with reached := c :: p.reached } else p })) ∧
    (∀ a b items, m.body = .reduce a b items → exec (.reduceAddArrival i) s = .next (r.addPackets items)) ∧
    (∀ core e cap h l o, m.body = .matrix core e cap h l →
      let c := s.coreOf core
      let host := (c.mxhost.extractLsb' 0 8).toNat
      c.inService = true → c.mxhost.getLsbD 63 = true → cap = c.mxcaph ++ c.mxcapl → c.hasStrand host = true → payloadOp e = some o →
      c.mx.refuses host o = false → c.mx.queue.length < 64 →
      let now := min (s.arrivalCycle m core) c.cycle
      exec (.remoteMatrixCommand i) s =
        .next (r.onCore core fun x =>
          { x.hostTakes host with mx := { x.mx.takeFor host o with
            queue := (x.mx.takeFor host o).queue ++
              [{ op := o, owner := host, batch := 0, remote := some h, word := 0, operand := e.setWidth 64, issuedAt := now, launch := l }] } })) ∧
    (∀ lv u b n h l, m.body = .barrier lv u b n h l →
      let c := r.bar lv u b
      let t := m.due.getD 0
      let arr := c.arrivals ++ [(h, l)]
      (c.n ≠ 0 → c.n ≠ n → exec (.barrierArrival i) s = .next (r.barAnswer lv t h (.fail h 0x30))) ∧
      (c.n = 0 ∨ c.n = n → arr.length ≠ n → exec (.barrierArrival i) s = .next (r.setBar lv u b { c with n := n, arrivals := arr })) ∧
      (c.n = 0 ∨ c.n = n → arr.length = n →
        exec (.barrierArrival i) s =
          .next (arr.foldl (fun s p => s.barAnswer lv t p.1 (.signal p.1)) (r.setBar lv u b { phase := c.phase + 1, n := 0, arrivals := [] }))))

/-- R20, R123, R148, R163, R172, R177, R192, R231, R251, R259, R265-R267, R284, R285: the steps of one core beside its instructions: the
return of a pending result, the ends of waits and parks, resume decisions, pre-emptions, waiting traps, lost images and cells, debug stops,
the completion of vector and matrix work, and the answer of a bank to the access that waits for it, which then has its effect. Which images
an uncorrectable error reaches is log 52, where a stop and a park fall log 74, what a home holds after a move log 95: the model's readings. -/
def Obligations.CoreEvents : Prop :=
  ∀ (s : State) (core num : Nat),
    let c := s.coreOf core
    let f := s.focusOn core
    let back := fun t : State => t.focusOn s.core.cid
    (∀ i e, c.running = true → c.cur.pend[i]? = some e → e.present = false → e.token = 0 →
      exec (.pendingResultReturn core i) s =
        .next (s.onCore core fun c => { c with cur := { c.cur with pend := c.cur.pend.modify i fun e => { e with present := true } } })) ∧
    (∀ x, c.parkedTill = some x → exec (.fimetUnpark core) s = .next (s.onCore core (·.unpark))) ∧
    (∀ t, c.parkedTill = some (some t) → t ≤ c.cycle → exec (.parkTimeout core) s = .next (s.onCore core fun c => c.atCycle (t - 1) (·.unpark))) ∧
    (∀ e rest, c.vq = e :: rest → e.done < c.cycle → exec (.vectorExecute core) s = .next (s.onCore core fun c => c.retireHead e rest)) ∧
    (c.stopWanted = true → c.stopped = false → c.convoy = none → (∀ e ∈ c.vq, e.done < c.cycle) →
      exec (.debugStopTakesEffect core) s = .next (s.onCore core fun c => { c with stopped := true })) ∧
    (∀ cell, cell < 4096 → (c.cell cell).st ≠ .free → exec (.cellUncorrectable core cell) s = .next (s.onCore core fun c => c.settleCell cell (.failed 6))) ∧
    (∀ i, c.imageOf num = some i →
      let only := fun (f : Image → Image) => State.onCore s core fun c => { c with images := onImage num f c.images }
      (∀ t, i.retryAt = some t → t < c.cycle → pastLimit i.deadline (s.countsTo core t) = false →
        exec (.waiterTableTimeout core num) s = .next (s.onCore core fun c => c.atCycle t (·.wakeStrand num (fun _ => true) .go))) ∧
      (∀ t, i.deadline = some t → i.waitKey = none → t < c.cycle → s.pkg.frozen = none →
        exec (.waitLimitExpiry core num) s = .next (s.onCore core fun c => c.atCycle t (·.wakeStrand num (fun _ => true) .waitLimit))) ∧
      (i.preempted = false → s.isLowestItem i.st = false → (c.running = false ∨ c.cur.num ≠ num) →
        exec (.preemptRequest core num) s = .next (only fun i => { i with preempted := true })) ∧
      (i.preempted = true → i.inEntry = true → exec (.suspendedImageMove core num) s =
        .next (back ((f.fillHome f.core.freeHome i.bytes).onFocus fun c =>
          { c with images := onImage i.st.num (fun i => { i with place := .basin c.freeHome }) c.images }))) ∧
      (i.cleanCopy ≠ 0 →
        exec (.cleanRowCopy core num) s = .next (State.onCore s core fun c => { c with images := copyEnded num c.images })) ∧
      (i.preempted = true → s.mayLift core i.st = true →
        exec (.preemptLift core num) s =
          .next (State.onCore (s.onPkg fun p => { p with launches := p.launches.map fun l => { l with victims := l.victims.filter (· != (core, num)) } })
            core fun c =>
              let lift := fun i : Image =>
                if i.preempted then { i with preempted := false, sigTime := if i.cond = .ready then max i.sigTime c.cycle else i.sigTime } else i
              { c with images := onImage num lift c.images })) ∧
      (i.place ≠ .fresh →
        let gone := f.onFocus fun c => { c with images := dropImage i.st.num c.images }
        (i.st.handler = none → exec (.imageUncorrectable core num) s = .next (back (gone.loseStrand i.st))) ∧
        ∀ h, i.st.handler = some h → exec (.imageUncorrectable core num) s = .next (back (gone.doubleTrapOf i.st contextLost h)))) ∧
    (c.running = true → c.cur.num = num → s.isLowestItem c.cur = false → c.owedReply = false → c.cur.trapDue = none →
      exec (.preemptRequest core num) s = .next (back f.preemptRunning)) ∧
    (∀ t, c.running = true → c.cur.trapDue = some t →
      let w := f.loadVa f.agent (addrOf c.cur.pc) 8
      let ir := BitVec.ofNat 32 (leValue (w.take 4))
      exec (.trapDelivery core) s =
        .next (back ((((f.onFocus fun c => { c with ir := ir, irPayload := if wideWord ir then BitVec.ofNat 32 (leValue (w.drop 4)) else 0 }).onCur
          fun x => { x with trapDue := none }).unwait).takeTrap t))) ∧
    (∀ n rest slot i t b, c.slotQueue = n :: rest → c.freeSlot = some slot → c.running = false → c.imageOf n = some i → i.cond = .slotWait t b →
      let u := f.deliverWaiting i t b slot
      exec (.trapSlotFreed core) s = .next (back (if i.preempted then u.preemptHandler n else u))) ∧
    (∀ i, c.running = false → c.parkedTill = none → c.stopped = false → c.slotQueue = [] ∨ c.freeSlot = none → c.replay = false → c.rlog = false →
      c.choice = some i →
      exec (.resumeDecision core) s = .next (back (f.bring i))) ∧
    (∀ k b done, c.mx.headTimes = some (k, b, done) → done < c.cycle → k.remote = none →
      let d := f.runCommand f.core.cid c.mx k.op
      let m := { d.unit with queue := c.mx.queue.tail, freeAt := done + 1 }
      exec (.matrixCommandExecute core) s =
        .next (back (f.onFocus fun c => c.atCycle (done + 1) fun c =>
          (({ c with mx := { m with batches := onBatch k.batch (·.absorb d) m.batches } }).endBatches).sweepKept))) ∧
    (∀ st d a t, c.running = true → c.waiting = true → c.posted = true → c.reply = .none → c.ir.extractLsb' 25 6 = 0x1D#6 →
      c.ir.extractLsb' 0 7 = 0#7 → st = c.ir.getLsbD 31 → d = c.ir.extractLsb' 20 5 → a = c.ir.extractLsb' 15 5 →
      exec (.ldfe st d a) f = .next t → t.core.waiting = false → exec (.feBankAnswer core) s = .next (back t)) ∧
    (∀ key, c.running = true → c.waiting = true → c.posted = true → c.reply = .none → c.ir.extractLsb' 25 6 = 0x1D#6 →
      let st := c.ir.getLsbD 31
      let d := c.ir.extractLsb' 20 5
      let a := c.ir.extractLsb' 15 5
      let ea := adda (f.rg a) 0
      let fn := (c.ir.extractLsb' 0 7).toNat
      let stored := (f.homeStore (.here key) 8 (f.rg d).toNat).fillWord key
      let accepts := fun (t : State) => ∃ x, exec (.feBankAnswer core) s = .next (back ((t.after4 st).counted x))
      NamesWord f ea key →
      (fn = 0 → AtOnce f { g := [a], pends := 1 } st → f.isFull key = true → f.badAt key 8 = none →
        accepts ((f.emptyWord key).deferredNow (.g d (BitVec.ofNat 64 (Memory.getN f.mem key 8))) (addrOf ea) none)) ∧
      (fn = 1 → AtOnce f { g := [d, a] } st → f.isFull key = false → accepts stored) ∧
      (fn = 3 → AtOnce f { g := [d, a] } st → accepts stored) ∧
      (fn = 4 → AtOnce f { g := [a] } st → accepts (f.wg d (if f.isFull key then 1 else 0))))

/-- R220-R222, R279, R294-R299, R334, R342, R345: the steps of the engines: a granule of a stream block arrives, one of a drain is stored, a
copy is performed, a Moraine unit answers and moves, banks change their mode; a failed engine, slot or barrier cell fails what it held.
Poisoned fills (log 45), the order of a copy's accesses (log 58), which copies an engine's failure takes (log 60) and the commit that fails
(log 62) are the model's readings. -/
def Obligations.EngineEvents : Prop :=
  ∀ (s : State) (core num i die slot : Nat),
    (∀ reg t b, reg < 32 → (s.coreOf core).findStrand num (fun t => t.bound (BitVec.ofNat 5 reg)) = some t → t.binding (BitVec.ofNat 5 reg) = some b →
      b.out = false → b.arrived = false → s.engineStop = false → s.serviced (.fill core num (BitVec.ofNat 5 reg)) = .clear → s.fillAbsent (t.agentOn core) b = [] →
      s.fillHeld (t.agentOn core) b = false → exec (.streamFillArrival core num reg) s = .next (s.fillNow core num t b false)) ∧
    (∀ d, (s.coreOf core).drains[i]? = some d → s.engineStop = false → s.serviced (.drain core d.strand d.reg) = .clear → s.drainAbsent core d = [] →
      let ag := d.agent core
      let va := addrOf d.addr
      let n := d.data.length
      s.runHeld ag .write va n = false → s.runUnreachable ag .write va n = false → s.runDenied ag .write va n = false →
      let p := s.drainPart ag d
      let at_ := (va + p.1) % 2 ^ 56
      let r := s.engineRead ag at_ p.2 .write
      let u : State := { r.1.engineWrite ag at_ (mergeBytes r.2.1 ((d.data.drop p.1).take p.2) ((d.mask.drop p.1).take p.2)) d.poisoned with
        free := s.free + 1 }
      let e := { d with mask := d.mask.zipIdx.map fun q => if p.1 ≤ q.2 ∧ q.2 < p.1 + p.2 then 0 else q.1 }
      (e.rest = [] → exec (.streamDrainComplete core i) s = .next (u.drainDone core i d (if d.poisoned then 3 else 0))) ∧
      (e.rest ≠ [] → exec (.streamDrainComplete core i) s = .next (u.onCore core fun c => { c with drains := c.drains.set i e }))) ∧
    (∀ cl c, (s.clusterAt cl).engines ≠ 0 → s.engineStop = false → (s.clusterAt cl).copies[i]? = some c → s.serviced (.copy c.token) = .clear → s.copyAbsent c = [] →
      (∀ j < c.rows, s.rowDenied c j = false) → (∀ r ∈ c.runs, s.runHeld c.agent r.1 r.2 c.bytes = false) →
      let p := s.copyRest c
      let q := p.1.ringCommit c
      exec (.gondolaCopyComplete cl i) s =
        .next (q.1.endCopy c
          (if c.runs.any fun r => s.runUnreachable c.agent r.1 r.2 c.bytes then 4 else if q.2 = false then 0x34 else if p.2.mv.bad then 3 else 0))) ∧
    (∀ cl e, e < (s.clusterAt cl).engines → cl < 96 →
      let lost := (((s.clusterAt cl).copies.zipIdx.filter fun p => Config.freeBool (s.free * 2 ^ 64 + p.2)).map (·.1))
      exec (.gondolaEngineFailure cl e) s =
        .next ((lost.foldl (fun s c => s.failCopy c 0x33) ((s.fresh).onCluster cl fun k => { k with engines := k.engines - 1 })).reHealth)) ∧
    (∀ r rest, (s.dieAt die).ssQueue = r :: rest → (s.dieAt die).ssOps.length < 1024 →
      let c := s.coreOf r.core
      let q := s.onDie die fun d => { d with ssQueue := rest }
      c.running = true → c.waiting = true → c.posted = true → c.cur.num = r.strand →
      (∀ x t, q.serveSs die r = (.reply x, t) → exec (.moraineRequest die) s = .next (t.onCore r.core fun c => { c with reply := .moraine x 0 })) ∧
      (∀ e x t, q.serveSs die r = (.trap e x, t) → exec (.moraineRequest die) s = .next (q.onCore r.core fun c => { c with reply := .moraine x e }))) ∧
    (∀ o, (s.dieAt die).ssOps[i]? = some o → s.engineStop = false → (∀ p ∈ (s.dieAt die).ssOps.take i, o.after p = false) →
      (o.close = true → exec (.moraineMovementComplete die i) s = .next ((s.ssDone die i o 0).ssFreed die o.slot)) ∧
      (o.close = false → o.aborted = true → exec (.moraineMovementComplete die i) s = .next (s.ssDone die i o 0x3A)) ∧
      (o.close = false → o.aborted = false →
        let c := s.ssCopy die o
        s.serviced (.moraine o.token) = .clear → s.copyAbsent c = [] → s.rowDenied c 0 = false →
        (∀ r ∈ c.runs, s.runHeld c.agent r.1 r.2 c.bytes = false ∧ s.runUnreachable c.agent r.1 r.2 c.bytes = false) →
        exec (.moraineMovementComplete die i) s = .next ((s.copyRest c).1.ssDone die i o (if (s.copyRest c).2.mv.bad then 3 else 0)))) ∧
    (slot < 8192 → die < 4 → slot ∉ (s.dieAt die).slotsOut →
      exec (.moraineMetadataError die slot) s =
        .next (((s.loseSlot die slot).onDie die fun d => { d with slotsOut := slot :: d.slotsOut }).reHealth)) ∧
    (∀ cl r rest, (s.clusterAt cl).bankReqs = r :: rest →
      let c := s.coreOf r.core
      let q := s.onCluster cl fun c => { c with bankReqs := rest }
      c.running = true → c.waiting = true → c.posted = true → c.cur.num = r.strand → s.sramBusy = false →
      exec (.bankModeChange cl) s =
        .next (((((q.serveBank cl r).2.onCore r.core fun c => { c with reply := .word (BitVec.ofNat 64 (q.serveBank cl r).1) }).focusOn
          r.core).bankcfgAgain).focusOn s.core.cid)) ∧
    (∀ lv u cell, (lv = 0 ∧ u < 96 ∧ cell < 64) ∨ (lv = 1 ∧ u < 4 ∧ cell < 256) ∨ (lv = 2 ∧ u = 0 ∧ cell < 64) →
      let c := s.bar lv u cell
      (c.n = 0 → exec (.barrierCellError lv u cell) s = .next s) ∧
      (c.n ≠ 0 →
        exec (.barrierCellError lv u cell) s =
          .next (c.arrivals.foldl (fun s p => s.barAnswer 1 0 p.1 (.fail p.1 0x31)) (s.setBar lv u cell { c with n := 0, arrivals := [] }))))

/-- R299, R306, R307, R310, R312, R314, R316, R321, R323, R324, R367, R430: the steps of the dies: slot tables, packets, requests and
responses, hints, refreshes and scrubs, failing cores, banks and devices, and links that retrain, recover or are declared down. The
numbers of the links (log 28), what a failed core loses (log 33), the corrected errors of an access (log 71) and when refresh management runs
(log 76) are the model's. -/
def Obligations.DieEvents : Prop :=
  ∀ (s : State) (i die : Nat),
    (die < 4 →
      let d := s.dieAt die
      (d.slotpolNext = none → exec (.slotTableSwap die) s = .next (s.onDie die fun d => { d with active := d.shadow, shadow := d.active })) ∧
      ∀ v n, d.slotpolNext = some (v, n) →
        (n ≤ 1 → exec (.slotTableSwap die) s = .next (s.onDie die fun d => { d with active := d.shadow, shadow := slotTable v, slotpolNext := none })) ∧
        (1 < n → exec (.slotTableSwap die) s =
          .next (s.onDie die fun d => { d with active := d.shadow, shadow := slotTable v, slotpolNext := some (v, n - 1) }))) ∧
    (∀ id total off bs last, bs ≠ [] → bs.length ≤ 256 → total ≤ 16384 → off + bs.length ≤ total →
      (∀ m ∈ s.pkg.assemblies, m.id = id → m.done = true) →
      exec (.messagePacketArrival id total off bs last) s =
        .next (s.onPkg fun p =>
          { p with assemblies := { id := id, total := total, got := bs.length, parts := [(off, bs)], done := bs.length == total } ::
              p.assemblies.filter (·.id != id) })) ∧
    (∀ k j r d, s.dieIndex (·.requests.length) i = some (k, j) → (s.dieAt k).requests[j]? = some r →
      ((s.dies.toList.flatMap (·.responses)).filter fun x => x.requester == r.requester && x.target == r.target).length < 8 →
      (∀ x ∈ (s.dieAt k).requests.take j, s.inHbm r.pa = true → s.inHbm x.pa = true → homeDie x.pa = homeDie r.pa →
        dramOf (x.pa / 64) ≠ dramOf (r.pa / 64)) →
      s.pkg.links = [] → s.localPaused r.pa = false →
      (if s.inHbm r.pa then (s.dieAt (homeDie r.pa)).demand (r.pa / 64) else some (s.dieAt (homeDie r.pa))) = some d →
      exec (.memoryRequest i) s =
        .next ((((s.onDie (homeDie r.pa) fun _ => d.corrected s.free).fresh).performRequest r).onDie k fun d =>
          { d with requests := d.requests.eraseIdx j, responses := d.responses ++ [⟨r.requester, r.target, ceilDiv r.len 64⟩] })) ∧
    (∀ k j, s.dieIndex (·.responses.length) i = some (k, j) →
      exec (.responseArrival i) s = .next (s.onDie k fun d => { d with responses := d.responses.eraseIdx j })) ∧
    (∀ k j pa, s.dieIndex (·.hints.length) i = some (k, j) → (s.dieAt k).hints[j]? = some pa →
      let d := { s.dieAt k with hints := (s.dieAt k).hints.eraseIdx j }
      let b := dramOf (pa / 64)
      let waits := s.dies.toList.any fun x => x.requests.any fun r => s.inHbm r.pa && homeDie r.pa == k && dramOf (r.pa / 64) == b
      exec (.rowActivateHint i) s =
        .next (s.onDie k fun _ =>
          if waits = true ∨ ((s.dieAt k).hbmrm.extractLsb' 0 16).toNat ≤ ((s.dieAt k).bank b).count then d else d.activate b (pa / 64))) ∧
    (∀ bank lost, die < 4 → bank < 61 → (s.dieAt die).l2off.getLsbD bank = false →
      (∀ l ∈ lost, s.backed (64 * l) = true ∧ homeDie (64 * l) = die ∧ s.homeBank (64 * l) = die * 61 + bank) →
      exec (.l2BankFailure die bank lost) s = .next ((s.dropBank die bank lost).reHealth)) ∧
    (∀ line, s.inHbm (64 * line) = true →
      exec (.patrolScrub line .clean) s = .next s ∧
      exec (.patrolScrub line .corrected) s =
        .next (s.onDie (homeDie (64 * line)) fun d => { d with ecccnt := satField d.ecccnt 32 32 }) ∧
      exec (.patrolScrub line .uncorrectable) s = .next { s with ue := if line ∈ s.ue then s.ue else line :: s.ue }) ∧
    (∀ bank, die < 4 →
      exec (.hbmRefresh die bank) s =
        .next (s.onDie die fun d =>
          let n := (d.bank bank).count - (d.hbmrm.extractLsb' 32 16).toNat / 2
          d.setBank { d.bank bank with
            count := n, rfmPending := decide ((d.hbmrm.extractLsb' 0 16).toNat ≤ n), blocked := decide ((d.hbmrm.extractLsb' 16 16).toNat ≤ n) })) ∧
    (∀ cl bank, cl < 96 → bank < 64 → (s.clusterAt cl).outMask.getLsbD bank = false → (s.clusterAt cl).faultMask.getLsbD bank = false →
      exec (.clusterSramBankFault cl bank) s = .next (s.onCluster cl fun c => { c with faultMask := c.faultMask ||| (1#64 <<< bank) })) ∧
    (∀ port, port < 8 → port ∉ s.pkg.cxlFailed →
      exec (.cxlDeviceFailure port) s = .next ((s.onPkg fun p => { p with cxlFailed := port :: p.cxlFailed }).reHealth)) ∧
    (∀ core, core < 1536 → (s.coreOf core).inService = true → (s.coreOf core).gangHead = none →
      (∀ x ∈ s.cores, clusterOf x.cid = clusterOf core → x.spareUsed = false) →
      let lo := scratchKey core 0 / 64
      let hi := scratchKey (core + 1) 0 / 64
      let r := (s.setCore ((s.coreOf core).wiped true)).focusOn core
      let u : State := { r with
        ue := (List.range (Config.scratchBytes / 64)).map (lo + ·) ++ r.ue.filter fun l => !(decide (lo ≤ l) && decide (l < hi)) }
      exec (.coreFailure core) s = .next ((((s.coreOf core).allStrands.foldl State.loseStrand u).focusOn s.core.cid).reHealth)) ∧
    (∀ link, link < 35 →
      ((∀ p ∈ s.pkg.links, p.1 ≠ link) → linkDies link = [] →
        exec (.linkRetrainStart link) s =
          .next (s.onPkg fun p =>
            { p with
              links := (link, .retraining) :: p.links
              frozen := if link < 31 ∧ p.frozen = none then some (s.cores.map fun c => (c.cid, c.cycle)) else p.frozen })) ∧
      ((link, .retraining) ∈ s.pkg.links →
        (s.pkg.pwr < 3 →
          exec (.linkRetrainComplete link) s = .next ((s.onPkg fun p => { p with links := p.links.filter (·.1 != link) }).thaw)) ∧
        (s.pkg.pwr < 3 → exec (.linkDownTimeout link) s =
          .next (((s.onPkg fun p => { p.countPort link false with links := (link, .down) :: p.links.filter (·.1 != link) }).dropUnreachable.thaw).reHealth))))

/-- R357-R366: the page service's engines: a fault batch is written whole or waits, or fails its token when the queue is off; a migration
marks its leaf, copies 256 bytes at a time, and finishes with the new frame or PAGE_CHANGED; a dump copies its pages and ends. What answers an
engine's fault (log 61), which descriptor of the dump queue is refused first (log 65) and the piece that is copied next (log 102) are the
model's readings. -/
def Obligations.PageEvents : Prop :=
  ∀ (s : State) (i : Nat),
    (∀ b rest, s.pkg.batches = b :: rest →
      let q := s.onPkg fun p => { p with batches := rest }
      let recs := batchPages b.pages.length b.pages
      let wr := s.pkg.fqptr.extractLsb' 0 32
      let rd := s.pkg.fqptr.extractLsb' 32 32
      (s.pkg.fqcfg.getLsbD 63 = false → exec .faultBatchWrite s = .next (q.answerToken b.token 0x40)) ∧
      (s.pkg.fqcfg.getLsbD 63 = true → s.pkg.fqcfg.getLsbD 62 = false → (wr - rd).toNat + recs.length ≤ 2 ^ (s.pkg.fqcfg.extractLsb' 0 5).toNat →
        exec .faultBatchWrite s =
          .next ((q.putBatch b wr.toNat recs).onPkg fun p =>
            { p with fqptr := p.fqptr.extractLsb' 32 32 ++ (wr + BitVec.ofNat 32 recs.length), fqSeq := p.fqSeq + 1 }))) ∧
    (∀ h c, s.engineOps[i]? = some (.copy h) → (s.clusters.flatMap (·.copies)).find? (·.token == h) = some c → s.engineStopped (.copy h) = false →
      s.copyAbsent c ≠ [] →
      (7 ≤ c.faults → exec (.engineFaultReport i) s = .next (s.failCopy c 0x32)) ∧
      ∀ t, c.faults < 7 → s.engineFault c.core (.copy h) c.agent (s.copyAbsent c) (s.copyAcc c) = some t →
        exec (.engineFaultReport i) s =
          .next (t.onCluster (clusterOf c.core) fun k =>
            { k with copies := k.copies.map fun x => if x.token = h then { x with faults := x.faults + 1 } else x })) ∧
    (∀ pa rest, s.pkg.migQueue = pa :: rest → s.pkg.migrations.length < 4 → s.engineStop = false →
      let q := s.onPkg fun p => { p with migQueue := rest }
      let tok := q.descWord pa 2
      (q.migDesc pa = none → exec .migrationStart s = .next (q.answerToken tok 0x42)) ∧
      ∀ asid va f r l, q.migDesc pa = some (asid, va, f) → q.rootOf asid = some r → q.leafAt r va = some l →
        (l.migratable f = false → exec .migrationStart s = .next (q.answerToken tok 0x42)) ∧
        (l.migratable f = true →
          exec .migrationStart s =
            .next (((q.setLeafBit l 0 true).dropPage asid va).onPkg fun p =>
              { p with migrations := p.migrations ++ [⟨asid, va, l.pa, (l.leaf.extractLsb' 16 36).toNat * 2 ^ 16, f, 0, tok, false⟩] }))) ∧
    (∀ m, s.pkg.migrations[i]? = some m →
      (m.progress < 2 ^ 16 → s.engineStop = false → s.inFlightTo (m.oldFrame + m.progress) 256 = false →
        let c := s.copyPa (m.oldFrame + m.progress) (m.newFrame + m.progress) 256
        exec (.migrationCopyStep i) s =
          .next (c.1.onPkg fun p =>
            { p with migrations := p.migrations.modify i fun m => { m with progress := m.progress + 256, failed := m.failed || c.2.failed } })) ∧
      (2 ^ 16 ≤ m.progress →
        let q := s.onPkg fun p => { p with migrations := p.migrations.eraseIdx i }
        let e := q.loadPa m.leafPa 7
        let held := e.testBit 55 = true ∧ e.testBit 49 = true ∧ e % 2 ^ 36 * 2 ^ 16 = m.oldFrame
        (held →
          exec (.migrationFinish i) s =
            .next (((q.storePa m.leafPa 7 (e / 2 ^ 36 * 2 ^ 36 - 2 ^ 49 + m.newFrame / 2 ^ 16)).dropPage m.asid m.va).answerToken m.token
              (if m.failed then 4 else 0))) ∧
        (¬held → exec (.migrationFinish i) s = .next ((q.dropPage m.asid m.va).answerToken m.token 0x41)))) ∧
    (∀ pa rest, s.pkg.dumpQueue = pa :: rest → s.engineStop = false →
      let q := s.onPkg fun p => { p with dumpQueue := rest }
      let tok := s.descWord pa 5
      (s.dumpDesc pa = none → exec .dumpStart s = .next (q.answerToken tok 0x43)) ∧
      ∀ asid va n d b, s.dumpDesc pa = some (asid, va, n, d, b) →
        (s.rootOf asid = none → exec .dumpStart s = .next (q.answerToken tok 0x43)) ∧
        (∀ x r, s.pkg.dump = some x → x.asid = asid → s.rootOf asid = some r → exec .dumpStart s = .next (q.answerToken tok 0x44)) ∧
        ∀ r, s.pkg.dump = none → s.rootOf asid = some r → (∀ y ∈ rest, s.dumpRefused y = none) →
          (∀ m ∈ s.pkg.migrations, m.asid = asid → m.va < va ∨ va + n ≤ m.va) → (∀ m ∈ s.flight, m.translated.any isGlobalKey = false) →
          let ps := (rangePages va n).filter fun p => (q.leafAt r p).isSome
          let u := ps.foldl (fun s p => match s.leafAt r p with | some l => s.setLeafBit l 1 true | none => s) q
          exec .dumpStart s =
            .next ((((List.range (n / 2 ^ 16)).foldl (fun s i => s.setBitmap b i false) u).dropAsid asid).onPkg fun p =>
              { p with dump := some ⟨asid, r, va, n, d, b, tok, ps, [], false, false⟩ })) ∧
    (∀ x, s.pkg.dump = some x →
      (x.pieces = [] →
        exec .dumpComplete s =
          .next ((s.onPkg fun p => { p with dump := none }).answerToken x.token (if x.failed then 4 else if x.poisoned then 3 else 0))) ∧
      ∀ p l, s.engineStop = false → s.nextPiece x = some p → p ∈ x.pieces → p % 2 ^ 16 = 0 → (s.fresh).leafAt x.root p = some l → l.big = false →
        let c := (s.fresh).copyPa ((l.leaf.extractLsb' 16 36).toNat * 2 ^ 16) (x.dest + (p - x.start)) (2 ^ 16)
        exec .dumpPageCopy s =
          .next ((((c.1.setBitmap x.bitmap ((p - x.start) / 2 ^ 16) true).setLeafBit l 1 false).dropPage x.asid p).onPkg fun k =>
            { k with dump := some { x with
              pieces := x.pieces.filter (· != p), wanted := x.wanted.filter (· != p)
              poisoned := x.poisoned || c.2.poisoned, failed := x.failed || c.2.failed } }))

/-- R383, R385, R390-R398: the dispatcher: a port write, admission or refusal of a record, a dependency's report, placement, the start of
items, the finish, and the end of a cancellation. The order of victims over tiers (log 67), the modes of a core (log 68) and what a
cancellation discards (log 69) are the model's readings. -/
def Obligations.LaunchEvents : Prop :=
  ∀ (s : State),
    (∀ q off size data, q < 16384 → off < 64 →
      exec (.launchPortWrite q off size data) s =
        .next (s.onQueue q fun x =>
          if size = 64 ∧ off = 0 ∧ s.queueEn q = true then
            if (s.pkg.queue q).recs.length < 256 then { x with recs := x.recs ++ [⟨data, (s.queueEntry q).1, (s.queueEntry q).2⟩] }
            else { x with ovf := true }
          else { x with err := true })) ∧
    (∀ x r root d1 rest, s.pkg.launches.length < 4096 → s.pkg.tested = true → s.pkg.boot.stage = 3 → s.pkg.pwr < 3 → s.nextQueue = some x →
      x.recs = ⟨r, root, d1⟩ :: rest →
      let q := (s.onQueue x.q fun x => { x with recs := rest }).onPkg fun p => { p with admitCursor := (x.q + 1) % 16384 }
      q.recordHeld (dispatcherAgent root) r = false →
      let ok := recOk r (d1.extractLsb' 60 3).toNat (d1.extractLsb' 55 5)
      (ok = false → exec .launchAdmission s = .next (q.refuseRecord x.q root r)) ∧
      ∀ b seeds, ok = true → q.argsOf (dispatcherAgent root) r = some b → q.seedsOf (dispatcherAgent root) r = some seeds →
        (argsOk b = false → exec .launchAdmission s = .next (q.refuseRecord x.q root r)) ∧
        (argsOk b = true →
          exec .launchAdmission s =
            .next (q.onPkg fun p =>
              { p with
                nextLaunch := p.nextLaunch + 1
                launches := p.launches ++ [q.withDeps { (recLaunch r).withArgs b with id := s.pkg.nextLaunch, queue := x.q, ptroot := root, seeds := seeds }] }))) ∧
    (∀ l k i f, s.depMessage l k = some (i, f) → s.flight[i]?.any s.msgHeld = false →
      exec (.dependencyReport l k) s =
        .next (({ s with flight := s.flight.eraseIdx i } : State).onLaunch l fun x =>
          { x with
            depReported := x.depReported ||| (1#4 <<< k), depDone := x.depDone ||| (1#4 <<< k)
            depFailed := if f then x.depFailed ||| (1#4 <<< k) else x.depFailed })) ∧
    (∀ id l, s.launchOf id = some l →
      (∀ cores n d b a, l.phase = .waiting → l.depsDone = true → s.pkg.pwr < 3 → cores ≠ [] → shapeOf cores = some (d, b, a) → ascending cores = true →
        (∀ c ∈ cores, c < 1536 ∧ s.eligible l n c true = true) → l.accepts d b a n = true → s.higherFirst l cores = true →
        s.victimsInOrder l n cores = true →
        ((∀ c ∈ cores, s.inTheWay l c = []) → s.itsTurn l = true →
          exec (.launchPlacement id cores n) s = .next (s.place l cores n (l.grantWord d b a n))) ∧
        ∀ t, s.placeableNow l = false → (∃ c ∈ cores, s.unasked l c ≠ []) → cores.foldl (fun r c => r.bind fun u => u.askFor l c (s.unasked l c)) (some s) = some t →
          exec (.launchPlacement id cores n) s = .next t) ∧
      (l.phase = .waiting → l.depsDone = true → s.pkg.pwr < 3 → s.possible l = false → ∀ n,
        exec (.launchPlacement id [] n) s = .next ((s.completeLaunch l 0x24).dropLaunch l)) ∧
      (∀ p, s.startable l = true → s.itsTurn l = true → s.pkg.pwr < 3 → l.nextPosition = some p →
        exec (.itemStart id) s =
          .next (((s.newRound l).startItem l.id l.nextItem p.rank).onLaunch l.id fun x => { x with turn := x.turn + 1 })) ∧
      (l.phase = .placed → l.allDone = true → s.hasStrands id = false → s.engineBusy id = false →
        exec (.launchFinish id) s = .next ((s.completeLaunch l 0).dropLaunch l)) ∧
      (∀ code, l.phase = .cancelling code → s.replyOwed id = false → (s.stopLaunch l).engineBusy id = false → l.report = 0 →
        exec (.cancelComplete id) s = .next (((s.stopLaunch l).completeLaunch l code).dropLaunch l)))

/-- R436-R447, R450: the fabric: accesses and messages of other nodes, lost paths, the remote-memory engine's doorbell, packets and timer,
and the placement table, whose token is signalled when every replica has applied the update. The
links' numbers (log 28), a queue pair's indices at a reload (log 30), the placement unit's address space (log 31), what stands in for other
nodes (log 81) and the answer that cannot be delivered (log 117) are the model's readings. -/
def Obligations.FabricEvents : Prop :=
  ∀ (s : State) (n : Nat),
    (∀ a, a.source < s.nodes → a.source ≠ s.node → podBytes a.op ≠ 0 → s.podHeld a.exported a.offset.toNat (podBytes a.op) = false →
      (s.podHomes a.exported a.offset.toNat (podBytes a.op) = none → exec (.podRemoteAccess a) s = .next s) ∧
      ∀ hs, s.podHomes a.exported a.offset.toNat (podBytes a.op) = some hs →
        (∀ k, a.op = .read k → exec (.podRemoteAccess a) s = .next (hs.foldl (fun s p => s.homeTouch p.1 p.2) s)) ∧
        (∀ bs, a.op = .write bs → exec (.podRemoteAccess a) s = .next (s.putHomes hs bs)) ∧
        (∀ h m rest, hs = (h, m) :: rest →
          (∀ op x, a.op = .amo op x → a.offset.toNat % amoSize op = 0 →
            let o := s.homeTouch h (amoSize op)
            exec (.podRemoteAccess a) s = .next (o.homeStore h (amoSize op) (amoApply op (o.homeLoad h (amoSize op)) x))) ∧
          (∀ c x, a.op = .cas c x → a.offset.toNat % 8 = 0 →
            let o := s.homeTouch h 8
            exec (.podRemoteAccess a) s = .next (if BitVec.ofNat 64 (o.homeLoad h 8) = c then o.homeStore h 8 x.toNat else o))) ∧
        ∀ fmt item k j xs key m, a.op = .adds fmt item k j xs → hs = [(.here key, m)] → addType fmt = true → a.offset.toNat % addSize fmt = 0 →
          exec (.podRemoteAccess a) s =
            .next (s.addPackets ((List.range xs.length).map fun i =>
              { launch := none, item := item, n := k, j := j + i, fmt := fmt, addr := key + addSize fmt * i, value := xs[i]?.getD 0 }))) ∧
    (n < s.nodes → n ≠ s.node → n ∉ s.pkg.nodesDown → s.podPaused = false → s.engineStop = false →
      exec (.pathDownTimeout n) s = .next ((s.onPkg fun p => { p with nodesDown := n :: p.nodesDown }).dropUnreachable.reHealth)) ∧
    (∀ h e t g x c, s.podPaused = false → hNode h = s.node → hCore h = some c → hNode t = s.node → hCore t = some c →
      let now := fun f : Core → Core => s.onCore c fun k => k.atCycle (s.coreOf c).cycle f
      exec (.remoteControlMessage (.signalIn h)) s = .next (now (·.signal h)) ∧
      exec (.remoteControlMessage (.failIn h e)) s = .next (now (·.fail h e)) ∧
      exec (.remoteControlMessage (.depositIn t g x)) s =
        .next (now fun k => k.deposit (t.extractLsb' 0 8).toNat g x (s.countsTo c k.cycle))) ∧
    (∀ i m, s.flight[i]? = some m → s.isLocal m.body = false → s.arrived m = true → s.reachable (s.msgNode m.body) = true → s.podPaused = false →
      (∀ e ∈ s.flight.take i, e.before m = false) →
      exec (.remoteControlMessage (.outgoing i)) s = .next { s with flight := s.flight.eraseIdx i }) ∧
    (∀ q a, s.qp n = some q → s.qpAgent q = some a →
      (s.doorbellOk q a = true → s.engineStop = false →
        let sp := (s.netWord a q.db 0).toNat
        let w := s.takeWqes a (min (sp - q.sqCons) q.sqSize) q
        exec (.netDoorbellAcquire n) s =
          .next (((w.1.putNetWord a w.2.db 2 (BitVec.ofNat 64 w.2.sqCons)).putNetWord a w.2.db 3 (BitVec.ofNat 64 w.2.rqCons)).setQp
            { w.2 with sqProd := sp, rqProd := (s.netWord a q.db 1).toNat })) ∧
      (s.linkDown (31 + q.port) = false → s.linkPaused (31 + q.port) = false →
        (∀ p, netReply p = false → q.st = 2 ∨ q.st = 3 →
          (∀ t, netPsn p = q.expPsn → s.netRequest q a p = some t → exec (.netPacketArrival n p) s = .next t) ∧
          (netPsn p ≠ q.expPsn → (netPsn p - q.expPsn).getLsbD 23 = false →
            exec (.netPacketArrival n p) s = .next (s.setQp { q with naked := true }))) ∧
        (∀ psn, q.st = 3 → exec (.netPacketArrival n (.ack psn)) s = .next ((s.completeAcked q psn).1.setQp (s.completeAcked q psn).2)))) ∧
    (∀ q, s.qp n = some q → q.st = 3 → q.sent ≠ [] → s.linkPaused (31 + q.port) = false →
      (q.retries < q.retry → exec (.netRetransmitTimeout n) s = .next (s.setQp { q with retries := q.retries + 1 })) ∧
      (q.retry ≤ q.retries → exec (.netRetransmitTimeout n) s = .next (s.qpError q q.sent.length 0x50))) ∧
    (∀ p r, s.placeDesc = some p → p.seqNode = s.node →
      (r.source = s.node → s.placeRingWaits p = false → s.engineStop = false → s.ownRequest p = some r → exec (.placementRequest r) s = .next ((s.takeOwn p r).sequence p r)) ∧
      (r.source ≠ s.node → r.source < s.nodes → s.podPaused = false → exec (.placementRequest r) s = .next (s.sequence p r))) ∧
    (∀ p k x, s.placeDesc = some p → p.seqNode = s.node → s.podPaused = false ∨ s.onlyReplica p = true →
      s.pkg.place.unapplied.find? (·.1 == k) = some x →
      exec (.placementUpdate (.applied k)) s =
        .next ((s.onPkg fun q => { q with place := { q.place with unapplied := q.place.unapplied.erase x } }).answerToken x.2 0)) ∧
    (∀ p u, s.placeDesc = some p → (∀ k, u ≠ .applied k) → updateSeq u = s.placeSeq p + 1 → s.runsWait p.agent .write (s.updateRuns p u) = false →
      (p.seqNode ≠ s.node → s.podPaused = false → exec (.placementUpdate u) s = .next ((s.applyUpdate p u).ownResult p u)) ∧
      (p.seqNode = s.node → ∀ tok rest, s.pkg.place.decided = (u, tok) :: rest →
        exec (.placementUpdate u) s =
          .next (((s.applyUpdate p u).ownResult p u).onPkg fun k =>
            { k with place := { k.place with decided := rest, unapplied := k.place.unapplied ++ [(updateSeq u, tok)] } })))

/-- R9, R192, R367, R419-R434: reset, power and the mailbox: the states of PWRSTAT and the profile, the host's accesses with what they read,
and Fimet's commands, each for the code of its request, with their answers. The report's layout (log 34), the number of rows
replaced at a quiesce (log 71), which request a command answers (log 72) and the strand that a Moraine reply is owed to (log 75) are the
model's. -/
def Obligations.BoardEvents : Prop :=
  ∀ (s : State),
    let pwr := fun (n : Nat) (f : Package → Package) => (s.onPkg fun p => f { p with pwr := n }).notify 3
    let ride := fun p : Package => { p with profileNext := some 3 }
    let thermal := s.pkg.thermalRide
    let enter := ((s.onPkg fun p => { p with pwr := 3, quiesces := satInc p.quiesces, stayHeld := s.heldStrands }).notify 3).quiesceStrands
    (s.pkg.pwr = 0 → exec .supplyDroop s = .next (pwr 1 id)) ∧
    (s.pkg.pwr = 1 →
      exec .stretchRecovery s = .next (pwr 0 id) ∧ exec .rideEntry s = .next (pwr 2 fun p => { ride p with rides := satInc p.rides })) ∧
    (s.pkg.pwr = 1 ∨ s.pkg.pwr = 2 → exec .quiesceEntry s = .next enter) ∧
    (s.pkg.pwr = 2 → exec .rideRecovery s = .next (pwr 0 fun p => { p with profileNext := if thermal then p.profileNext else some p.sel })) ∧
    (s.pkg.pwr < 3 → exec .thermalQuiesce s = .next enter) ∧
    (
      let q := [0, 1, 2, 3].foldl (fun s d => s.drainDie d fun _ => true) (s.quiesceStrands.arriveReduces fun _ => true)
      s.pkg.pwr = 3 → (∀ c ∈ q.cores, c.running = false) →
      exec .quiesceComplete s =
        .next ((({ q with
          clusters := q.clusters.map Cluster.dropFaulty
          dies := q.dies.map fun d => { d with slotsOut := [], l2Lines := [] } } : State).onPkg fun p =>
            { p.spareRows (Config.freeWait q.free) with pwr := 4 }).notify 3)) ∧
    (s.pkg.pwr = 4 →
      let r := (s.onPkg fun p => { p with pwr := 0, thermalRide := false, profileNext := some p.sel }).notify 3
      exec .heldRestart s = .next (((r.cores.map (·.cid)).foldl State.liftCore r).reHealth)) ∧
    (s.pkg.pwr ≠ 4 →
      (thermal = false → exec .thermalRide s = .next (s.onPkg fun p => { ride p with thermalRide := true })) ∧
      (thermal = true →
        exec .thermalReturn s =
          .next (s.onPkg fun p =>
            { p with thermalRide := false, profileNext := if s.pkg.pwr = 2 ∨ s.pkg.pwr = 3 then p.profileNext else some p.sel }))) ∧
    (∀ x, s.pkg.profileNext = some x →
      exec .profileSwitch s =
        .next (s.onPkg fun p => { p with profile := (p.profile &&& ~~~0x300#64) ||| (x.setWidth 64 <<< 8), profileNext := none })) ∧
    (∀ fast, s.pkg.active = 2 → s.pkg.burstFast ≠ fast → exec (.burstClockChange fast) s = .next (s.onPkg fun p => { p with burstFast := fast })) ∧
    (∀ mg, exec (.shockEvent mg) s =
      .next (if mg ≤ 15000 then s else (s.onPkg fun p => { p with shocks := p.shocks + 1, shockLog := p.shockLog ++ [mg] }).reHealth)) ∧
    (∃ t, exec .deviceReset s = .next t ∧ t.mem = [] ∧ t.core.running = false ∧ t.core.images = [] ∧ t.pkg.launches = [] ∧
      t.pkg.queues = [] ∧ t.flight = [] ∧ t.tlb = [] ∧ t.pkg.pwr = 0 ∧ t.pkg.boot = s.pkg.boot ∧ t.pkg.health = s.pkg.health) ∧
    (∃ t, exec .supplyLoss s = .next t ∧ t.mem = [] ∧ t.core.running = false ∧ t.pkg.launches = [] ∧ t.pkg.extents = [] ∧ t.pkg.boot.stage = 0 ∧
      t.pkg.boot.lossLogged = s.pkg.boot.lossLogged + 1 ∧ t.pkg.boot.fuse = s.pkg.boot.fuse) ∧
    (∀ a b c r, s.pkg.boot.stage = 0 → s.pkg.boot.failed = none →
      let good := fun (i : StageImage) => i.ed25519Ok = true ∧ i.mldsaOk = true ∧ s.pkg.boot.fuse ≤ i.version
      (good a → good b → good c → s.pkg.shocks = s.pkg.shocksTested → s.pkg.tested = true →
        ∃ t, exec (.powerUp [a, b, c] r) s = .next t ∧ t.pkg.boot.stage = 3 ∧ t.pkg.boot.failed = none ∧
          t.pkg.boot.meas.toList = [a.digest, b.digest, c.digest]) ∧
      (good a → ¬good b → ∃ t, exec (.powerUp [a, b, c] r) s = .next t ∧ t.pkg.boot.stage = 1 ∧ t.pkg.boot.failed = some 2)) ∧
    (∀ off len data, s.hostMay off len = true →
      let bs := leBytes len data.toNat
      (2 ^ 32 ≤ off →
        exec (.hostMemoryAccess true off len data) s = .next (s.hostMemWrite (off - 2 ^ 32) bs) ∧
        exec (.hostMemoryAccess false off len data) s =
          .next ((s.hostMemRead (off - 2 ^ 32) len).1.onPkg fun p => { p with hostReply := (s.hostMemRead (off - 2 ^ 32) len).2 })) ∧
      (off < 2 ^ 32 →
        exec (.hostMemoryAccess false off len data) s =
          .next (s.fresh.onPkg fun p => { p with hostReply := (List.range len).map fun i => s.hostWinByte (off + i) })) ∧
      (off + len ≤ 0x200000 → exec (.hostMemoryAccess true off len data) s = .next (s.hostLaunchWrite off bs)) ∧
      (0x200000 ≤ off → off + len ≤ 0x201000 →
        let w := s.onPkg fun p => { p with mailbox := p.mailbox.hostWrite (off - 0x200000) bs }
        exec (.hostMemoryAccess true off len data) s =
          .next (if off < 0x200088 ∧ 0x200080 < off + len then w.ringMailbox else w)) ∧
      (0x201000 ≤ off → off < 2 ^ 32 → exec (.hostMemoryAccess true off len data) s = .next s)) ∧
    (s.pkg.commands = true →
      let code := s.pkg.mailbox.last.toNat
      (code = 0 ∨ 7 < code →
        (∀ v, s.pkg.boot.fuse < v → s.pkg.boot.version ≤ v →
          exec (.fuseVersionAdvance v) s = .next ((s.onPkg fun p => { p with boot := { p.boot with fuse := v } }).respond 0)) ∧
        ∀ addr nonce, exec (.attest addr nonce) s = .next (s.respond 2)) ∧
      (code = 1 → ∀ addr nonce,
        let bs := s.pkg.signedReport nonce
        (isHost addr = false → exec (.attest addr nonce) s = .next (s.respond 3)) ∧
        (isHost addr = true → s.backed addr = true → isHost (addr + bs.length - 1) = true → s.backed (addr + bs.length - 1) = true →
          exec (.attest addr nonce) s = .next ((s.hostMemWrite addr bs).respond 0))) ∧
      (code = 2 → ∀ off size,
        let bad := off % 2 ^ 28 ≠ 0 ∨ size % 2 ^ 28 ≠ 0 ∨ size = 0 ∨ 2 ^ 43 < off + size ∨ ∃ e ∈ s.pkg.extents, off < e.1 + e.2 ∧ e.1 < off + size
        (bad → exec (.extentadd off size) s = .next (s.respond 3)) ∧
        (¬bad → 8192 * 10 ^ 9 < s.pkg.mapped + size → exec (.extentadd off size) s = .next (s.respond 1)) ∧
        (¬bad → s.pkg.mapped + size ≤ 8192 * 10 ^ 9 →
          exec (.extentadd off size) s = .next ((s.onPkg fun p => { p with extents := p.extents ++ [(off, size)] }).respond 0))) ∧
      (code = 3 → (∀ m ∈ s.flight, m.translated.any isGlobalKey = false) → ∀ off,
        (s.pkg.extents.find? (·.1 == off) = none → exec (.extentrel off) s = .next (s.respond 3)) ∧
        ∀ e, s.pkg.extents.find? (·.1 == off) = some e →
          ∃ t, exec (.extentrel off) s = .next t ∧ t.tlb = [] ∧ t.pkg.extents = s.pkg.extents.filter (· != e)) ∧
      (code = 4 → ∀ vec addr data,
        exec (.setvec vec addr data) s =
          .next (if 4 ≤ vec then s.respond 3
            else (s.onPkg fun p => { p with vectors := p.vectors.setIfInBounds vec ⟨addr, data⟩ }).respond 0)) ∧
      (code = 5 → ∀ sel, exec (.mbxProfile sel) s = .next (if sel = 3 then s.respond 3 else (s.onPkg (·.select sel)).respond 0)) ∧
      (code = 6 → ∀ core, core < 1536 → (s.coreOf core).inService = true →
        exec (.debugstop core true) s = .next ((s.onCore core fun c => { c with stopWanted := true }).respond 0) ∧
        exec (.debugstop core false) s = .next ((s.onCore core fun c => { c with stopWanted := false, stopped := false }).respond 0)) ∧
      (code = 7 → ∀ t, s.pkg.pwr = 0 → exec (.selftest t) s = .next ((s.selfTest t).respond 0)))

/-! ## Fetch, decoding, reset, and what every step keeps -/

/-- R260: a load that meets an entry with V = 0, while a kind-5 cell is free, takes the fault path and no trap: the strand is suspended
at the load, with its registers, on the token of a batch that names the page and the level; the attempt is the first. -/
def Obligations.PageFaultPath : Prop :=
  ∀ (s : State) (st : Bool) (d a : BitVec 5) (o : BitVec 12) (l : Nat), AtOnce s { g := [a], pends := 1 } st →
    let ea := adda (s.rg a) (o.signExtend 64 * 8)
    let va := addrOf ea
    s.cur.pend = [] → s.cur.reissue = false → scalarTagOk 8 false ea = true → region va < 14 → va % 8 = 0 →
    s.locate s.agent .read va 8 = .absent l → (s.core.alloc s.node 4032 64 5 1 s.cur.num).isSome = true →
    ∃ t h, exec (.ldI64 st d a o) s = .next t ∧ t.core.running = false ∧
      (∃ j ∈ t.core.images, j.st.num = s.cur.num ∧ j.st.pc = s.cur.pc ∧ j.st.g = s.cur.g ∧ j.st.attempts = 1 ∧ j.cond = .fault h ∧
        j.resume = .fault h (infoAt va)) ∧
      t.pkg.batches = s.pkg.batches ++
        [{ token := h, pages := [(va - va % 2 ^ 16, l)], sup := s.cur.priv, acc := 1, eng := false, asid := asidOf s.cur.sp.ptroot, attempt := 1 }]

/-- R13, R31: a step runs the decoded instruction: the word at the PC, with the payload behind a `WIDE` word, is decoded and executed in the
state in which its fetch has been counted; a turn of the device is executed; and after each the dispatcher watches its dependencies
(R391). The core that steps is one that no other is behind on the common clock (R2; DEDUCED, log 97). The bytes at the PC, in a line that
the instruction cache holds, are that word. -/
def Obligations.StepRunsDecoded : Prop :=
  (∀ (s : State) (i : Instr) (ts : List Turn), s.turns = .event i :: ts → s.mayTurn i = true → step s = afterStep (exec i { s with turns := ts })) ∧
  (∀ (s : State) (c : Nat) (ts : List Turn), s.turns = .run c :: ts → (({ s with turns := ts } : State).focusOn c).inTime = false →
    step s = .refused (.notEnabled "CORE STEP")) ∧
  (∀ (s : State), s.turns = [] →
    let f := s.focusOn s.slowest
    f.runs = true →
    let q := (f.tick).setIr 0 0
    let va := addrOf q.cur.pc
    (∀ w t, q.fetchWord va = .word t w → isWide w = false → step s = afterStep (exec (decode w 0) (t.setIr w 0))) ∧
    (∀ w p t u, q.fetchWord va = .word t w → isWide w = true → (t.setIr w 0).fetchWord ((va + 4) % 2 ^ 56) = .word u p →
      step s = afterStep (exec (decode w p) (u.setIr w p))) ∧
    (∀ w k i, FetchesFrom q va k w → decodeBytes (leBytes 4 w.toNat) = some (i, []) → i.wf = true →
      step s = afterStep (exec i ((q.opened va k 4).setIr w 0))) ∧
    (∀ w p k j i, FetchesFrom q va k w →
      let r := (q.opened va k 4).setIr w 0
      FetchesFrom r ((va + 4) % 2 ^ 56) j p → decodeBytes (leBytes 4 w.toNat ++ leBytes 4 p.toNat) = some (i, []) → isWide w = true → i.wf = true →
        step s = afterStep (exec i ((r.opened ((va + 4) % 2 ^ 56) j 4).setIr w p))))

/-- Words that the spec writes out decode to the instructions that it writes beside them (R17, R37, R98, R103-R105, R118, R127, R159,
R160, R206, R210, R215, R225, R294, R356); words of an unassigned major or function, or with a reserved bit, do not (R26, R30); a `WIDE`
instruction is read with its payload (R13, R28). -/
def Obligations.DecodeWords : Prop :=
  decode 0x105FFFFD 0 = .li false 5 0xFFFFD ∧ decode 0x12512345 0 = .lsh false 5 0x12345 ∧ decode 0x2A607FFF 0 = .dbnz false 6 0x7FFF ∧
  decode 0x84581980 0 = .add true 5 16 6 1 true ∧ decode 0x2029FFFD 0 = .bnez false 9 0xFFFD ∧ decode 0x280F8000 0 = .jr false 31 ∧
  decode 0x2C502003 0 = .ldp false 5 1 3 ∧ decode 0x02500020 0 = .rds false 5 0x020 ∧ decode 0x02034005 0 = .wrs false 6 0x005 ∧
  decode 0x30724006 0 = .ldI32 false 7 4 6 ∧ decode 0x32526002 0 = .st64 false 5 4 2 ∧ decode 0x36521990 0 = .amoadd false 5 4 6 3 1 ∧
  decode 0x3C003300 0 = .fence false 3 3 ∧ decode 0x3A521801 0 = .unassignedEncoding .reserved 0x3A521801 ∧
  decode 0x44221401 0 = .vlds false 2 4 5 0 false 0 ∧ decode 0x4C3088A3 0 = .vfma false 3 1 2 2 true ∧
  decode 0x50308808 0 = .vcmpflt false 3 1 2 0 false false ∧ decode 0x40601400 0 = .setl false 6 0 5 ∧
  decode 0x60339003 0 = .mmas false 3 7 4 ∧ decode 0x64531C04 0 = .tokr false 5 6 7 ∧ decode 0x66530003 0 = .await false 5 6 3 ∧
  decode 0x6A580000 0 = .pub false 5 16 ∧ decode 0x6C531C00 0 = .bara false 5 6 7 ∧ decode 0x70531C06 0 = .gcpr false 5 6 7 ∧
  decode 0x72531C01 0 = .ssld false 5 6 7 ∧ decode 0x76321400 0 = .sbind false 3 4 5 ∧ decode 0x00031C05 0 = .tlbinv false 6 7 ∧
  decode 0x00030001 0 = .trap false 6 ∧ decode 0 0 = .illegal false ∧
  decode 0x7A000000 0 = .unassignedEncoding .major 0x7A000000 ∧ decode 0x68000006 0 = .unassignedEncoding .function 0x68000006 ∧
  decodeBytes [0x00, 0x00, 0x04, 0x7C, 0x78, 0x56, 0x34, 0x12] = some (.lix false 8 0x12345678, [])

/-- R15, R26-R29: decoding the words that encode a well-formed instruction gives that instruction back, for every instruction that has
words and every value of its operands. -/
def Obligations.DecodeEncode : Prop := ∀ (i : Instr) (ws : List (BitVec 32)), i.wf = true → encode i = some ws → decodeWords ws = some i

/-- Every step keeps the canonical form of memory (DESIGN CHOICE, log 3): from any state in which the cells rise strictly by address and none holds what
an unlisted address reads as, a step that gives a next state gives one of that form. -/
def Obligations.StepKeepsMemory : Prop := ∀ (s t : State), s.memOk → step s = .next t → t.memOk

/-- R9, R72, R73, R152, R186, R224, R272, R288, R307, R357, R382, R426, R428: the machine after reset: no strand, an empty memory in
canonical form, every special register with a reset value at it; and a new strand has every register zero and dead, no full bit, and the
specials of R73. -/
def Obligations.ResetState : Prop :=
  let s := State.reset
  s.memOk ∧ s.mem = [] ∧ s.fullWords = [] ∧ s.core.running = false ∧ s.core.images = [] ∧ s.others = [] ∧ s.flight = [] ∧ s.pkg.launches = [] ∧
  s.core.mx.tiles = Vector.replicate 8 Tile.reset ∧ s.core.cells = [] ∧ TokCell.reset.st = .free ∧ BarCell.reset.n = 0 ∧
  (∀ p ∈ [(0x001, 0), (0x003, 32), (0x004, 32), (0x005, 1024), (0x006, 0x10), (0x007, 0x100000000), (0x008, 0), (0x009, 0), (0x00C, 0x100000),
      (0x00E, 1), (0x010, 0), (0x011, 0), (0x012, 0), (0x013, 0), (0x014, 0), (0x020, 0), (0x023, 48), (0x024, 0), (0x040, 0), (0x810, 0),
      (0x812, 0), (0x813, 10), (0x814, 0), (0x815, 0), (0x822, 0), (0x823, 0), (0x824, 0), (0x840, 0), (0x841, 0x08080808), (0x843, 0),
      (0x860, 0), (0x861, 0), (0x862, 6), (0x870, 0), (0x880, 0), (0x881, 0)],
    s.readSpecial (BitVec.ofNat 12 p.1) = some (BitVec.ofNat 64 p.2)) ∧
  (∀ r : BitVec 5, s.cur.readG r = 0 ∧ (s.cur.vf.getV r).bits = 0 ∧ (s.cur.vf.getV r).valid = 0 ∧ s.cur.deadG r = decide (r ≠ 0)) ∧
  s.cur.full = 0 ∧ s.cur.vf.xm = 0 ∧ s.cur.vf.fltm = 0
end

