-- ==== Sys2Proof/Laws/Memory.lean ====
section
/-! SUPPORT. Memory: reading after writing, and the canonical form, which every memory operation keeps (DESIGN CHOICE, log 3). -/

namespace Sys2Proof.Machine

/-! ## The canonical form -/

theorem wfFrom_mono {lo lo' : Nat} {m : List Host.Cell} (h : lo' ≤ lo) (hm : Memory.wfFrom lo m = true) : Memory.wfFrom lo' m = true := by
  cases m with
  | nil => rfl
  | cons c m =>
    obtain ⟨a, b⟩ := c
    simp only [Memory.wfFrom, Bool.and_eq_true, decide_eq_true_eq] at hm ⊢
    exact ⟨⟨Nat.le_trans h hm.1.1, hm.1.2⟩, hm.2⟩

theorem put_wfFrom {lo : Nat} {m : List Host.Cell} (k : Nat) (x : Byte) (hk : lo ≤ k) (h : Memory.wfFrom lo m = true) :
    Memory.wfFrom lo (Memory.put m k x) = true := by
  induction m generalizing lo with
  | nil =>
    simp only [Memory.put]
    split
    · rfl
    · rename_i hx
      have hx' : ¬x = 0#8 := hx
      simp [Memory.wfFrom, hk, hx']
  | cons c m ih =>
    obtain ⟨a, b⟩ := c
    simp only [Memory.wfFrom, Bool.and_eq_true, decide_eq_true_eq] at h
    obtain ⟨⟨h1, h2⟩, h3⟩ := h
    simp only [Memory.put]
    split
    · rename_i hlt
      split
      · simp [Memory.wfFrom, h1, h3]; simpa using h2
      · rename_i hx
        have hx' : ¬x = 0#8 := hx
        simp [Memory.wfFrom, hk, hx', h3, hlt]; simpa using h2
    · split
      · rename_i _ he
        subst he
        split
        · exact wfFrom_mono (by omega) h3
        · rename_i hx
          have hx' : ¬x = 0#8 := hx
          simp [Memory.wfFrom, h1, hx', h3]
      · simp only [Memory.wfFrom, Bool.and_eq_true, decide_eq_true_eq]
        exact ⟨⟨h1, h2⟩, ih (by omega) h3⟩

/-- A byte written keeps the canonical form. -/
theorem put_wf {m : List Host.Cell} (k : Nat) (x : Byte) (h : Memory.wf m = true) : Memory.wf (Memory.put m k x) = true :=
  put_wfFrom k x (Nat.zero_le k) h

theorem putN_wf (n : Nat) {m : List Host.Cell} (k v : Nat) (h : Memory.wf m = true) : Memory.wf (Memory.putN m k n v) = true := by
  induction n generalizing m k v with
  | zero => exact h
  | succ n ih => exact ih _ _ (put_wf _ _ h)

theorem putBytes_wf (bs : List Byte) {m : List Host.Cell} (k : Nat) (h : Memory.wf m = true) : Memory.wf (Memory.putBytes m k bs) = true := by
  induction bs generalizing m k with
  | nil => exact h
  | cons x bs ih => exact ih _ (put_wf _ _ h)

theorem filter_wfFrom (p : Host.Cell → Bool) {lo : Nat} {m : List Host.Cell} (h : Memory.wfFrom lo m = true) :
    Memory.wfFrom lo (m.filter p) = true := by
  induction m generalizing lo with
  | nil => rfl
  | cons c m ih =>
    obtain ⟨a, b⟩ := c
    simp only [Memory.wfFrom, Bool.and_eq_true, decide_eq_true_eq] at h
    rw [List.filter_cons]
    split
    · simp only [Memory.wfFrom, Bool.and_eq_true, decide_eq_true_eq]
      exact ⟨h.1, ih h.2⟩
    · exact wfFrom_mono (by omega) (ih h.2)

/-- Dropping cells keeps the canonical form. -/
theorem filter_wf (p : Host.Cell → Bool) {m : List Host.Cell} (h : Memory.wf m = true) : Memory.wf (m.filter p) = true := filter_wfFrom p h

/-! ## Reading after writing -/

theorem get_low {lo k : Nat} {m : List Host.Cell} (h : Memory.wfFrom lo m = true) (hk : k < lo) : Memory.get m k = 0 := by
  cases m with
  | nil => rfl
  | cons c m =>
    obtain ⟨a, b⟩ := c
    simp only [Memory.wfFrom, Bool.and_eq_true, decide_eq_true_eq] at h
    simp only [Memory.get]
    rw [if_neg (by omega), if_pos (by omega)]

theorem get_put_wfFrom {lo : Nat} {m : List Host.Cell} (h : Memory.wfFrom lo m = true) (k : Nat) (x : Byte) (q : Nat) :
    Memory.get (Memory.put m k x) q = if q = k then x else Memory.get m q := by
  induction m generalizing lo with
  | nil =>
    simp only [Memory.put]
    split
    · rename_i hx; subst hx; simp [Memory.get]
    · simp only [Memory.get]
      by_cases hq : q = k
      · simp [hq]
      · rw [if_neg (by omega), if_neg hq]; simp
  | cons c m ih =>
    obtain ⟨a, b⟩ := c
    simp only [Memory.wfFrom, Bool.and_eq_true, decide_eq_true_eq] at h
    obtain ⟨⟨h1, -⟩, h3⟩ := h
    simp only [Memory.put]
    by_cases h4 : k < a
    · rw [if_pos h4]
      split
      · rename_i hx
        by_cases hq : q = k
        · subst hq; simp only [Memory.get, if_true]; rw [if_neg (by omega), if_pos h4, hx]
        · rw [if_neg hq]
      · by_cases hq : q = k
        · subst hq; simp [Memory.get]
        · rw [if_neg hq]
          show (if k = q then x else if q < k then 0 else Memory.get ((a, b) :: m) q) = _
          rw [if_neg (by omega)]
          split
          · simp only [Memory.get]; rw [if_neg (by omega), if_pos (by omega)]
          · rfl
    · rw [if_neg h4]
      by_cases h5 : k = a
      · subst h5
        rw [if_pos rfl]
        split
        · rename_i hx
          by_cases hq : q = k
          · subst hq; rw [if_pos rfl, hx]; exact get_low h3 (by omega)
          · rw [if_neg hq]
            simp only [Memory.get]
            rw [if_neg (by omega)]
            split
            · exact get_low h3 (by omega)
            · rfl
        · by_cases hq : q = k
          · subst hq; simp [Memory.get]
          · have hq' : ¬k = q := fun e => hq e.symm
            simp only [Memory.get, hq, hq', if_false]
      · rw [if_neg h5]
        simp only [Memory.get]
        by_cases hq : a = q
        · subst hq; rw [if_pos rfl, if_neg (by omega), if_pos rfl]
        · rw [if_neg hq]
          split
          · rename_i hlt
            rw [if_neg (by omega)]
          · rw [ih h3]

/-- A byte read after a byte is written: the written one at its key, the old one elsewhere. -/
theorem get_put {m : List Host.Cell} (h : Memory.wf m = true) (k : Nat) (x : Byte) (q : Nat) :
    Memory.get (Memory.put m k x) q = if q = k then x else Memory.get m q := get_put_wfFrom h k x q

/-- A byte read after `n` bytes are written. -/
theorem get_putN (n : Nat) {m : List Host.Cell} (h : Memory.wf m = true) (k v q : Nat) :
    Memory.get (Memory.putN m k n v) q = if k ≤ q ∧ q < k + n then BitVec.ofNat 8 (v / 256 ^ (q - k)) else Memory.get m q := by
  induction n generalizing m k v with
  | zero => simp only [Memory.putN]; rw [if_neg (by omega)]
  | succ n ih =>
    simp only [Memory.putN]
    rw [ih (put_wf _ _ h), get_put h]
    by_cases h1 : q = k
    · subst h1
      rw [if_neg (by omega), if_pos rfl, if_pos (by omega)]
      simp
    · by_cases h2 : k ≤ q ∧ q < k + (n + 1)
      · rw [if_pos (by omega), if_pos h2]
        congr 1
        rw [show q - k = (q - (k + 1)) + 1 from by omega, Nat.pow_succ, Nat.mul_comm, Nat.div_div_eq_div_mul]
      · rw [if_neg (by omega), if_neg h1, if_neg h2]

end Sys2Proof.Machine
end

