-- ==== Sys2Proof/Laws/Accounting.lean ====
section
/-! SUPPORT. What charging, waiting and the vector queue can do: nothing but accounting; and what the frame of an instruction
does when it issues. -/

namespace Sys2Proof.Machine

/-- The accounting of a state. -/
def State.accounting (s : State) : Accounting :=
  { cycle := s.core.cycle, acct := s.core.acct, counters := s.core.cur.counters, gReady := s.core.cur.gReady, vq := s.core.vq,
    vuFree := s.core.vuFree, divBusy := s.core.divBusy, mulDone := s.core.mulDone, retire := s.core.retire, vrhead := s.core.vrhead,
    convoy := s.core.convoy, free := s.free }

@[simp] theorem counted_accounting (s : State) : s.counted s.accounting = s := rfl
@[simp] theorem counted_counted (s : State) (x y : Accounting) : (s.counted x).counted y = s.counted y := rfl
@[simp] theorem counted_running (s : State) (x : Accounting) : (s.counted x).core.running = s.core.running := rfl
@[simp] theorem counted_exact (s : State) (x : Accounting) : (s.counted x).core.exact = s.core.exact := rfl

theorem Like.refl (s : State) : Like s s := ⟨s.accounting, rfl⟩

theorem Like.trans {a b c : State} (h : Like a b) (k : Like b c) : Like a c := by
  obtain ⟨x, rfl⟩ := h
  obtain ⟨y, rfl⟩ := k
  exact ⟨x, rfl⟩

theorem Like.symm {a b : State} (h : Like a b) : Like b a := by
  obtain ⟨x, rfl⟩ := h
  exact ⟨b.accounting, rfl⟩

theorem Like.running {a b : State} (h : Like a b) : a.core.running = b.core.running := by
  obtain ⟨x, rfl⟩ := h; rfl

theorem Like.exact {a b : State} (h : Like a b) : a.core.exact = b.core.exact := by
  obtain ⟨x, rfl⟩ := h; rfl

/-- Without the exact trace, slots join no run. -/
theorem runSlots_untraced {s : State} (he : s.core.exact = false) (c : Cause) (k : Nat) (pc nx : Word) (n : Nat) :
    s.runSlots c k pc nx n = s := by
  simp [State.runSlots, he]

/-- A charge to the running strand counts, and does nothing else. -/
theorem charge_like {s : State} (hr : s.core.running = true) (he : s.core.exact = false) (c : Cause) (pc nx : Word) (n : Nat) :
    Like (s.charge c (some s.cur.num) pc nx n) s := by
  unfold State.charge
  split
  · exact Like.refl s
  · simp only [runSlots_untraced he, State.onFocus]
    rw [if_pos ⟨hr, trivial⟩]
    exact ⟨{ s.accounting with cycle := s.core.cycle + n, acct := bump s.core.acct c.code n,
                               counters := bump s.core.cur.counters c.code n }, rfl⟩

theorem stall_like {s : State} (hr : s.core.running = true) (he : s.core.exact = false) (c : Cause) (n : Nat) :
    Like (s.stall c n) s := charge_like hr he c _ _ n

theorem freeStall_like {s : State} (hr : s.core.running = true) (he : s.core.exact = false) (c : Cause) :
    Like (s.freeStall c) s := by
  obtain ⟨x, hx⟩ := stall_like hr he c (Config.freeWait s.free)
  exact ⟨{ x with free := s.free + 1 }, by simp only [State.freeStall, hx]; rfl⟩

theorem waitSlots_like {s : State} (hr : s.core.running = true) (he : s.core.exact = false) (c : Cause) :
    Like (s.waitSlots c) s := by
  obtain ⟨x, hx⟩ := stall_like hr he c (Config.freeWait s.free + 1)
  exact ⟨{ x with free := s.free + 1 }, by simp only [State.waitSlots, hx]; rfl⟩

/-- Completion of queued vector instructions changes the queue and the retire buffer only. -/
theorem retireUpTo_eq (now : Nat) (l : List VQEntry) (c : Core) :
    ∃ q r h, c.retireUpTo now l = { c with vq := q, retire := r, vrhead := h } := by
  induction l generalizing c with
  | nil => exact ⟨[], c.retire, c.vrhead, rfl⟩
  | cons e rest ih =>
    unfold Core.retireUpTo
    split
    · obtain ⟨q, r, h, hx⟩ := ih (c.retireHead e rest)
      refine ⟨q, r, h, ?_⟩
      rw [hx]
      unfold Core.retireHead
      split <;> rfl
    · exact ⟨e :: rest, c.retire, c.vrhead, rfl⟩

theorem vqNow_like (s : State) : Like s.vqNow s := by
  obtain ⟨q, r, h, hx⟩ := retireUpTo_eq s.core.cycle s.core.vq s.core
  exact ⟨{ s.accounting with vq := q, retire := r, vrhead := h }, by simp only [State.vqNow, State.onFocus, hx]; rfl⟩

theorem vqWait_like {s : State} (hr : s.core.running = true) (he : s.core.exact = false) (c : Cause) (p : VQEntry → Bool) :
    Like (s.vqWait c p) s := (vqNow_like _).trans (stall_like hr he c _)

theorem closeConvoy_like {s : State} (he : s.core.exact = false) : Like s.closeConvoy s := by
  unfold State.closeConvoy
  split
  · exact Like.refl s
  · simp only [he, Bool.and_false, Bool.false_eq_true, if_false]
    exact ⟨{ s.accounting with convoy := none }, rfl⟩

theorem vqDrain_like {s : State} (hr : s.core.running = true) (he : s.core.exact = false) (c : Cause) : Like (s.vqDrain c) s := by
  have h := vqWait_like hr he c (fun _ => true)
  exact (closeConvoy_like (by rw [h.exact]; exact he)).trans h

theorem quiesce_like {s : State} (hr : s.core.running = true) (he : s.core.exact = false) (c : Cause) : Like (s.quiesce c) s := by
  have h := vqDrain_like hr he c
  exact (stall_like (by rw [h.running]; exact hr) (by rw [h.exact]; exact he) c _).trans h

/-- A new queue, a new time at which the unit is free, and a new convoy are accounting. -/
theorem queue_like {t s : State} (h : Like t s) (q : Core → List VQEntry) (f : Nat) (w : Core → Option Convoy) :
    Like (t.onFocus fun c => { c with vq := q c, vuFree := f, convoy := w c }) s :=
  Like.trans ⟨{ t.accounting with vq := q t.core, vuFree := f, convoy := w t.core }, rfl⟩ h

theorem ite_like {p : Prop} [Decidable p] {a b s : State} (h : Like a s) (k : Like b s) : Like (if p then a else b) s := by
  split <;> assumption

/-- Entering the vector queue is accounting. -/
theorem vqPush_like {s : State} (he : s.core.exact = false) (v : VIssue) : Like (s.vqPush v) s := by
  unfold State.vqPush
  have h0 : ∀ b : Bool, Like (if b = true then s else s.closeConvoy) s := fun b => ite_like (Like.refl s) (closeConvoy_like he)
  refine ite_like ?_ ?_
  · refine (closeConvoy_like ?_).trans (queue_like (h0 _) _ _ _)
    exact (queue_like (h0 _) _ _ _).exact.trans he
  · exact queue_like (h0 _) _ _ _

theorem enqueue_like {s : State} (he : s.core.exact = false) (q : VQ) : Like (s.enqueue q) s := vqPush_like he _

end Sys2Proof.Machine
end

