-- ==== Sys2Proof/Laws/Issue.lean ====
section
/-! SUPPORT. The frame in which an instruction issues: under `Issues` the gate hands a state that differs in accounting only to
the instruction's own effect, under `AtOnce` that very state, and completion moves the strand on. -/

namespace Sys2Proof.Machine

/-! ## The gate -/

/-- Banks that are ON stay as they are (R85). -/
theorem wake_on {t : Strand} {rs : List (BitVec 5)} (h : ∀ r ∈ rs, t.bankOf r = 0) : t.wake rs = (0, t) := by
  unfold Strand.wake
  generalize hz : (0 : Nat) = z
  have hz' : z = z := rfl
  clear hz
  induction rs with
  | nil => rfl
  | cons r rs ih =>
    simp only [List.foldl_cons]
    rw [h r (by simp)]
    exact ih fun q hq => h q (by simp [hq])

@[simp] theorem stall_zero (s : State) (c : Cause) : s.stall c 0 = s := by
  simp [State.stall, State.charge]

theorem vqNow_idle {s : State} (h : s.core.vq = []) : s.vqNow = s := by
  have : s.core.retireUpTo s.core.cycle s.core.vq = s.core := by
    rw [h]
    show { s.core with vq := [] } = s.core
    rw [← h]
  simp only [State.vqNow, State.onFocus, this]

theorem counted_streamBlocks (s : State) (x : Accounting) (u : Use) : (s.counted x).cur.streamBlocks u = s.cur.streamBlocks u := rfl

theorem vqWait_idle {s : State} (h : s.core.vq = []) (c : Cause) (p : VQEntry → Bool) : s.vqWait c p = s := by
  simp only [State.vqWait, h, List.filter_nil, List.foldl_nil, Nat.zero_sub, stall_zero]
  exact vqNow_idle h

/-- Completing queued entries changes no latency. -/
theorem vqNow_waits (s : State) (u : Use) : s.vqNow.depWait u = s.depWait u ∧ s.vqNow.cur.streamBlocks u = s.cur.streamBlocks u := by
  obtain ⟨q, r, h, hx⟩ := retireUpTo_eq s.core.cycle s.core.vq s.core
  have hv : s.vqNow.core = { s.core with vq := q, retire := r, vrhead := h } := hx
  refine ⟨?_, by rw [State.cur, hv]⟩
  simp only [State.depWait, State.cur, hv]

/-- Banks that are ON and have been for long enough wait for nothing (R85). -/
theorem powered_on {s : State} {rs : List (BitVec 5)} (h : ∀ r ∈ rs, s.cur.bankOf r = 0) (k : s.cur.powerTill ≤ s.core.cycle) :
    s.powered rs = none := by
  simp [State.powered, wake_on h, Nat.not_lt.mpr k]

/-- The gate hands the state to the effect once the queue has retired what is due. -/
theorem gate_eq {s : State} {u : Use} {st : Bool} (h : Issues s u st) (body : State → Res) : s.gate u body = body s.vqNow := by
  obtain ⟨h1, h2⟩ := vqNow_waits s u
  have hp : (u.priv && !s.cur.priv) = false := by
    cases hu : u.priv
    · rfl
    · simp [h.priv hu]
  simp only [State.gate, hp, h.full, powered_on h.banks h.powered, h.live, h.chain, State.withRoom, State.whenReady, h1, h2, h.ready,
    h.queue, h.going, h.streams]
  simp only [Bool.false_eq_true, if_false, ne_eq, not_true_eq_false]
  rw [if_pos h.room]

/-- Under `Issues`, the gate hands a state that differs in accounting only to the effect. -/
theorem gate_issues {s : State} {u : Use} {st : Bool} (h : Issues s u st) (body : State → Res) :
    ∃ x, s.gate u body = body (s.counted x) := by
  obtain ⟨x, hx⟩ := vqNow_like s
  exact ⟨x, by rw [gate_eq h body, hx]⟩

/-- Under `AtOnce`, the gate hands the state itself to the effect. -/
theorem gate_atOnce {s : State} {u : Use} {st : Bool} (h : AtOnce s u st) (body : State → Res) : s.gate u body = body s := by
  rw [gate_eq h.toIssues body, vqNow_idle h.idle]

/-! ## The settle (R20) -/

theorem find_noError {l : List Pending} (h : ∀ e ∈ l, e.due = true → e.err = none) :
    (l.filter (·.due)).find? (·.err.isSome) = none := by
  rw [List.find?_eq_none]
  intro e he
  obtain ⟨h1, h2⟩ := List.mem_filter.mp he
  simp [h e h1 h2]

theorem filter_good {l : List Pending} (h : ∀ e ∈ l, e.due = true → e.err = none) :
    (l.filter (·.due)).filter (fun e => e.err.isNone && !e.cancelled) = l.filter fun e => e.due && !e.cancelled := by
  rw [List.filter_filter]
  apply List.filter_congr
  intro e he
  cases hd : e.due
  · simp
  · simp [h e he hd]

/-- A result that lands does not look at counters and latencies, and leaves them and the list of pending results alone. -/
theorem land_counters (t : Strand) (o : Nat) (e : Pending) (k : Vector (BitVec 48) 16) (g : List (BitVec 5 × Nat)) :
    ({ t with counters := k, gReady := g } : Strand).land o e = { t.land o e with counters := k, gReady := g } := by
  unfold Strand.land
  split
  · rfl
  · split
    · simp only [Strand.putG]; split <;> split <;> rfl
    · split <;> rfl
    · simp only [Strand.putM]; split <;> rfl
    · rfl
    · rfl

theorem land_pend (t : Strand) (o : Nat) (e : Pending) : (t.land o e).pend = t.pend := by
  unfold Strand.land
  split
  · rfl
  · split
    · simp only [Strand.putG]; split <;> rfl
    · split <;> rfl
    · simp only [Strand.putM]; split <;> rfl
    · rfl
    · rfl

theorem lands_counters (l : List Pending) (t : Strand) (o : Nat) (k : Vector (BitVec 48) 16) (g : List (BitVec 5 × Nat)) :
    l.foldl (fun t e => t.land o e) { t with counters := k, gReady := g } =
      { l.foldl (fun t e => t.land o e) t with counters := k, gReady := g } := by
  induction l generalizing t with
  | nil => rfl
  | cons e l ih => simp only [List.foldl_cons, land_counters]; exact ih _

theorem lands_pend (l : List Pending) (t : Strand) (o : Nat) : (l.foldl (fun t e => t.land o e) t).pend = t.pend := by
  induction l generalizing t with
  | nil => rfl
  | cons e l ih => simp only [List.foldl_cons]; rw [ih, land_pend]

theorem landed_like {a b : State} (h : Like a b) : Like a.landed b.landed := by
  obtain ⟨x, rfl⟩ := h
  refine ⟨x, ?_⟩
  have := lands_counters (b.core.cur.pend.filter fun e => e.due && !e.cancelled) b.core.cur b.own x.counters x.gReady
  simp only [State.landed, State.onCur]
  show ({ b.counted x with core := _ } : State) = _
  simp only [State.counted]
  congr 2
  exact congrArg (fun t : Strand => { t with pend := b.core.cur.pend.filter fun e => !e.due }) this

/-- Calm results leave a settle nothing to wait for but their data. -/
theorem awaitReplies_calm {s : State} (h : s.cur.Calm) (c : Cause) : s.awaitReplies c = s := by
  have : (s.cur.pend.filter fun e => e.due && e.token != 0 && !e.present) = [] := by
    rw [List.filter_eq_nil_iff]
    intro e he hd
    simp only [Bool.and_eq_true, bne_iff_ne, ne_eq, Bool.not_eq_true'] at hd
    rcases (h e he hd.1.1).2.1 with h1 | h1
    · exact hd.1.2 h1
    · simp [h1] at hd
  rw [State.awaitReplies, this, List.foldl_nil]

/-- A settle of calm results lands them all and finds no error. -/
theorem settle_calm {s : State} (hr : s.core.running = true) (he : s.core.exact = false) (h : s.cur.Calm) (c : Cause) :
    Like (s.settle c).1 s.landed ∧ (s.settle c).2 = none := by
  have hb := find_noError (l := s.core.cur.pend) fun e x y => (h e x y).1
  have hg := filter_good (l := s.core.cur.pend) fun e x y => (h e x y).1
  have hw : ∀ x, (s.counted x).core.cur.wake ((s.core.cur.pend.filter fun e => e.due && !e.cancelled).flatMap (·.wr.vregs)) =
      (0, (s.counted x).core.cur) := by
    intro x
    apply wake_on
    intro r hr
    obtain ⟨e, he, hx⟩ := List.mem_flatMap.mp hr
    obtain ⟨h1, h2⟩ := List.mem_filter.mp he
    simp only [Bool.and_eq_true] at h2
    exact (h e h1 h2.1).2.2 r hx
  unfold State.settle
  rw [awaitReplies_calm h c]
  simp only [State.cur, hb, hg]
  generalize hv : (if ((s.core.cur.pend.filter (·.due)).any fun x => !x.present) = true then s.freeStall c else s) = v
  have hlike : Like v s := by
    rw [← hv]
    exact ite_like (freeStall_like hr he c) (Like.refl s)
  refine ⟨?_, trivial⟩
  refine Like.trans ?_ (landed_like hlike)
  obtain ⟨x, rfl⟩ := hlike
  simp only [hw x]
  rw [show ((s.counted x).onCur fun _ => (s.counted x).core.cur) = s.counted x from rfl, stall_zero]
  refine ⟨(s.counted x).landed.accounting, ?_⟩
  rw [counted_accounting]
  simp only [State.landed, State.onCur]
  rfl

theorem settleAfter_like {s : State} (hr : s.core.running = true) (he : s.core.exact = false) {st : Bool}
    (hp : st = true → s.cur.Calm) : Like (s.settleAfter st) (if st then s.landed else s) := by
  unfold State.settleAfter
  cases st with
  | false => exact Like.refl s
  | true =>
    simp only [if_true]
    have hq := vqWait_like hr he .settle fun _ => true
    obtain ⟨x, hx⟩ := hq
    rw [hx]
    obtain ⟨h1, h2⟩ := settle_calm (s := s.counted x) hr he (hp rfl) .settle
    have h3 : Like (s.counted x).landed s.landed := landed_like ⟨x, rfl⟩
    generalize hz : (s.counted x).settle .settle = z at h1 h2
    obtain ⟨z1, z2⟩ := z
    simp only at h1 h2
    subst h2
    exact h1.trans h3

/-! ## Completion -/

/-- An instruction's own slot moves the strand on. -/
theorem slot_like {s : State} (hr : s.core.running = true) (he : s.core.exact = false) (pc : Word) :
    Like (s.unwait.slot pc) (s.goOn pc) := by
  obtain ⟨x, hx⟩ := charge_like (s := s.unwait) hr he .issue s.unwait.cur.pc pc 1
  simp only [State.slot, hx]
  exact ⟨x, rfl⟩

theorem settled_like {t s : State} {st : Bool} {pc : Word} (hr : s.core.running = true) (he : s.core.exact = false)
    (hp : st = true → s.cur.Calm) (h : Like t (s.goOn pc)) : Like (t.settleAfter st) (s.after st pc) := by
  obtain ⟨x, rfl⟩ := h
  refine (settleAfter_like (s := (s.goOn pc).counted x) hr he hp).trans ?_
  unfold State.after
  split
  · exact landed_like ⟨x, rfl⟩
  · exact ⟨x, rfl⟩

theorem complete_like {s : State} (hr : s.core.running = true) (he : s.core.exact = false) {st : Bool} (hp : st = true → s.cur.Calm)
    (len : Nat) : Like (s.unwait.complete st len) (s.after st (s.cur.pc + BitVec.ofNat 64 len)) :=
  settled_like hr he hp (slot_like hr he _)

theorem closeRun_none {s : State} (he : s.core.run = none) : s.closeRun = s := by
  simp [State.closeRun, he]

/-- A taken branch or jump moves the strand to its target (R92, R93). -/
theorem completeJump_like {s : State} (hr : s.core.running = true) (he : s.core.exact = false) (hn : s.core.run = none) {st : Bool}
    (hp : st = true → s.cur.Calm) (pc : Word) : Like (s.unwait.completeJump st pc) (s.after st pc) := by
  obtain ⟨x, hx⟩ := slot_like hr he pc
  unfold State.completeJump
  simp only [hx]
  rw [closeRun_none (s := (s.goOn pc).counted x) hn]
  refine settled_like hr he hp ?_
  exact (charge_like (s := (s.goOn pc).counted x) hr he .fetch pc pc 1).trans ⟨x, rfl⟩

/-- An effect that completes: the instruction gives that state, and the strand goes on. -/
theorem issue_ok {s t : State} {u : Use} {st : Bool} {len : Nat} {body : State → Res} (h : Issues s u st)
    (hb : ∀ x, ∃ r, body (s.counted x) = .ok r ∧ Like r t)
    (hr : t.core.running = true) (he : t.core.exact = false) (hp : st = true → t.cur.Calm) :
    Gives (issue st len u body s) (t.after st (t.cur.pc + BitVec.ofNat 64 len)) := by
  obtain ⟨x, hx⟩ := gate_issues h body
  obtain ⟨r, hr1, y, rfl⟩ := hb x
  obtain ⟨z, hz⟩ := (complete_like (s := t.counted y) hr he hp len).trans (show Like _ (t.after st (t.cur.pc + BitVec.ofNat 64 len)) from by
    unfold State.after
    split
    · exact landed_like ⟨y, rfl⟩
    · exact ⟨y, rfl⟩)
  exact ⟨z, by simp only [issue, hx, hr1, Res.finish, hz]⟩

/-- An effect that completes in the present cycle. -/
theorem issue_at {s t : State} {u : Use} {st : Bool} {len : Nat} {body : State → Res} (h : AtOnce s u st) (hb : body s = .ok t)
    (hr : t.core.running = true) (he : t.core.exact = false) (hp : st = true → t.cur.Calm) :
    Gives (issue st len u body s) (t.after st (t.cur.pc + BitVec.ofNat 64 len)) := by
  obtain ⟨z, hz⟩ := complete_like (s := t) hr he hp len
  exact ⟨z, by simp only [issue, gate_atOnce h, hb, Res.finish, hz]⟩

/-- An effect that jumps: the instruction gives that state, and the strand goes on at the target. -/
theorem issue_jump {s t : State} {u : Use} {st : Bool} {len : Nat} {body : State → Res} {pc : Word} (h : Issues s u st)
    (hb : ∀ x, ∃ r, body (s.counted x) = .jump r pc ∧ Like r t)
    (hr : t.core.running = true) (he : t.core.exact = false) (hn : t.core.run = none) (hp : st = true → t.cur.Calm) :
    Gives (issue st len u body s) (t.after st pc) := by
  obtain ⟨x, hx⟩ := gate_issues h body
  obtain ⟨r, hr1, y, rfl⟩ := hb x
  obtain ⟨z, hz⟩ := (completeJump_like (s := t.counted y) hr he hn hp pc).trans (show Like _ (t.after st pc) from by
    unfold State.after
    split
    · exact landed_like ⟨y, rfl⟩
    · exact ⟨y, rfl⟩)
  exact ⟨z, by simp only [issue, hx, hr1, Res.finish, hz]⟩

end Sys2Proof.Machine
end

