-- ==== Sys2Proof/Laws/Scalar.lean ====
section
/-! SUPPORT. What the shapes of the scalar and control instructions give when they issue. -/

namespace Sys2Proof.Machine

/-! ## Register writes up to accounting -/

theorem wg_like {t s : State} (h : Like t s) (d : BitVec 5) (v : Word) : Like (t.wg d v) (s.wg d v) := by
  obtain ⟨x, rfl⟩ := h
  by_cases hd : d = 0
  · subst hd; exact ⟨x, rfl⟩
  · refine ⟨{ x with gReady := x.gReady.filter (·.1 != d) }, ?_⟩
    simp only [State.wg, State.onCur, Strand.writeG, hd, if_false, Strand.putG]
    rfl

theorem wgLate_like {t s : State} (h : Like t s) (d : BitVec 5) (v : Word) (l : Nat) : Like (t.wgLate d v l) (s.wg d v) := by
  refine Like.trans ?_ (wg_like h d v)
  unfold State.wgLate
  by_cases hd : d = 0
  · subst hd; exact Like.refl _
  · simp only [hd, if_false]
    exact ⟨{ (t.wg d v).accounting with gReady := (d, t.core.cycle + l) :: (t.wg d v).core.cur.gReady }, rfl⟩

theorem takeMultiplier_like (s : State) : Like s.takeMultiplier s := ⟨{ s.accounting with mulDone := s.core.cycle + 3 }, rfl⟩

theorem takeDivider_like (s : State) : Like s.takeDivider s := ⟨{ s.accounting with divBusy := s.core.cycle + 26 }, rfl⟩

theorem wg_running (s : State) (d : BitVec 5) (v : Word) : (s.wg d v).core.running = s.core.running := rfl
theorem wg_exact (s : State) (d : BitVec 5) (v : Word) : (s.wg d v).core.exact = s.core.exact := rfl
theorem wg_run (s : State) (d : BitVec 5) (v : Word) : (s.wg d v).core.run = s.core.run := rfl
theorem wg_pc (s : State) (d : BitVec 5) (v : Word) : (s.wg d v).cur.pc = s.cur.pc := by
  simp only [State.wg, State.onCur, State.cur, Strand.writeG, Strand.putG]
  split <;> rfl

/-- Results that a write cancels stay calm. -/
theorem calm_cancelIf {t u : Strand} {p : PendWrite → Bool} (h : t.Calm) (hp : u.pend = cancelIf p t.pend) (hb : u.sp.vbank = t.sp.vbank) :
    u.Calm := by
  intro e he hd
  rw [hp] at he
  obtain ⟨f, hf, rfl⟩ := List.mem_map.mp he
  have hk : ∀ r, u.bankOf r = t.bankOf r := fun r => by simp [Strand.bankOf, hb]
  simp only [hk]
  split at hd <;> split <;> simp_all
  all_goals exact h f hf hd

theorem wg_calm {s : State} (h : s.cur.Calm) (d : BitVec 5) (v : Word) : (s.wg d v).cur.Calm := by
  by_cases hd : d = 0
  · subst hd; exact h
  · refine calm_cancelIf (p := (·.isG d)) h ?_ ?_ <;>
      simp only [State.wg, State.onCur, State.cur, Strand.writeG, Strand.putG, hd, if_false]

/-! ## Operand a -/

/-- What consuming a chain operand keeps. -/
def ChainKept (t s : State) : Prop :=
  t.core.running = s.core.running ∧ t.core.exact = s.core.exact ∧ t.cur.pend = s.cur.pend ∧ t.cur.sp.vbank = s.cur.sp.vbank ∧ t.cur.pc = s.cur.pc ∧ ∀ r, t.rg r = s.rg r

theorem onLaunch_kept (s : State) (o : Option Nat) (g : Launch → Launch) :
    ChainKept (match o with
      | none => s
      | some i => s.onLaunch i g) s := by
  cases o <;> exact ⟨rfl, rfl, rfl, rfl, rfl, fun _ => rfl⟩

theorem chainTake_kept (s : State) (a : BitVec 5) (k : Nat) (n e : Bool) : ChainKept (s.chainTake a k n e) s := by
  cases e <;> cases n
  · exact ⟨rfl, rfl, rfl, rfl, rfl, fun _ => rfl⟩
  · exact onLaunch_kept s s.core.cur.launch _
  · exact ⟨rfl, rfl, rfl, rfl, rfl, fun _ => rfl⟩
  · exact onLaunch_kept (s.setSflags 2#64) s.core.cur.launch _

/-- What is known of the state in which a chain operand has been consumed. -/
theorem operandA_kept {s s' : State} {a : BitVec 5} {k : BitVec 2} {n : Bool} {x : Word} (h : s.operandA a k n = some (x, s')) :
    ChainKept s' s := by
  unfold State.operandA at h
  split at h
  · cases h; exact ⟨rfl, rfl, rfl, rfl, rfl, fun _ => rfl⟩
  · split at h
    · cases h
      exact chainTake_kept s a k.toNat n _
    · cases h

theorem ChainKept.calm {t s : State} (h : ChainKept t s) (hc : s.cur.Calm) : t.cur.Calm := by
  obtain ⟨-, -, hp, hb, -⟩ := h
  intro e he hd
  rw [hp] at he
  obtain ⟨h2, h4, h3⟩ := hc e he hd
  refine ⟨h2, h4, fun r hr => ?_⟩
  rw [← h3 r hr]
  simp only [Strand.bankOf, hb]

theorem onLaunch_counted (s : State) (y : Accounting) (o : Option Nat) (g : Launch → Launch) :
    (match o with
      | none => s.counted y
      | some i => (s.counted y).onLaunch i g) =
    (match o with
      | none => s
      | some i => s.onLaunch i g).counted y := by
  cases o <;> rfl

theorem chainTake_counted (s : State) (y : Accounting) (a : BitVec 5) (k : Nat) (n e : Bool) :
    (s.counted y).chainTake a k n e = (s.chainTake a k n e).counted y := by
  cases e <;> cases n
  · rfl
  · exact onLaunch_counted s y s.core.cur.launch _
  · rfl
  · exact onLaunch_counted (s.setSflags 2#64) y s.core.cur.launch _

/-- A body that operand a feeds gets its value in a state that differs in accounting only. -/
theorem withA_eq {s s' : State} {a : BitVec 5} {k : BitVec 2} {n : Bool} {x : Word} (h : s.operandA a k n = some (x, s'))
    (body : Word → State → Res) (y : Accounting) : (s.counted y).withA a k n body = body x (s'.counted y) := by
  unfold State.operandA at h
  unfold State.withA
  split at h
  · rename_i hk
    cases h
    rw [if_pos hk]
    rfl
  · rename_i hk
    rw [if_neg hk]
    have hc : (s.counted y).chainRead a k.toNat = s.chainRead a k.toNat := rfl
    rw [hc]
    split at h
    · rename_i v e hv
      cases h
      rw [hv]
      simp only [chainTake_counted]
    · cases h

/-! ## The shapes -/

theorem scalarRR_gives {s s' : State} {st : Bool} {d a b : BitVec 5} {k : BitVec 2} {n : Bool} {x : Word} (f : Word → Word → Word)
    (h : Issues s (srcA a k [b]) st) (hx : s.operandA a k n = some (x, s')) :
    Gives (scalarRR st d a b k n f s) ((s'.wg d (f x (s.rg b))).after4 st) := by
  obtain ⟨k1, k2, k3, k6, k4, k5⟩ := operandA_kept hx
  refine issue_ok h ?_ ?_ ?_ ?_
  · intro y
    refine ⟨_, by rw [withA_eq hx], ?_⟩
    rw [show (s'.counted y).rg b = s.rg b from k5 b]
    exact wg_like ⟨y, rfl⟩ _ _
  · rw [wg_running, k1]; exact h.running
  · rw [wg_exact, k2]; exact h.untraced
  · intro hs; exact wg_calm ((operandA_kept hx).calm (h.calm hs)) d _

theorem scalarR_gives {s s' : State} {st : Bool} {d a : BitVec 5} {k : BitVec 2} {n : Bool} {x : Word} (f : Word → Word)
    (h : Issues s (srcA a k []) st) (hx : s.operandA a k n = some (x, s')) :
    Gives (scalarR st d a k n f s) ((s'.wg d (f x)).after4 st) := by
  obtain ⟨k1, k2, k3, k6, k4, k5⟩ := operandA_kept hx
  refine issue_ok h ?_ ?_ ?_ ?_
  · intro y
    exact ⟨_, by rw [withA_eq hx], wg_like ⟨y, rfl⟩ _ _⟩
  · rw [wg_running, k1]; exact h.running
  · rw [wg_exact, k2]; exact h.untraced
  · intro hs; exact wg_calm ((operandA_kept hx).calm (h.calm hs)) d _

theorem scalarMul_gives {s s' : State} {st : Bool} {d a b : BitVec 5} {k : BitVec 2} {n : Bool} {x : Word} (f : Word → Word → Word)
    (h : Issues s (srcA a k [b]) st) (hx : s.operandA a k n = some (x, s')) :
    Gives (scalarMul st d a b k n f s) ((s'.wg d (f x (s.rg b))).after4 st) := by
  obtain ⟨k1, k2, k3, k6, k4, k5⟩ := operandA_kept hx
  refine issue_ok h ?_ ?_ ?_ ?_
  · intro y
    obtain ⟨z, hz⟩ := (takeMultiplier_like (s'.counted y)).trans ⟨y, rfl⟩
    refine ⟨_, by rw [withA_eq hx], ?_⟩
    simp only [hz]
    rw [show (s'.counted y).rg b = s.rg b from k5 b]
    exact wgLate_like ⟨z, rfl⟩ _ _ _
  · rw [wg_running, k1]; exact h.running
  · rw [wg_exact, k2]; exact h.untraced
  · intro hs; exact wg_calm ((operandA_kept hx).calm (h.calm hs)) d _

theorem scalarDiv_gives {s s' : State} {st : Bool} {d a b : BitVec 5} {k : BitVec 2} {n : Bool} {x : Word} (f : Word → Word → Word)
    (h : Issues s (srcA a k [b] true) st) (hx : s.operandA a k n = some (x, s')) :
    Gives (scalarDiv st d a b k n f s) ((s'.wg d (f x (s.rg b))).after4 st) := by
  obtain ⟨k1, k2, k3, k6, k4, k5⟩ := operandA_kept hx
  refine issue_ok h ?_ ?_ ?_ ?_
  · intro y
    have hd : Like (s'.counted y).takeDivider s' :=
      (takeDivider_like (s'.counted y)).trans ⟨y, rfl⟩
    obtain ⟨z, hz⟩ := hd
    refine ⟨_, by rw [withA_eq hx], ?_⟩
    simp only [hz]
    rw [show (s'.counted y).rg b = s.rg b from k5 b]
    exact wgLate_like ⟨z, rfl⟩ _ _ _
  · rw [wg_running, k1]; exact h.running
  · rw [wg_exact, k2]; exact h.untraced
  · intro hs; exact wg_calm ((operandA_kept hx).calm (h.calm hs)) d _

/-- An instruction whose effect is to write one register. -/
theorem write_gives {s : State} {st : Bool} {d : BitVec 5} {u : Use} {len : Nat} (v : Word) (f : State → Word)
    (h : Issues s u st) (hf : ∀ y, f (s.counted y) = v) :
    Gives (issue st len u (fun s => .ok (s.wg d (f s))) s) ((s.wg d v).after st ((s.wg d v).cur.pc + BitVec.ofNat 64 len)) := by
  refine issue_ok h ?_ h.running h.untraced fun hs => wg_calm (h.calm hs) d v
  intro y
  exact ⟨_, rfl, by rw [hf]; exact wg_like ⟨y, rfl⟩ d v⟩

theorem scalarI_gives {s : State} {st : Bool} {d a : BitVec 5} (f : Word → Word) (h : Issues s { g := [a] } st) :
    Gives (scalarI st d a f s) ((s.wg d (f (s.rg a))).after4 st) :=
  write_gives (f (s.rg a)) (fun s => f (s.rg a)) h fun _ => rfl

end Sys2Proof.Machine
end

