-- ==== Sys2Proof/Laws/Access.lean ====
section
/-! SUPPORT. What opening, checking and performing a scalar access leaves alone, and what the checks of R223 answer for an access
that `Reaches` describes. -/

namespace Sys2Proof.Machine

/-- A state whose core is that of another. -/
theorem addContribution_core (s : State) (c : Contribution) : (s.addContribution c).core = s.core := by
  unfold State.addContribution
  simp only
  split
  · split <;> rfl
  · rfl

theorem addContributions_core (l : List Contribution) (s : State) : (l.foldl State.addContribution s).core = s.core := by
  induction l generalizing s with
  | nil => rfl
  | cons c l ih => rw [List.foldl_cons, ih, addContribution_core]

theorem addPackets_core (s : State) (l : List Contribution) : (s.addPackets l).core = s.core := addContributions_core _ _

theorem arrivals_core (l : List Msg) (s : State) : (l.foldl (fun s m => s.addPackets m.contributions) s).core = s.core := by
  induction l generalizing s with
  | nil => rfl
  | cons m l ih => rw [List.foldl_cons, ih, addPackets_core]

/-- Performing the reduce-adds of a core leaves the core. -/
theorem performReduces_core (s : State) : s.performReduces.core = s.core := arrivals_core _ _

theorem arriveReduces_core (s : State) (p : Nat → Bool) : (s.arriveReduces p).core = s.core := by
  unfold State.arriveReduces
  split
  · exact arrivals_core _ _
  · rfl

theorem drainDie_core (s : State) (d : Nat) (p : Nat → Bool) : (s.drainDie d p).core = s.core := rfl

theorem touch_core (s : State) (k n : Nat) : (s.touch k n).core = s.core := by
  unfold State.touch State.drainLines
  simp only
  split
  · exact arriveReduces_core _ _
  · simp only [drainDie_core]; exact arriveReduces_core _ _

theorem touchEntry_core (s : State) (pa n : Nat) : (s.touchEntry pa n).core = s.core := by
  unfold State.touchEntry
  split
  · exact touch_core _ _ _
  · rfl

/-- A walk leaves the core. -/
theorem touchWalk_core (s : State) (p : Word) (va : Nat) : (s.touchWalk p va).core = s.core := by
  unfold State.touchWalk
  dsimp only
  split
  · exact touchEntry_core _ _ _
  · split
    · exact touchEntry_core _ _ _
    · split
      · simp only [touchEntry_core]
      · split <;> simp only [touchEntry_core]

theorem cachePage_core (s : State) (p : Word) (va : Nat) : (s.cachePage p va).core = s.core := touchWalk_core s p va

theorem cacheFor_core (s : State) (a : Agent) (va : Nat) : (s.cacheFor a va).core = s.core := by
  unfold State.cacheFor
  split
  · exact cachePage_core _ _ _
  · rfl

theorem opened_core (s : State) (va k n : Nat) : (s.opened va k n).core = s.core := by
  rw [State.opened, touch_core, cacheFor_core]

theorem cleanLines_core (s : State) (k n : Nat) : (s.cleanLines k n).core = s.core := by
  unfold State.cleanLines
  split <;> rfl

theorem homeStore_core (s : State) (h : Home) (n v : Nat) : (s.homeStore h n v).core = s.core := by
  cases h with
  | here k => exact (cleanLines_core _ _ _).trans (touch_core _ _ _)
  | remote _ => rfl
  | lost => rfl
  | dead _ => rfl

/-- An aligned access of at most 64 bytes lies in one line. -/
theorem pieces_one {va n : Nat} (hn : 0 < n) (hd : n ∣ 64) (ha : va % n = 0) : pieces va n = [(va, n)] := by
  obtain ⟨m, hm⟩ := hd
  have hle : n ≤ 64 - va % 64 := by
    obtain ⟨q, hq⟩ := Nat.dvd_of_mod_eq_zero ha
    have h1 : n ∣ va % 64 := (Nat.dvd_mod_iff ⟨m, hm⟩).mpr ⟨q, hq⟩
    have h2 : n ∣ 64 - va % 64 := Nat.dvd_sub ⟨m, hm⟩ h1
    exact Nat.le_of_dvd (by omega) h2
  unfold pieces
  rw [show n / 64 + 2 = (n / 64 + 1) + 1 from rfl]
  unfold linePieces
  rw [if_neg (by omega)]
  simp only [Nat.min_eq_left hle, Nat.sub_self]
  unfold linePieces
  rw [if_pos rfl]

/-- The checks of an access that reaches a key answer that key. -/
theorem checkAt_reaches {s : State} {k : AccKind} {n : Nat} {fp : Bool} {ea : Word} {key : Nat} (h : Reaches s k n fp ea key)
    (hn : 0 < n) (hd : n ∣ 64) : s.checkAt s.agent k n (addrOf ea) = .go (.here key) := by
  have hr : ¬14 ≤ region (addrOf ea) := by have := h.region; omega
  have hl : (Loc.at (Home.here key) == Loc.denied) = false := rfl
  simp only [State.checkAt, hr, if_false, pieces_one hn hd h.aligned, List.find?_cons, List.find?_nil, h.aligned, h.leads,
    ne_eq, not_true_eq_false, hl]

theorem scalarAcc_reaches {s : State} {k : AccKind} {n : Nat} {fp : Bool} {ea : Word} {key : Nat} (h : Reaches s k n fp ea key)
    (hn : 0 < n) (hd : n ∣ 64) : s.scalarAcc k n fp ea = .go (.here key) := by
  simp only [State.scalarAcc, h.tag, Bool.not_true, Bool.false_eq_true, if_false, checkAt_reaches h hn hd]

/-! ## Deferred results -/

theorem defer_running (s : State) (e : Pending) : (s.defer e).core.running = s.core.running := rfl
theorem defer_exact (s : State) (e : Pending) : (s.defer e).core.exact = s.core.exact := rfl
theorem defer_pc (s : State) (e : Pending) : (s.defer e).cur.pc = s.cur.pc := rfl

/-- A deferred scalar result without an error leaves calm results calm. -/
theorem deferred_calm {s : State} (h : s.cur.Calm) (d : BitVec 5) (x : Word) (va : Nat) : (s.deferred (.g d x) va none).cur.Calm := by
  intro e he hd
  have hp : (s.deferred (.g d x) va none).cur.pend =
      (if d = 0 then s.core.cur.pend else cancelIf (·.isG d) s.core.cur.pend) ++
        [{ wr := .g d x, token := 0, addr := infoAt va, pc := s.cur.pc, word := s.core.ir, present := false, observed := false,
           cancelled := false, err := none }] := rfl
  rw [hp] at he
  have hb : ∀ r, (s.deferred (.g d x) va none).cur.bankOf r = s.core.cur.bankOf r := fun _ => rfl
  simp only [hb]
  rcases List.mem_append.mp he with h1 | h1
  · split at h1
    · exact h e h1 hd
    · obtain ⟨f, hf, rfl⟩ := List.mem_map.mp h1
      split at hd <;> split <;> simp_all
      all_goals exact h f hf hd
  · obtain rfl := List.mem_singleton.mp h1
    exact ⟨rfl, by simp [PendWrite.vregs]⟩

end Sys2Proof.Machine
end

