-- ==== Sys2Proof/Laws/State.lean ====
section
/-! SUPPORT. What each update of the state leaves: one lemma for each field, true by unfolding. No later proof unfolds a record
update; the register lemmas below say what a write of a `g` register leaves. -/

namespace Sys2Proof.Machine

/-! ## Changing the focus core -/

@[simp] theorem onFocus_core (s : State) (f : Core → Core) : (s.onFocus f).core = f s.core := rfl
@[simp] theorem onFocus_others (s : State) (f : Core → Core) : (s.onFocus f).others = s.others := rfl
@[simp] theorem onFocus_clusters (s : State) (f : Core → Core) : (s.onFocus f).clusters = s.clusters := rfl
@[simp] theorem onFocus_dies (s : State) (f : Core → Core) : (s.onFocus f).dies = s.dies := rfl
@[simp] theorem onFocus_pkg (s : State) (f : Core → Core) : (s.onFocus f).pkg = s.pkg := rfl
@[simp] theorem onFocus_mem (s : State) (f : Core → Core) : (s.onFocus f).mem = s.mem := rfl
@[simp] theorem onFocus_fullWords (s : State) (f : Core → Core) : (s.onFocus f).fullWords = s.fullWords := rfl
@[simp] theorem onFocus_poison (s : State) (f : Core → Core) : (s.onFocus f).poison = s.poison := rfl
@[simp] theorem onFocus_ue (s : State) (f : Core → Core) : (s.onFocus f).ue = s.ue := rfl
@[simp] theorem onFocus_tlb (s : State) (f : Core → Core) : (s.onFocus f).tlb = s.tlb := rfl
@[simp] theorem onFocus_flight (s : State) (f : Core → Core) : (s.onFocus f).flight = s.flight := rfl
@[simp] theorem onFocus_turns (s : State) (f : Core → Core) : (s.onFocus f).turns = s.turns := rfl
@[simp] theorem onFocus_free (s : State) (f : Core → Core) : (s.onFocus f).free = s.free := rfl

/-! ## Changing the running strand -/

@[simp] theorem onCur_cur (s : State) (f : Strand → Strand) : (s.onCur f).core.cur = f s.core.cur := rfl
@[simp] theorem onCur_others (s : State) (f : Strand → Strand) : (s.onCur f).others = s.others := rfl
@[simp] theorem onCur_clusters (s : State) (f : Strand → Strand) : (s.onCur f).clusters = s.clusters := rfl
@[simp] theorem onCur_dies (s : State) (f : Strand → Strand) : (s.onCur f).dies = s.dies := rfl
@[simp] theorem onCur_pkg (s : State) (f : Strand → Strand) : (s.onCur f).pkg = s.pkg := rfl
@[simp] theorem onCur_mem (s : State) (f : Strand → Strand) : (s.onCur f).mem = s.mem := rfl
@[simp] theorem onCur_fullWords (s : State) (f : Strand → Strand) : (s.onCur f).fullWords = s.fullWords := rfl
@[simp] theorem onCur_poison (s : State) (f : Strand → Strand) : (s.onCur f).poison = s.poison := rfl
@[simp] theorem onCur_ue (s : State) (f : Strand → Strand) : (s.onCur f).ue = s.ue := rfl
@[simp] theorem onCur_tlb (s : State) (f : Strand → Strand) : (s.onCur f).tlb = s.tlb := rfl
@[simp] theorem onCur_flight (s : State) (f : Strand → Strand) : (s.onCur f).flight = s.flight := rfl
@[simp] theorem onCur_turns (s : State) (f : Strand → Strand) : (s.onCur f).turns = s.turns := rfl
@[simp] theorem onCur_free (s : State) (f : Strand → Strand) : (s.onCur f).free = s.free := rfl
@[simp] theorem onCur_core_cid (s : State) (f : Strand → Strand) : (s.onCur f).core.cid = s.core.cid := rfl
@[simp] theorem onCur_core_inService (s : State) (f : Strand → Strand) : (s.onCur f).core.inService = s.core.inService := rfl
@[simp] theorem onCur_core_gangHead (s : State) (f : Strand → Strand) : (s.onCur f).core.gangHead = s.core.gangHead := rfl
@[simp] theorem onCur_core_cycle (s : State) (f : Strand → Strand) : (s.onCur f).core.cycle = s.core.cycle := rfl
@[simp] theorem onCur_core_acct (s : State) (f : Strand → Strand) : (s.onCur f).core.acct = s.core.acct := rfl
@[simp] theorem onCur_core_running (s : State) (f : Strand → Strand) : (s.onCur f).core.running = s.core.running := rfl
@[simp] theorem onCur_core_waiting (s : State) (f : Strand → Strand) : (s.onCur f).core.waiting = s.core.waiting := rfl
@[simp] theorem onCur_core_posted (s : State) (f : Strand → Strand) : (s.onCur f).core.posted = s.core.posted := rfl
@[simp] theorem onCur_core_reply (s : State) (f : Strand → Strand) : (s.onCur f).core.reply = s.core.reply := rfl
@[simp] theorem onCur_core_curEntry (s : State) (f : Strand → Strand) : (s.onCur f).core.curEntry = s.core.curEntry := rfl
@[simp] theorem onCur_core_ir (s : State) (f : Strand → Strand) : (s.onCur f).core.ir = s.core.ir := rfl
@[simp] theorem onCur_core_irPayload (s : State) (f : Strand → Strand) : (s.onCur f).core.irPayload = s.core.irPayload := rfl
@[simp] theorem onCur_core_images (s : State) (f : Strand → Strand) : (s.onCur f).core.images = s.core.images := rfl
@[simp] theorem onCur_core_keptNums (s : State) (f : Strand → Strand) : (s.onCur f).core.keptNums = s.core.keptNums := rfl
@[simp] theorem onCur_core_cclimit (s : State) (f : Strand → Strand) : (s.onCur f).core.cclimit = s.core.cclimit := rfl
@[simp] theorem onCur_core_latfix (s : State) (f : Strand → Strand) : (s.onCur f).core.latfix = s.core.latfix := rfl
@[simp] theorem onCur_core_basin (s : State) (f : Strand → Strand) : (s.onCur f).core.basin = s.core.basin := rfl
@[simp] theorem onCur_core_trapcfg (s : State) (f : Strand → Strand) : (s.onCur f).core.trapcfg = s.core.trapcfg := rfl
@[simp] theorem onCur_core_mxbase (s : State) (f : Strand → Strand) : (s.onCur f).core.mxbase = s.core.mxbase := rfl
@[simp] theorem onCur_core_mxcapl (s : State) (f : Strand → Strand) : (s.onCur f).core.mxcapl = s.core.mxcapl := rfl
@[simp] theorem onCur_core_mxcaph (s : State) (f : Strand → Strand) : (s.onCur f).core.mxcaph = s.core.mxcaph := rfl
@[simp] theorem onCur_core_mxhost (s : State) (f : Strand → Strand) : (s.onCur f).core.mxhost = s.core.mxhost := rfl
@[simp] theorem onCur_core_entriesOk (s : State) (f : Strand → Strand) : (s.onCur f).core.entriesOk = s.core.entriesOk := rfl
@[simp] theorem onCur_core_bodyOk (s : State) (f : Strand → Strand) : (s.onCur f).core.bodyOk = s.core.bodyOk := rfl
@[simp] theorem onCur_core_acctctl (s : State) (f : Strand → Strand) : (s.onCur f).core.acctctl = s.core.acctctl := rfl
@[simp] theorem onCur_core_trbase (s : State) (f : Strand → Strand) : (s.onCur f).core.trbase = s.core.trbase := rfl
@[simp] theorem onCur_core_trptr (s : State) (f : Strand → Strand) : (s.onCur f).core.trptr = s.core.trptr := rfl
@[simp] theorem onCur_core_rpbase (s : State) (f : Strand → Strand) : (s.onCur f).core.rpbase = s.core.rpbase := rfl
@[simp] theorem onCur_core_rpptr (s : State) (f : Strand → Strand) : (s.onCur f).core.rpptr = s.core.rpptr := rfl
@[simp] theorem onCur_core_vrsel (s : State) (f : Strand → Strand) : (s.onCur f).core.vrsel = s.core.vrsel := rfl
@[simp] theorem onCur_core_vrhead (s : State) (f : Strand → Strand) : (s.onCur f).core.vrhead = s.core.vrhead := rfl
@[simp] theorem onCur_core_retire (s : State) (f : Strand → Strand) : (s.onCur f).core.retire = s.core.retire := rfl
@[simp] theorem onCur_core_lost (s : State) (f : Strand → Strand) : (s.onCur f).core.lost = s.core.lost := rfl
@[simp] theorem onCur_core_run (s : State) (f : Strand → Strand) : (s.onCur f).core.run = s.core.run := rfl
@[simp] theorem onCur_core_convoy (s : State) (f : Strand → Strand) : (s.onCur f).core.convoy = s.core.convoy := rfl
@[simp] theorem onCur_core_stalecnt (s : State) (f : Strand → Strand) : (s.onCur f).core.stalecnt = s.core.stalecnt := rfl
@[simp] theorem onCur_core_cells (s : State) (f : Strand → Strand) : (s.onCur f).core.cells = s.core.cells := rfl
@[simp] theorem onCur_core_vq (s : State) (f : Strand → Strand) : (s.onCur f).core.vq = s.core.vq := rfl
@[simp] theorem onCur_core_vuFree (s : State) (f : Strand → Strand) : (s.onCur f).core.vuFree = s.core.vuFree := rfl
@[simp] theorem onCur_core_divBusy (s : State) (f : Strand → Strand) : (s.onCur f).core.divBusy = s.core.divBusy := rfl
@[simp] theorem onCur_core_mulDone (s : State) (f : Strand → Strand) : (s.onCur f).core.mulDone = s.core.mulDone := rfl
@[simp] theorem onCur_core_icache (s : State) (f : Strand → Strand) : (s.onCur f).core.icache = s.core.icache := rfl
@[simp] theorem onCur_core_waiters (s : State) (f : Strand → Strand) : (s.onCur f).core.waiters = s.core.waiters := rfl
@[simp] theorem onCur_core_mx (s : State) (f : Strand → Strand) : (s.onCur f).core.mx = s.core.mx := rfl
@[simp] theorem onCur_core_drains (s : State) (f : Strand → Strand) : (s.onCur f).core.drains = s.core.drains := rfl
@[simp] theorem onCur_core_channels (s : State) (f : Strand → Strand) : (s.onCur f).core.channels = s.core.channels := rfl
@[simp] theorem onCur_core_trapSlots (s : State) (f : Strand → Strand) : (s.onCur f).core.trapSlots = s.core.trapSlots := rfl
@[simp] theorem onCur_core_slotQueue (s : State) (f : Strand → Strand) : (s.onCur f).core.slotQueue = s.core.slotQueue := rfl
@[simp] theorem onCur_core_parkedTill (s : State) (f : Strand → Strand) : (s.onCur f).core.parkedTill = s.core.parkedTill := rfl
@[simp] theorem onCur_core_stopWanted (s : State) (f : Strand → Strand) : (s.onCur f).core.stopWanted = s.core.stopWanted := rfl
@[simp] theorem onCur_core_stopped (s : State) (f : Strand → Strand) : (s.onCur f).core.stopped = s.core.stopped := rfl
@[simp] theorem onCur_core_copies (s : State) (f : Strand → Strand) : (s.onCur f).core.copies = s.core.copies := rfl
@[simp] theorem onCur_core_spareUsed (s : State) (f : Strand → Strand) : (s.onCur f).core.spareUsed = s.core.spareUsed := rfl
@[simp] theorem onCur_core_moved (s : State) (f : Strand → Strand) : (s.onCur f).core.moved = s.core.moved := rfl
@[simp] theorem onCur_core_modes (s : State) (f : Strand → Strand) : (s.onCur f).core.modes = s.core.modes := rfl

/-! ## Changing the specials of the running strand -/

@[simp] theorem onSp_sp (s : State) (f : Specials → Specials) : (s.onSp f).core.cur.sp = f s.core.cur.sp := rfl
@[simp] theorem onSp_others (s : State) (f : Specials → Specials) : (s.onSp f).others = s.others := rfl
@[simp] theorem onSp_clusters (s : State) (f : Specials → Specials) : (s.onSp f).clusters = s.clusters := rfl
@[simp] theorem onSp_dies (s : State) (f : Specials → Specials) : (s.onSp f).dies = s.dies := rfl
@[simp] theorem onSp_pkg (s : State) (f : Specials → Specials) : (s.onSp f).pkg = s.pkg := rfl
@[simp] theorem onSp_mem (s : State) (f : Specials → Specials) : (s.onSp f).mem = s.mem := rfl
@[simp] theorem onSp_fullWords (s : State) (f : Specials → Specials) : (s.onSp f).fullWords = s.fullWords := rfl
@[simp] theorem onSp_poison (s : State) (f : Specials → Specials) : (s.onSp f).poison = s.poison := rfl
@[simp] theorem onSp_ue (s : State) (f : Specials → Specials) : (s.onSp f).ue = s.ue := rfl
@[simp] theorem onSp_tlb (s : State) (f : Specials → Specials) : (s.onSp f).tlb = s.tlb := rfl
@[simp] theorem onSp_flight (s : State) (f : Specials → Specials) : (s.onSp f).flight = s.flight := rfl
@[simp] theorem onSp_turns (s : State) (f : Specials → Specials) : (s.onSp f).turns = s.turns := rfl
@[simp] theorem onSp_free (s : State) (f : Specials → Specials) : (s.onSp f).free = s.free := rfl
@[simp] theorem onSp_core_cid (s : State) (f : Specials → Specials) : (s.onSp f).core.cid = s.core.cid := rfl
@[simp] theorem onSp_core_inService (s : State) (f : Specials → Specials) : (s.onSp f).core.inService = s.core.inService := rfl
@[simp] theorem onSp_core_gangHead (s : State) (f : Specials → Specials) : (s.onSp f).core.gangHead = s.core.gangHead := rfl
@[simp] theorem onSp_core_cycle (s : State) (f : Specials → Specials) : (s.onSp f).core.cycle = s.core.cycle := rfl
@[simp] theorem onSp_core_acct (s : State) (f : Specials → Specials) : (s.onSp f).core.acct = s.core.acct := rfl
@[simp] theorem onSp_core_running (s : State) (f : Specials → Specials) : (s.onSp f).core.running = s.core.running := rfl
@[simp] theorem onSp_core_waiting (s : State) (f : Specials → Specials) : (s.onSp f).core.waiting = s.core.waiting := rfl
@[simp] theorem onSp_core_posted (s : State) (f : Specials → Specials) : (s.onSp f).core.posted = s.core.posted := rfl
@[simp] theorem onSp_core_reply (s : State) (f : Specials → Specials) : (s.onSp f).core.reply = s.core.reply := rfl
@[simp] theorem onSp_core_curEntry (s : State) (f : Specials → Specials) : (s.onSp f).core.curEntry = s.core.curEntry := rfl
@[simp] theorem onSp_core_ir (s : State) (f : Specials → Specials) : (s.onSp f).core.ir = s.core.ir := rfl
@[simp] theorem onSp_core_irPayload (s : State) (f : Specials → Specials) : (s.onSp f).core.irPayload = s.core.irPayload := rfl
@[simp] theorem onSp_core_images (s : State) (f : Specials → Specials) : (s.onSp f).core.images = s.core.images := rfl
@[simp] theorem onSp_core_keptNums (s : State) (f : Specials → Specials) : (s.onSp f).core.keptNums = s.core.keptNums := rfl
@[simp] theorem onSp_core_cclimit (s : State) (f : Specials → Specials) : (s.onSp f).core.cclimit = s.core.cclimit := rfl
@[simp] theorem onSp_core_latfix (s : State) (f : Specials → Specials) : (s.onSp f).core.latfix = s.core.latfix := rfl
@[simp] theorem onSp_core_basin (s : State) (f : Specials → Specials) : (s.onSp f).core.basin = s.core.basin := rfl
@[simp] theorem onSp_core_trapcfg (s : State) (f : Specials → Specials) : (s.onSp f).core.trapcfg = s.core.trapcfg := rfl
@[simp] theorem onSp_core_mxbase (s : State) (f : Specials → Specials) : (s.onSp f).core.mxbase = s.core.mxbase := rfl
@[simp] theorem onSp_core_mxcapl (s : State) (f : Specials → Specials) : (s.onSp f).core.mxcapl = s.core.mxcapl := rfl
@[simp] theorem onSp_core_mxcaph (s : State) (f : Specials → Specials) : (s.onSp f).core.mxcaph = s.core.mxcaph := rfl
@[simp] theorem onSp_core_mxhost (s : State) (f : Specials → Specials) : (s.onSp f).core.mxhost = s.core.mxhost := rfl
@[simp] theorem onSp_core_entriesOk (s : State) (f : Specials → Specials) : (s.onSp f).core.entriesOk = s.core.entriesOk := rfl
@[simp] theorem onSp_core_bodyOk (s : State) (f : Specials → Specials) : (s.onSp f).core.bodyOk = s.core.bodyOk := rfl
@[simp] theorem onSp_core_acctctl (s : State) (f : Specials → Specials) : (s.onSp f).core.acctctl = s.core.acctctl := rfl
@[simp] theorem onSp_core_trbase (s : State) (f : Specials → Specials) : (s.onSp f).core.trbase = s.core.trbase := rfl
@[simp] theorem onSp_core_trptr (s : State) (f : Specials → Specials) : (s.onSp f).core.trptr = s.core.trptr := rfl
@[simp] theorem onSp_core_rpbase (s : State) (f : Specials → Specials) : (s.onSp f).core.rpbase = s.core.rpbase := rfl
@[simp] theorem onSp_core_rpptr (s : State) (f : Specials → Specials) : (s.onSp f).core.rpptr = s.core.rpptr := rfl
@[simp] theorem onSp_core_vrsel (s : State) (f : Specials → Specials) : (s.onSp f).core.vrsel = s.core.vrsel := rfl
@[simp] theorem onSp_core_vrhead (s : State) (f : Specials → Specials) : (s.onSp f).core.vrhead = s.core.vrhead := rfl
@[simp] theorem onSp_core_retire (s : State) (f : Specials → Specials) : (s.onSp f).core.retire = s.core.retire := rfl
@[simp] theorem onSp_core_lost (s : State) (f : Specials → Specials) : (s.onSp f).core.lost = s.core.lost := rfl
@[simp] theorem onSp_core_run (s : State) (f : Specials → Specials) : (s.onSp f).core.run = s.core.run := rfl
@[simp] theorem onSp_core_convoy (s : State) (f : Specials → Specials) : (s.onSp f).core.convoy = s.core.convoy := rfl
@[simp] theorem onSp_core_stalecnt (s : State) (f : Specials → Specials) : (s.onSp f).core.stalecnt = s.core.stalecnt := rfl
@[simp] theorem onSp_core_cells (s : State) (f : Specials → Specials) : (s.onSp f).core.cells = s.core.cells := rfl
@[simp] theorem onSp_core_vq (s : State) (f : Specials → Specials) : (s.onSp f).core.vq = s.core.vq := rfl
@[simp] theorem onSp_core_vuFree (s : State) (f : Specials → Specials) : (s.onSp f).core.vuFree = s.core.vuFree := rfl
@[simp] theorem onSp_core_divBusy (s : State) (f : Specials → Specials) : (s.onSp f).core.divBusy = s.core.divBusy := rfl
@[simp] theorem onSp_core_mulDone (s : State) (f : Specials → Specials) : (s.onSp f).core.mulDone = s.core.mulDone := rfl
@[simp] theorem onSp_core_icache (s : State) (f : Specials → Specials) : (s.onSp f).core.icache = s.core.icache := rfl
@[simp] theorem onSp_core_waiters (s : State) (f : Specials → Specials) : (s.onSp f).core.waiters = s.core.waiters := rfl
@[simp] theorem onSp_core_mx (s : State) (f : Specials → Specials) : (s.onSp f).core.mx = s.core.mx := rfl
@[simp] theorem onSp_core_drains (s : State) (f : Specials → Specials) : (s.onSp f).core.drains = s.core.drains := rfl
@[simp] theorem onSp_core_channels (s : State) (f : Specials → Specials) : (s.onSp f).core.channels = s.core.channels := rfl
@[simp] theorem onSp_core_trapSlots (s : State) (f : Specials → Specials) : (s.onSp f).core.trapSlots = s.core.trapSlots := rfl
@[simp] theorem onSp_core_slotQueue (s : State) (f : Specials → Specials) : (s.onSp f).core.slotQueue = s.core.slotQueue := rfl
@[simp] theorem onSp_core_parkedTill (s : State) (f : Specials → Specials) : (s.onSp f).core.parkedTill = s.core.parkedTill := rfl
@[simp] theorem onSp_core_stopWanted (s : State) (f : Specials → Specials) : (s.onSp f).core.stopWanted = s.core.stopWanted := rfl
@[simp] theorem onSp_core_stopped (s : State) (f : Specials → Specials) : (s.onSp f).core.stopped = s.core.stopped := rfl
@[simp] theorem onSp_core_copies (s : State) (f : Specials → Specials) : (s.onSp f).core.copies = s.core.copies := rfl
@[simp] theorem onSp_core_spareUsed (s : State) (f : Specials → Specials) : (s.onSp f).core.spareUsed = s.core.spareUsed := rfl
@[simp] theorem onSp_core_moved (s : State) (f : Specials → Specials) : (s.onSp f).core.moved = s.core.moved := rfl
@[simp] theorem onSp_core_modes (s : State) (f : Specials → Specials) : (s.onSp f).core.modes = s.core.modes := rfl
@[simp] theorem onSp_cur_num (s : State) (f : Specials → Specials) : (s.onSp f).core.cur.num = s.core.cur.num := rfl
@[simp] theorem onSp_cur_pc (s : State) (f : Specials → Specials) : (s.onSp f).core.cur.pc = s.core.cur.pc := rfl
@[simp] theorem onSp_cur_g (s : State) (f : Specials → Specials) : (s.onSp f).core.cur.g = s.core.cur.g := rfl
@[simp] theorem onSp_cur_gdead (s : State) (f : Specials → Specials) : (s.onSp f).core.cur.gdead = s.core.cur.gdead := rfl
@[simp] theorem onSp_cur_vdead (s : State) (f : Specials → Specials) : (s.onSp f).core.cur.vdead = s.core.cur.vdead := rfl
@[simp] theorem onSp_cur_mdead (s : State) (f : Specials → Specials) : (s.onSp f).core.cur.mdead = s.core.cur.mdead := rfl
@[simp] theorem onSp_cur_cdead (s : State) (f : Specials → Specials) : (s.onSp f).core.cur.cdead = s.core.cur.cdead := rfl
@[simp] theorem onSp_cur_full (s : State) (f : Specials → Specials) : (s.onSp f).core.cur.full = s.core.cur.full := rfl
@[simp] theorem onSp_cur_vf (s : State) (f : Specials → Specials) : (s.onSp f).core.cur.vf = s.core.cur.vf := rfl
@[simp] theorem onSp_cur_partners (s : State) (f : Specials → Specials) : (s.onSp f).core.cur.partners = s.core.cur.partners := rfl
@[simp] theorem onSp_cur_pend (s : State) (f : Specials → Specials) : (s.onSp f).core.cur.pend = s.core.cur.pend := rfl
@[simp] theorem onSp_cur_counters (s : State) (f : Specials → Specials) : (s.onSp f).core.cur.counters = s.core.cur.counters := rfl
@[simp] theorem onSp_cur_gReady (s : State) (f : Specials → Specials) : (s.onSp f).core.cur.gReady = s.core.cur.gReady := rfl
@[simp] theorem onSp_cur_powerTill (s : State) (f : Specials → Specials) : (s.onSp f).core.cur.powerTill = s.core.cur.powerTill := rfl
@[simp] theorem onSp_cur_bindings (s : State) (f : Specials → Specials) : (s.onSp f).core.cur.bindings = s.core.cur.bindings := rfl
@[simp] theorem onSp_cur_batch (s : State) (f : Specials → Specials) : (s.onSp f).core.cur.batch = s.core.cur.batch := rfl
@[simp] theorem onSp_cur_spawnCell (s : State) (f : Specials → Specials) : (s.onSp f).core.cur.spawnCell = s.core.cur.spawnCell := rfl
@[simp] theorem onSp_cur_launch (s : State) (f : Specials → Specials) : (s.onSp f).core.cur.launch = s.core.cur.launch := rfl
@[simp] theorem onSp_cur_isItem (s : State) (f : Specials → Specials) : (s.onSp f).core.cur.isItem = s.core.cur.isItem := rfl
@[simp] theorem onSp_cur_redCount (s : State) (f : Specials → Specials) : (s.onSp f).core.cur.redCount = s.core.cur.redCount := rfl
@[simp] theorem onSp_cur_attempts (s : State) (f : Specials → Specials) : (s.onSp f).core.cur.attempts = s.core.cur.attempts := rfl
@[simp] theorem onSp_cur_reissue (s : State) (f : Specials → Specials) : (s.onSp f).core.cur.reissue = s.core.cur.reissue := rfl
@[simp] theorem onSp_cur_masked (s : State) (f : Specials → Specials) : (s.onSp f).core.cur.masked = s.core.cur.masked := rfl
@[simp] theorem onSp_cur_firstRefusal (s : State) (f : Specials → Specials) : (s.onSp f).core.cur.firstRefusal = s.core.cur.firstRefusal := rfl
@[simp] theorem onSp_cur_handler (s : State) (f : Specials → Specials) : (s.onSp f).core.cur.handler = s.core.cur.handler := rfl
@[simp] theorem onSp_cur_trapDue (s : State) (f : Specials → Specials) : (s.onSp f).core.cur.trapDue = s.core.cur.trapDue := rfl
@[simp] theorem onSp_cur_left (s : State) (f : Specials → Specials) : (s.onSp f).core.cur.left = s.core.cur.left := rfl

/-! ## Changing the package -/

@[simp] theorem onPkg_pkg (s : State) (f : Package → Package) : (s.onPkg f).pkg = f s.pkg := rfl
@[simp] theorem onPkg_core (s : State) (f : Package → Package) : (s.onPkg f).core = s.core := rfl
@[simp] theorem onPkg_others (s : State) (f : Package → Package) : (s.onPkg f).others = s.others := rfl
@[simp] theorem onPkg_clusters (s : State) (f : Package → Package) : (s.onPkg f).clusters = s.clusters := rfl
@[simp] theorem onPkg_dies (s : State) (f : Package → Package) : (s.onPkg f).dies = s.dies := rfl
@[simp] theorem onPkg_mem (s : State) (f : Package → Package) : (s.onPkg f).mem = s.mem := rfl
@[simp] theorem onPkg_fullWords (s : State) (f : Package → Package) : (s.onPkg f).fullWords = s.fullWords := rfl
@[simp] theorem onPkg_poison (s : State) (f : Package → Package) : (s.onPkg f).poison = s.poison := rfl
@[simp] theorem onPkg_ue (s : State) (f : Package → Package) : (s.onPkg f).ue = s.ue := rfl
@[simp] theorem onPkg_tlb (s : State) (f : Package → Package) : (s.onPkg f).tlb = s.tlb := rfl
@[simp] theorem onPkg_flight (s : State) (f : Package → Package) : (s.onPkg f).flight = s.flight := rfl
@[simp] theorem onPkg_turns (s : State) (f : Package → Package) : (s.onPkg f).turns = s.turns := rfl
@[simp] theorem onPkg_free (s : State) (f : Package → Package) : (s.onPkg f).free = s.free := rfl

/-! ## Writing a `g` register (R18, R90) -/

@[simp] theorem wg_others (s : State) (r : BitVec 5) (v : Word) : (s.wg r v).others = s.others := rfl
@[simp] theorem wg_clusters (s : State) (r : BitVec 5) (v : Word) : (s.wg r v).clusters = s.clusters := rfl
@[simp] theorem wg_dies (s : State) (r : BitVec 5) (v : Word) : (s.wg r v).dies = s.dies := rfl
@[simp] theorem wg_pkg (s : State) (r : BitVec 5) (v : Word) : (s.wg r v).pkg = s.pkg := rfl
@[simp] theorem wg_mem (s : State) (r : BitVec 5) (v : Word) : (s.wg r v).mem = s.mem := rfl
@[simp] theorem wg_fullWords (s : State) (r : BitVec 5) (v : Word) : (s.wg r v).fullWords = s.fullWords := rfl
@[simp] theorem wg_poison (s : State) (r : BitVec 5) (v : Word) : (s.wg r v).poison = s.poison := rfl
@[simp] theorem wg_ue (s : State) (r : BitVec 5) (v : Word) : (s.wg r v).ue = s.ue := rfl
@[simp] theorem wg_tlb (s : State) (r : BitVec 5) (v : Word) : (s.wg r v).tlb = s.tlb := rfl
@[simp] theorem wg_flight (s : State) (r : BitVec 5) (v : Word) : (s.wg r v).flight = s.flight := rfl
@[simp] theorem wg_turns (s : State) (r : BitVec 5) (v : Word) : (s.wg r v).turns = s.turns := rfl
@[simp] theorem wg_free (s : State) (r : BitVec 5) (v : Word) : (s.wg r v).free = s.free := rfl
@[simp] theorem wg_cur_num (s : State) (r : BitVec 5) (v : Word) : (s.wg r v).core.cur.num = s.core.cur.num := by
  simp only [State.wg, onCur_cur, Strand.writeG, Strand.putG]; split <;> rfl
@[simp] theorem wg_cur_pc (s : State) (r : BitVec 5) (v : Word) : (s.wg r v).core.cur.pc = s.core.cur.pc := by
  simp only [State.wg, onCur_cur, Strand.writeG, Strand.putG]; split <;> rfl
@[simp] theorem wg_cur_vdead (s : State) (r : BitVec 5) (v : Word) : (s.wg r v).core.cur.vdead = s.core.cur.vdead := by
  simp only [State.wg, onCur_cur, Strand.writeG, Strand.putG]; split <;> rfl
@[simp] theorem wg_cur_mdead (s : State) (r : BitVec 5) (v : Word) : (s.wg r v).core.cur.mdead = s.core.cur.mdead := by
  simp only [State.wg, onCur_cur, Strand.writeG, Strand.putG]; split <;> rfl
@[simp] theorem wg_cur_cdead (s : State) (r : BitVec 5) (v : Word) : (s.wg r v).core.cur.cdead = s.core.cur.cdead := by
  simp only [State.wg, onCur_cur, Strand.writeG, Strand.putG]; split <;> rfl
@[simp] theorem wg_cur_vf (s : State) (r : BitVec 5) (v : Word) : (s.wg r v).core.cur.vf = s.core.cur.vf := by
  simp only [State.wg, onCur_cur, Strand.writeG, Strand.putG]; split <;> rfl
@[simp] theorem wg_cur_partners (s : State) (r : BitVec 5) (v : Word) : (s.wg r v).core.cur.partners = s.core.cur.partners := by
  simp only [State.wg, onCur_cur, Strand.writeG, Strand.putG]; split <;> rfl
@[simp] theorem wg_cur_sp (s : State) (r : BitVec 5) (v : Word) : (s.wg r v).core.cur.sp = s.core.cur.sp := by
  simp only [State.wg, onCur_cur, Strand.writeG, Strand.putG]; split <;> rfl
@[simp] theorem wg_cur_counters (s : State) (r : BitVec 5) (v : Word) : (s.wg r v).core.cur.counters = s.core.cur.counters := by
  simp only [State.wg, onCur_cur, Strand.writeG, Strand.putG]; split <;> rfl
@[simp] theorem wg_cur_powerTill (s : State) (r : BitVec 5) (v : Word) : (s.wg r v).core.cur.powerTill = s.core.cur.powerTill := by
  simp only [State.wg, onCur_cur, Strand.writeG, Strand.putG]; split <;> rfl
@[simp] theorem wg_cur_bindings (s : State) (r : BitVec 5) (v : Word) : (s.wg r v).core.cur.bindings = s.core.cur.bindings := by
  simp only [State.wg, onCur_cur, Strand.writeG, Strand.putG]; split <;> rfl
@[simp] theorem wg_cur_batch (s : State) (r : BitVec 5) (v : Word) : (s.wg r v).core.cur.batch = s.core.cur.batch := by
  simp only [State.wg, onCur_cur, Strand.writeG, Strand.putG]; split <;> rfl
@[simp] theorem wg_cur_spawnCell (s : State) (r : BitVec 5) (v : Word) : (s.wg r v).core.cur.spawnCell = s.core.cur.spawnCell := by
  simp only [State.wg, onCur_cur, Strand.writeG, Strand.putG]; split <;> rfl
@[simp] theorem wg_cur_launch (s : State) (r : BitVec 5) (v : Word) : (s.wg r v).core.cur.launch = s.core.cur.launch := by
  simp only [State.wg, onCur_cur, Strand.writeG, Strand.putG]; split <;> rfl
@[simp] theorem wg_cur_isItem (s : State) (r : BitVec 5) (v : Word) : (s.wg r v).core.cur.isItem = s.core.cur.isItem := by
  simp only [State.wg, onCur_cur, Strand.writeG, Strand.putG]; split <;> rfl
@[simp] theorem wg_cur_redCount (s : State) (r : BitVec 5) (v : Word) : (s.wg r v).core.cur.redCount = s.core.cur.redCount := by
  simp only [State.wg, onCur_cur, Strand.writeG, Strand.putG]; split <;> rfl
@[simp] theorem wg_cur_attempts (s : State) (r : BitVec 5) (v : Word) : (s.wg r v).core.cur.attempts = s.core.cur.attempts := by
  simp only [State.wg, onCur_cur, Strand.writeG, Strand.putG]; split <;> rfl
@[simp] theorem wg_cur_reissue (s : State) (r : BitVec 5) (v : Word) : (s.wg r v).core.cur.reissue = s.core.cur.reissue := by
  simp only [State.wg, onCur_cur, Strand.writeG, Strand.putG]; split <;> rfl
@[simp] theorem wg_cur_masked (s : State) (r : BitVec 5) (v : Word) : (s.wg r v).core.cur.masked = s.core.cur.masked := by
  simp only [State.wg, onCur_cur, Strand.writeG, Strand.putG]; split <;> rfl
@[simp] theorem wg_cur_firstRefusal (s : State) (r : BitVec 5) (v : Word) : (s.wg r v).core.cur.firstRefusal = s.core.cur.firstRefusal := by
  simp only [State.wg, onCur_cur, Strand.writeG, Strand.putG]; split <;> rfl
@[simp] theorem wg_cur_handler (s : State) (r : BitVec 5) (v : Word) : (s.wg r v).core.cur.handler = s.core.cur.handler := by
  simp only [State.wg, onCur_cur, Strand.writeG, Strand.putG]; split <;> rfl
@[simp] theorem wg_cur_trapDue (s : State) (r : BitVec 5) (v : Word) : (s.wg r v).core.cur.trapDue = s.core.cur.trapDue := by
  simp only [State.wg, onCur_cur, Strand.writeG, Strand.putG]; split <;> rfl
@[simp] theorem wg_cur_left (s : State) (r : BitVec 5) (v : Word) : (s.wg r v).core.cur.left = s.core.cur.left := by
  simp only [State.wg, onCur_cur, Strand.writeG, Strand.putG]; split <;> rfl

@[simp] theorem rg_zero (s : State) : s.rg 0 = 0 := rfl
@[simp] theorem wg_zero (s : State) (v : Word) : s.wg 0 v = s := rfl

theorem wg_g (s : State) {r : BitVec 5} (h : ¬r = 0) (v : Word) :
    (s.wg r v).core.cur.g = s.core.cur.g.set r.toNat v r.isLt := by
  simp only [State.wg, onCur_cur, Strand.writeG, Strand.putG, if_neg h]

/-- A register reads what was written to it. -/
theorem rg_wg (s : State) {r : BitVec 5} (h : ¬r = 0) (v : Word) : (s.wg r v).rg r = v := by
  simp only [State.rg, State.cur, Strand.readG, if_neg h, wg_g s h, ix5]
  exact Vector.getElem_set_self ..

/-- A write of one register leaves every other. -/
theorem rg_wg_ne (s : State) {r q : BitVec 5} (h : q ≠ r) (v : Word) : (s.wg r v).rg q = s.rg q := by
  by_cases hr : r = 0
  · subst hr; rfl
  · simp only [State.rg, State.cur, Strand.readG, wg_g s hr, ix5]
    split
    · rfl
    · exact Vector.getElem_set_ne _ _ fun e => h (BitVec.eq_of_toNat_eq e.symm)

/-- A core that no other is behind is the next to take a step. -/
theorem focusOn_slowest {s : State} (h : s.inTime = true) : s.focusOn s.slowest = s := by
  rw [show s.slowest = s.core.cid from if_pos h, State.focusOn, if_pos rfl]

end Sys2Proof.Machine
end

