-- ==== Sys2Proof/Tests/Slice0.lean ====
section
/-! SUPPORT. The checks of well-formedness and of decoding, small step tests whose expected values come from the spec's
definitions by hand, and for every statement with hypotheses a concrete state and operands that meet them. -/

namespace Sys2Proof.Tests

open Sys2Proof.Machine

set_option maxRecDepth 8000
set_option Elab.async false

/-! ## Well-formedness: each check refuses a term that it is there for, and passes its neighbour -/

theorem test_wf_couloir_fields :
    (∀ i ∈ ([.add false 5 16 6 0 true, .add false 5 5 6 1 false, .clz false 5 24 3 true, .seteq false 5 15 6 2 false, .tagget false 5 4 1 false] : List Instr),
      i.wf = false) ∧ (Instr.add false 5 23 6 3 true).wf = true := by decide

theorem test_wf_register_classes :
    ∀ i ∈ ([.vcmpeq false 16 1 2 0 false false, .mand false 16 1 2, .mand false 1 16 2, .mand false 1 2 16, .mpop false 5 16, .mscan false 5 16,
      .mupto false 16 1, .mmov false 18 1, .mmov false 1 18, .mld false 16 5, .mst false 31 5, .msetl false 16 5, .cld false 8 5, .cst false 8 5,
      .cset false 8 5 6, .cmov false 1 8, .mring false 8 0, .mrcommit false 8 5, .mma false 8 5, .mmas false 8 5 1, .mzero false 8, .mrd false 5 8 6,
      .mwr false 8 5 6, .mrpop false 8 5, .mrq false 5 8, .deposit false 23 5 6, .deposit false 28 5 6, .pub false 0 15, .pub false 0 24] : List Instr),
      i.wf = false := by decide

theorem test_wf_reserved_values :
    ∀ i ∈ ([.bfx false 5 6 32 32, .bfi false 5 6 63 1, .ldq false 5 6 5, .amoadd false 5 6 7 6 1, .amoadd false 5 6 7 3 4, .cas false 5 6 7 7 0,
      .fence false 6 1, .fence false 3 0, .strip false 5 6 1 0 0 0 0, .strip false 5 6 1 1 0 0 2, .strip false 5 6 1 2 3 4 5,
      .vcvt false 1 2 0x0B 0 true false false 0, .vcvt false 1 2 0x10 0 true false false 3, .vsmx false 3 3 5 0 true, .vsmg false 3 4, .vsmg false 4 4,
      .vsmf false 3 5, .mmas false 3 7 0, .mcmd false 5 6 7 0, .mdist false 5 6 9 0, .wrs false 5 0x006, .wrs false 5 0x8B2,
      .unassignedEncoding .major 0x7A000000] : List Instr), i.wf = false := by decide

/-- The largest values that pass. -/
theorem test_wf_boundaries :
    ∀ i ∈ ([.bfx false 5 6 32 31, .bfi false 5 6 0 63, .ldq false 0 6 0, .amoadd false 5 6 7 5 3, .fence false 5 15, .strip false 5 6 1 2 3 4 4,
      .vcvt false 1 2 0x17 15 true true true 7, .vcvt false 1 2 0x0A 0 true false false 0, .mmov false 17 16, .vsmg false 2 4, .deposit false 27 5 6,
      .pub false 0 23, .mmas false 7 7 15, .mcmd false 5 6 8 0xFFFFFFFF, .wrs false 5 0x005] : List Instr), i.wf = true := by decide

/-! ## Decoding: words written out from the formats of R15, the opcode map of R26 and the splits of R27 -/

theorem test_decode_wide_words :
    decodeWords [0x7C040000, 0x12345678] = some (.lix false 8 0x12345678) ∧ decodeWords [0x7C140000, 0xFFFFFFFF] = some (.lixh false 8 0xFFFFFFFF) ∧
    decodeWords [0x7C229900, 0x16022280] = some (.mcmd false 5 6 8 0x16022280) ∧ decodeWords [0x7C329900, 0] = some (.mdist false 5 6 8 0) := by
  decide +kernel

theorem test_decode_reserved :
    ∀ p ∈ ([(0x7A000000, .major), (0x68000006, .function), (0x3A521801, .reserved)] : List (BitVec 32 × EncodingFault)),
      decodeWords [p.1] = some (.unassignedEncoding p.2 p.1) := by decide +kernel

theorem test_decode_system : ∀ p ∈ ([
    (0x80000000, .illegal true), (0x80030001, .trap true 6), (0x80030002, .rett true 6),
    (0x80000003, .synci true), (0x80000004, .mapfence true), (0x80031C05, .tlbinv true 6 7),
    (0x80030006, .uefix true 6), (0x80030007, .mxsave true 6), (0x80030008, .mxrst true 6),
    (0x80030009, .park true 6), (0x82500841, .rds true 5 0x841), (0x82034005, .wrs true 6 5)] : List (BitVec 32 × Instr)),
    decodeWords [p.1] = some p.2 := by decide +kernel

theorem test_decode_special_rows : ∀ p ∈ ([
    (0x82034006, .wrsVtype true 6), (0x82034024, .wrsVbank true 6), (0x82034023, .wrsCclimit true 6),
    (0x82034841, .wrsSlotpol true 6), (0x82034840, .wrsRedcfg true 6), (0x82034880, .wrsProfile true 6),
    (0x82034813, .wrsAcctctl true 6), (0x82034815, .wrsTrptr true 6), (0x82034872, .wrsLcancel true 6),
    (0x82034863, .wrsMigdoor true 6), (0x82034864, .wrsDumpdoor true 6), (0x820348B2, .wrsNetreload true 6)] : List (BitVec 32 × Instr)),
    decodeWords [p.1] = some p.2 := by decide +kernel

theorem test_decode_alu : ∀ p ∈ ([
    (0x84591D80, .add true 5 18 7 1 true), (0x84591D81, .sub true 5 18 7 1 true), (0x84591D82, .and true 5 18 7 1 true),
    (0x84591D83, .or true 5 18 7 1 true), (0x84591D84, .xor true 5 18 7 1 true), (0x84591D85, .andn true 5 18 7 1 true),
    (0x84591D86, .orn true 5 18 7 1 true), (0x84591D87, .shl true 5 18 7 1 true), (0x84591D88, .shr true 5 18 7 1 true),
    (0x84591D89, .sra true 5 18 7 1 true), (0x84591D8A, .rot true 5 18 7 1 true), (0x84591D8B, .min true 5 18 7 1 true),
    (0x84591D8C, .max true 5 18 7 1 true), (0x84591D8D, .minn true 5 18 7 1 true), (0x84591D8E, .maxn true 5 18 7 1 true),
    (0x84591D8F, .mul true 5 18 7 1 true), (0x84591D90, .mulh true 5 18 7 1 true), (0x84591D91, .mulhn true 5 18 7 1 true),
    (0x84591D92, .div true 5 18 7 1 true), (0x84591D93, .divn true 5 18 7 1 true), (0x84591D94, .rem true 5 18 7 1 true),
    (0x84591D95, .remn true 5 18 7 1 true), (0x84590196, .clz true 5 18 1 true), (0x84590197, .ctz true 5 18 1 true),
    (0x84590198, .popc true 5 18 1 true), (0x84591D99, .sext true 5 18 7 1 true), (0x84591D9A, .zext true 5 18 7 1 true),
    (0x84591D9B, .sel true 5 18 7 1 true)] : List (BitVec 32 × Instr)),
    decodeWords [p.1] = some p.2 := by decide +kernel

theorem test_decode_immediate : ∀ p ∈ ([
    (0x86535A3C, .addi true 5 6 0x5a3c), (0x88535A3C, .andi true 5 6 0x5a3c), (0x8A535A3C, .ori true 5 6 0x5a3c),
    (0x8C535A3C, .xori true 5 6 0x5a3c), (0x8E530021, .shli true 5 6 33), (0x8E532021, .shri true 5 6 33),
    (0x8E534021, .srai true 5 6 33), (0x8E536021, .roti true 5 6 33), (0x905A5C3E, .li true 5 0xa5c3e),
    (0x925A5C3E, .lsh true 5 0xa5c3e), (0x945A5C3E, .addpc true 5 0xa5c3e)] : List (BitVec 32 × Instr)),
    decodeWords [p.1] = some p.2 := by decide +kernel

theorem test_decode_set_and_fields : ∀ p ∈ ([
    (0x96591D80, .seteq true 5 18 7 1 true), (0x96591D81, .setne true 5 18 7 1 true), (0x96591D82, .setlt true 5 18 7 1 true),
    (0x96591D83, .setge true 5 18 7 1 true), (0x96591D84, .setltn true 5 18 7 1 true), (0x96591D85, .setgen true 5 18 7 1 true),
    (0x98530B57, .seteqi true 5 6 0xb57), (0x98531B57, .setnei true 5 6 0xb57), (0x98532B57, .setlti true 5 6 0xb57),
    (0x98533B57, .setgei true 5 6 0xb57), (0x98534B57, .setltni true 5 6 0xb57), (0x98535B57, .setgeni true 5 6 0xb57),
    (0x9A530521, .bfx true 5 6 20 33), (0x9A534521, .bfi true 5 6 20 33), (0x9C591D80, .adda true 5 18 7 1 true),
    (0x9C591D81, .tagset true 5 18 7 1 true), (0x9C590182, .tagget true 5 18 1 true), (0x9C591D83, .pdiff true 5 18 7 1 true)] : List (BitVec 32 × Instr)),
    decodeWords [p.1] = some p.2 := by decide +kernel

theorem test_decode_control : ∀ p ∈ ([
    (0xA0069C35, .beqz true 6 0x9c35), (0xA0269C35, .bnez true 6 0x9c35), (0xA0469C35, .bltz true 6 0x9c35),
    (0xA0669C35, .bgez true 6 0x9c35), (0xA0869C35, .blez true 6 0x9c35), (0xA0A69C35, .bgtz true 6 0x9c35),
    (0xA2063EA5, .beq true 6 7 0x6a5), (0xA2263EA5, .bne true 6 7 0x6a5), (0xA2463EA5, .blt true 6 7 0x6a5),
    (0xA2663EA5, .bge true 6 7 0x6a5), (0xA2863EA5, .bltn true 6 7 0x6a5), (0xA2A63EA5, .bgen true 6 7 0x6a5),
    (0xA52CBA95, .jal true 0x12cba95), (0xA72CBA95, .j true 0x12cba95), (0xA8030000, .jr true 6),
    (0xA8530001, .jalr true 5 6), (0xAA505A3C, .dbnz true 5 0x5a3c), (0xAC5056A5, .ldp true 5 2 0x16a5)] : List (BitVec 32 × Instr)),
    decodeWords [p.1] = some p.2 := by decide +kernel

theorem test_decode_memory : ∀ p ∈ ([
    (0xB0530B57, .ldI8 true 5 6 0xb57), (0xB0531B57, .ldN8 true 5 6 0xb57), (0xB0532B57, .ldI16 true 5 6 0xb57),
    (0xB0533B57, .ldN16 true 5 6 0xb57), (0xB0534B57, .ldI32 true 5 6 0xb57), (0xB0535B57, .ldN32 true 5 6 0xb57),
    (0xB0536B57, .ldI64 true 5 6 0xb57), (0xB25316A5, .st8 true 5 6 0x16a5), (0xB25336A5, .st16 true 5 6 0x16a5),
    (0xB25356A5, .st32 true 5 6 0x16a5), (0xB25376A5, .st64 true 5 6 0x16a5), (0xB4531C00, .ldq true 5 6 7),
    (0xB4531C01, .stq true 5 6 7), (0xB6531E20, .amoadd true 5 6 7 4 2), (0xB6531E21, .amoand true 5 6 7 4 2),
    (0xB6531E22, .amoor true 5 6 7 4 2), (0xB6531E23, .amoxor true 5 6 7 4 2), (0xB6531E24, .amomin true 5 6 7 4 2),
    (0xB6531E25, .amomax true 5 6 7 4 2), (0xB6531E26, .amominn true 5 6 7 4 2), (0xB6531E27, .amomaxn true 5 6 7 4 2),
    (0xB6531E28, .amoswap true 5 6 7 4 2), (0xB6531E29, .amofadd32 true 5 6 7 4 2), (0xB6531E2A, .amofmax32 true 5 6 7 4 2),
    (0xB8531E20, .cas true 5 6 7 4 2)] : List (BitVec 32 × Instr)),
    decodeWords [p.1] = some p.2 := by decide +kernel

theorem test_decode_full_empty_and_cache : ∀ p ∈ ([
    (0xBA530000, .ldfe true 5 6), (0xBA530001, .stfe true 5 6), (0xBA031C02, .feinit true 6 7),
    (0xBA530003, .fefill true 5 6), (0xBA530004, .feq true 5 6), (0xBC003900, .fence true 3 9),
    (0xBE530000, .pin true 5 6), (0xBE530001, .unpin true 5 6), (0xBE031C02, .cflush true 6 7),
    (0xBE031C03, .cinv true 6 7), (0xBE031C04, .pref true 6 7), (0xBE531C05, .bankcfg true 5 6 7),
    (0xC0531C00, .setl true 5 6 7), (0xC25314E4, .strip true 5 6 1 2 3 4 4)] : List (BitVec 32 × Instr)),
    decodeWords [p.1] = some p.2 := by decide +kernel

theorem test_decode_vector_memory : ∀ p ∈ ([
    (0xC4531CF4, .vld true 5 6 7 3 true 5), (0xC4531CF5, .vlds true 5 6 7 3 true 5), (0xC4531CF6, .vldx true 5 6 7 3 true 5),
    (0xC4531CF7, .vldff true 5 6 7 3 true 5), (0xC6531CF4, .vst true 5 6 7 3 true 5), (0xC6531CF5, .vsts true 5 6 7 3 true 5),
    (0xC6531CF6, .vstx true 5 6 7 3 true 5), (0xC6531CF7, .vstra true 5 6 7 3 true 5)] : List (BitVec 32 × Instr)),
    decodeWords [p.1] = some p.2 := by decide +kernel

theorem test_decode_vector_integer : ∀ p ∈ ([
    (0xC8531CE0, .vadd true 5 6 7 3 true), (0xC8531CE1, .vsub true 5 6 7 3 true), (0xC8531CE2, .vmul true 5 6 7 3 true),
    (0xC8531CE3, .vmulh true 5 6 7 3 true), (0xC8531CE4, .vmulhn true 5 6 7 3 true), (0xC8531CE5, .vmin true 5 6 7 3 true),
    (0xC8531CE6, .vmax true 5 6 7 3 true), (0xC8531CE7, .vminn true 5 6 7 3 true), (0xC8531CE8, .vmaxn true 5 6 7 3 true),
    (0xC8531CE9, .vand true 5 6 7 3 true), (0xC8531CEA, .vor true 5 6 7 3 true), (0xC8531CEB, .vxor true 5 6 7 3 true),
    (0xC8531CEC, .vshl true 5 6 7 3 true), (0xC8531CED, .vshr true 5 6 7 3 true), (0xC8531CEE, .vsra true 5 6 7 3 true),
    (0xC8531CEF, .vrshr true 5 6 7 3 true), (0xC8531CF0, .vrnshr true 5 6 7 3 true), (0xC8531CF1, .vadds true 5 6 7 3 true),
    (0xC8531CF2, .vsubs true 5 6 7 3 true), (0xC8531CF3, .vmac true 5 6 7 3 true), (0xC8531CF4, .vdot2 true 5 6 7 3 true),
    (0xC8531CF5, .vdot4 true 5 6 7 3 true), (0xC85300F6, .vabs true 5 6 3 true), (0xC8531CF7, .vavg true 5 6 7 3 true),
    (0xC8531CF8, .vwmul true 5 6 7 3 true), (0xC8531CF9, .vwadd true 5 6 7 3 true)] : List (BitVec 32 × Instr)),
    decodeWords [p.1] = some p.2 := by decide +kernel

theorem test_decode_vector_integer_g : ∀ p ∈ ([
    (0xCA531CE0, .vaddG true 5 6 7 3 true), (0xCA531CE1, .vsubG true 5 6 7 3 true), (0xCA531CE2, .vmulG true 5 6 7 3 true),
    (0xCA531CE3, .vmulhG true 5 6 7 3 true), (0xCA531CE4, .vmulhnG true 5 6 7 3 true), (0xCA531CE5, .vminG true 5 6 7 3 true),
    (0xCA531CE6, .vmaxG true 5 6 7 3 true), (0xCA531CE7, .vminnG true 5 6 7 3 true), (0xCA531CE8, .vmaxnG true 5 6 7 3 true),
    (0xCA531CE9, .vandG true 5 6 7 3 true), (0xCA531CEA, .vorG true 5 6 7 3 true), (0xCA531CEB, .vxorG true 5 6 7 3 true),
    (0xCA531CEC, .vshlG true 5 6 7 3 true), (0xCA531CED, .vshrG true 5 6 7 3 true), (0xCA531CEE, .vsraG true 5 6 7 3 true),
    (0xCA531CEF, .vrshrG true 5 6 7 3 true), (0xCA531CF0, .vrnshrG true 5 6 7 3 true), (0xCA531CF1, .vaddsG true 5 6 7 3 true),
    (0xCA531CF2, .vsubsG true 5 6 7 3 true), (0xCA531CF3, .vmacG true 5 6 7 3 true), (0xCA531CF4, .vdot2G true 5 6 7 3 true),
    (0xCA531CF5, .vdot4G true 5 6 7 3 true), (0xCA531CF7, .vavgG true 5 6 7 3 true), (0xCA531CF8, .vwmulG true 5 6 7 3 true),
    (0xCA531CF9, .vwaddG true 5 6 7 3 true)] : List (BitVec 32 × Instr)),
    decodeWords [p.1] = some p.2 := by decide +kernel

theorem test_decode_vector_float : ∀ p ∈ ([
    (0xCC531CE0, .vfadd true 5 6 7 3 true), (0xCC531CE1, .vfsub true 5 6 7 3 true), (0xCC531CE2, .vfmul true 5 6 7 3 true),
    (0xCC531CE3, .vfma true 5 6 7 3 true), (0xCC531CE4, .vfms true 5 6 7 3 true), (0xCC531CE5, .vfdiv true 5 6 7 3 true),
    (0xCC5300E6, .vfsqrt true 5 6 3 true), (0xCC531CE7, .vfmin true 5 6 7 3 true), (0xCC531CE8, .vfmax true 5 6 7 3 true),
    (0xCC5300E9, .vfabs true 5 6 3 true), (0xCC5300EA, .vfneg true 5 6 3 true), (0xCC5300EB, .vfexp2 true 5 6 3 true),
    (0xCC5300EC, .vflog2 true 5 6 3 true), (0xCC5300ED, .vfrcp true 5 6 3 true), (0xCC5300EE, .vfrsq true 5 6 3 true),
    (0xCC5300EF, .vfclass true 5 6 3 true), (0xCC531CF0, .vfsgnj true 5 6 7 3 true), (0xCE531CE0, .vfaddG true 5 6 7 3 true),
    (0xCE531CE1, .vfsubG true 5 6 7 3 true), (0xCE531CE2, .vfmulG true 5 6 7 3 true), (0xCE531CE3, .vfmaG true 5 6 7 3 true),
    (0xCE531CE4, .vfmsG true 5 6 7 3 true), (0xCE531CE5, .vfdivG true 5 6 7 3 true), (0xCE531CE7, .vfminG true 5 6 7 3 true),
    (0xCE531CE8, .vfmaxG true 5 6 7 3 true), (0xCE531CF0, .vfsgnjG true 5 6 7 3 true)] : List (BitVec 32 × Instr)),
    decodeWords [p.1] = some p.2 := by decide +kernel

theorem test_decode_vector_compare : ∀ p ∈ ([
    (0xD0531CF0, .vcmpeq true 5 6 7 3 true true), (0xD0531CF1, .vcmpne true 5 6 7 3 true true), (0xD0531CF2, .vcmplt true 5 6 7 3 true true),
    (0xD0531CF3, .vcmpge true 5 6 7 3 true true), (0xD0531CF4, .vcmpltn true 5 6 7 3 true true), (0xD0531CF5, .vcmpgen true 5 6 7 3 true true),
    (0xD0531CF6, .vcmpfeq true 5 6 7 3 true true), (0xD0531CF7, .vcmpfne true 5 6 7 3 true true), (0xD0531CF8, .vcmpflt true 5 6 7 3 true true),
    (0xD0531CF9, .vcmpfge true 5 6 7 3 true true), (0xD0531CFA, .vcmpfun true 5 6 7 3 true true), (0xD25344FD, .vcvt true 5 6 17 3 true true true 5)] : List (BitVec 32 × Instr)),
    decodeWords [p.1] = some p.2 := by decide +kernel

theorem test_decode_vector_moves : ∀ p ∈ ([
    (0xD45300E0, .vmv true 5 6 3 true), (0xD4501CE1, .vbrd true 5 7 3 true), (0xD4531C02, .vext true 5 6 7),
    (0xD4531C03, .vins true 5 6 7), (0xD4531CE4, .vmrg true 5 6 7 3 true), (0xD45000E5, .viota true 5 3 true),
    (0xD4531CE6, .vrowb true 5 6 7 3 true), (0xD4531CE7, .vcolb true 5 6 7 3 true), (0xD6531CE0, .vslup true 5 6 7 3 true),
    (0xD6531CE1, .vsldn true 5 6 7 3 true), (0xD6531CE2, .vsl1up true 5 6 7 3 true), (0xD6531CE3, .vsl1dn true 5 6 7 3 true),
    (0xD6531CE4, .vgath true 5 6 7 3 true), (0xD65300C5, .vtrn true 5 6 3), (0xD65300E6, .vcprs true 5 6 3 true),
    (0xD65300E7, .vexpd true 5 6 3 true), (0xD6531CC8, .vgxch true 5 6 7 3)] : List (BitVec 32 × Instr)),
    decodeWords [p.1] = some p.2 := by decide +kernel

theorem test_decode_vector_reductions : ∀ p ∈ ([
    (0xD85300F0, .vredsum true 5 6 3 true true), (0xD85300F1, .vredmin true 5 6 3 true true), (0xD85300F2, .vredmax true 5 6 3 true true),
    (0xD85300F3, .vredminn true 5 6 3 true true), (0xD85300F4, .vredmaxn true 5 6 3 true true), (0xD85300F5, .vredand true 5 6 3 true true),
    (0xD85300F6, .vredor true 5 6 3 true true), (0xD85300F7, .vredxor true 5 6 3 true true), (0xD85300F8, .vfredo true 5 6 3 true true),
    (0xD85300F9, .vfredt true 5 6 3 true true), (0xD85300FA, .vfredmax true 5 6 3 true true), (0xD85300FB, .vfredmin true 5 6 3 true true),
    (0xDA531CE0, .vsmx true 5 6 7 3 true), (0xDA430001, .vsmg true 4 6), (0xDA530002, .vsmf true 5 6)] : List (BitVec 32 × Instr)),
    decodeWords [p.1] = some p.2 := by decide +kernel

theorem test_decode_masks_and_scales : ∀ p ∈ ([
    (0xDC531C00, .mand true 5 6 7), (0xDC531C01, .mor true 5 6 7), (0xDC531C02, .mxor true 5 6 7),
    (0xDC531C03, .mandn true 5 6 7), (0xDC530004, .mpop true 5 6), (0xDC530005, .mfirst true 5 6),
    (0xDC530006, .mupto true 5 6), (0xDC530007, .mbefore true 5 6), (0xDC530008, .mscan true 5 6),
    (0xDC530009, .mmov true 5 6), (0xDC53000A, .mld true 5 6), (0xDC53000B, .mst true 5 6),
    (0xDC53000C, .msetl true 5 6), (0xDE530000, .cld true 5 6), (0xDE530001, .cst true 5 6),
    (0xDE531C02, .cset true 5 6 7), (0xDE530003, .cmov true 5 6)] : List (BitVec 32 × Instr)),
    decodeWords [p.1] = some p.2 := by decide +kernel

theorem test_decode_matrix : ∀ p ∈ ([
    (0xE0530000, .mring true 5 6), (0xE0530001, .mrcommit true 5 6), (0xE0530002, .mma true 5 6),
    (0xE0531C03, .mmas true 5 6 7), (0xE0500004, .mzero true 5), (0xE0531C05, .mrd true 5 6 7),
    (0xE0531C06, .mwr true 5 6 7), (0xE0500007, .mbeg true 5), (0xE0000008, .mend true),
    (0xE0530009, .mrpop true 5 6), (0xE053000A, .mrq true 5 6)] : List (BitVec 32 × Instr)),
    decodeWords [p.1] = some p.2 := by decide +kernel

theorem test_decode_tokens : ∀ p ∈ ([
    (0xE4530000, .toka true 5 6), (0xE4030001, .tokf true 6), (0xE4030002, .toks true 6),
    (0xE4530003, .tokt true 5 6), (0xE4531C04, .tokr true 5 6 7), (0xE4031C05, .toke true 6 7),
    (0xE65302A5, .await true 5 6 0x2a5), (0xE60042A5, .yield true 0x2a5), (0xE8531C00, .spawn true 5 6 7),
    (0xE8000001, .exit true), (0xE8531C02, .hop true 5 6 7), (0xE9931C03, .deposit true 25 6 7),
    (0xE8030004, .prio true 6), (0xE8530005, .self true 5 6)] : List (BitVec 32 × Instr)),
    decodeWords [p.1] = some p.2 := by decide +kernel

theorem test_decode_chain_and_barrier : ∀ p ∈ ([
    (0xEA590000, .pub true 5 18), (0xEA000001, .cadv true), (0xEA530002, .item true 5 6),
    (0xEA530003, .cxq true 5 6), (0xEC531C00, .bara true 5 6 7), (0xEC530001, .barq true 5 6),
    (0xEE530000, .gang true 5 6), (0xEE000001, .ungang true)] : List (BitVec 32 × Instr)),
    decodeWords [p.1] = some p.2 := by decide +kernel

theorem test_decode_gondola_and_moraine : ∀ p ∈ ([
    (0xF0031C00, .gshape true 6 7), (0xF0531C01, .gcp true 5 6 7), (0xF0531C02, .gcpm true 5 6 7),
    (0xF0531C03, .gfill true 5 6 7), (0xF0531C04, .gred true 5 6 7), (0xF0500005, .gq true 5),
    (0xF0531C06, .gcpr true 5 6 7), (0xF2530000, .ssopen true 5 6), (0xF2531C01, .ssld true 5 6 7),
    (0xF2531C02, .sscm true 5 6 7), (0xF2531C03, .ssroll true 5 6 7), (0xF2531C04, .ssfork true 5 6 7),
    (0xF2531C05, .sspin true 5 6 7), (0xF2531C06, .ssunpin true 5 6 7), (0xF2531C07, .ssq true 5 6 7),
    (0xF2530008, .ssclose true 5 6)] : List (BitVec 32 × Instr)),
    decodeWords [p.1] = some p.2 := by decide +kernel

theorem test_decode_launch_stream_accounting : ∀ p ∈ ([
    (0xF4531C00, .launch true 5 6 7), (0xF6531C00, .sbind true 5 6 7), (0xF6530001, .sunb true 5 6),
    (0xF6530002, .sq true 5 6), (0xF8530000, .acctrd true 5 6), (0xF8030001, .mark true 6),
    (0xF8030002, .acctclr true 6)] : List (BitVec 32 × Instr)),
    decodeWords [p.1] = some p.2 := by decide +kernel

/-! ## States: what a launch leaves when its strand is about to run, with registers and memory set -/

/-- A strand of core 0 in supervisor mode about to run at 0x100000; the first 2^30 bytes of its address space are mapped. -/
def base : State := State.reset.withFetchWord 32 0

def regs (l : List (Nat × Nat)) (s : State) : State :=
  s.onCur fun t => { t with g := l.foldl (fun g p => g.setIfInBounds p.1 (BitVec.ofNat 64 p.2)) t.g, gdead := 0 }

/-- The own scratchpad of the core. -/
def pad : Nat := 0xD * 2 ^ 52 + 0x1FF * 2 ^ 41

def keyOf (s : State) (k : AccKind) (va n : Nat) : Nat := match s.locate s.agent k va n with
  | .at (.here x) => x
  | _ => 0

def poke (va n v : Nat) (s : State) : State := { s with mem := Memory.putN s.mem (keyOf s .write va n) n v }

/-- g5 holds a value, g6 a pointer to 8 bytes, g7 -3. -/
def memS (p : Nat) : State := regs [(5, 0xFEDCBA9876543210), (6, p), (7, 2 ^ 64 - 3)] (poke (p % 2 ^ 56) 8 0x8877665544332211 base)

def puts (l : List (Nat × Nat × Nat)) (s : State) : State := { s with mem := l.foldl (fun m p => Memory.putN m p.1 p.2.1 p.2.2) s.mem }

/-- The GiB at 0x80000000 has a table whose first two leaves map the frames 0x200000 and 0x210000. -/
def tables : State := puts [(0x20010, 8, 2 ^ 63 + 0x40000), (0x40007, 7, 0xE0000000000021), (0x40000, 7, 0xE0000000000020)] base

/-- The page at 0x80020000 may only be read; g6 names its first line. -/
def readOnly : State := regs [(5, 7), (6, 0x80020000), (7, 0)] (puts [(0x4000E, 7, 0xC0000000000022)] tables)

def user (s : State) : State := s.onSp fun p => { p with sctl := p.sctl &&& ~~~0x10#64 }

def two (a b : Nat) (s : State) : State := regs [(5, a), (6, b)] s

def scal : State := regs [(5, 7), (6, 2 ^ 64 - 3), (7, 0)] base

/-- An ordered launch of which the strand of `base` runs item 2, in the shape that the launch words ask for. -/
def lau : Launch :=
  { recLaunch 0 with
    id := 7, pinq := 4, spgrant := 524288, items := 9, ordered := true, carry := 3, phase := .placed, percore := 1
    perclu := 1, perdie := 1, dies := 1, cores := [0], positions := [⟨0, 0, some 2, 0⟩], nextItem := 3, handler := 0
    itemStates := [⟨2, 0, #v[3, 3, 3, 3, 3, 3, 3, 3], false, false, false, false⟩, ⟨1, 0, #v[3, 3, 3, 3, 3, 3, 3, 3], true, true, false, false⟩]
    pubs := [⟨1, 16, 0x77, false, [0]⟩] }

def launched (f : Launch → Launch) (s : State) : State :=
  let s := s.onPkg fun p => { p with launches := [f lau], nextLaunch := 8 }
  s.onCur fun t => { t with launch := some 7, isItem := true, sp := { t.sp with item := 2 } }

def outOf (o : Out) : State := match o with
  | .next t => t
  | _ => State.reset

/-! ## The conditions of the statements, as checks that evaluate -/

def calmOk (t : Strand) : Bool :=
  t.pend.all fun e => !e.due || (e.err.isNone && (e.token == 0 || e.present) && e.wr.vregs.all fun r => t.bankOf r == 0)

theorem calm_of {t : Strand} (h : calmOk t = true) : t.Calm := by
  simp only [calmOk, List.all_eq_true, Bool.or_eq_true, Bool.and_eq_true, Bool.not_eq_true', beq_iff_eq, Option.isNone_iff_eq_none] at h
  intro e he hd
  obtain ⟨⟨h1, h2⟩, h3⟩ := (h e he).resolve_left (by simp [hd])
  exact ⟨h1, h2, h3⟩

def issuesOk (s : State) (u : Use) (st : Bool) : Bool :=
  s.core.running && !s.core.exact && s.core.run.isNone && (!u.priv || s.cur.priv) && s.cur.emptySources u == 0 &&
    (s.cur.deadSource u).isNone && u.banks.all (fun r => s.cur.bankOf r == 0) && decide (s.cur.powerTill ≤ s.core.cycle) && !s.cur.streamBlocks u &&
    decide (s.cur.pend.length + u.pends ≤ 16) && !s.chainWaits u && s.depWait u == 0 && s.vqNow.core.queueWait u == 0 &&
    !s.vqNow.core.stopFirst u && (!st || calmOk s.cur)

theorem issues_of {s : State} {u : Use} {st : Bool} (h : issuesOk s u st = true) : Issues s u st := by
  simp only [issuesOk, Bool.and_eq_true, Bool.or_eq_true, Bool.not_eq_true', decide_eq_true_eq, beq_iff_eq, List.all_eq_true,
    Option.isNone_iff_eq_none] at h
  obtain ⟨⟨⟨⟨⟨⟨⟨⟨⟨⟨⟨⟨⟨⟨h1, h2⟩, h3⟩, h4⟩, h5⟩, h6⟩, h7⟩, h8⟩, h9⟩, h10⟩, h11⟩, h12⟩, h13⟩, h14⟩, h15⟩ := h
  refine ⟨h1, h2, h3, fun hp => ?_, h5, h6, h7, h8, h9, h10, h11, h12, h13, h14, fun hs => calm_of (h15.resolve_left (by simp [hs]))⟩
  simpa [hp] using h4

def atOnceOk (s : State) (u : Use) (st : Bool) : Bool := issuesOk s u st && s.core.vq.isEmpty

theorem atOnce_of {s : State} {u : Use} {st : Bool} (h : atOnceOk s u st = true) : AtOnce s u st := by
  simp only [atOnceOk, Bool.and_eq_true, List.isEmpty_iff] at h
  exact { issues_of h.1 with idle := h.2 }

theorem reaches_of {s : State} {k : AccKind} {n key : Nat} {fp : Bool} {ea : Word}
    (h : scalarTagOk n fp ea = true ∧ region (addrOf ea) < 14 ∧ addrOf ea % n = 0 ∧ s.locate s.agent k (addrOf ea) n = .at (.here key)) :
    Reaches s k n fp ea key := ⟨h.1, h.2.1, h.2.2.1, h.2.2.2⟩

theorem namesWord_of {s : State} {key : Nat} {ea : Word}
    (h : scalarTagOk 8 false ea = true ∧ (region (addrOf ea) = 12 ∨ region (addrOf ea) = 13) ∧ addrOf ea % 8 = 0 ∧
      s.locate s.agent .read (addrOf ea) 8 = .at (.here key) ∧ s.bankChanging key = false) : NamesWord s ea key :=
  ⟨h.1, h.2.1, h.2.2.1, h.2.2.2.1, h.2.2.2.2⟩

theorem namesPort_of {s : State} {p : Port} {ea : Word}
    (h : scalarTagOk 8 false ea = true ∧ region (addrOf ea) = 14 ∧ winKind (addrOf ea) = 0 ∧ addrOf ea % 8 = 0 ∧
      s.portAt s.agent (addrOf ea) = some p ∧ p.status = false ∧ s.bankChanging p.key = false) : NamesPort s ea p :=
  ⟨h.1, h.2.1, h.2.2.1, h.2.2.2.1, h.2.2.2.2.1, h.2.2.2.2.2.1, h.2.2.2.2.2.2⟩

theorem hasLiveSet_of {s : State} {ix key : Nat} {e : BitVec 128}
    (h : ix < s.cur.sp.lstn.toNat ∧ liveAddr s ix % 64 ≤ 48 ∧ s.locate s.agent .read (liveAddr s ix) 16 = .at (.here key) ∧
      (s.opened (liveAddr s ix) key 16).badAt key 16 = none ∧
      e = BitVec.ofNat 128 (Memory.getN (s.opened (liveAddr s ix) key 16).mem key 16) ∧ liveOk e = true) : HasLiveSet s ix e key :=
  ⟨h.1, h.2.1, h.2.2.1, h.2.2.2.1, h.2.2.2.2.1, h.2.2.2.2.2⟩

theorem tlbFresh_of {s : State} (h : s.tlb = []) : s.tlbFresh := by
  intro p va e he
  simp [h] at he

def isHere : Loc → Bool
  | .at (.here _) => true
  | _ => false

theorem isHere_of {x : Loc} (h : isHere x = true) : ∃ k, x = .at (.here k) := by
  unfold isHere at h
  split at h
  · exact ⟨_, rfl⟩
  · cases h

def elsOk (s : State) (k : AccKind) (align : Nat) (els : List VEl) : Bool :=
  els.all fun x => decide (0 < x.n) && decide (region x.va < 14) && x.va % align == 0 &&
    (pieces x.va x.n).all fun p => region p.1 == x.reg && isHere (s.locate s.agent k p.1 p.2)

theorem elsHere_of {s : State} {k : AccKind} {align : Nat} {els : List VEl} (h : elsOk s k align els = true) : s.elsHere k align els := by
  simp only [elsOk, List.all_eq_true, Bool.and_eq_true, decide_eq_true_eq, beq_iff_eq] at h
  intro x hx
  obtain ⟨⟨⟨h1, h2⟩, h3⟩, h4⟩ := h x hx
  exact ⟨h1, h2, h3, fun p hp => ⟨(h4 p hp).1, isHere_of (h4 p hp).2⟩⟩

theorem heldHere_of {s : State} {a : Agent} {va n : Nat} (h : ((pieces va n).all fun p => isHere (s.locate a .read p.1 p.2)) = true) :
    s.heldHere a va n := by
  simp only [List.all_eq_true] at h
  exact fun p hp => isHere_of (h p hp)

theorem pair_of {α β : Type} {x : Option (α × β)} (P : α → β → Prop) [∀ a b, Decidable (P a b)]
    (h : (match x with
      | some (a, b) => decide (P a b)
      | none => false) = true) : ∃ a b, x = some (a, b) ∧ P a b := by
  match x, h with
  | some (a, b), h => exact ⟨a, b, rfl, of_decide_eq_true h⟩

theorem none_of {α : Type} {x : Option α} (h : x.isNone = true) : x = none := Option.isNone_iff_eq_none.mp h

theorem triple_of {α β γ : Type} {x : Option (α × β × γ)} (P : α → β → γ → Prop) [∀ a b c, Decidable (P a b c)]
    (h : (match x with
      | some (a, b, c) => decide (P a b c)
      | none => false) = true) : ∃ a b c, x = some (a, b, c) ∧ P a b c := by
  match x, h with
  | some (a, b, c), h => exact ⟨a, b, c, rfl, of_decide_eq_true h⟩

theorem two_of {α β : Type} {x : Option α} {y : Option β} (P : α → β → Prop) [∀ a b, Decidable (P a b)]
    (h : (match x, y with
      | some a, some b => decide (P a b)
      | _, _ => false) = true) : ∃ a b, x = some a ∧ y = some b ∧ P a b := by
  match x, y, h with
  | some a, some b, h => exact ⟨a, b, rfl, rfl, of_decide_eq_true h⟩

/-! ## Witnesses: states and operands that meet the hypotheses of each statement, clause by clause -/

theorem witness_ScalarRegisterResults :
    Issues scal (srcA 5 0 [6]) true ∧ scal.operandA 5 0 false = some (7, scal) ∧
    Issues scal (srcA 5 0 [7] true) false ∧ Issues scal (srcA 6 0 []) true ∧ Issues scal (srcA 6 0 [5, 0]) false :=
  ⟨issues_of (by decide +kernel), by decide +kernel, issues_of (by decide +kernel), issues_of (by decide +kernel), issues_of (by decide +kernel)⟩

theorem witness_ScalarRegisterResults_chain :
    let s := launched id scal
    Issues s (srcA 16 1 [6]) true ∧ (s.operandA 16 1 true).map (·.1) = some 0x77 :=
  ⟨issues_of (by decide +kernel), by decide +kernel⟩

theorem witness_ScalarImmediateResults :
    Issues scal { g := [6] } true ∧ Issues scal { g := [6, 5] } false ∧ Issues scal {} true ∧ Issues scal { g := [5] } false :=
  ⟨issues_of (by decide +kernel), issues_of (by decide +kernel), issues_of (by decide +kernel), issues_of (by decide +kernel)⟩

theorem witness_ControlResults :
    Issues scal { g := [6] } true ∧ Issues scal { g := [5, 6] } false ∧ Issues scal {} true ∧
    (scal.rg 7).extractLsb' 0 2 = 0 ∧ (scal.rg 6).extractLsb' 0 2 ≠ 0 :=
  ⟨issues_of (by decide +kernel), issues_of (by decide +kernel), issues_of (by decide +kernel), by decide +kernel, by decide +kernel⟩

theorem witness_LoadResults :
    let s := memS 0x241
    AtOnce s { g := [6], pends := 1 } true ∧ Reaches s .read 1 false (adda (s.rg 6) 0) 0x241 ∧ s.sound 0x241 0x241 1 ∧
    Reaches (memS (0x38 * 2 ^ 56 + 0x240)) .read 8 false (adda ((memS (0x38 * 2 ^ 56 + 0x240)).rg 6) 0) 0x240 ∧ (memS 0x240).sound 0x240 0x240 8 :=
  ⟨atOnce_of (by decide +kernel), reaches_of (by decide +kernel), show State.badAt _ _ _ = none by decide +kernel, reaches_of (by decide +kernel),
    show State.badAt _ _ _ = none by decide +kernel⟩

/-- Window 0 of 2 dwords at 0x8000; the others unbound. -/
def bound : State := (memS 0x8008).onSp fun p => { p with pwin := #v[2 ^ 63 + 2 * 2 ^ 50 + 0x200, 0, 0, 0] }

theorem witness_ParameterLoad :
    AtOnce bound (ldpUse (bound.window 0) 1) true ∧ AtOnce bound (ldpUse (bound.window 0) 2) true ∧ AtOnce bound (ldpUse (bound.window 1) 0) false ∧
    (bound.cur.sp.pwin[1]).getLsbD 63 = false ∧ (bound.cur.sp.pwin[0]).getLsbD 63 = true ∧
    ((bound.cur.sp.pwin[0]).extractLsb' 50 13).toNat = 2 ∧
    Reaches bound .read 8 false (BitVec.ofNat 64 ((((bound.cur.sp.pwin[0]).extractLsb' 0 50).toNat * 64 + 8 * 1) % 2 ^ 56)) 0x8008 ∧
    bound.sound 0x8008 0x8008 8 :=
  ⟨atOnce_of (by decide +kernel), atOnce_of (by decide +kernel), atOnce_of (by decide +kernel), by decide +kernel, by decide +kernel, by decide +kernel, reaches_of (by decide +kernel),
    show State.badAt _ _ _ = none by decide +kernel⟩

theorem witness_StoreResults :
    let s := memS (pad + 0x40)
    AtOnce s { g := [5, 6] } true ∧ Reaches s .write 8 false (adda (s.rg 6) 0) (scratchKey 0 0x40) ∧
    Reaches s .write 1 false (adda (s.rg 6) 1) (scratchKey 0 0x41) :=
  ⟨atOnce_of (by decide +kernel), reaches_of (by decide +kernel), reaches_of (by decide +kernel)⟩

theorem witness_StoredBytes :
    let s := memS 0x240
    s.memOk ∧ s.dies.toList.all (fun d => d.detred.isEmpty) = true ∧ (s.flight.all fun m => !m.reducesTo fun _ => true) = true :=
  ⟨show Memory.wf _ = true by decide +kernel, by decide +kernel, by decide +kernel⟩

theorem witness_AccessChecks :
    AtOnce (memS (0xFF * 2 ^ 56)) { g := [6], pends := 1 } true ∧ scalarTagOk 4 false ((memS (0xFF * 2 ^ 56)).rg 6) = false ∧
    AtOnce (memS (15 * 2 ^ 52)) { g := [5, 6] } false ∧ 14 ≤ region (addrOf ((memS (15 * 2 ^ 52)).rg 6)) ∧
    (memS (pad + 2)).rg 6 = BitVec.ofNat 64 (pad + 2) ∧ region (pad + 2) = 13 ∧ region (pad + 2 + 3) = 13 ∧ (pad + 2) % 4 ≠ 0 ∧
    (memS (pad + 2 ^ 30)).locate (memS (pad + 2 ^ 30)).agent .write (pad + 2 ^ 30) 4 = .bounds ∧
    (memS (14 * 2 ^ 52)).rg 6 = BitVec.ofNat 64 (14 * 2 ^ 52) ∧ region (14 * 2 ^ 52) = 14 ∧ AtOnce readOnly { g := [5, 6] } true ∧
    region 0x80020000 < 14 ∧ ((pieces 0x80020000 8).find? fun p => readOnly.locate readOnly.agent .write p.1 p.2 == .denied) = some (0x80020000, 8) ∧
    ((pieces 0x243 4).find? fun p => (memS 0x243).locate (memS 0x243).agent .read p.1 p.2 == .denied) = none ∧ 0x243 % 4 ≠ 0 :=
  ⟨atOnce_of (by decide +kernel), by decide +kernel, atOnce_of (by decide +kernel), by decide +kernel, by decide +kernel, by decide +kernel,
    by decide +kernel, by decide +kernel, by decide +kernel, by decide +kernel, by decide +kernel, atOnce_of (by decide +kernel), by decide +kernel,
    by decide +kernel, by decide +kernel, by decide +kernel⟩

theorem witness_TokenAccesses :
    let s := memS 0x240
    AtOnce s { g := [6], pends := 1 } true ∧ Reaches s .read 8 false (adda (s.rg 6) 0) 0x240 ∧
    (∃ tok r, (s.opened 0x240 0x240 8).allocCell 3 1 = some (tok, r) ∧ tok ≠ 0) ∧
    AtOnce s { g := [5, 6] } false ∧ Reaches s .write 8 false (adda (s.rg 6) 0) 0x240 :=
  ⟨atOnce_of (by decide +kernel), reaches_of (by decide +kernel),
    pair_of (fun (tok : Word) (_ : State) => tok ≠ 0) (by decide +kernel),
    atOnce_of (by decide +kernel), reaches_of (by decide +kernel)⟩

theorem witness_AtomicResults :
    let s := memS 0x240
    AtOnce s { g := [6, 5], pends := 1 } true ∧ Reaches s .atomic 8 false (adda (s.rg 6) 0) 0x240 ∧ s.sound 0x240 0x240 8 ∧
    (let t := memS (0x80 * 2 ^ 56 + 0x240); Reaches t .atomic 4 true (adda (t.rg 6) 0) 0x240) ∧
    AtOnce s { g := [5, 6, 7], pends := 1 } false :=
  ⟨atOnce_of (by decide +kernel), reaches_of (by decide +kernel), show State.badAt _ _ _ = none by decide +kernel,
   reaches_of (by decide +kernel), atOnce_of (by decide +kernel)⟩
/-- g6 points at a full word of the own scratchpad; g5 is a count. -/
def fullS (n : Nat) : State :=
  let s := memS (pad + 0x40)
  regs [(5, n), (6, pad + 0x40), (7, 2)] (s.setFull (scratchKey 0 0x40) true)

theorem witness_FullEmptyWords :
    let s := fullS 3
    let e := memS (pad + 0x40)
    let k := scratchKey 0 0x40
    AtOnce s { g := [6], pends := 1 } true ∧ NamesWord s (adda (s.rg 6) 0) k ∧ s.isFull k = true ∧ s.badAt k 8 = none ∧
    AtOnce e { g := [5, 6] } true ∧ NamesWord e (adda (e.rg 6) 0) k ∧ e.isFull k = false ∧
    AtOnce s { g := [6] } false ∧ AtOnce s { g := [6, 7] } false ∧ s.feRefused (pad + 0x40) 2 = none ∧ s.feHeld (pad + 0x40) 2 = false ∧
    ((s.feKeys (pad + 0x40) 2).all fun k => !s.bankChanging k) = true :=
  ⟨atOnce_of (by decide +kernel), namesWord_of (by decide +kernel), by decide +kernel, by decide +kernel, atOnce_of (by decide +kernel),
    namesWord_of (by decide +kernel), by decide +kernel, atOnce_of (by decide +kernel), atOnce_of (by decide +kernel), by decide +kernel,
    by decide +kernel, by decide +kernel⟩

/-- The count at its bound: 16384 words that fit in the scratchpad do not exist, but the largest count that does not trap by itself is accepted as a count. -/
theorem witness_FullEmptyWords_empty :
    let s := fullS 0
    (s.rg 5).toNat = 0 ∧ s.feRefused (pad + 0x40) 0 = none ∧ s.feKeys (pad + 0x40) 0 = [] :=
  ⟨by decide +kernel, by decide +kernel, by decide +kernel⟩

/-- g6 points at a FIFO port of the own cluster that holds `l`. -/
def fifoS (l : List Word) : State := (memS (0xE * 2 ^ 52 + 0x1F * 2 ^ 43)).onCluster 0 fun c => { c with fifoMask := 1, fifos := [(0, l)] }

theorem witness_WindowAccesses :
    (∃ p, NamesPort (fifoS [0x11, 0x22]) (adda ((fifoS [0x11, 0x22]).rg 6) 0) p ∧
      ((fifoS [0x11, 0x22]).clusterAt p.cluster).fifo p.bank = [0x11, 0x22]) ∧
    AtOnce (fifoS [0x11, 0x22]) { g := [6], pends := 1 } true ∧ AtOnce (fifoS []) { g := [5, 6] } true ∧ AtOnce (fifoS []) { g := [6, 5] } false ∧
    (∀ k ∈ [1, 2, 3], let s := memS (0xE * 2 ^ 52 + k * 2 ^ 50)
      atOnceOk s { g := [6], pends := 1 } true = true ∧ atOnceOk s { g := [5, 6] } true = true ∧ scalarTagOk 8 false (s.rg 6) = true ∧
        region (addrOf (s.rg 6)) = 14 ∧ winKind (addrOf (s.rg 6)) = k ∧ winOff (addrOf (s.rg 6)) < winSize k ∧ s.cur.priv = true) ∧
    (∀ p ∈ [(memS (0xE * 2 ^ 52 + 2 * 2 ^ 50 + 0x1000), false), (user (memS (0xE * 2 ^ 52 + 2 * 2 ^ 50)), true)],
      atOnceOk p.1 { g := [6], pends := 1 } true = true ∧ atOnceOk p.1 { g := [5, 6] } true = true ∧
        decide (winOff (addrOf (p.1.rg 6)) < 0x1000) = p.2 ∧ p.1.cur.priv = !p.2) ∧
    (let s := (fifoS [0x11, 0x22]).onCluster 0 fun c => { c with fifoBad := [(0, 0)] }
     (s.clusterAt 0).fifoBad.contains (0, 0) = true ∧ AtOnce s { g := [6], pends := 1 } false) ∧
    (let s := regs [(5, 0), (6, 0xE * 2 ^ 52 + 0x1F * 2 ^ 43 + 8)] (fifoS [7])
     AtOnce s { g := [6], pends := 1 } true ∧ AtOnce s { g := [5, 6] } true ∧ winKind (addrOf (s.rg 6)) = 0 ∧
       (s.portAt s.agent (addrOf (s.rg 6))).map (·.status) = some true) :=
  ⟨⟨((fifoS [0x11, 0x22]).portAt (fifoS [0x11, 0x22]).agent (addrOf ((fifoS [0x11, 0x22]).rg 6))).get (by decide +kernel),
      namesPort_of (by decide +kernel), by decide +kernel⟩,
    atOnce_of (by decide +kernel), atOnce_of (by decide +kernel), atOnce_of (by decide +kernel), by decide +kernel, by decide +kernel,
    ⟨by decide +kernel, atOnce_of (by decide +kernel)⟩, atOnce_of (by decide +kernel), atOnce_of (by decide +kernel), by decide +kernel, by decide +kernel⟩

def pinned : State := (launched id (memS 0x240)).onCluster 0 fun c => c.addPin 7 9

theorem witness_CacheAndBankWords :
    let s := launched id (memS 0x240)
    Issues s {} true ∧ AtOnce s { g := [6, 5] } true ∧ s.ownCluster.noCache = false ∧
    (s.onCluster 0 fun c => { c with scrMask := BitVec.allOnes 64 }).ownCluster.noCache = true ∧
    AtOnce s { g := [6] } false ∧ s.tlbFresh ∧ s.pinStatus (s.cacheVa 6) = 0 ∧ s.lineOf (s.cacheVa 6) = some 9 ∧
    (memS (15 * 2 ^ 52)).pinStatus ((memS (15 * 2 ^ 52)).cacheVa 6) ≠ 0 ∧
    AtOnce pinned { g := [6] } true ∧ pinned.lineOf (pinned.cacheVa 6) = some 9 ∧ pinned.cur.launch.isSome = true ∧
    (pinned.ownCluster.pins.any fun p => p.launch == pinned.pinOwner && p.line == 9) = true ∧
    (s.ownCluster.pins.any fun p => p.launch == s.pinOwner && p.line == 9) = false :=
  ⟨issues_of (by decide +kernel), atOnce_of (by decide +kernel), by decide +kernel, by decide +kernel, atOnce_of (by decide +kernel),
    tlbFresh_of (by decide +kernel), by decide +kernel, by decide +kernel, by decide +kernel, atOnce_of (by decide +kernel), by decide +kernel,
    by decide +kernel, by decide +kernel, by decide +kernel⟩

theorem witness_CacheAndBankWords_banks :
    let s := regs [(5, 3), (6, 2), (7, 3)] base
    AtOnce s { g := [5, 6] } true ∧ (s.rg 6).toNat = 2 ∧ (s.rg 7).toNat = 3 ∧ s.core.posted = false ∧ s.core.reply = .none ∧
    (s.clusterAt 0).bankReqs = [] ∧ s.sramBusy = false :=
  ⟨atOnce_of (by decide +kernel), by decide +kernel, by decide +kernel, by decide +kernel, by decide +kernel, by decide +kernel, by decide +kernel⟩

theorem witness_ReadSpecial :
    AtOnce base { priv := true } true ∧ AtOnce base { priv := false } false ∧ base.readSpecial 0x810 ≠ none ∧ base.readSpecial 0x004 = some 32 ∧
    base.readSpecial 0xFFF = none ∧ base.readSpecial 0x7FF = none ∧ (user base).cur.priv = false :=
  ⟨atOnce_of (by decide +kernel), atOnce_of (by decide +kernel), by decide +kernel, by decide +kernel, by decide +kernel, by decide +kernel,
    by decide +kernel⟩

def holds (v : Nat) : State := regs [(5, v)] base

theorem witness_WriteSpecial :
    AtOnce (holds 32) { priv := false, g := [5] } true ∧ AtOnce (holds 32) { priv := true, g := [5] } true ∧
    ((holds 32).fieldsOk 0x005 32 = true ∧ reservedValue 0x005 32 = false ∧ (holds 32).shapeOk 0x005 32 = true) ∧
    ((holds 4000).fieldsOk 0x005 4000 = true ∧ reservedValue 0x005 4000 = false ∧ (holds 4000).shapeOk 0x005 4000 = false) ∧
    (holds 32).fieldsOk 0x000 32 = false :=
  ⟨atOnce_of (by decide +kernel), atOnce_of (by decide +kernel), by decide +kernel, by decide +kernel, by decide +kernel⟩

/-- Each special whose write is a row of its own, with a value that its clause takes. -/
theorem witness_WriteSpecial_rows :
    (∀ p ∈ [(0x006, 0x07), (0x024, 0xA8), (0x024, 0), (0x023, 1), (0x023, 48), (0x841, 0x06060606), (0x840, 2 ^ 63), (0x880, 1), (0x813, 10),
        (0x813, 24), (0x815, 5 * 2 ^ 32), (0x863, 0x240), (0x864, 0x240)],
      base.fieldsOk (BitVec.ofNat 12 p.1) (BitVec.ofNat 64 p.2) = true ∧ reservedValue p.1 (BitVec.ofNat 64 p.2) = false) ∧
    isType 0x07 = true ∧ (holds 0xA8).cur.sp.vbank = 0 ∧ (∀ b ∈ [0, 1, 2, 3], bankState 0xA8 b ≠ 3) ∧ base.core.entriesOk = 48 ∧
    slotpolOk 0x06060606 = true ∧ base.reduceInFlight 0 = false ∧ base.core.lost = Vector.replicate 16 0 ∧ base.pkg.migQueue.length < 64 ∧
    base.pkg.dumpQueue.length < 64 := by
  refine ⟨by decide +kernel, ?_⟩
  decide +kernel

/-- A write of VBANK that raises banks 1 to 3. -/
theorem witness_WriteSpecial_raise :
    let s := (holds 0).onSp fun p => { p with vbank := 0xA8 }
    AtOnce s { priv := false, g := [5] } true ∧ s.fieldsOk 0x024 0 = true ∧ reservedValue 0x024 0 = false ∧
    ([0, 1, 2, 3].filter fun b => bankState 0 b = 0 ∧ bankState s.cur.sp.vbank b ≠ 0) = [1, 2, 3] ∧ ∀ b ∈ [0, 1, 2, 3], bankState 0 b ≠ 3 :=
  ⟨atOnce_of (by decide +kernel), by decide +kernel, by decide +kernel, by decide +kernel, by decide +kernel⟩

def handled (s : State) : State := s.onSp fun p => { p with trapvec := 0x100400#64 }

theorem witness_TrapDelivery :
    let s := handled base
    s.core.running = true ∧ s.core.exact = false ∧ s.cur.pend = [] ∧ s.tlbFresh ∧ s.cur.handler = none ∧ s.cur.sp.trapvec ≠ 0 ∧
    s.core.freeSlot = some 0 ∧ (mkTrap 0x01 0).settledAt = none ∧ s.noTrim ∧ (mkTrap 0x13 0).cause = 0x13 ∧ (mkTrap 0x01 0).cause ≠ 0x13 ∧
    ({ mkTrap 0x0E 0 with settledAt := some (4, 8) } : TrapInfo).settledAt = some (4, 8) :=
  ⟨by decide +kernel, by decide +kernel, by decide +kernel, tlbFresh_of (by decide +kernel), by decide +kernel, by decide +kernel,
    by decide +kernel, by decide +kernel, show (_ : Nat) ≤ _ by decide +kernel, by decide, by decide, rfl⟩

theorem witness_TrapWords :
    let s := handled scal
    s.cur.pend = [] ∧ s.tlbFresh ∧ s.cur.handler = none ∧ s.cur.sp.trapvec ≠ 0 ∧ s.core.freeSlot = some 0 ∧
    AtOnce s { g := [5] } true ∧ AtOnce s {} true ∧ AtOnce s {} false ∧ s.noTrim :=
  ⟨by decide +kernel, tlbFresh_of (by decide +kernel), by decide +kernel, by decide +kernel, by decide +kernel, atOnce_of (by decide +kernel),
    atOnce_of (by decide +kernel), atOnce_of (by decide +kernel), show (_ : Nat) ≤ _ by decide +kernel⟩

theorem witness_TrapWithoutHandler :
    let s := launched id base
    s.core.running = true ∧ s.core.exact = false ∧ s.cur.pend = [] ∧ (mkTrap 0x01 0).settledAt = none ∧ s.cur.launch = some 7 ∧
    lau ∈ s.pkg.launches ∧ lau.id = 7 ∧ lau.phase = .placed ∧ s.cur.handler = none ∧ s.cur.sp.trapvec = 0 ∧
    (let t := (handled s).takeTrap (mkTrap 0x01 0)
     t.core.running = true ∧ t.core.exact = false ∧ t.cur.pend = [] ∧ t.cur.launch = some 7 ∧ t.cur.handler ≠ none ∧
       (t.launchOf 7).map (fun l => decide (l.phase = .placed)) = some true) := by
  decide +kernel

def deadTrap (m : BitVec 32) : State := (scal.onCur fun t => { t with gdead := m }).onSp fun p => { p with sctl := p.sctl ||| 4 }

/-- g24 is an empty deposit register. -/
def emptied : State := base.onCur fun t => { t with full := 0 }

theorem witness_IssueChecks :
    (user base).cur.priv = false ∧ (user base).cur.handler = none ∧
    (deadTrap 0x20).cur.sp.sctl.getLsbD 2 = true ∧ (deadTrap 0x20).cur.emptySources { g := [5, 6] } = 0 ∧ (deadTrap 0x20).cur.deadG 5 = true ∧
    (deadTrap 0x20).cur.powerTill ≤ (deadTrap 0x20).core.cycle ∧ (deadTrap 0x40).cur.emptySources { g := [5, 6] } = 0 ∧ (deadTrap 0x40).cur.deadG 5 = false ∧ (deadTrap 0x40).cur.deadG 6 = true ∧
    (emptied.core.running = true ∧ emptied.core.exact = false ∧ emptied.cur.pend = [] ∧ emptied.cur.emptyG 24 = true) ∧
    (let s := scal.onCur fun t => { t with gReady := [(6, scal.core.cycle + 3)] }
     s.core.running = true ∧ s.core.exact = false ∧ s.core.vq = [] ∧ s.cur.pend.length ≤ 16 ∧ s.cur.emptySources { g := [5, 6] } = 0 ∧
       s.cur.deadSource { g := [5, 6] } = none ∧ s.depWait { g := [5, 6] } = 3) := by
  decide +kernel

theorem witness_FenceWords :
    let s := fun y => regs [(5, 0x240), (6, y)] base
    Issues (s 0) {} true ∧ Issues (s 0) { priv := true } true ∧ (s 0).flight = [] ∧ (∀ y ∈ [0, 1, 2, 3, 0x4000], atOnceOk (s y) { priv := true, g := [5, 6] } true = true) :=
  ⟨issues_of (by decide +kernel), issues_of (by decide +kernel), by decide +kernel, by decide +kernel⟩

/-- The handler of a trap, with g5 = `n`. -/
def inHandler (t : TrapInfo) (n : Nat) : State :=
  regs [(5, n), (6, 9)] ((handled ((launched id base).onFocus fun c => { c with trapcfg := 0x0800000000300000#64 })).takeTrap t)

def laneTrap : TrapInfo := { mkTrap 0x0E 0x40 with rclass := 1, reg := 5, lanes := 1 }

theorem witness_HandlerWords :
    let s := inHandler (mkTrap 0x01 0)
    AtOnce (s 0) { priv := true, g := [5], holds := fun r => r.rettWaits (r.rg 5) } true ∧
    AtOnce (s 1) { priv := true, g := [5], holds := fun r => r.rettWaits (r.rg 5) } true ∧ (s 0).cur.pend = [] ∧ (s 0).tlbFresh ∧
    (s 0).core.heldEntries ≤ (s 0).core.entryLimit ∧
    (∃ h i, (s 0).cur.handler = some h ∧ (s 0).trappedImage = some i ∧ h.mxowed = false ∧
      (s 0).heldHere (s 0).supervisor ((s 0).core.slotBase h.slot) 2048 ∧
      i.st.recordOk ((s 0).loadVa (s 0).supervisor ((s 0).core.slotBase h.slot) 2048) = true ∧ (s 0).exitBlocked i.deposited = false) ∧
    (s 0).cur.sp.traprec ≠ 0 := by
  refine ⟨atOnce_of (by decide +kernel), atOnce_of (by decide +kernel), by decide +kernel, tlbFresh_of (by decide +kernel), by decide +kernel, ?_,
    by decide +kernel⟩
  obtain ⟨h, i, h1, h2, h3, h4, h5⟩ := two_of (x := (inHandler (mkTrap 0x01 0) 0).cur.handler) (y := (inHandler (mkTrap 0x01 0) 0).trappedImage)
    (fun h i => h.mxowed = false ∧
      ((pieces ((inHandler (mkTrap 0x01 0) 0).core.slotBase h.slot) 2048).all fun p =>
        isHere ((inHandler (mkTrap 0x01 0) 0).locate (inHandler (mkTrap 0x01 0) 0).supervisor .read p.1 p.2)) = true ∧
      (i.st.recordOk ((inHandler (mkTrap 0x01 0) 0).loadVa (inHandler (mkTrap 0x01 0) 0).supervisor
        ((inHandler (mkTrap 0x01 0) 0).core.slotBase h.slot) 2048) = true ∧ (inHandler (mkTrap 0x01 0) 0).exitBlocked i.deposited = false))
    (by decide +kernel)
  exact ⟨h, i, h1, h2, h3, heldHere_of h4, h5⟩

/-- A handler that has saved matrix state and not taken it back. -/
theorem witness_HandlerWords_owed :
    ∀ n ∈ [0, 1],
      let s := (inHandler (mkTrap 0x01 0) n).onHandler fun h => { h with mxsaved := true, mxowed := true }
      atOnceOk s { priv := true, g := [5], holds := fun r => r.rettWaits (r.rg 5) } true = true ∧ s.cur.pend = [] ∧ s.cur.handler.map (·.mxowed) = some true ∧ s.cur.sp.traprec ≠ 0 ∧
        s.trappedImage.isSome = true ∧ s.flight = [] ∧ s.core.mx.queue = [] ∧ (s.rg 5).toNat = n := by
  decide +kernel

theorem witness_HandlerWords_park : AtOnce scal { priv := true, g := [5] } true ∧ scal.cur.handler = none ∧ scal.cur.pend = [] :=
  ⟨atOnce_of (by decide +kernel), by decide +kernel, by decide +kernel⟩

theorem witness_HandlerWords_uefix :
    AtOnce (inHandler laneTrap 0) (uefixUse 1 5) true ∧ (∃ h i t, (inHandler laneTrap 0).served = some (h, i, t) ∧ t.cause = 0x0E ∧ t.rclass = 1) ∧
    AtOnce scal {} true :=
  ⟨atOnce_of (by decide +kernel), triple_of (fun _ _ (t : TrapInfo) => t.cause = 0x0E ∧ t.rclass = 1) (by decide +kernel), atOnce_of (by decide +kernel)⟩

/-- A record that names no register, one that names vector register 5, and one of a deferred load of g8. -/
theorem witness_HandlerWords_classes :
    let held : Pending :=
      { wr := .g 8 7, token := 0, addr := 0x40, pc := 0x100000, word := 0, present := true, observed := false, cancelled := false, err := none }
    let no := inHandler { mkTrap 0x0E 0x40 with lanes := 0 } 0
    let vr := inHandler { mkTrap 0x0F 0x40 with rclass := 2, reg := 5, lanes := 3 } 0
    let ld := inHandler { laneTrap with settledAt := some (0x100000, 0x100004), held := some held } 0
    (AtOnce no (uefixUse 0 5) true ∧ no.served.map (fun q => (q.2.2.rclass, q.2.2.settledAt)) = some (0, none)) ∧
    (AtOnce vr (uefixUse 2 5) true ∧ vr.served.map (fun q => (q.2.2.rclass, q.2.2.settledAt)) = some (2, none) ∧
      vr.served.map (fun q => (q.2.1.st.partners, decide (q.2.1.st.sp.gangsz ≤ 1), decide (0 < q.2.1.st.sp.vcols),
        decide (width q.2.1.st.sp.vtype * q.2.1.st.sp.vcols ≤ 1024))) = some ([], true, true, true)) ∧
    (AtOnce ld (uefixUse 1 5) true ∧ ld.served.map (fun q => (q.2.2.settledAt, q.2.2.held)) = some (some (0x100000, 0x100004), some held)) :=
  ⟨⟨atOnce_of (by decide +kernel), by decide +kernel⟩, ⟨atOnce_of (by decide +kernel), by decide +kernel, by decide +kernel⟩,
    atOnce_of (by decide +kernel), by decide +kernel⟩

/-- g5 holds the token of a fresh cell of `n` signals. -/
def celled (n : Nat) (s : State) : State := match s.allocCell 0 n with
  | some (h, r) => regs [(5, h.toNat), (6, 3)] r
  | none => s
def signalled (s : State) : State := s.onFocus fun c => c.signal (s.cur.readG 5)
def failed (s : State) : State := s.onFocus fun c => c.fail (s.cur.readG 5) 9

/-- A foreign handle: of another core, under a generation that is not 0. -/
def foreign : State := regs [(5, 2 ^ 63 + 2 ^ 20 + 7), (6, 3)] base

theorem witness_TokenWords :
    let s := celled 1 base
    AtOnce s { g := [5] } true ∧ AtOnce s { g := [5, 6] } false ∧ (s.allocCell 0 1).isSome = true ∧
    (hGen (s.rg 5) = 0 ∨ hPrefix (s.rg 5) = hPrefix s.cur.sp.self) ∧ s.core.liveHandle (s.rg 5) = true ∧ s.flight = [] ∧
    (signalled s).core.liveHandle ((signalled s).rg 5) = true ∧ ((signalled s).observe ((signalled s).rg 5)).cur.pend = [] ∧
    (let t := regs [(5, 0)] base
     hGen (t.rg 5) = 0 ∧ t.core.liveHandle (t.rg 5) = false) ∧
    ¬(hGen (foreign.rg 5) = 0 ∨ hPrefix (foreign.rg 5) = hPrefix foreign.cur.sp.self) :=
  ⟨atOnce_of (by decide +kernel), atOnce_of (by decide +kernel), by decide +kernel, by decide +kernel, by decide +kernel, by decide +kernel,
    by decide +kernel, by decide +kernel, by decide +kernel, by decide +kernel⟩

/-- No cell is free: all are armed. -/
def allArmed : List (Nat × TokCell) := (List.range 4096).map fun i => (i, { TokCell.reset with st := .armed 1 })

def withCells (l : List (Nat × TokCell)) (c : Core) : Core := { c with cells := l }

theorem withCells_cells (l : List (Nat × TokCell)) (c : Core) : (withCells l c).cells = l := rfl

def armedCore (c : Core) : Core := withCells allArmed c

theorem armedCore_cell (c : Core) {i : Nat} (h : i < 4096) : ((armedCore c).cell i).st = .armed 1 := by
  unfold Core.cell
  rw [armedCore, withCells_cells]
  unfold allArmed
  cases hf : ((List.range 4096).map fun i => (i, { TokCell.reset with st := .armed 1 })).find? (·.1 == i) with
  | none =>
    have := List.find?_eq_none.mp hf (i, { TokCell.reset with st := .armed 1 }) (List.mem_map.mpr ⟨i, List.mem_range.mpr h, rfl⟩)
    simp at this
  | some x =>
    obtain ⟨_, _, rfl⟩ := List.mem_map.mp (List.mem_of_find?_eq_some hf)
    rfl

theorem armedCore_firstFree (c : Core) (n i : Nat) (h : i + n ≤ 4096) : (armedCore c).firstFree n i = none := by
  induction n generalizing i with
  | zero => rfl
  | succ n ih =>
    rw [Core.firstFree, armedCore_cell c (by omega), if_neg (by simp)]
    exact ih _ (by omega)

theorem armed_allocCell (s : State) (k : BitVec 3) (n : Nat) : (s.onFocus armedCore).allocCell k n = none := by
  have hc : (s.onFocus armedCore).core = armedCore s.core := rfl
  rw [State.allocCell, Core.alloc, hc, armedCore_firstFree _ _ _ (by decide)]

theorem witness_TokenWords_none : AtOnce (base.onFocus armedCore) { g := [5] } false ∧ (base.onFocus armedCore).allocCell 0 1 = none :=
  ⟨atOnce_of (by decide +kernel), armed_allocCell _ _ _⟩

theorem witness_TokenMessages :
    let s := celled 1 base
    let h := s.rg 5
    hNode h = s.node ∧ hCore h = some s.core.cid ∧ s.node < s.nodes ∧ s.core.hMatches h = true ∧
    ((s.core.cell (hCell h)).st = .armed 1 ∧ (s.core.cell (hCell h)).orphan = false) ∧
    ((celled 3 base).core.cell (hCell ((celled 3 base).rg 5))).st = .armed 3 ∧
    ((signalled s).core.cell (hCell h)).st = .signalled ∧ (signalled s).core.hMatches h = true ∧
    ((failed s).core.cell (hCell h)).st = .failed 9 ∧ (failed s).core.hMatches h = true ∧
    s.core.hMatches (h + 1) = false ∧ hNode (h + 1) = s.node ∧ hCore (h + 1) = some s.core.cid := by
  decide +kernel

/-- Live-set entry 3 keeps g0 to g31 but g5's neighbours; it stands at 0x270. -/
def lived (s : State) : State := poke 0x270 8 0xFFFF00 (s.onSp fun p => { p with lstb := 0x240, lstn := 4 })

theorem witness_AwaitAndYield :
    (∀ s ∈ [lived (celled 1 base), lived (signalled (celled 1 base))], ∃ e key, HasLiveSet s 3 e key ∧ liveAcc e = false) ∧
    (let s := lived (signalled (celled 1 base))
     s.cur.pend = [] ∧ s.cur.handler = none ∧ s.cur.batch = none ∧ (s.flight = [] ∧ s.core.mx.queue = []) ∧ AtOnce s { g := [5] } true ∧
       (hGen (s.rg 5) = 0 ∨ hPrefix (s.rg 5) = hPrefix s.cur.sp.self) ∧ s.core.status (s.rg 5) ≠ 1 ∧ AtOnce s {} true ∧ s.core.rlog = false ∧
       s.core.replay = false ∧ s.core.images.all (fun i => !i.runnable) = true) ∧
    (let s := lived (celled 1 base)
     AtOnce s { g := [5] } false ∧ s.core.status (s.rg 5) = 1 ∧ s.cur.pend = [] ∧ (s.flight = [] ∧ s.core.mx.queue = [])) := by
  refine ⟨fun s hs => ?_, ⟨by decide +kernel, by decide +kernel, by decide +kernel, by decide +kernel, atOnce_of (by decide +kernel), by decide +kernel,
    by decide +kernel, atOnce_of (by decide +kernel), by decide +kernel, by decide +kernel, by decide +kernel⟩,
    atOnce_of (by decide +kernel), by decide +kernel, by decide +kernel, by decide +kernel⟩
  refine ⟨0xFFFF00, 0x270, hasLiveSet_of ?_, by decide⟩
  simp only [List.mem_cons, List.not_mem_nil, or_false] at hs
  rcases hs with rfl | rfl <;> decide +kernel

theorem witness_SpawnAndExit :
    let s := regs [(5, 0x100200), (6, 1)] base
    let full := s.onFocus fun c => { c with cclimit := 1, basin := 0, images := [{ c.cur with num := 1 }.image 1024 .ready .go 0] }
    s.cur.handler = none ∧ AtOnce s { g := [5, 6] } true ∧ (s.rg 5).extractLsb' 0 2 = 0 ∧ s.core.freeNum = some 1 ∧ (s.allocCell 0 1).isSome = true ∧
    AtOnce full { g := [5, 6] } false ∧ full.core.freeNum = none ∧ (s.rg 6).extractLsb' 0 2 ≠ 0 ∧
    AtOnce s { holds := fun r => r.exitBlocked r.cur } true ∧ s.cur.pend = [] ∧
    (s.flight = [] ∧ s.core.mx.queue = [] ∧ s.exitBlocked s.cur = false) :=
  ⟨by decide +kernel, atOnce_of (by decide +kernel), by decide +kernel, by decide +kernel, by decide +kernel, atOnce_of (by decide +kernel),
    by decide +kernel, by decide +kernel, atOnce_of (by decide +kernel), by decide +kernel, by decide +kernel⟩

/-- g5 points into the scratchpad of core 3. -/
def hopper (p : Nat) : State := lived (regs [(5, p), (6, 3)] base)

theorem witness_HopDepositSelf :
    let s := hopper (0xC * 2 ^ 52)
    let o := hopper (0xD * 2 ^ 52 + 3 * 2 ^ 41)
    let e : BitVec 128 := 0xFFFF00
    AtOnce s { g := [5, 6] } true ∧ s.cur.pend = [] ∧ (s.flight = [] ∧ s.core.mx.queue = [] ∧ s.cur.handler = none) ∧ s.cur.batch = none ∧ HasLiveSet s 3 e 0x270 ∧
    (popCount (liveG e) ≤ 16 ∧ liveV e = 0 ∧ liveM e = 0 ∧ liveC e = 0 ∧ liveAcc e = false) ∧ s.cur.vf.xm = 0 ∧ s.cur.vf.fltm = 0 ∧
    region (addrOf (s.rg 5)) = 12 ∧
    AtOnce o { g := [5, 6] } false ∧ HasLiveSet o 3 e 0x270 ∧ region (addrOf (o.rg 5)) = 13 ∧ o.scratchAt o.agent (addrOf (o.rg 5)) 1 ≠ none ∧
    o.pkg.links = [] ∧ (o.opened (liveAddr o 3) 0x270 16).hopStatus (addrOf (o.rg 5)) = .inr 3 ∧
    isDepositReg 24 = true ∧ isDepositReg 5 = false ∧ AtOnce s {} true ∧ AtOnce s { g := [5] } true :=
  ⟨atOnce_of (by decide +kernel), by decide +kernel, by decide +kernel, by decide +kernel, hasLiveSet_of (by decide +kernel), by decide, by decide +kernel,
    by decide +kernel, by decide +kernel, atOnce_of (by decide +kernel), hasLiveSet_of (by decide +kernel), by decide +kernel, by decide +kernel,
    by decide +kernel, by decide +kernel, by decide, by decide, atOnce_of (by decide +kernel), atOnce_of (by decide +kernel)⟩
theorem witness_ChainWords :
    let s := launched id (two 33 4 base)
    let j := s.cur.itemIx
    (s.orderedOf s.cur = some lau ∧ (lau.item j).isSome = true) ∧ AtOnce s { g := [16], holds := fun r => r.pubWaits 16 } true ∧ lau.carries 16 = true ∧
    (lau.item j).map (·.closed) = some false ∧ lau.pub j 16 = none ∧ lau.slotFree j 16 = true ∧
    AtOnce s { holds := State.cadvWaits, glate := s.cadvReads } true ∧
    ((lau.unpublished j).all fun r => lau.slotFree j r) = true ∧ AtOnce s { g := [5], holds := fun r => r.cxqWaits (r.rg 5) } true ∧ s.rg 5 = BitVec.ofNat 64 (16 * 2 + 1) ∧ lau.carries 17 = true ∧
    (let t := launched (fun l => { l with itemStates := l.itemStates.map fun i => { i with closed := true } }) (two 16 48 base)
     (t.orderedOf t.cur).map (fun l => (l.item t.cur.itemIx).map (·.closed)) = some (some true) ∧ t.rg 5 = BitVec.ofNat 64 16 ∧
       t.rg 6 = BitVec.ofNat 64 48) ∧
    (base.orderedOf base.cur = none ∧ AtOnce base {} true) ∧
    (∀ a ∈ [0, 1, 2, 3, 4, 5], atOnceOk (launched id (two a 0 base)) { g := [5] } true = true) ∧
    (s.cur.launch.bind s.launchOf = some lau ∧ lau.ordered = true ∧ lau.earlyExit = none) ∧
    (let t := launched (fun l => { l with earlyExit := some 5 }) base
     (t.cur.launch.bind t.launchOf).map (·.earlyExit) = some (some 5)) :=
  ⟨by decide +kernel, atOnce_of (by decide +kernel), by decide +kernel, by decide +kernel, by decide +kernel, by decide +kernel, atOnce_of (by decide +kernel),
    by decide +kernel, atOnce_of (by decide +kernel), by decide +kernel, by decide +kernel, by decide +kernel, ⟨by decide +kernel, atOnce_of (by decide +kernel)⟩,
    by decide +kernel, by decide +kernel, by decide +kernel⟩

theorem witness_AccountingWords :
    (∀ x ∈ [0, 15, 16, 256, 271, 272], atOnceOk (two x 0 base) { g := [5] } true = true) ∧ AtOnce (two 3 0 base) { g := [5] } false ∧
    (let s := two (2 ^ 63 + 10) 0 base
     AtOnce s { priv := true, g := [5] } false ∧ s.fieldsOk 0x813 (s.rg 5) = true ∧ 10 ≤ ((s.rg 5).extractLsb' 0 5).toNat ∧
       ((s.rg 5).extractLsb' 0 5).toNat ≤ 24 ∧ (s.rg 5).getLsbD 63 = true ∧ s.core.lost = Vector.replicate 16 0 ∧
       ({ s.core with acctctl := acctctlAfter s.core.acctctl (s.rg 5) } : Core).ringFull = false) :=
  ⟨by decide +kernel, atOnce_of (by decide +kernel), atOnce_of (by decide +kernel), by decide +kernel⟩

def boundIn (s : State) : State := s.onCur fun t => { t with bindings := [⟨5, false, 0x10, 32, 0x240, 0, 8, 8, true, 0, 0, 0, [], []⟩, ⟨6, true, 0x10, 32, 0x240, 0, 8, 8, true, 0, 0, 0, [], []⟩] }

theorem witness_StreamWords :
    (∀ y ∈ [8, 2 ^ 63 + 8],
      let s := two 0x240 y base
      atOnceOk s { g := [5, 6], vnew := [7] } true = true ∧ s.plainTag (s.rg 5) 0 = true ∧
        s.bindCheck (if (s.rg 6).getLsbD 63 then .write else .read) (addrOf (s.rg 5)) (elAlign (memWidth s.vt)) (ceilDiv (8 * memWidth s.vt) 8) = none ∧
        s.cur.bindings = [] ∧ (s.rg 6).extractLsb' 32 31 = 0 ∧ s.core.channels < 8) ∧
    (let s := boundIn (two 0x240 8 base)
     AtOnce s { g := [5, 6], vnew := [5] } false ∧ s.cur.bindings.any (·.reg == 5) = true ∧ AtOnce s { vref := [6] } true ∧ s.cur.binding 7 = none ∧
       (s.cur.binding 6).map (fun x => (x.drains, x.failed)) = some (0, 0) ∧ (s.cur.binding 5).isSome = true ∧ (s.allocCell 1 1).isSome = true) ∧
    (let s := (two 0x240 8 base).onSp fun p => { p with vl := 0 }
     AtOnce s { g := [5, 6], vnew := [7] } true ∧ min s.vl 8 = 0) ∧
    (let s := (two 0x240 8 base).onCur fun t =>
      { t with bindings := [1, 2, 3, 4].map fun r => ⟨r, false, 0x10, 32, 0x240, 0, 8, 8, true, 0, 0, 0, [], []⟩ }
     AtOnce s { g := [5, 6], vnew := [7] } true ∧ 4 ≤ s.cur.bindings.length) ∧
    (∀ y ∈ [0, 2 ^ 32 + 8], let s := two 0x240 y base
      atOnceOk s { g := [5, 6], vnew := [7] } true = true ∧ (y = 0 ∨ (s.rg 6).extractLsb' 32 31 ≠ 0) ∧
        s.bindCheck .read (addrOf (s.rg 5)) (elAlign (memWidth s.vt)) (ceilDiv (y % 2 ^ 32 * memWidth s.vt) 8) = none) ∧
    (let s := (two 0x240 8 base).onCur fun t => { t with bindings := [⟨6, true, 0x10, 32, 0x240, 0, 8, 8, true, 2, 0, 0, [], []⟩] }
     AtOnce s { vref := [6] } true ∧ (s.cur.binding 6).map (fun x => x.drains) = some 2) :=
  ⟨by decide +kernel, ⟨atOnce_of (by decide +kernel), by decide +kernel, atOnce_of (by decide +kernel), by decide +kernel, by decide +kernel,
    by decide +kernel, by decide +kernel⟩, ⟨atOnce_of (by decide +kernel), by decide +kernel⟩, ⟨atOnce_of (by decide +kernel), by decide +kernel⟩,
    by decide +kernel, atOnce_of (by decide +kernel), by decide +kernel⟩

def ganged : State :=
  { (two 2 4 base).onSp fun p => { p with gangsz := 2, vrows := 64, vl := 2048 } with others := [{ base.core with cid := 1, gangHead := some 0, running := false }] }

/-- Every core of the cluster runs a strand. -/
def crowded : State := { two 2 4 base with others := (List.range 15).map fun n => { base.core with cid := n + 1 } }

theorem witness_BarrierAndGang :
    let s := two 3 65535 base
    (barOf (s.rg 5) = some (0, 3) ∧ s.barGranted s.cur.launch 0 3 = true ∧ (s.rg 6).toNat = 65535 ∧ (s.allocCell 2 1).isSome = true) ∧
    AtOnce s { g := [5, 6] } true ∧ AtOnce (two 3 0 base) { g := [5, 6] } false ∧ AtOnce (two 3 65536 base) { g := [5, 6] } false ∧
    AtOnce s { g := [5] } true ∧ barOf ((two 3 65535 base).rg 6) = none ∧ barOf 0x240 = none ∧
    (∀ x ∈ [2, 16], let t := two x 1 base; atOnceOk t { g := [5] } true = true ∧ (t.rg 5).toNat = x ∧ t.cur.sp.gangsz ≤ 1 ∧
      ((blockOf t.core.cid x).all fun c => t.coreFree c) = true) ∧
    (crowded.cur.sp.gangsz ≤ 1 ∧ atOnceOk crowded { g := [5] } true = true ∧
      ∀ g ∈ [2, 4, 8, 16], ∃ c ∈ blockOf crowded.core.cid g, crowded.coreFree c = false) ∧
    (let t := { two 4 1 base with others := [{ base.core with cid := 2 }] }
     atOnceOk t { g := [5] } true = true ∧ ((blockOf t.core.cid 2).all fun c => t.coreFree c) = true ∧ ∃ c ∈ blockOf t.core.cid 4, t.coreFree c = false) ∧
    AtOnce ganged { g := [5] } true ∧ 1 < ganged.cur.sp.gangsz ∧ AtOnce ganged {} true ∧ AtOnce s {} true :=
  ⟨by decide +kernel, atOnce_of (by decide +kernel), atOnce_of (by decide +kernel), atOnce_of (by decide +kernel), atOnce_of (by decide +kernel),
    by decide +kernel, by decide +kernel, by decide +kernel, by decide +kernel, by decide +kernel, atOnce_of (by decide +kernel), by decide +kernel,
    atOnce_of (by decide +kernel), atOnce_of (by decide +kernel)⟩

def shaped (r b : Nat) (s : State) : State :=
  s.onSp fun p => { p with grows := BitVec.ofNat 64 r, growb := BitVec.ofNat 64 b, gsstr := BitVec.ofNat 64 b, gdstr := BitVec.ofNat 64 b, gmcast := 6 }

def copyLegal (s : State) (c : Copy) : Bool := (c.runs.all fun r => !runAccess r.2 c.bytes && (s.runBound c.agent r.1 r.2 c.bytes).isNone)

theorem copyLegal_spec {s : State} {c : Copy} (h : copyLegal s c = true) :
    (c.runs.any fun r => runAccess r.2 c.bytes) = false ∧ ∀ r ∈ c.runs, s.runBound c.agent r.1 r.2 c.bytes = none := by
  simp only [copyLegal, List.all_eq_true, Bool.and_eq_true, Bool.not_eq_true', Option.isNone_iff_eq_none] at h
  exact ⟨List.any_eq_false.mpr fun r hr => by simp [(h r hr).1], fun r hr => (h r hr).2⟩

theorem witness_CopyWords :
    (∀ x ∈ [2 ^ 32 + 1, 2 ^ 24 * 2 ^ 32 + 65536, 2 ^ 32, 1, (2 ^ 24 + 1) * 2 ^ 32 + 1], atOnceOk (two x 8 base) { g := [5, 6] } true = true) ∧
    (let s := shaped 2 16 (two 0x240 (pad + 0x100) base)
     AtOnce s { g := [5, 6] } true ∧ s.cur.sp.shapeOk = true ∧ s.core.copies < 1024 ∧ (s.allocCell 1 1).isSome = true ∧
       copyLegal s (s.newCopy .copy (s.rg 5) (s.rg 6)) = true ∧
       copyLegal s (s.newCopy (.multicast (s.cur.sp.gmcast.extractLsb' 0 16)) (s.rg 5) (s.rg 6)) = true ∧ s.cur.sp.gmcast.extractLsb' 0 16 ≠ 0 ∧
       region (addrOf (s.rg 6)) = 13 ∧ copyLegal s (s.newCopy (.fill (s.rg 5)) (s.rg 5) (s.rg 6)) = true) ∧
    (let s := shaped 2 16 (two (0x80 * 2 ^ 56 + 0x240) (pad + 0x100) base)
     let rd := s.newCopy (.reduce (ptrFmt (s.rg 5))) (s.rg 5) (s.rg 6)
     AtOnce s { g := [5, 6] } true ∧ copyLegal s rd = true ∧ redTags (s.rg 5) (s.rg 6) = true ∧ rd.aligned (addSize (ptrFmt (s.rg 5))) = true) ∧
    (let s := (shaped 2 16 (two 0x240 (256 * 2 + 2) base)).onMx fun m => m.setRing 2 { base := 0x00D3FE0000001000, tag := 0x80, depth := 4, head := 0, tail := 1, owner := none }
     AtOnce s { g := [5, 6] } true ∧ copyLegal s (s.ringCopy (s.rg 5) 2 2 (s.mx.ring 2)) = true ∧ s.rg 6 = BitVec.ofNat 64 (256 * 2 + 2) ∧
       s.matrixHeld = false ∧ s.ringOther 2 = false ∧ (s.mx.ring 2).depth = 4 ∧ (s.mx.ring 2).occupancy = 1) ∧
    (base.cur.sp.shapeOk = false ∧ atOnceOk (two 1 2 base) { g := [5, 6] } false = true) ∧ AtOnce base {} true :=
  ⟨by decide +kernel, ⟨atOnce_of (by decide +kernel), by decide +kernel⟩, ⟨atOnce_of (by decide +kernel), by decide +kernel⟩,
    ⟨atOnce_of (by decide +kernel), by decide +kernel⟩, by decide +kernel, atOnce_of (by decide +kernel)⟩
/-- A slot of the own die, opened: its handle is in g6; g5 and g7 are as given. -/
def opened (a c : Nat) : State :=
  let r := base.serveSs 0 (base.ssRequest .opn 0 0 0 (BitVec.ofNat 128 (0x400 + 64 * 2 ^ 64 + 4 * 2 ^ 120)))
  match r.1 with
  | .reply v => regs [(5, a), (6, v.toNat), (7, c)] r.2
  | _ => base

/-- The slot with one snapshot, at position 5. -/
def committed (s : State) : State := (s.serveSs 0 (s.ssRequest .cm 0x800 (s.rg 6) 5 0)).2
def pinnedSnap (s : State) : State := (s.serveSs 0 (s.ssRequest .pin 0 (s.rg 6) (BitVec.allOnes 64) 0)).2

def replies (r : SsAnswer × State) : Bool := match r.1 with
  | .reply _ => r.2.cur.pend.isEmpty
  | _ => false

theorem witness_MoraineWords :
    let s := opened 0x800 9
    s.core.posted = false ∧ s.core.reply = .none ∧ AtOnce s { g := [6, 7, 5] } true ∧ AtOnce s { g := [6, 7] } true ∧ AtOnce s { g := [6] } true ∧
    ssDie (s.rg 6) = 0 ∧ (s.dieAt 0).ssOps.length < 1024 ∧ (s.dieAt 0).ssQueue = [] ∧ (s.core.firstFree Config.faultCells 0).isSome = true ∧
    (∀ f ∈ ([.cm, .roll, .pin, .unpin, .query, .close] : List SsFn), replies (s.serveSs 0 (s.ssRequest f (s.rg 5) (s.rg 6) (s.rg 7) 0)) = true) ∧
    replies ((opened 0x801 9).serveSs 0 ((opened 0x801 9).ssRequest .cm 0x801 ((opened 0x801 9).rg 6) 9 0)) = false ∧
    (let t := committed s; replies (t.serveSs 0 (t.ssRequest .ld 0x800 (t.rg 6) 5 0)) = true) :=
  ⟨by decide +kernel, by decide +kernel, atOnce_of (by decide +kernel), atOnce_of (by decide +kernel), atOnce_of (by decide +kernel), by decide +kernel,
    by decide +kernel, by decide +kernel, by decide +kernel, by decide +kernel, by decide +kernel, by decide +kernel⟩

theorem witness_MoraineWords_open :
    let s := poke 0x300 16 (0x400 + 64 * 2 ^ 64 + 4 * 2 ^ 120) (two 0x300 0 base)
    let o := s.opened 0x300 0x300 16
    AtOnce s { g := [5] } true ∧ Reaches s .read 16 false (s.rg 5) 0x300 ∧ s.sound (addrOf (s.rg 5)) 0x300 16 ∧ (o.dieAt 0).ssOps.length < 1024 ∧
    (o.dieAt 0).ssQueue = [] ∧ replies (o.serveSs 0 (o.ssRequest .opn 0 0 0 (BitVec.ofNat 128 (Memory.getN o.mem 0x300 16)))) = true :=
  ⟨atOnce_of (by decide +kernel), reaches_of (by decide +kernel), show State.badAt _ _ _ = none by decide +kernel, by decide +kernel, by decide +kernel,
    by decide +kernel⟩

theorem witness_MoraineAnswers :
    (slotDesc (BitVec.ofNat 128 (0x400 + 64 * 2 ^ 64 + 4 * 2 ^ 120))).isSome = true ∧ (base.dieAt 0).freeSlots.head? = some 0 ∧
    base.current (base.ssRequest .roll 0 5 0 0).ptroot 5 = none ∧
    (let s := committed (opened 0x800 9)
     let cur := (s.current (s.ssRequest .roll 0 (s.rg 6) 0 0).ptroot (s.rg 6))
     cur.isSome = true ∧ cur.map (fun m => (m.at 7).isNone) = some true ∧ cur.map (fun m => m.newest.map fun x => x.pos) = some (some 5) ∧
       cur.map (fun m => m.forks.all (· == 0)) = some true) ∧
    (let s := pinnedSnap (committed (opened 0x800 9))
     (s.current (s.ssRequest .unpin 0 (s.rg 6) 5 0).ptroot (s.rg 6)).map (fun m => (m.at 5).map (·.pins)) = some (some 1)) := by
  decide +kernel

/-- A second slot of the same shape, empty, its handle in g5, beside the slot of g6 with its snapshot at position 5. -/
def openedTwice : State :=
  let s := committed (opened 0x800 9)
  let r := s.serveSs 0 (s.ssRequest .opn 0 0 0 (BitVec.ofNat 128 (0x800 + 64 * 2 ^ 64 + 4 * 2 ^ 120)))
  match r.1 with
  | .reply v => regs [(5, v.toNat), (6, (s.rg 6).toNat), (7, 9)] r.2
  | _ => base

theorem witness_MoraineAnswers_accepted :
    let s := openedTwice
    let r := s.ssRequest .fork (s.rg 5) (s.rg 6) (BitVec.allOnes 64) 0
    let ag : Agent := ⟨r.core, r.launch, r.ptroot, r.priv⟩
    ((s.coreOf r.core).alloc s.node 0 Config.faultCells 6 1 r.strand).isSome = true ∧
    (s.current r.ptroot r.x).map (fun m => (m.newest.map (fun x => (x.pos, x.lender)), (m.at 5).map (·.pos), m.size)) = some (some (5, none), some 5, 64) ∧
    (runAccess 0x800 64 = false ∧ s.runBound ag .write 0x800 64 = none ∧ s.runBound ag .read 0x800 64 = none) ∧
    (s.current r.ptroot r.x).map (fun m => match m.choose with
      | .inr b => decide (b < m.depth)
      | .inl _ => false) = some true ∧
    (s.current r.ptroot r.x).map (fun m => (m.forks.all (· == 0), m.table.all fun z => decide (¬5 < z.pos))) = some (true, true) ∧
    (s.current r.ptroot r.d).map (fun k => (k.size, k.table)) = some (64, []) ∧ ssDie r.d = 0 ∧ ((s.dieAt 0).slot (ssSlot r.x)).forkCount 0 < 255 := by
  decide +kernel

/-- Slot 0 of die 0 with a fork of it open. -/
def forked : State := let s := committed (opened 0x800 9); s.onDie 0 fun d => d.setSlot 0 { d.slot 0 with forks := [1, 0, 0, 0] }

theorem witness_MoraineAnswers_forks :
    (forked.current (forked.ssRequest .close 0 (forked.rg 6) 0 0).ptroot (forked.rg 6)).map (fun m => m.forks.any (· != 0)) = some true := by
  decide +kernel

/-- Queue 2 is enabled in the address space of `base`; the queue table stands at 0x400000. -/
def queued (s : State) : State :=
  { s.onPkg fun p => { p with qtbase := 2 ^ 63 + 0x400000 } with
    mem := Memory.putN s.mem (0x400000 + 32) 16 ((2 ^ 63 + 7 * 2 ^ 60) * 2 ^ 64 + 0x8000) }

theorem witness_LaunchWords :
    (∀ q ∈ [2, 16383, 16384], let s := queued (two 0x300 q base)
      atOnceOk s { g := [5, 6] } true = true ∧ s.cur.handler = none ∧ region (addrOf (s.rg 5)) < 14 ∧ addrOf (s.rg 5) % 64 = 0 ∧
        s.locate s.agent .read (addrOf (s.rg 5)) 64 = .at (.here 0x300)) ∧
    (queued (two 0x300 2 base)).sound 0x300 0x300 64 ∧ (queued base).queueEn 2 = true ∧ (queued base).queueEn 3 = false ∧
    AtOnce (two 2 0 base) { priv := true, g := [5] } true ∧
    ((two 2 0 base).fieldsOk 0x872 2 = true ∧ reservedValue 0x872 2 = false) ∧ ((two 2 0 base).fieldsOk 0x8B2 2 = true ∧ reservedValue 0x8B2 2 = false) ∧
    ((two 2 0 base).netReload 2).cur.pend = [] :=
  ⟨by decide +kernel, show State.badAt _ _ _ = none by decide +kernel, by decide +kernel, by decide +kernel, atOnce_of (by decide +kernel), by decide +kernel,
    by decide +kernel, by decide +kernel⟩

/-! ### Vector state -/

/-- Every vector register holds the same `rows`, in a shape; every mask register but m0 is `m`. -/
def vec (t : BitVec 5) (rows cols vl : Nat) (v : Nat) (s : State) : State :=
  s.onCur fun c => { c with
    vdead := 0, mdead := 0, cdead := 0
    sp := { c.sp with vtype := t, vrows := rows, vcols := cols, vl := vl }
    vf := { c.vf with
      v := Vector.replicate 32 { data := BitVec.ofNat 32768 v, valid := 32, dirty := 0, band := 0x3F80, poison := 0, origin := 0, pitch := 0 }
      m := (Vector.replicate 16 (BitVec.ofNat 8192 0x5)).set 0 0 } }

/-- Elements below `k` in 2 rows of 4 containers of 32 bits. -/
def words (l : List Nat) : Nat := (List.range 2).foldl (fun x r => x + (List.range 4).foldl (fun x c => x + (l[r * 4 + c]?).getD 0 * 2 ^ (r * 1024 + c * 32)) 0) 0

theorem witness_VectorIntegerResults :
    (∀ t ∈ [1, 2, 3, 4, 5, 6, 7, 8, 9, 10], let s := vec t 2 4 7 0x0102030405060708 base
      isIntType s.vt = true ∧ s.vcols * max s.vw s.vw ≤ 1024 ∧ s.badElems 1 s.vw (s.active 3) = [] ∧ s.fpTrap ((s.active 3).map fun j => s.raisedAt j 0) = none ∧
        issuesOk s (vuse [] [1, 2, 4] [4] [3]) true = true ∧ issuesOk s (vuse [7] [1, 4] [4] [0]) false = true) ∧
    (let s := vec 3 2 4 7 0x0102030405060708 base
     s.vw * 2 = 32 ∧ s.vcols % 2 = 0 ∧ s.badElems 4 32 [0, 1, 2, 4, 5] = []) ∧
    (let s := vec 1 2 4 7 0x0102030405060708 base
     s.vw * 4 = 32 ∧ s.vcols % 4 = 0 ∧ 8 ≤ s.vw ∧ s.vw ≤ 32) ∧
    isType (vec 0x13 2 4 7 0 base).vt = true := by
  decide +kernel

theorem witness_VectorIntegerResults_saturating :
    let s := vec 1 2 4 7 0x7F80 base
    s.eltOf 1 1 0 = 0x80 ∧ s.eltOf 1 1 1 = 0x7F ∧ s.fpTrap ((s.active 0).map fun j => s.raisedAt j fSAT) = none := by
  decide +kernel

theorem witness_VectorFloatResults :
    (∀ t ∈ [0x10, 0x11, 0x12], let s := vec t 2 4 7 (words [0x3F800000, 0xBF800000, 0, 0x80000000, 0x7F800000, 0xFF800000, 0x7FC00000, 1]) base
      isWideFp s.vt = true ∧ issuesOk s (vuse [] [1, 2] [4] [3]) true = true ∧ issuesOk s (vuse [7] [1] [4] [0]) true = true ∧ s.vcols * max s.vw s.vw ≤ 1024 ∧
        s.badElems 1 s.vw (s.active 0) = [] ∧ s.fpTrap ((s.active 0).map fun j => s.raisedAt j (fNV ||| fNX ||| fDZ)) = none) ∧
    (let s := vec 0x13 2 4 7 0x3C3C3C3C base
     issuesOk s (vuse [] [1] [4] [0]) true = true ∧ s.vcols * max (width 0x10) s.vw ≤ 1024 ∧ s.cvtTagOk 0x10 none = true ∧ s.vt ≠ 0x10 ∧ isIntType s.vt = false ∧
       s.badElems 1 32 (s.active 0) = [] ∧ memWidth s.vt < memWidth 0x10 ∧ ¬memWidth s.vt < memWidth 0x14) := by
  decide +kernel

/-- Zero, the least subnormal, one and the greatest finite value are values of the formats. -/
theorem witness_RoundingKeepsValues :
    ∀ p ∈ [(fp32, 0), (fp32, 1), (fp32, 0x7F7FFFFF), (fp32, 0xFF7FFFFF), (bf16, 0x8001), (bf16, 0x3F80), (fp16, 0x7BFF), (fp16, 0x0400)],
      p.2 < 2 ^ (1 + p.1.e + p.1.m) ∧ (match p.1.decode p.2 with
        | .fin _ _ _ => true
        | _ => false) = true := by
  decide +kernel

theorem witness_VectorCompareResults :
    ∀ t ∈ [1, 5, 10, 0x10, 0x11, 0x12, 0x17], let s := vec t 2 4 7 (words [0x3F800000, 0x7FC00000, 0x7F800001, 1]) base
      isType s.vt = true ∧ issuesOk s (vuse [] [1, 2] [] [3]) true = true ∧ issuesOk s (vuse [5] [1] [] [0]) true = true ∧
        s.badElems 1 s.vw (s.active 0) = [] ∧ s.badElems 2 s.vw (s.active 0) = [] ∧ s.fpTrap ((s.active 0).map fun j => s.raisedAt j fNV) = none := by
  decide +kernel

theorem witness_VectorMoveResults :
    let s := vec 5 2 4 7 (words [4, 0, 9, 2, 1, 7, 3, 6]) (two 7 8 base)
    isType s.vt = true ∧ isIntType s.vt = true ∧
    (∀ u ∈ [vuse [] [1] [4] [3], vuse [5] [] [4] [0], vuse [5] [1] [] [], vuse [6, 5] [] [4] [], vuse [5, 6] [] [4] [], vuse [] [1, 2] [4] [3], vuse [] [] [4] [0], vuse [5] [1] [4] [3]],
      issuesOk s u true = true) ∧
    (s.rg 5).toNat < s.vrows * s.vcols ∧ s.vrows * s.vcols ≤ (s.rg 6).toNat ∧ s.badElems 1 s.vw (List.range 8) = [] ∧ s.cur.sp.gangsz ≤ 1 ∧ s.vcols ≤ 32 ∧
    s.vrows ≤ 1024 / s.vw ∧ s.vl ≤ s.vrows * s.vcols ∧ s.eltOf 5 1 0 < s.vl ∧ s.vl ≤ s.eltOf 5 1 2 ∧
    (let g := s.onSp fun p => { p with gangsz := 2 }
     1 < g.cur.sp.gangsz ∧ ∀ u ∈ [vuse [5] [1] [4] [3], vuse [] [1, 2] [4] [3], vuse [] [1] [4] [3]], atOnceOk g u true = true) := by
  decide +kernel

theorem witness_ReductionResults :
    ∀ t ∈ [1, 5, 9, 0x10, 0x11, 0x12], let s := vec t 2 4 7 (words [0x3F800000, 0xBF800000, 0x40000000, 0x7F7FFFFF, 1, 0, 2, 3]) base
      isType s.vt = true ∧ issuesOk s (vuse [] [1] [4] [3]) true = true ∧ s.badElems 1 s.vw (s.active 3) = [] ∧
        s.fpTrap [rowRaised 0 (fNV ||| fNX), rowRaised 1 fNX] = none := by
  decide +kernel

theorem witness_SoftmaxResults :
    let s := vec 0x10 2 4 7 (words [0x3F800000, 0x3F800000, 0x40000000, 0x3F000000, 0x3F800000, 0x3F800000, 0, 0x3F800000]) (two 0x3F800000 0 base)
    let e := (vec 0x10 2 4 0 (words [0xFF800000, 0, 0, 0, 0xFF800000, 0, 0, 0]) base).onSp fun p => { p with xsel := 7 }
    s.vt = 0x10 ∧ issuesOk s (vuse [5] [2, 1] [2, 1] [0]) true = true ∧ issuesOk s (vuse [] [2, 3, 4, 5] [2, 3] []) true = true ∧
    issuesOk s (vuse [] [2, 3] [4, 2] []) true = true ∧ s.cellPoison 32 (s.pairCells 2 ++ s.pairCells 4) = none ∧
    s.cellPoison 32 [(2, [(0, 0), (0, 1), (1, 0), (1, 1)]), (1, (s.active 0).map fun j => (j / s.vcols, j % s.vcols))] = none ∧
    s.fpTrap ((List.range 2).map fun i => rowRaised i (fNV ||| fNX)) = none ∧
    e.cur.sp.xsel.extractLsb' 0 4 = 7 ∧ e.cell 2 32 0 0 = negInf ∧ issuesOk e (vuse [] [2, 3] [4, 2] []) true = true := by
  decide +kernel

theorem witness_ShapeAndMaskWords :
    let s := vec 5 2 4 7 (words [4, 0, 9, 2]) (regs [(5, 40), (6, 100), (16, 0x240), (17, 0x300)] base)
    (∀ u ∈ [{ g := [5, 6] }, { g := [0, 6] }, vuse [] [] [] [3, 5], vuse [] [] [] [3], vuse [] [] [4] [3], vuse [] [] [] [], vuse [5] [] [] [],
        vuse [5, 6] [] [] [], { vuse [] [] [] [] with c := [3] }], issuesOk s u true = true) ∧
    isIntType s.vt = true ∧ AtOnce s { g := [5, 16, 17] } true ∧ (s.stripBits (s.rg 16)).isSome = true ∧ (s.stripBits (s.rg 17)).isSome = true ∧
    ((s.rg 6).extractLsb' 0 8 ≠ 0 ∧ scaleTagOk ((s.rg 6).extractLsb' 0 8) = false) ∧ scaleTagOk 0xC5 = true := by
  refine ⟨by decide +kernel, by decide +kernel, atOnce_of (by decide +kernel), by decide +kernel, by decide +kernel, by decide +kernel, by decide +kernel⟩

theorem witness_ElementsWritten :
    let s := vec 5 2 4 7 0 base
    s.cur.partners = [] ∧ s.cur.sp.gangsz ≤ 1 ∧ 0 < s.vcols ∧ 32 * s.vcols ≤ 1024 ∧ 256 * s.vcols ≤ 1024 ∧ (∀ e ∈ [(0, 5), (0, 2 ^ 40), (127, 1)], e.1 < 32 * s.vcols) := by
  decide +kernel
def blocks : State := vec 0x13 2 32 64 0x0102030405060708 (two (0xC5 * 2 ^ 56 + 0x400) 0 base)

/-- Elements of 32 bits whose values are offsets in words; g5 points at memory, g6 is a row stride. -/
def vmemS (p : Nat) : State := vec 0x10 2 4 7 (words [0, 4, 8, 12, 16, 20, 24, 28]) (two p 4 base)

theorem witness_VectorMemoryResults :
    let s := vmemS 0x240
    let flat := (s.active 0).map fun j => elAt 0x240 ((j * 32 : Nat) : Int) 32 j
    let rowed := (s.active 0).map fun j => elAt 0x240 (8 * ((j / 4 : Nat) : Int) * 4 + ((j % 4 * 32 : Nat) : Int)) 32 j
    let indexed := (s.active 0).map fun j => elAt 0x240 (8 * (BitVec.ofNat 32 (s.elt 2 32 j)).toInt) 32 j
    s.cur.masked = false ∧ AtOnce s { vuse [5] [] [4] [0] with pends := 1 } true ∧ s.plainTag (s.rg 5) 0 = true ∧ blockTag (s.rg 5) = false ∧
    s.elsHere .read (elAlign 32) flat ∧ ((s.openedEls .read flat |> fun r => flat.all fun y => (r.elBad s.agent y).isNone) = true) ∧
    AtOnce s { vuse [5, 6] [] [4] [0] with pends := 1 } true ∧ s.elsHere .read (elAlign 32) rowed ∧
    AtOnce s { vuse [5] [2] [4] [0] with pends := 1 } true ∧ memWidth s.vt = 32 ∧ s.vcols ≤ 32 ∧ s.badElems 2 32 (s.active 0) = [] ∧
    s.elsHere .read (elAlign 32) indexed ∧
    AtOnce s { vuse [5] [4] [] [0] with c := s.unitScale 5 0 } true ∧ s.elsHere .write (elAlign 32) flat ∧ s.badElems 4 s.vw (s.active 0) = [] ∧
    AtOnce s (vuse [5, 6] [4] [] [0]) true ∧ s.elsHere .write (elAlign 32) rowed ∧ AtOnce s (vuse [5] [4, 2] [] [0]) true ∧
    s.elsHere .write (elAlign 32) indexed ∧ addType s.vt = true ∧ s.elsHere .atomic (elAlign 32) indexed := by
  refine ⟨by decide +kernel, atOnce_of (by decide +kernel), by decide +kernel, by decide +kernel, elsHere_of (by decide +kernel), by decide +kernel,
    atOnce_of (by decide +kernel), elsHere_of (by decide +kernel), atOnce_of (by decide +kernel), by decide +kernel, by decide +kernel, by decide +kernel,
    elsHere_of (by decide +kernel), atOnce_of (by decide +kernel), elsHere_of (by decide +kernel), by decide +kernel, atOnce_of (by decide +kernel),
    elsHere_of (by decide +kernel), atOnce_of (by decide +kernel), elsHere_of (by decide +kernel), by decide +kernel, elsHere_of (by decide +kernel)⟩

/-- The last two elements of the scratchpad, and the first beyond it. -/
theorem witness_VectorMemoryResults_firstFault :
    let s := vmemS (pad + 393216 - 8)
    let flat := (s.active 0).map fun j => elAt (pad + 393216 - 8) ((j * 32 : Nat) : Int) 32 j
    AtOnce s { vuse [5] [] [4] [0] with pends := 1 } true ∧ s.plainTag (s.rg 5) 0 = true ∧ blockTag (s.rg 5) = false ∧
    (flat[2]?.map fun f => s.ffFaults s.agent f && decide (region f.va < 14) && f.va % elAlign 32 == 0) = some true ∧
    s.elsHere .read (elAlign 32) (flat.take 2) ∧ (∀ y ∈ flat.drop 2, region y.va < 14 ∧ y.va % elAlign 32 = 0) ∧
    ((s.openedEls .read (flat.take 2) |> fun r => (flat.take 2).all fun y => (r.elBad s.agent y).isNone) = true) := by
  refine ⟨atOnce_of (by decide +kernel), by decide +kernel, by decide +kernel, by decide +kernel, elsHere_of (by decide +kernel), by decide +kernel,
    by decide +kernel⟩

theorem witness_VectorMemoryResults_tile :
    let s := blocks
    let t : TileAt := { fmt := 0x18, blk := 5, h := 0, c0 := 0 }
    let l := s.tileElems t 0x400 (s.active 0)
    let h := s.tileHdrs t 0x400
    let w := s.tileStoreHdrs t 0x400 (s.active 0)
    let z := s.onCur fun c => { c with vf := { c.vf with c := c.vf.c.setIfInBounds 1 ⟨0, 0xC5⟩ } }
    AtOnce s { vuse (s.unitSrc 5 0) [] [4] [0] with pends := 1 } true ∧ blockTag (s.rg 5) = true ∧ addrOf (s.rg 5) % 64 = 0 ∧
    blockElem (ptrFmt (s.rg 5)) = some s.vt ∧ (s.tilePos (ptrFmt (s.rg 5)) (tagBlk (ptrTag (s.rg 5))) 0).isSome = true ∧
    (s.tilePos (ptrFmt (s.rg 5)) (tagBlk (ptrTag (s.rg 5))) 0).map (fun x => (x.fmt, x.blk, x.h, x.c0)) = some (t.fmt, t.blk, t.h, t.c0) ∧
    s.elsHere .read 1 (l ++ h) ∧ 0 < s.vcols ∧
    (s.openedEls .read (l ++ h) |> fun o => (l ++ t.hdrBytes 0x400 h).all fun y => (o.elBad s.agent y).isNone) = true ∧
    (s.openedEls .read (l ++ h) |> fun o => (o.fpTrap (l.map fun y => o.raisedAt y.j 63)).isNone) = true ∧ 1 < s.vrows ∧ 1 / 32 < s.files.length ∧
    AtOnce z { vuse (z.unitSrc 5 0) [4] [] [0] with c := z.unitScale 5 1 } true ∧ z.tagsPass 1 (· == ptrTag (z.rg 5)) = true ∧
    z.badElems 4 z.vw (z.active 0) = [] ∧ z.elsHere .write 1 (l ++ w) ∧
    (let y := vec 0x10 2 32 64 0 (two (0xC5 * 2 ^ 56 + 0x400) 0 base)
     AtOnce y { vuse (y.unitSrc 5 0) [] [4] [0] with pends := 1 } true ∧ y.vt = 0x10 ∧ (y.tilePos (ptrFmt (y.rg 5)) (tagBlk (ptrTag (y.rg 5))) 0).isSome = true) := by
  refine ⟨atOnce_of (by decide +kernel), by decide +kernel, by decide +kernel, by decide +kernel, by decide +kernel, by decide +kernel,
    elsHere_of (by decide +kernel), by decide +kernel, by decide +kernel, by decide +kernel, by decide +kernel, by decide +kernel,
    atOnce_of (by decide +kernel), by decide +kernel, by decide +kernel, elsHere_of (by decide +kernel), atOnce_of (by decide +kernel), by decide +kernel,
    by decide +kernel⟩

theorem witness_VectorMemoryResults_registers :
    let s := two 0x400 (0xC5 * 2 ^ 56 + 0x400) base
    let whole := s.regMoveEls 0x400
    s.elsHere .read 64 whole ∧ s.elsHere .write 64 whole ∧ ((s.openedEls .read whole |> fun r => whole.all fun y => (r.elBad s.agent y).isNone) = true) ∧
    AtOnce s { g := [5], md := [3], pends := 1 } true ∧ ptrTag (s.rg 5) = 0 ∧ AtOnce s { g := [6], pends := 1 } true ∧ blockTag (s.rg 6) = true ∧
    AtOnce s { g := [5], m := [3], vec := true } true ∧ AtOnce s { g := [5], c := [3], vec := true } true ∧
    (let z := s.onCur fun c => { c with vf := { c.vf with c := c.vf.c.setIfInBounds 3 ⟨0, 0xC5⟩ } }
     ptrTag (z.rg 6) = (z.cur.vf.getC 3).tag) := by
  refine ⟨elsHere_of (by decide +kernel), elsHere_of (by decide +kernel), by decide +kernel, atOnce_of (by decide +kernel), by decide +kernel,
    atOnce_of (by decide +kernel), by decide +kernel, atOnce_of (by decide +kernel), atOnce_of (by decide +kernel), by decide +kernel⟩

/-! ### The matrix unit -/

def ring (q : Nat) (own : Option Nat) (s : State) : State :=
  s.onMx fun m => m.setRing (BitVec.ofNat 3 q) { base := 0x00D3FE0000000000, tag := 8, depth := 4, head := 0, tail := 1, owner := own }

/-- Rings 1, 2 and 5 are set up, ring 2 by the strand itself. -/
def rings (s : State) : State := ring 1 none (ring 2 (some 0) (ring 5 none s))

def begun (s : State) : State := outOf (execMbeg false 7 s)

theorem witness_MatrixWords :
    let s := begun (rings (two (1 + 2 * 2 ^ 16) 4 base))
    let m := s.core.mx
    let free := fun o : Option Nat => decide (o = none ∨ o = some s.cur.num)
    s.matrixHeld = false ∧ s.cur.batch.isSome = true ∧ m.headTimes = none ∧ m.queue.length < 64 ∧ AtOnce s {} true ∧ AtOnce s { g := [5] } true ∧
    free (m.tile 3).owner = true ∧ free (m.ring 1).owner = true ∧ free (m.ring 2).owner = true ∧ s.rg 5 &&& ~~~0x3F073F07#64 = 0 ∧
    (m.classOf 1 2).isSome = true ∧ (m.ring 1).depth = 4 ∧ s.rg 6 ≠ 0 ∧ (s.rg 6).toNat ≤ (m.ring 2).depth ∧
    AtOnce s { g := [5], m := [3] } true ∧
    (m.classOf 1 2).map (fun c => decide (((List.range (2 * c.k)).filter fun i => ((s.cur.vf.getM 3).extractLsb' 0 512).getLsbD i).length ≤ c.k)) = some true := by
  refine ⟨by decide +kernel, by decide +kernel, none_of (by decide +kernel), by decide +kernel, atOnce_of (by decide +kernel), atOnce_of (by decide +kernel),
    by decide +kernel, by decide +kernel, by decide +kernel, by decide +kernel, by decide +kernel, by decide +kernel, by decide +kernel, by decide +kernel,
    atOnce_of (by decide +kernel), by decide +kernel⟩

theorem witness_MatrixWords_setup :
    let s := rings (two 0x240 3 (poke 0x248 8 (4 + 2 * 2 ^ 8) (poke 0x240 8 (8 * 2 ^ 56 + pad) base)))
    let e := BitVec.ofNat 128 (Memory.getN (s.opened 0x240 0x240 16).mem 0x240 16)
    s.cur.batch = none ∧ AtOnce s {} true ∧ (s.allocCell 4 1).isSome = true ∧ (s.core.mx.ring 2).owner = some s.cur.num ∧ s.core.mx.queue = [] ∧
    AtOnce s { g := [5] } true ∧ Reaches s .read 16 false (s.rg 5) 0x240 ∧ s.sound 0x240 0x240 16 ∧ ringDescOk e 2 s.core.cid = true ∧
    (s.opened 0x240 0x240 16).ringBound (e.extractLsb' 0 56).toNat (4 * ringTileBytes (e.extractLsb' 56 8)) = none ∧
    AtOnce s { g := [6] } true ∧ (s.core.mx.ring 2).depth = 4 ∧ (s.core.mx.ring 2).occupancy = 1 ∧ (s.rg 6).toNat = 3 := by
  refine ⟨by decide +kernel, atOnce_of (by decide +kernel), by decide +kernel, by decide +kernel, by decide +kernel, atOnce_of (by decide +kernel),
    reaches_of (by decide +kernel), show State.badAt _ _ _ = none by decide +kernel, by decide +kernel, by decide +kernel, atOnce_of (by decide +kernel),
    by decide +kernel, by decide +kernel, by decide +kernel⟩

theorem witness_MatrixWords_quadrants :
    let s := two 0x103 3 base
    AtOnce s { g := [5], vd := [4], vec := true } true ∧ s.rg 5 &&& ~~~0x103#64 = 0 ∧ (s.core.mx.tile 1).owner = none ∧ (s.core.mx.tile 1).poison = false ∧
    s.core.mx.queue = [] ∧ AtOnce s { g := [6], v := [4], vec := true } true ∧ s.rg 6 &&& ~~~3#64 = 0 ∧ (s.cur.vf.getV 4).badWords = [] := by
  refine ⟨atOnce_of (by decide +kernel), by decide +kernel, by decide +kernel, by decide +kernel, by decide +kernel, atOnce_of (by decide +kernel),
    by decide +kernel, by decide +kernel⟩

theorem witness_MatrixWords_remote :
    (∀ x ∈ [383, 3 + 2 * 2 ^ 16 + 7 * 2 ^ 32], atOnceOk (two x 0 base) { g := [5, 6, 7] } true = true) ∧ (payloadOp 0x16022280).isSome = true ∧
    (base.allocCell 4 1).isSome = true ∧
    (let x := BitVec.ofNat 64 (3 + 2 * 2 ^ 16 + 7 * 2 ^ 32)
     x &&& ~~~0x1FF007F01FF#64 = 0 ∧ (x.extractLsb' 16 7).toNat + 1 = 3 ∧ (x.extractLsb' 32 9).toNat = 7 ∧ (x.extractLsb' 0 9).toNat = 3) ∧
    (base.allocCell 7 3).isSome = true := by
  decide +kernel

/-- A handler that has saved the units, with an image in the scratchpad, which holds zeros. -/
def saver (saved : Bool) : State :=
  { (regs [(5, pad)] base).onCur fun t => { t with handler := some ⟨0, 1, false, saved, saved, true⟩, sp := { t.sp with traprec := 0x300000 } } with mem := [] }

theorem getN_nil (k n : Nat) : Memory.getN [] k n = 0 := by
  induction n generalizing k with
  | zero => rfl
  | succ n ih => simp [Memory.getN, ih, Memory.get]

theorem touch_quiet {s : State} (hf : s.flight = []) (hd : (s.dies.toList.all fun d => d.detred.isEmpty) = true) (k n : Nat) :
    s.touch k n = s := by
  have h : s.arriveReduces (fun l => decide (k / 64 ≤ l) && decide (l ≤ (k + n - 1) / 64)) = s := by simp [State.arriveReduces, hf]
  simp only [State.touch, State.drainLines, h, hd, if_true]

theorem readPieces_zero {s : State} {a : Agent} (hf : s.flight = []) (hd : (s.dies.toList.all fun d => d.detred.isEmpty) = true)
    (hp : s.poison = []) (hu : s.ue = []) (hm : s.mem = []) (ps : List (Nat × Nat))
    (h : (ps.all fun p => !isGlobal p.1 && isHere (s.locate a .read p.1 p.2)) = true) (sh : Nat) (body : Nat → State → Res) :
    s.readPieces a ps sh 0 body = body 0 s := by
  induction ps generalizing sh with
  | nil => rfl
  | cons p rest ih =>
    obtain ⟨va, n⟩ := p
    simp only [List.all_cons, Bool.and_eq_true, Bool.not_eq_true'] at h
    obtain ⟨k, hk⟩ := isHere_of h.1.2
    have hc : s.cacheFor a va = s := by simp [State.cacheFor, h.1.1]
    have ht : s.homeTouch (.here k) n = s := touch_quiet hf hd k n
    have hb : s.homeBad (.here k) n = none := by simp [State.homeBad, State.badAt, hp, hu]
    have hl : s.homeLoad (.here k) n = 0 := by simp only [State.homeLoad, hm]; exact getN_nil k n
    rw [State.readPieces]
    simp only [hk, hc, ht, hb, hl, Nat.zero_mul, Nat.add_zero]
    exact ih h.2 _

def isGo : VAcc → Bool
  | .go => true
  | _ => false

theorem isGo_of {v : VAcc} (h : isGo v = true) : v = .go := by
  cases v <;> first | rfl | cases h

theorem saver_reads (body : Nat → State → Res) : (saver true).readDesc pad 138240 body = body 0 (saver true) :=
  readPieces_zero (by decide +kernel) (by decide +kernel) (by decide +kernel) (by decide +kernel) rfl _ (by decide +kernel) _ _

theorem saver_image : (saver true).core.mx.unitsFree (BitVec.ofNat 16 (imageField 0 0 2)) = true ∧ imageOk 0 0 = true := by decide +kernel

theorem witness_MatrixSaveRestore :
    AtOnce base { priv := true, g := if base.cur.sp.traprec == 0 then [] else [5] } true ∧ base.cur.sp.traprec = 0 ∧
    (let s := saver true
     AtOnce s { priv := true, g := if s.cur.sp.traprec == 0 then [] else [5] } true ∧ s.cur.sp.traprec ≠ 0 ∧ s.core.mx.queue = [] ∧
       addrOf (s.rg 5) = pad ∧ s.runCheck .write 64 (s.rg 5) 138240 = .go ∧ s.runCheck .read 64 (s.rg 5) 64 = .go ∧ s.runCheck .read 64 (s.rg 5) 138240 = .go ∧ s.core.mx.lifted = [] ∧
       s.cur.handler = some ⟨0, 1, false, true, true, true⟩ ∧ s.trappedImage.isNone = true) :=
  ⟨atOnce_of (by decide +kernel), by decide +kernel, atOnce_of (by decide +kernel), by decide +kernel, by decide +kernel, by decide +kernel,
    isGo_of (by decide +kernel), isGo_of (by decide +kernel), isGo_of (by decide +kernel), by decide +kernel, by decide +kernel, by decide +kernel⟩
/-! ### What the device does on its own -/

def flies (b : MsgBody) (s : State) : State := { s with flight := [⟨0, 0, none, b⟩] }

/-- Core 0 takes commands of other cores under the capability 5. -/
def hosting : State := base.onFocus fun c => { c with mxcapl := 5, mxhost := 2 ^ 63 }

theorem witness_MessageArrivals :
    (∀ b ∈ ([.signal 5, .fail 5 9, .deposit 5 24 7 0, .ldqReply 0 0 5 0x240 none, .store 0 5 0x240 7 none, .wake 0 0 7, .hop base.cur 0 5, .publication 7 1 16 0, .reduce 0 0 [],
        .matrix 0 0 5 9 none, .barrier 0 0 3 1 9 none] : List MsgBody),
      (flies b base).flight[0]? = some ⟨0, 0, none, b⟩ ∧ (flies b base).arrived ⟨0, 0, none, b⟩ = true ∧
        (flies b base).msgHeld ⟨0, 0, none, b⟩ = false ∧ (flies b base).comesLater ⟨0, 0, none, b⟩ = false) ∧
    (hNode ((celled 1 base).rg 5) = base.node ∧ hCore ((celled 1 base).rg 5) = some 0) ∧
    (hNode base.cur.sp.self = base.node ∧ hCore base.cur.sp.self = some 0) ∧
    (base.replyHeld (.ldqReply 0 0 5 0x240 none) = false ∧ base.unreachable false 0x240 = false ∧ base.cutOff 0 0x240 = false ∧
      base.replyHeld (.store 0 5 0x240 7 none) = false ∧ base.unreachable true 0x240 = false ∧
      (base.homeTouch (base.targetHome 0x240) 8).homeBad (base.targetHome 0x240) 8 = none) ∧
    (base.coreOf 0).freeNum = some 1 ∧
    (let c := hosting.coreOf 0
     c.inService = true ∧ c.mxhost.getLsbD 63 = true ∧ (c.mxcaph ++ c.mxcapl : BitVec 128) = 5 ∧ c.hasStrand (c.mxhost.extractLsb' 0 8).toNat = true ∧
       (payloadOp 0).map (c.mx.refuses 0) = some false ∧ c.mx.queue.length < 64) ∧
    (base.bar 0 0 3).n = 0 ∧ ((base.bar 0 0 3).arrivals ++ [((9 : Word), (none : Option Nat))]).length = 1 ∧
    ((base.setBar 0 0 3 { (base.bar 0 0 3) with n := 2, arrivals := [(7, none)] }).bar 0 0 3).n = 2 := by
  decide +kernel

/-- Strand 0 of core 0 is suspended in a state of waiting; the core runs nothing. -/
def waits (c : Cond) (f : Image → Image) : State :=
  base.onFocus fun k => { k with running := false, cycle := 100, images := [f (k.cur.image 1024 c .go 0)] }

theorem witness_CoreEvents_running :
    (let s := outOf (execLdI64 false 4 6 0 (memS 0x240))
     s.core.running = true ∧ s.cur.pend[0]?.map (fun e => (e.present, e.token)) = some (false, 0)) ∧
    (let s := (outOf (execVadd false 4 1 2 0 true (vec 5 2 4 7 0 base))).onFocus fun c => { c with cycle := 100 }
     s.core.vq.head?.map (fun e => decide (e.done < s.core.cycle)) = some true) ∧
    (let s := base.onFocus fun c => { c with stopWanted := true }
     s.core.stopWanted = true ∧ s.core.stopped = false ∧ s.core.convoy = none ∧ s.core.vq = []) ∧
    ((celled 1 base).core.cell 0).st ≠ .free ∧
    (base.core.running = true ∧ base.core.cur.num = 0 ∧ base.isLowestItem base.core.cur = false ∧ base.core.owedReply = false ∧
      base.core.cur.trapDue = none) ∧
    (let s := base.onCur fun t => { t with trapDue := some (mkTrap 0x01 0) }
     s.core.running = true ∧ s.core.cur.trapDue = some (mkTrap 0x01 0)) := by
  decide +kernel

theorem witness_CoreEvents_images :
    (waits (.parked (some 7)) id |>.onFocus fun c => { c with parkedTill := some (some 7) }).core.parkedTill = some (some 7) ∧
    (waits (.word 7 true (some 7) none) id).core.cycle = 100 ∧
    ((waits (.word 7 true (some 7) none) id).core.imageOf 0).map (fun i => (i.retryAt, pastLimit i.deadline ((waits (.word 7 true (some 7) none) id).countsTo 0 7))) =
      some (some 7, false) ∧
    ((waits (.deposit 1 (some 7)) id).core.imageOf 0).map (fun i => (i.deadline, i.waitKey)) = some (some 7, none) ∧ base.pkg.frozen = none ∧
    ((waits .ready id).core.imageOf 0).map (fun i => (i.preempted, i.cleanCopy)) = some (false, 0) ∧
    ((waits .ready fun i => { i with preempted := true, cleanCopy := 4 }).core.imageOf 0).map (fun i => (i.preempted, i.inEntry, decide (i.cleanCopy ≠ 0))) =
      some (true, true, true) ∧
    ((waits .ready fun i => { i with preempted := true }).core.imageOf 0).map (fun i => (waits .ready fun i => { i with preempted := true }).mayLift 0 i.st) =
      some true ∧
    (let s := waits .ready id
     s.core.running = false ∧ s.isLowestItem base.cur = false ∧ s.core.parkedTill = none ∧ s.core.stopped = false ∧ s.core.slotQueue = [] ∧ s.core.replay = false ∧
       s.core.rlog = false ∧ s.core.choice.isSome = true ∧ (s.core.imageOf 0).map (fun i => (decide (i.place ≠ .fresh), decide (i.st.handler = none))) = some (true, true)) ∧
    (let s := (waits (.slotWait (mkTrap 0x01 0) 640) id).onFocus fun c => { c with slotQueue := [0] }
     s.core.slotQueue = [0] ∧ s.core.freeSlot = some 0 ∧ s.core.running = false ∧ (s.core.imageOf 0).map (·.cond) = some (.slotWait (mkTrap 0x01 0) 640)) := by
  decide +kernel

/-- A matrix command of the strand at the head of the queue, done in the past. -/
def commanded : State := (outOf (execMzero false 3 (begun base))).onFocus fun c => { c with cycle := 1000 }

/-- An `ldfe` that waits for its bank. -/
def asked : State := (fullS 0).onFocus fun c => { c with ir := 0x3A530000, waiting := true, posted := true }

theorem witness_CoreEvents_units :
    commanded.core.mx.headTimes.map (fun p => (p.1.remote, decide (p.2.2 < commanded.core.cycle))) = some (none, true) ∧
    (asked.core.running = true ∧ asked.core.waiting = true ∧ asked.core.posted = true ∧ asked.core.reply = .none ∧
      asked.core.ir.extractLsb' 25 6 = 0x1D#6 ∧ asked.core.ir.extractLsb' 0 7 = 0#7 ∧
      (match execLdfe false 5 6 asked with
        | .next t => !t.core.waiting
        | _ => false) = true) := by
  decide +kernel

/-- An FE-class word of each function that a bank answers, with g6 at a word of the own scratchpad that is full or not. -/
def askedBy (fn : Nat) (full : Bool) : State :=
  (if full then fullS 0 else (fullS 0).setFull (scratchKey 0 0x40) false).onFocus fun c =>
    { c with ir := BitVec.ofNat 32 (0x3A530000 + fn), waiting := true, posted := true }

theorem witness_CoreEvents_answers :
    (∀ p ∈ [(0, true), (1, false), (3, true), (3, false), (4, true), (4, false)],
      let s := (askedBy p.1 p.2).focusOn 0
      s.core.running = true ∧ s.core.waiting = true ∧ s.core.posted = true ∧ s.core.reply = .none ∧ s.core.ir.extractLsb' 25 6 = 0x1D#6 ∧
        (s.core.ir.extractLsb' 0 7).toNat = p.1 ∧ s.core.ir.getLsbD 31 = false ∧ s.core.ir.extractLsb' 20 5 = 5 ∧ s.core.ir.extractLsb' 15 5 = 6 ∧
        s.isFull (scratchKey 0 0x40) = p.2 ∧ s.badAt (scratchKey 0 0x40) 8 = none ∧
        atOnceOk s { g := [6], pends := 1 } false = true ∧ atOnceOk s { g := [5, 6] } false = true ∧ atOnceOk s { g := [6] } false = true) ∧
    NamesWord ((askedBy 1 false).focusOn 0) (adda (((askedBy 1 false).focusOn 0).rg 6) 0) (scratchKey 0 0x40) ∧
    NamesWord ((askedBy 0 true).focusOn 0) (adda (((askedBy 0 true).focusOn 0).rg 6) 0) (scratchKey 0 0x40) :=
  ⟨by decide +kernel, namesWord_of (by decide +kernel), namesWord_of (by decide +kernel)⟩

/-- The saved image of a handler strand, in an entry. -/
theorem witness_CoreEvents_handlerImage :
    (let t := inHandler (mkTrap 0x01 0) 0
     let s := t.onFocus fun k => { k with running := false, images := k.cur.image 1024 .ready .go 0 :: k.images }
     (s.core.imageOf 0).map (fun i => (decide (i.place ≠ .fresh), i.st.handler.isSome)) = some (true, true)) := by
  decide +kernel

def copying : State := outOf (execGcp false 7 5 6 (shaped 2 16 (two 0x240 (pad + 0x100) base)))

def isClear : Serviced → Bool
  | .clear => true
  | _ => false

theorem witness_EngineEvents :
    (let s := (two 0x240 8 base).onCur fun t => { t with bindings := [⟨5, false, 0x10, 32, 0x240, 0, 8, 8, false, 0, 0, 0, [], []⟩] }
     let b : Binding := ⟨5, false, 0x10, 32, 0x240, 0, 8, 8, false, 0, 0, 0, [], []⟩
     (s.coreOf 0).findStrand 0 (fun t => t.bound 5) = some s.cur ∧ s.cur.binding 5 = some b ∧ isClear (s.serviced (.fill 0 0 5)) = true ∧
       s.fillAbsent (s.cur.agentOn 0) b = [] ∧ s.fillHeld (s.cur.agentOn 0) b = false) ∧
    (let d : Drain := ⟨0, false, 5, none, base.cur.sp.ptroot, true, 0x240, [1, 2], [255, 255], false, 9, true, 0, 0⟩
     let s := base.onFocus fun c => { c with drains := [d] }
     (s.coreOf 0).drains[0]? = some d ∧ s.engineStop = false ∧ isClear (s.serviced (.drain 0 0 5)) = true ∧ s.drainAbsent 0 d = [] ∧
       s.runHeld (d.agent 0) .write 0x240 2 = false ∧ s.runUnreachable (d.agent 0) .write 0x240 2 = false ∧ s.runDenied (d.agent 0) .write 0x240 2 = false) ∧
    (let s := copying
     (s.clusterAt 0).engines ≠ 0 ∧ (s.clusterAt 0).copies.length = 1 ∧ ∀ c ∈ (s.clusterAt 0).copies, isClear (s.serviced (.copy c.token)) = true ∧
       s.copyAbsent c = [] ∧ (∀ j < 2, s.rowDenied c j = false) ∧ (c.runs.all fun r => !s.runHeld c.agent r.1 r.2 c.bytes) = true) := by
  decide +kernel
/-- A drain of `n` bytes. -/
def draining (n : Nat) : Drain :=
  ⟨0, false, 5, none, base.cur.sp.ptroot, true, 0x240, List.replicate n 1, List.replicate n 255, false, 9, true, 0, 0⟩

/-- What is left of a drain once the granule of its `j`-th byte is stored. -/
def leftOf (n j : Nat) : List Nat :=
  let d := draining n
  let i := d.rest[j]?.getD 0
  let g := base.granuleAt (d.agent 0) ((addrOf d.addr + i) % 2 ^ 56)
  let a := i - min i ((addrOf d.addr + i) % g)
  let p := (a, min (d.data.length - a) (i + g - (addrOf d.addr + i) % g - a))
  ({ d with mask := d.mask.zipIdx.map fun q => if p.1 ≤ q.2 ∧ q.2 < p.1 + p.2 then 0 else q.1 } : Drain).rest

/-- One granule ends a drain of one byte and none of 33 bytes. -/
theorem witness_EngineEvents_parts :
    ∀ n ∈ [1, 33], let d := draining n
      let p := base.drainPart (d.agent 0) d
      decide (({ d with mask := d.mask.zipIdx.map fun q => if p.1 ≤ q.2 ∧ q.2 < p.1 + p.2 then 0 else q.1 } : Drain).rest = []) = decide (n = 1) := by
  intro n hn
  show decide (leftOf n (Config.freeWait base.free % max (draining n).rest.length 1) = []) = decide (n = 1)
  have hl : ∀ n ∈ [1, 33], max (draining n).rest.length 1 = n := by decide +kernel
  have hk : ∀ n ∈ [1, 33], ∀ j < n, decide (leftOf n j = []) = decide (n = 1) := by decide +kernel
  rw [hl n hn]
  refine hk n hn _ (Nat.mod_lt _ ?_)
  simp only [List.mem_cons, List.not_mem_nil, or_false] at hn
  omega

theorem witness_EngineEvents_moraine :
    (let r := base.ssRequest .opn 0 0 0 (BitVec.ofNat 128 (0x400 + 64 * 2 ^ 64 + 4 * 2 ^ 120))
     let s := (base.onDie 0 fun d => { d with ssQueue := [r] }).onFocus fun c => { c with waiting := true, posted := true }
     let c := s.coreOf r.core
     (s.dieAt 0).ssQueue = [r] ∧ (s.dieAt 0).ssOps.length < 1024 ∧ c.running = true ∧ c.waiting = true ∧ c.posted = true ∧ c.cur.num = r.strand) ∧
    (let s := committed (regs [(5, pad), (6, ((opened 0x800 9).rg 6).toNat)] (opened 0x800 9))
     (s.dieAt 0).ssOps.length = 1 ∧ ∀ o ∈ (s.dieAt 0).ssOps, o.close = false ∧ o.aborted = false ∧ isClear (s.serviced (.moraine o.token)) = true ∧
       s.copyAbsent (s.ssCopy 0 o) = [] ∧ s.rowDenied (s.ssCopy 0 o) 0 = false ∧
       ((s.ssCopy 0 o).runs.all fun r => !s.runHeld (s.ssCopy 0 o).agent r.1 r.2 (s.ssCopy 0 o).bytes &&
         !s.runUnreachable (s.ssCopy 0 o).agent r.1 r.2 (s.ssCopy 0 o).bytes) = true) ∧
    8191 ∉ (base.dieAt 3).slotsOut ∧ (base.clusterAt 95).engines ≠ 0 := by
  decide +kernel

theorem witness_EngineEvents_close :
    let s := opened 0x800 9
    let t := (s.serveSs 0 (s.ssRequest .close 0 (s.rg 6) 0 0)).2
    (t.dieAt 0).ssOps.map (fun o => (o.close, (((t.dieAt 0).ssOps.take 0).all fun p => !o.after p))) = [(true, true)] := by
  decide +kernel

theorem witness_EngineEvents_banks :
    (let r : BankReq := ⟨0, 0, 3, 2, none⟩
     let s := (base.onCluster 0 fun c => { c with bankReqs := [r] }).onFocus fun c => { c with waiting := true, posted := true }
     (s.clusterAt 0).bankReqs = [r] ∧ s.core.running = true ∧ s.core.waiting = true ∧ s.core.posted = true ∧ s.cur.num = 0 ∧ s.sramBusy = false) ∧
    (base.bar 0 95 63).n = 0 ∧ (base.bar 1 3 255).n = 0 ∧ (base.bar 2 0 63).n = 0 ∧
    ((base.setBar 1 3 255 { (base.bar 1 3 255) with n := 2, arrivals := [(7, none)] }).bar 1 3 255).n ≠ 0 := by
  decide +kernel

theorem witness_DieEvents :
    (base.dieAt 3).slotpolNext = none ∧
    ((base.onDie 3 fun d => { d with slotpolNext := some (0x06060606, 2) }).dieAt 3).slotpolNext = some (0x06060606, 2) ∧
    ((base.onDie 3 fun d => { d with slotpolNext := some (0x06060606, 1) }).dieAt 3).slotpolNext = some (0x06060606, 1) ∧
    base.pkg.assemblies = [] ∧ (List.replicate 256 (7 : Byte)).length = 256 ∧ 16128 + 256 ≤ 16384 ∧
    (let r : MemRequest := ⟨0, 5, 0x600, 64, none, none⟩
     let s := base.onDie 0 fun d => { d with requests := [r], l2Lines := [24] }
     s.dieIndex (·.requests.length) 0 = some (0, 0) ∧ (s.dieAt 0).requests[0]? = some r ∧ (s.dies.toList.flatMap (·.responses)) = [] ∧
       s.pkg.links = [] ∧ s.localPaused 0x600 = false ∧
       (if s.inHbm r.pa then (s.dieAt (homeDie r.pa)).demand (r.pa / 64) else some (s.dieAt (homeDie r.pa))).isSome = true) ∧
    (let s := base.onDie 2 fun d => { d with responses := [⟨0, 5, 1⟩] }
     s.dieIndex (·.responses.length) 0 = some (2, 0)) ∧
    (let s := base.onDie 0 fun d => { d with hints := [0x600] }
     s.dieIndex (·.hints.length) 0 = some (0, 0) ∧ (s.dieAt 0).hints[0]? = some 0x600 ∧ (s.dieAt 0).hints.length ≤ 16) ∧
    (base.dieAt 3).l2off.getLsbD 60 = false ∧ base.inHbm 0x600 = true ∧ (base.clusterAt 95).outMask.getLsbD 63 = false ∧
    (base.clusterAt 95).faultMask.getLsbD 63 = false ∧ 7 ∉ base.pkg.cxlFailed ∧ (base.coreOf 0).inService = true ∧ (base.coreOf 0).gangHead = none ∧
    (base.cores.all fun x => !x.spareUsed) = true ∧
    (let bank := base.homeBank (64 * 24)
     base.backed (64 * 24) = true ∧ homeDie (64 * 24) = 0 ∧ bank < 61 ∧ (base.dieAt 0).l2off.getLsbD bank = false) := by
  decide +kernel

theorem witness_DieEvents_links :
    (base.pkg.links = [] ∧ linkDies 16 = [] ∧ linkDies 34 = []) ∧
    (let s := base.onPkg fun p => { p with links := [(34, .retraining)] }
     (34, LinkState.retraining) ∈ s.pkg.links ∧ s.pkg.pwr < 3) := by
  decide +kernel

def migrating (va frame : Nat) : State :=
  (puts [(0x600, 8, va / 2 ^ 16), (0x608, 8, frame), (0x610, 8, 0x1234)] tables).onPkg fun p => { p with migQueue := [0x600] }

def started : State := outOf (execMigrationStart (migrating 0x80000000 0x500000))

def finishing (s : State) : State := s.onPkg fun p => { p with migrations := p.migrations.map fun m => { m with progress := 2 ^ 16 } }

def dumping : State :=
  (puts [(0x600, 8, 0), (0x608, 8, 0x80000000), (0x610, 8, 2 ^ 17), (0x618, 8, 0x700000), (0x620, 8, 0x900000), (0x628, 8, 0x77)] tables).onPkg fun p =>
    { p with dumpQueue := [0x600] }

def dumped : State := outOf (execDumpStart dumping)

def batched (c : Word) : State := base.onPkg fun p =>
  { p with fqcfg := c, batches := [{ token := 0x55, pages := [(0x1000000, 0), (0x2000000, 2)], sup := false, acc := 1, eng := false, asid := 0, attempt := 1 }] }

theorem witness_PageEvents :
    ((batched 6).pkg.fqcfg.getLsbD 63 = false ∧ (batched 6).pkg.batches.length = 1) ∧
    (let s := batched (2 ^ 63 + 6)
     let recs := batchPages 2 [(0x1000000, 0), (0x2000000, 2)]
     s.pkg.fqcfg.getLsbD 63 = true ∧ s.pkg.fqcfg.getLsbD 62 = false ∧
       (s.pkg.fqptr.extractLsb' 0 32 - s.pkg.fqptr.extractLsb' 32 32).toNat + recs.length ≤ 2 ^ (s.pkg.fqcfg.extractLsb' 0 5).toNat) ∧
    (migrating 0x80000000 0x500000).pkg.migrations = [] ∧ (migrating 0x80000000 0x500000).engineStop = false ∧ started.engineStop = false ∧
    (let s := migrating 0x80000000 0x500000
     let q := s.onPkg fun p => { p with migQueue := [] }
     q.migDesc 0x600 = some (0, 0x80000000, 0x500000) ∧
       (q.rootOf 0).map (fun r => (q.leafAt r 0x80000000).map (·.migratable 0x500000)) = some (some true)) ∧
    ((migrating 0x80000000 0x500001).migDesc 0x600 = none) ∧
    (let q := migrating 0x100000 0x500000
     (q.rootOf 0).map (fun r => (q.leafAt r 0x100000).map (·.migratable 0x500000)) = some (some false)) ∧
    (started.pkg.migrations.map (fun m => (m.progress, started.inFlightTo (m.oldFrame + m.progress) 256)) = [(0, false)] ∧ ((finishing started).pkg.migrations.map (·.progress)) = [65536]) ∧
    (finishing started).pkg.migrations.map (fun m =>
      let e := (finishing started).loadPa m.leafPa 7
      decide (e.testBit 55 = true ∧ e.testBit 49 = true ∧ e % 2 ^ 36 * 2 ^ 16 = m.oldFrame)) = [true] ∧
    (dumping.pkg.dumpQueue = [0x600] ∧ dumping.dumpDesc 0x600 = some (0, 0x80000000, 2 ^ 17, 0x700000, 0x900000) ∧ dumping.pkg.dump = none ∧ dumping.flight = [] ∧ dumping.engineStop = false ∧
      (dumping.rootOf 0).isSome = true ∧ dumping.pkg.migrations = [] ∧ (base.onPkg fun p => { p with dumpQueue := [0x600] }).dumpDesc 0x600 = none) ∧
    dumped.pkg.dump.map dumped.nextPiece = some (some 0x80000000) ∧ dumped.engineStop = false ∧
    dumped.pkg.dump.map (fun x => (x.pieces, (dumped.fresh.leafAt x.root 0x80000000).map (·.big))) = some ([0x80000000, 0x80010000], some false) ∧
    (dumped.onPkg fun p => { p with dump := p.dump.map fun x => { x with pieces := [] } }).pkg.dump.map (·.pieces) = some [] := by
  decide +kernel

/-- Bytes above every listed cell read 0. -/
theorem getN_free (m : List Host.Cell) (k n : Nat) (h : (m.all fun c => decide (c.1 < k)) = true) : Memory.getN m k n = 0 := by
  have g : ∀ j, k ≤ j → Memory.get m j = 0 := fun j hj => by
    induction m with
    | nil => rfl
    | cons c m ih =>
      simp only [List.all_cons, Bool.and_eq_true, decide_eq_true_eq] at h
      rw [Memory.get, if_neg (by omega), if_neg (by omega)]
      exact ih h.2
  induction n generalizing k with
  | zero => rfl
  | succ n ih =>
    rw [Memory.getN, g k (Nat.le_refl _), ih (k + 1) _ fun j hj => g j (by omega)]
    · rfl
    · simp only [List.all_eq_true, decide_eq_true_eq] at h ⊢
      exact fun c hc => Nat.lt_succ_of_lt (h c hc)

/-- A dump of the address space 1, which has no root; the queue table stands where nothing is written. -/
def rootless : State := (puts [(0x600, 8, 2 ^ 52)] dumping).onPkg fun p => { p with qtbase := 2 ^ 63 + 0x100000000 }

theorem witness_PageEvents_noRoot :
    rootless.pkg.dumpQueue = [0x600] ∧ (rootless.dumpDesc 0x600).map (·.1) = some 1 ∧ rootless.rootOf 1 = none := by
  refine ⟨by decide +kernel, by decide +kernel, ?_⟩
  have off : ∀ q ∈ List.range 16384, ¬rootless.queueEn q = true := fun q hq => by
    have hq := List.mem_range.mp hq
    have hb : (rootless.pkg.qtbase.extractLsb' 4 48).toNat * 16 = 0x100000000 := by decide +kernel
    have hh : ∀ k, 0x100000000 ≤ k → k < 0x200000000 → rootless.paHome k = .here k := fun k _ _ => by
      have hl : rootless.pkg.links.isEmpty = true := by decide +kernel
      have hc : isCxl k = false := by simp [isCxl]; omega
      have hn : isHost k = false := by simp [isHost]; omega
      rw [State.paHome, if_pos (by omega)]
      simp [State.localHome, State.portJoined, hc, hn, hl]
    have hz : ∀ k n, 0x100000000 ≤ k → k < 0x200000000 → rootless.loadPa k n = 0 := fun k n hk hk' => by
      rw [State.loadPa, hh k hk hk']
      dsimp only
      rw [touch_quiet (by decide +kernel) (by decide +kernel)]
      refine getN_free _ _ _ ?_
      have hm : (rootless.mem.all fun c => decide (c.1 < 0x100000000)) = true := by decide +kernel
      simp only [List.all_eq_true, decide_eq_true_eq] at hm ⊢
      exact fun c hc => Nat.lt_of_lt_of_le (hm c hc) hk
    simp only [State.queueEn, State.queueEntry, hb]
    rw [hz (0x100000000 + 16 * q + 8) 8 (by omega) (by omega)]
    decide
  have l : (rootless.pkg.launches.map (·.ptroot)).find? (fun w => asidOf w == 1) = none := by decide +kernel
  have c : ((rootless.core :: rootless.others).flatMap fun c =>
      (if c.running then [c.cur.sp.ptroot] else []) ++ c.images.map (·.st.sp.ptroot)).find? (fun w => asidOf w == 1) = none := by decide +kernel
  simp only [State.rootOf, l, c, List.filter_eq_nil_iff.mpr off, List.findSome?_nil]

/-- A copy that finds a page absent, having met `n` faults. -/
def faulting (n : Nat) : State :=
  let s := outOf (execGcp false 7 5 6 ((regs [(5, 0x90000000), (6, pad)] base).onSp fun p => { p with grows := 1, growb := 64 }))
  s.onCluster 0 fun c => { c with copies := c.copies.map fun x => { x with faults := n } }

theorem witness_PageEvents_engines :
    ∀ n ∈ [0, 7], let s := faulting n
      s.engineOps.length = 1 ∧ ∀ c ∈ (s.clusterAt 0).copies, s.engineOps[0]? = some (.copy c.token) ∧
        (s.clusters.flatMap (·.copies)).find? (·.token == c.token) = some c ∧ s.engineStopped (.copy c.token) = false ∧ s.copyAbsent c ≠ [] ∧ c.faults = n ∧
        (s.engineFault c.core (.copy c.token) c.agent (s.copyAbsent c) (s.copyAcc c)).isSome = true := by
  decide +kernel

def record (dwords : List Nat) : BitVec 512 := BitVec.ofNat 512 ((List.range 8).foldl (fun x i => x + dwords[i]?.getD 0 * 2 ^ (64 * i)) 0)

/-- A record of one core, three items and class 2, with arguments at `args`. -/
def goodRec (args : Nat) : BitVec 512 := record [0x100000, 2 ^ 56 + 2 ^ 51 + 2 ^ 46 + 2 ^ 43 + 3, 2 * 2 ^ 61 + 2 ^ 53, 0x240, 0, 0, args, 0x77]

/-- A record of queue 2 with the queue's entry as it was when the record came. -/
def recorded (s : State) (r : BitVec 512) : QueuedRecord := ⟨r, (s.queueEntry 2).1, (s.queueEntry 2).2⟩

def posted (r : BitVec 512) (s : State) : State := (queued s).onQueue 2 fun q => { q with recs := [recorded (queued s) r] }

def admitted : State := outOf (execLaunchAdmission (posted (goodRec 0) base))

def onLaunches (f : Launch → Launch) (s : State) : State := s.onPkg fun p => { p with launches := p.launches.map f }

theorem witness_LaunchEvents :
    (∀ ok : Bool, let r := if ok then goodRec 0 else 0
      let s := posted r base
      s.pkg.launches.length < 4096 ∧ s.pkg.tested = true ∧ s.pkg.boot.stage = 3 ∧ s.pkg.pwr < 3 ∧
        s.nextQueue.map (fun x => (x.q, x.recs)) = some (2, [recorded s r]) ∧
        ((s.onQueue 2 fun x => { x with recs := [] }).onPkg fun p => { p with admitCursor := 3 }).recordHeld (dispatcherAgent (s.queueEntry 2).1) r = false ∧
        recOk r ((s.queueEntry 2).2.extractLsb' 60 3).toNat ((s.queueEntry 2).2.extractLsb' 55 5) = ok) ∧
    (∀ p ∈ [(base, true), (puts [(0x330, 8, 7)] base, false)], let s := posted (goodRec 0x2C0) p.1
      let q := (s.onQueue 2 fun x => { x with recs := [] }).onPkg fun p => { p with admitCursor := 3 }
      (q.argsOf (dispatcherAgent (s.queueEntry 2).1) (goodRec 0x2C0)).map argsOk = some p.2 ∧
        (q.seedsOf (dispatcherAgent (s.queueEntry 2).1) (goodRec 0x2C0)).isSome = true) ∧
    (queued base).queueEn 2 = true ∧ (queued base).queueEn 16383 = false ∧
    ((base |> fun s => ({ s with flight := [⟨0, 0, none, .dependency 0 1 true⟩] } : State)).depMessage 0 1 = some (0, true)) ∧
    base.msgHeld ⟨0, 0, none, .dependency 0 1 true⟩ = false ∧ admitted.pkg.pwr < 3 ∧
    (admitted.pkg.launches.map (fun l => (l.id, decide (l.phase = .waiting), l.depsDone, l.excl)) = [(0, true, true, false)]) ∧
    (shapeOf [1] = some (1, 1, 1) ∧ ascending [1] = true) ∧
    (admitted.launchOf 0).map (fun l => admitted.eligible l 1 1 true && l.accepts 1 1 1 1 && admitted.higherFirst l [1] && admitted.victimsInOrder l 1 [1] &&
      (admitted.inTheWay l 1).isEmpty && admitted.itsTurn l) = some true := by
  decide +kernel

/-- A state whose other cores are all out of service. -/
def alone (s : State) : State := { s with others := (List.range 1535).map fun n => { s.core with cid := n + 1, inService := false, running := false } }

theorem out_of_service (s : State) (h0 : s.core.cid = 0) (l : Launch) (n x : Nat) (hx : x ≠ 0) (hl : x < 1536) {v : Bool} :
    (alone s).eligible l n x v = false := by
  have hc : ((alone s).coreOf x).inService = false := by
    obtain ⟨y, rfl⟩ : ∃ y, x = y + 1 := ⟨x - 1, by omega⟩
    have hn : ¬(alone s).core.cid = y + 1 := by rw [show (alone s).core = s.core from rfl, h0]; omega
    rw [State.coreOf, if_neg hn]
    cases hf : (alone s).others.find? (·.cid == y + 1) with
    | none =>
      have := List.find?_eq_none.mp hf { s.core with cid := y + 1, inService := false, running := false }
        (List.mem_map.mpr ⟨y, List.mem_range.mpr (by omega), rfl⟩)
      simp at this
    | some c =>
      obtain ⟨_, _, rfl⟩ := List.mem_map.mp (List.mem_of_find?_eq_some hf)
      rfl
  simp [State.eligible, hc]

/-- A launch that needs a core does not fit where no core is accepted. -/
theorem fits_none {l : Launch} {ok : Nat → Nat → Bool} (h : ∀ n c, c < 1536 → ok n c = false) (h1 : 1 ≤ l.perclu) (h2 : 1 ≤ l.perdie)
    (h3 : 1 ≤ l.dies) : l.fits ok = false := by
  have hn : ∀ k, 1 ≤ k → ¬(if l.shrink then 1 else k) ≤ 0 := fun k hk => by split <;> omega
  have hc : ∀ c n, c < 96 → (coresOf c).filter (ok n) = [] := fun c n hc => List.filter_eq_nil_iff.mpr fun x hx => by
    obtain ⟨i, hi, rfl⟩ := List.mem_map.mp hx
    have hi := List.mem_range.mp hi
    simp only [firstCoreOf, Config.coresPerCluster, Config.clustersPerDie, Config.coresPerDie] at hi ⊢
    rw [h _ _ (by omega)]
    simp
  have hd : ∀ d, d < 4 → ((List.range Config.clustersPerDie).filter fun c =>
      decide ((if l.shrink then 1 else l.perclu) ≤ ((coresOf (d * Config.clustersPerDie + c)).filter (ok (if l.shrink then 1 else l.percore))).length)) = [] :=
    fun d hd => List.filter_eq_nil_iff.mpr fun c hm => by
      have hm := List.mem_range.mp hm
      simp only [Config.clustersPerDie] at hm ⊢
      rw [hc _ _ (by omega)]
      simpa using hn _ h1
  have ha : ((List.range 4).filter fun d => decide ((if l.shrink then 1 else l.perdie) ≤ ((List.range Config.clustersPerDie).filter fun c =>
      decide ((if l.shrink then 1 else l.perclu) ≤
        ((coresOf (d * Config.clustersPerDie + c)).filter (ok (if l.shrink then 1 else l.percore))).length)).length)) = [] :=
    List.filter_eq_nil_iff.mpr fun d hm => by
      rw [hd d (List.mem_range.mp hm)]
      simpa using hn _ h2
  simp only [Launch.fits, ha]
  simpa using hn _ h3

theorem sole_inOrder (s : State) (l : Launch) (n : Nat) (h : ∀ x, x ≠ 0 → x < 1536 → s.eligible l n x true = false) : s.victimsInOrder l n [0] = true := by
  have hc : ∀ k cl, cl ≠ 0 → cl < 96 → s.clusterKey l n k cl = none := fun k cl h1 h2 => by
    have e : (coresOf cl).filter (fun c => s.eligible l n c true) = [] := List.filter_eq_nil_iff.mpr fun c hc => by
      obtain ⟨i, hi, rfl⟩ := List.mem_map.mp hc
      have hi := List.mem_range.mp hi
      simp only [firstCoreOf, Config.coresPerCluster, Config.clustersPerDie, Config.coresPerDie] at hi ⊢
      rw [h _ (by omega) (by omega)]
      simp
    rw [State.clusterKey, e]
    rfl
  have hd : ∀ k b d, d ≠ 0 → d < 4 → s.dieKey l n k b d = none := fun k b d h1 h2 => by
    have e : ((List.range Config.clustersPerDie).map (d * Config.clustersPerDie + ·)).filterMap (s.clusterKey l n k) = [] :=
      List.filterMap_eq_nil_iff.mpr fun c hm => by
        obtain ⟨i, hi, rfl⟩ := List.mem_map.mp hm
        have hi := List.mem_range.mp hi
        simp only [Config.clustersPerDie] at hi ⊢
        exact hc _ _ (by omega) (by omega)
    rw [State.dieKey, e]
    rfl
  have in0 : ∀ x ∈ coresOf 0, ([0].contains x || !s.eligible l n x true || decide (s.victimKey l 0 ≤ s.victimKey l x)) = true := fun x hx => by
    obtain ⟨i, hi, rfl⟩ := List.mem_map.mp hx
    have hi := List.mem_range.mp hi
    rcases Nat.eq_zero_or_pos i with rfl | hp
    · rfl
    · simp only [firstCoreOf, Config.coresPerCluster, Config.clustersPerDie, Config.coresPerDie] at hi ⊢
      rw [h _ (by omega) (by omega)]
      simp
  have at0 : [0].filter (fun c => clusterOf c == clusterOf 0) = [0] ∧ [0].filter (fun c => dieOf c == dieOf 0) = [0] := by decide
  have in1 : ∀ x ∈ List.range 24, x ≠ 0 → s.clusterKey l n 1 x = none := fun x hx h1 => hc 1 x h1 (by have := List.mem_range.mp hx; omega)
  have in2 : ∀ x ∈ List.range 4, x ≠ 0 → s.dieKey l n 1 1 x = none := fun x hx h1 => hd 1 1 x h1 (List.mem_range.mp hx)
  simp only [State.victimsInOrder, List.headD_cons, Bool.and_eq_true, at0]
  refine ⟨⟨?_, ?_⟩, ?_⟩
  · simp only [List.all_cons, List.all_nil, Bool.and_true, Bool.or_eq_true]
    exact .inr (List.all_eq_true.mpr in0)
  · simp only [show distinct clusterOf [0] = [0] by decide, List.all_cons, List.all_nil, Bool.and_true, Bool.or_eq_true]
    refine .inr (List.all_eq_true.mpr fun x hx => ?_)
    rcases Nat.eq_zero_or_pos x with rfl | hp
    · rfl
    · simp only [Config.clustersPerDie, Nat.zero_div, Nat.zero_mul, Nat.zero_add, List.length_cons, List.length_nil]
      rw [in1 x hx (by omega)]
      simp
  · simp only [show distinct dieOf [0] = [0] by decide, List.all_cons, List.all_nil, Bool.and_true, Bool.or_eq_true]
    refine .inr (List.all_eq_true.mpr fun x hx => ?_)
    rcases Nat.eq_zero_or_pos x with rfl | hp
    · rfl
    · simp only [show (distinct clusterOf [0]).length = 1 by decide, List.length_cons, List.length_nil, Nat.zero_add]
      rw [in2 x hx (by omega)]
      simp

/-- An EXCL launch of class 2 that waits for core 0, the only core in service, where the strand of `base` runs under a launch of class 0. -/
def asking : State :=
  alone (onLaunches (fun l => if l.id = 0 then { l with modes := l.modes ||| 8 } else l)
    ((admitted.onPkg fun p => { p with launches := p.launches ++ [{ lau with cls := 0, ordered := false }] }).onCur fun t => { t with launch := some 7 }))

theorem witness_LaunchEvents_asking :
    (asking.launchOf 0).map (fun l => (decide (l.phase = .waiting), l.depsDone, asking.eligible l 1 0 true, l.accepts 1 1 1 1)) = some (true, true, true, true) ∧
    (asking.launchOf 0).map (fun l => (decide (l.cls = 2), (asking.unasked l 0).length)) = some (true, 1) ∧ (asking.pkg.launches.all (·.cls ≤ 2)) = true ∧
    (asking.launchOf 0).map (fun l => ([0].foldl (fun r c => r.bind fun u => u.askFor l c (asking.unasked l c)) (some asking)).isSome) = some true ∧
    (∀ l, asking.victimsInOrder l 1 [0] = true) ∧ ∀ l, asking.launchOf 0 = some l → asking.placeableNow l = false := by
  refine ⟨by decide +kernel, by decide +kernel, by decide +kernel, by decide +kernel, fun l => ?_, fun l hl => ?_⟩
  · exact sole_inOrder _ l 1 fun x h1 h2 => out_of_service _ (by decide +kernel) l 1 x h1 h2
  · have h : (asking.launchOf 0).all (fun l => decide (1 ≤ l.perclu) && decide (1 ≤ l.perdie) && decide (1 ≤ l.dies) && !(asking.inTheWay l 0).isEmpty) =
        true := by decide +kernel
    rw [hl] at h
    simp only [Option.all_some, Bool.and_eq_true, decide_eq_true_eq, Bool.not_eq_true'] at h
    have hf := fits_none (l := l) (ok := fun n c => asking.eligible l n c false) (fun n c hc => by
      rcases Nat.eq_zero_or_pos c with rfl | hp
      · have : (asking.inTheWay l 0).all (fun t => false && asking.isVictim l t) = false := by
          cases hw : asking.inTheWay l 0 with
          | nil => simp [hw] at h
          | cons t ts => simp
        simp only [State.eligible, this, Bool.and_false]
      · exact out_of_service _ (by decide +kernel) l n c (by omega) hc) h.1.1.1 h.1.1.2 h.1.2
    simp only [State.placeableNow, hf, Bool.and_false]

theorem witness_LaunchEvents_placed :
    (let s := onLaunches (fun l => { l with positions := l.positions.map fun p => { p with item := none } }) (outOf (execLaunchPlacement 0 [1] 1 admitted))
     (s.launchOf 0).map (fun l => s.startable l && s.itsTurn l && l.nextPosition.isSome) = some true) ∧
    (let s := onLaunches (fun l => { l with percore := 255, perclu := 16, perdie := 24, dies := 4 })
        { admitted with others := [{ base.core with cid := 5, inService := false, running := false }] }
     (s.launchOf 0).map (fun l => (decide (l.phase = .waiting), l.depsDone, s.possible l)) = some (true, true, false)) ∧
    (let s := onLaunches (fun l => { l with phase := .placed, items := 0, itemStates := [], positions := [], nextItem := 0 }) admitted
     (s.launchOf 0).map (fun l => (decide (l.phase = .placed), l.allDone, s.hasStrands 0, s.engineBusy 0)) = some (true, true, false, false)) ∧
    (let s := onLaunches (fun l => { l with phase := .cancelling 5 }) admitted
     (s.launchOf 0).map (fun l => (decide (l.phase = .cancelling 5), s.replyOwed 0, (s.stopLaunch l).engineBusy 0, decide (l.report = 0))) =
       some (true, false, false, true)) := by
  decide +kernel
def boardS (f : Package → Package) : State := base.onPkg f

theorem witness_BoardEvents :
    base.pkg.pwr = 0 ∧ (boardS fun p => { p with pwr := 1 }).pkg.pwr = 1 ∧ (boardS fun p => { p with pwr := 2 }).pkg.pwr = 2 ∧
    (let s := (boardS fun p => { p with pwr := 3 }).onFocus fun c => { c with running := false }
     s.pkg.pwr = 3 ∧
       (([0, 1, 2, 3].foldl (fun s d => s.drainDie d fun _ => true) (s.quiesceStrands.arriveReduces fun _ => true)).cores.all fun c => !c.running) = true) ∧
    (boardS fun p => { p with pwr := 4 }).pkg.pwr = 4 ∧ base.pkg.thermalRide = false ∧ (boardS fun p => { p with thermalRide := true }).pkg.thermalRide = true ∧
    (boardS fun p => { p with profileNext := some 1 }).pkg.profileNext = some 1 ∧
    (let s := boardS fun p => { p with profile := 0x200 }
     s.pkg.active = 2 ∧ s.pkg.burstFast ≠ true) ∧
    (let s := boardS fun p => { p with boot := { p.boot with stage := 0, fuse := 2 } }
     s.pkg.boot.stage = 0 ∧ s.pkg.boot.failed = none ∧ s.pkg.boot.fuse ≤ 2 ∧ s.pkg.shocks = s.pkg.shocksTested ∧ s.pkg.tested = true) ∧
    base.linkDown 24 = false ∧ base.linkPaused 24 = false ∧
    (∀ p ∈ [(2 ^ 32 + 0x600, 8), (0x1000, 8), (0x200080, 8), (0x200000 - 64, 64), (0x201000, 8), (0x300000, 64)], base.hostMay p.1 p.2 = true) ∧
    (∀ code ∈ List.range 9, let s := boardS fun p => { p with mailbox := { p.mailbox with busy := true, last := BitVec.ofNat _ code } }
      s.pkg.commands = true ∧ s.pkg.mailbox.last.toNat = code ∧ s.flight = []) ∧
    (let s := boardS fun p => { p with mailbox := { p.mailbox with busy := true, last := 9 } }
     s.pkg.mailbox.busy = true ∧ s.pkg.boot.fuse < 1 ∧ s.pkg.boot.version ≤ 1 ∧ s.pkg.extents = [] ∧ (s.coreOf 1535).inService = true ∧ isHost 0 = false ∧
       isHost 0x200000000100 = true ∧ s.backed 0x200000000100 = true ∧ s.pkg.pwr = 0 ∧ s.pkg.mapped + 2 ^ 28 ≤ 8192 * 10 ^ 9 ∧
       8192 * 10 ^ 9 < s.pkg.mapped + 40000 * 2 ^ 28) ∧
    (let s := boardS fun p => { p with extents := [(2 ^ 28, 2 ^ 28)] }
     (∃ e ∈ s.pkg.extents, 2 ^ 28 + 2 ^ 27 < e.1 + e.2 ∧ e.1 < 2 ^ 28 + 2 ^ 27 + 1) ∧ s.pkg.extents.find? (·.1 == 2 ^ 28) = some (2 ^ 28, 2 ^ 28)) := by
  decide +kernel

theorem leBytes_length (n v : Nat) : (leBytes n v).length = n := by
  induction n generalizing v with
  | zero => rfl
  | succ n ih => simp [leBytes, ih]

theorem reportLength (p : Package) (nonce : BitVec 256) : (p.signedReport nonce).length = (p.boot.meas.toList.map fun _ => 64).sum + 3429 := by
  simp [Package.signedReport, Package.report, patternBytes, leBytes_length, List.length_flatMap]

theorem witness_BoardEvents_report :
    ∀ nonce : BitVec 256, isHost (0x200000000100 + (base.pkg.signedReport nonce).length - 1) = true ∧
      base.backed (0x200000000100 + (base.pkg.signedReport nonce).length - 1) = true := by
  intro nonce
  rw [reportLength]
  decide +kernel

/-- A pod of two nodes; window 0 is not exported. -/
def pod (s : State) : State := s.onPkg fun p => { p with podcap := (2#64 <<< 43) ||| (16#64 <<< 38) ||| (4#64 <<< 35) }

def qp (st : Nat) (f : QueuePair → QueuePair) : State :=
  (pod (puts [(0x320000, 8, 2), (0x320008, 8, 1)] base)).onPkg fun p => { p with qps := [f
    { id := 1, st := st, ctx := BitVec.ofNat 512 (0x300000 + 2 ^ 64 * (3 * 2 ^ 48 + 2 * 2 ^ 41) + 2 ^ 128 * 0x310000 + 2 ^ 192 * 0x320000)
      sqCons := 0, rqCons := 0, sqProd := 0, rqProd := 0, nextPsn := 1, expPsn := 1, retries := 0, naked := false, received := 0, sent := [] }] }

theorem witness_FabricEvents :
    (∀ k ∈ [1, 8], let s := pod base
      s.nodes = 2 ∧ s.node = 0 ∧ s.podPaused = false ∧ (s.podHomes false 0x600 k).isSome = true ∧ s.podHomes true 0x600 k = none ∧
        s.podHeld false 0x600 k = false ∧ s.podHeld true 0x600 k = false) ∧
    (∀ op ∈ ([.read 8, .write [1], .amo .add 5, .cas 0 1, .adds 5 0 1 0 [1, 2]] : List PodOp), podBytes op ≠ 0 ∧ podBytes op ≤ 8) ∧
    addType 5 = true ∧ 0x600 % addSize 5 = 0 ∧ (pod base).engineStop = false ∧
    (pod base).podHomes false 0x600 8 = some [(.here 0x600, 8)] ∧ 1 ∉ (pod base).pkg.nodesDown ∧
    (hNode ((celled 1 base).rg 5) = base.node ∧ hCore ((celled 1 base).rg 5) = some 0) ∧
    (let m : Msg := ⟨0, 0, none, .signal ((1#64 <<< 54) ||| 0x77)⟩
     let s := { pod base with flight := [m] }
     s.isLocal m.body = false ∧ s.arrived m = true ∧ s.reachable (s.msgNode m.body) = true) ∧
    (let s := qp 3 id
     (s.qp 1).map (fun q => (q.st, (s.qpAgent q).isSome, s.linkDown (31 + q.port), s.linkPaused (31 + q.port))) = some (3, true, false, false)) ∧
    (let s := qp 3 id
     (s.qp 1).map (fun q => (s.qpAgent q).map fun a => (s.doorbellOk q a, (s.netRequest q a (.readRequest 1 0x320000 0 8)).isSome)) = some (some (true, true)) ∧
       s.engineStop = false) ∧
    (∀ p ∈ ([.send 1 [1, 2, 3] true none, .send 2 [1] true none, .readRequest 1 0x320000 0 8] : List NetPacket), netReply p = false) ∧ netPsn (.send 1 [1, 2, 3] true none) = 1 ∧
    (netPsn (.send 2 [1] true none) ≠ 1 ∧ (netPsn (.send 2 [1] true none) - 1).getLsbD 23 = false) ∧
    (let s := qp 3 fun q => { q with sent := [⟨1, 0, 0, 0, 1, 1, 0⟩], retries := 9 }
     (s.qp 1).map (fun q => (decide (q.sent ≠ []), decide (q.retry ≤ q.retries))) = some (true, true)) := by
  decide +kernel

/-- The placement table with its sequencer at `seq`; the ring of own requests holds one append. -/
def placing (seq : Nat) : State :=
  (puts [(0x340000, 8, 0x350000), (0x340008, 8, seq * 2 ^ 54 + 2 * 2 ^ 33 + 4), (0x340010, 8, 0x360000), (0x340018, 8, 2), (0x340020, 8, 0x370000),
    (0x370000, 8, 1), (0x360008, 8, 5 * 2 ^ 32 + 6), (0x360010, 8, 192)] (pod base)).onPkg fun p => { p with placecfg := 2 ^ 63 + 0x340000 }

theorem witness_FabricEvents_placement :
    (placing 0).placeDesc.map (fun p => (p.seqNode, (placing 0).node, decide ((placing 0).ownRequest p = some ⟨0, 0, 0, 5, 6, 192⟩))) = some (0, 0, true) ∧
    1 < (placing 0).nodes ∧ (placing 1).placeDesc.map (fun p => (p.seqNode, (placing 1).placeSeq p)) = some (1, 0) ∧
    updateSeq (.append 1 0 1 5 6 0 0) = 0 + 1 ∧
    (placing 0).placeDesc.map (fun p => decide (((placing 0).sequence p ⟨0, 0, 0, 5, 6, 192⟩).pkg.place.decided.length = 1)) = some true ∧
    (placing 0).placeDesc.map (fun p => ((placing 0).placeRingWaits p, (placing 0).runsWait p.agent .write ((placing 0).updateRuns p (.append 1 0 1 5 6 0 0)))) =
      some (false, false) ∧
    (placing 0).engineStop = false ∧ (placing 0).podPaused = false ∧
    (let s := (placing 0).onPkg fun p => { p with place := { p.place with unapplied := [(1, 0x77)] } }
     s.pkg.place.unapplied.find? (·.1 == 1) = some (1, 0x77) ∧ s.placeDesc.map (·.seqNode) = some s.node) := by
  decide +kernel

theorem witness_PageFaultPath :
    let s := regs [(5, 0x40000000)] base
    AtOnce s { g := [5], pends := 1 } true ∧ s.cur.pend = [] ∧ s.cur.reissue = false ∧ scalarTagOk 8 false (s.rg 5) = true ∧
    s.locate s.agent .read 0x40000000 8 = .absent 1 ∧ (s.core.alloc s.node 4032 64 5 1 s.cur.num).isSome = true :=
  ⟨atOnce_of (by decide +kernel), by decide +kernel, by decide +kernel, by decide +kernel, by decide +kernel, by decide +kernel⟩

theorem witness_StepRunsDecoded :
    let s := State.reset.withFetchWord 32 0x105FFFFD
    let q := s.tick.setIr 0 0
    s.turns = [] ∧ s.focusOn s.slowest = s ∧ s.runs = true ∧ FetchesFrom q 0x100000 0x100000 0x105FFFFD ∧
    decodeBytes (leBytes 4 0x105FFFFD) = some (.li false 5 0xFFFFD, []) ∧ (Instr.li false 5 0xFFFFD).wf = true ∧ isWide 0x105FFFFD = false := by
  refine ⟨by decide +kernel, focusOn_slowest (by decide +kernel), by decide +kernel, ⟨by decide +kernel, by decide +kernel, by decide +kernel, ?_⟩, by decide +kernel, by decide +kernel,
    by decide +kernel⟩
  exact pair_of (fun (_ : Nat) line => lineWord line (0x100000 % 64) = 0x105FFFFD) (by decide +kernel)

theorem witness_StepRunsDecoded_wide :
    let s := State.reset.withFetchWord 64 (0x12345678 * 2 ^ 32 + 0x7C040000)
    let r := ((s.tick.setIr 0 0).opened 0x100000 0x100000 4).setIr 0x7C040000 0
    s.focusOn s.slowest = s ∧ s.runs = true ∧ FetchesFrom (s.tick.setIr 0 0) 0x100000 0x100000 0x7C040000 ∧ FetchesFrom r 0x100004 0x100004 0x12345678 ∧ isWide 0x7C040000 = true ∧
    decodeBytes (leBytes 4 0x7C040000 ++ leBytes 4 0x12345678) = some (.lix false 8 0x12345678, []) ∧ (Instr.lix false 8 0x12345678).wf = true := by
  refine ⟨focusOn_slowest (by decide +kernel), by decide +kernel, ⟨by decide +kernel, by decide +kernel, by decide +kernel, ?_⟩,
    ⟨by decide +kernel, by decide +kernel, by decide +kernel, ?_⟩, by decide +kernel, by decide +kernel, by decide +kernel⟩
  · exact pair_of (fun (_ : Nat) line => lineWord line (0x100000 % 64) = 0x7C040000) (by decide +kernel)
  · exact pair_of (fun (_ : Nat) line => lineWord line (0x100004 % 64) = 0x12345678) (by decide +kernel)

theorem witness_StepRunsDecoded_turn : ({ base with turns := [.event .supplyDroop] } : State).turns = .event .supplyDroop :: [] ∧ ({ base with turns := [.event .supplyDroop] } : State).mayTurn .supplyDroop = true :=
  ⟨rfl, by decide +kernel⟩

/-- R2: core 1 is behind core 0, so core 0 takes no step and core 1 is the next. -/
theorem witness_StepRunsDecoded_clock :
    let s : State := { base with core := { base.core with cycle := 5 }, others := [Core.untouched 1 3] }
    (s.focusOn 0).inTime = false ∧ s.slowest = 1 ∧ (s.focusOn s.slowest).inTime = true ∧ (s.coreOf 2).cycle = 3 := by
  decide +kernel

theorem witness_DecodeEncode :
    ∀ i ∈ ([.add true 5 16 6 1 true, .lix false 31 0xFFFFFFFF, .vfma false 3 1 2 15 true, .fence true 7 1] : List Instr),
      (i.wf = true ↔ i ≠ .fence true 7 1) ∧ (encode i).isSome = true := by
  decide +kernel

theorem witness_StepKeepsMemory :
    let s := State.reset.withFetchWord 32 0x105FFFFD
    s.memOk ∧ (match step s with
      | .next t => t.cur.pc == 0x100004
      | _ => false) = true :=
  ⟨show Memory.wf _ = true by decide +kernel, by decide +kernel⟩

/-! ## One step at a time: values by hand from the definitions that the docstrings cite -/

/-- Register `r` after an outcome that is a next state. -/
def gives (o : Out) (r : BitVec 5) : Option Word := match o with
  | .next t => some (t.rg r)
  | _ => none

def pcOf (o : Out) : Option Word := match o with
  | .next t => some t.cur.pc
  | _ => none

/-- R95: 7 - (-3) = 10, and -3 times 7 is -21, whose high half is all ones signed and 6 unsigned. -/
theorem test_alu_values :
    gives (exec (.sub false 8 5 6 0 false) scal) 8 = some 10 ∧ gives (exec (.mulh false 8 5 6 0 false) scal) 8 = some 0xFFFFFFFFFFFFFFFF ∧
    gives (exec (.mulhn false 8 5 6 0 false) scal) 8 = some 6 ∧ gives (exec (.add false 8 5 6 0 false) scal) 8 = some 4 := by decide +kernel

/-- R95: a quotient by 0 is 0, and the remainder is the dividend; -3 / 7 is 0 with remainder -3. -/
theorem test_division :
    gives (exec (.div false 8 5 7 0 false) scal) 8 = some 0 ∧ gives (exec (.remn false 8 6 7 0 false) scal) 8 = some 0xFFFFFFFFFFFFFFFD ∧
    gives (exec (.div false 8 6 5 0 false) scal) 8 = some 0 ∧ gives (exec (.rem false 8 6 5 0 false) scal) 8 = some 0xFFFFFFFFFFFFFFFD := by decide +kernel

/-- R99, R101: -3 is below 7 as a signed number and above it as an unsigned one. -/
theorem test_comparisons :
    gives (exec (.setlt false 8 6 5 0 false) scal) 8 = some 1 ∧ gives (exec (.setltn false 8 6 5 0 false) scal) 8 = some 0 ∧
    gives (exec (.setgei false 8 5 7) scal) 8 = some 1 := by decide +kernel

/-- R17, R402: a chain operand takes the value that the publication carries. -/
theorem test_chain_operand : gives (exec (.add false 8 16 5 1 true) (launched id scal)) 8 = some 0x7E := by decide +kernel

theorem test_shift_counts :
    gives (exec (.shl false 8 5 6 0 false) scal) 8 = some 0xE000000000000000 ∧ gives (exec (.srai false 8 6 1) scal) 8 = some 0xFFFFFFFFFFFFFFFE ∧
    gives (exec (.roti false 8 5 1) scal) 8 = some 0x8000000000000003 := by decide +kernel

/-- R98, R100: constants and bit fields. -/
theorem test_constants :
    gives (exec (.li false 8 0xFFFFD) base) 8 = some 0xFFFFFFFFFFFFFFFD ∧ gives (exec (.lsh false 5 0x12345) scal) 5 = some 0x712345 ∧
    gives (exec (.addpc false 8 0xFFFFF) base) 8 = some 0xFFFFC ∧ gives (exec (.bfx false 8 6 0 3) scal) 8 = some 0xD := by decide +kernel

/-- R102, R103: a branch backwards, one that falls through, a call, a counted loop. -/
theorem test_branches :
    pcOf (exec (.bltz false 6 0xFFFF) scal) = some 0xFFFFC ∧ pcOf (exec (.bltz false 5 0xFFFF) scal) = some 0x100004 ∧
    gives (exec (.jal false 2) base) 31 = some 0x100004 ∧ pcOf (exec (.dbnz false 5 2) scal) = some 0x100008 := by decide +kernel

/-- The value that a load leaves pending. -/
def pendingOf (o : Out) : List PendWrite := match o with
  | .next t => t.cur.pend.map (·.wr)
  | _ => []

/-- R19, R104, R206: a byte and two bytes of memory, extended, pending until a settle; the register itself is unchanged. -/
theorem test_loads :
    pendingOf (exec (.ldI8 false 8 6 7) (memS 0x240)) = [.g 8 0xFFFFFFFFFFFFFF88] ∧
    pendingOf (exec (.ldN16 false 8 6 1) (memS 0x240)) = [.g 8 0x4433] ∧ gives (exec (.ldI64 false 8 6 0) (memS 0x240)) 8 = some 0 := by decide +kernel

/-- R207: the low two bytes, little-endian; the byte behind them stays. -/
theorem test_store :
    (match exec (.st16 false 5 6 1) (memS 0x240) with
      | .next t => (List.range 4).map fun i => Memory.get t.mem (0x241 + i)
      | _ => []) = [0x22, 0x10, 0x32, 0x55] := by decide +kernel

/-- R209: the old value pending for g d, the sum in memory. -/
theorem test_atomic :
    let o := exec (.amoadd false 8 6 7 0 0) (memS 0x240)
    pendingOf o = [.g 8 0x8877665544332211] ∧ Memory.getN (outOf o).mem 0x240 8 = 0x887766554433220E := by decide +kernel

/-- R251, R253: the handler's PC, its g registers zero. -/
theorem test_trap :
    pcOf (exec (.trap false 5) (handled scal)) = some 0x100400 ∧ gives (exec (.trap false 5) (handled scal)) 5 = some 0 := by decide +kernel

/-- R76: WRS of a supervisor index in user mode goes to the handler. -/
theorem test_privilege : pcOf (exec (.wrsProfile false 5) (user (handled scal))) = some 0x100400 := by decide +kernel

/-- R112, R79: 0x80 + 0x80 wraps to 0 in 8 bits; with saturation -128 + -128 is -128. -/
theorem test_vector_add :
    let s := vec 1 2 4 7 0x80 base
    (outOf (exec (.vadd false 4 1 2 0 true) s)).elt 4 8 0 = 0 ∧ (outOf (exec (.vadds false 4 1 2 0 true) s)).elt 4 8 0 = 0x80 := by decide +kernel

/-- R116: 1.0 + 1.0 = 2.0 and 1.0 / 2.0 = 0.5 in FP32. -/
theorem test_vector_float :
    let s := vec 0x10 2 4 7 (words [0x3F800000]) (two 0x40000000 0 base)
    (outOf (exec (.vfadd false 4 1 2 0 true) s)).elt 4 32 0 = 0x40000000 ∧ (outOf (exec (.vfdivG false 4 1 5 0 true) s)).elt 4 32 0 = 0x3F000000 := by
  decide +kernel

/-- R137: 1 + 2 + ... + 7 in the first element. -/
theorem test_reduction :
    (outOf (exec (.vredsum false 4 1 0 true false) (vec 5 2 4 7 (words [1, 2, 3, 4, 5, 6, 7, 99]) base))).elt 4 32 0 = 28 := by decide +kernel

/-- R127: 40 rows of 100 columns are cut to 32 of 32. -/
theorem test_setl : gives (exec (.setl false 8 5 6) (vec 5 2 4 7 0 (two 40 100 base))) 8 = some 1024 := by decide +kernel

/-- R152, R160: the status of a signalled token is 0. -/
theorem test_token_status : gives (exec (.tokt false 8 5) (signalled (celled 1 base))) 8 = some 0 := by decide +kernel

/-- R13, R31: a step fetches, decodes and runs the word at the PC. -/
theorem test_step :
    (match step (State.reset.withFetchWord 32 0x105FFFFD) with
      | .next t => (t.rg 5, t.cur.pc)
      | _ => (0, 0)) = (0xFFFFFFFFFFFFFFFD, 0x100004) := by decide +kernel

end Sys2Proof.Tests
end

section
/-! SUPPORT. `rds` (R76, R105): the frame of an instruction that names a special register, and what clearing RC fields keeps. -/

namespace Sys2Proof.Machine

/-- The RDS and WRS words issue as the instructions of 4 bytes do, when their effect completes. -/
theorem issueSpecial_ok {s t : State} {u : Use} {st : Bool} {x : BitVec 12} {body : State → Res} (h : AtOnce s u st) (hb : body s = .ok t)
    (hr : t.core.running = true) (he : t.core.exact = false) (hp : st = true → t.cur.Calm) :
    Gives (issueSpecial st u x body s) (t.after4 st) := by
  have hi : issueSpecial st u x body s = issue st 4 u body s := by
    simp only [issueSpecial, issue, gate_atOnce h, hb, Res.naming]
  rw [hi]
  exact issue_at h hb hr he hp

/-- A trap that an RDS or WRS word raises names the special (R257). -/
theorem issueSpecial_raise {s : State} {u : Use} {st : Bool} {x : BitVec 12} {body : State → Res} {c : BitVec 8}
    (h : s.gate u body = s.raise c 0) :
    issueSpecial st u x body s = .next (s.unwait.takeTrap { mkTrap c (x.setWidth 64) with rclass := 5 }) := by
  rw [issueSpecial, h]
  rfl

/-- A privileged word in user mode (R76). -/
theorem gate_user {s : State} {u : Use} {body : State → Res} (hu : u.priv = true) (hs : s.cur.priv = false) :
    s.gate u body = s.raise 0x02 0 := by
  simp [State.gate, hu, hs]

/-- Clearing RC fields leaves what the frame of an instruction looks at. -/
theorem clearRead_kept (s : State) (x : BitVec 12) : ChainKept (s.clearRead x) s := by
  unfold State.clearRead
  split <;> exact ⟨rfl, rfl, rfl, rfl, rfl, fun _ => rfl⟩

/-- Settles O14: the gate opens at once, and the two answers of `rds` are the branches of its effect; below the privilege it does
not open. -/
theorem readSpecial : Obligations.ReadSpecial := by
  intro s st d x
  refine ⟨fun h => ?_, fun hx hs => ?_⟩
  · have hq : s.vqNow = s := vqNow_idle h.idle
    refine ⟨fun v hv => ?_, fun hv => ?_⟩
    · obtain ⟨hrun, hexact, -⟩ := clearRead_kept s x
      exact issueSpecial_ok h (by simp only [hq, hv]) (hrun.trans h.running) (hexact.trans h.untraced)
        fun hs => wg_calm ((clearRead_kept s x).calm (h.calm hs)) d v
    · refine issueSpecial_raise ?_
      rw [gate_atOnce h]
      simp only [hq, hv, State.illegal]
  · exact issueSpecial_raise (gate_user (decide_eq_true hx) hs)

end Sys2Proof.Machine
end

section
/-! SUPPORT. The turns of the board (R9, R419-R434): what each answers when it is enabled, one group for each unit. -/

namespace Sys2Proof.Machine

/-- A turn that is enabled. -/
theorem evOut_pos {c : Prop} [Decidable c] {n : String} {t : State} (h : c) : evOut n (if c then some t else none) = .next t := by
  rw [if_pos h]; rfl

/-- A turn whose obstacle is absent. -/
theorem evOut_neg {c : Prop} [Decidable c] {n : String} {t : State} (h : ¬c) : evOut n (if c then none else some t) = .next t := by
  rw [if_neg h]; rfl

/-- A change of the package depends on what it makes of the package alone. -/
theorem onPkg_congr {s : State} {f g : Package → Package} (h : f s.pkg = g s.pkg) : s.onPkg f = s.onPkg g := by
  simp only [State.onPkg, h]

/-! ## Supply and temperature (R425-R429, R434) -/

theorem exec_supplyDroop {s : State} (h : s.pkg.pwr = 0) : exec .supplyDroop s = .next (s.setPwr 1 id) := evOut_pos h

theorem exec_stretchRecovery {s : State} (h : s.pkg.pwr = 1) : exec .stretchRecovery s = .next (s.setPwr 0 id) := evOut_pos h

theorem exec_rideEntry {s : State} (h : s.pkg.pwr = 1) :
    exec .rideEntry s = .next (s.setPwr 2 fun p => { p.goRide with rides := satInc p.rides }) := evOut_pos h

theorem exec_quiesceEntry {s : State} (h : s.pkg.pwr = 1 ∨ s.pkg.pwr = 2) : exec .quiesceEntry s = .next s.enterQuiesce := evOut_pos h

theorem exec_thermalQuiesce {s : State} (h : s.pkg.pwr < 3) : exec .thermalQuiesce s = .next s.enterQuiesce := evOut_pos h

/-- In a state that is neither RIDE nor QUIESCE, only a thermal Ride keeps ACTIVE from SEL (R434). -/
theorem goSel_of_pwr {p : Package} (h2 : p.pwr ≠ 2) (h3 : p.pwr ≠ 3) :
    p.goSel = { p with profileNext := if p.thermalRide then p.profileNext else some p.sel } := by
  simp [Package.goSel, h2, h3]

/-- Without a thermal Ride, RIDE and QUIESCE alone keep ACTIVE from SEL (R434). -/
theorem goSel_of_cool {p : Package} (h : p.thermalRide = false) :
    p.goSel = { p with profileNext := if p.pwr = 2 ∨ p.pwr = 3 then p.profileNext else some p.sel } := by
  simp [Package.goSel, h]

theorem exec_rideRecovery {s : State} (h : s.pkg.pwr = 2) :
    exec .rideRecovery s =
      .next (s.setPwr 0 fun p => { p with profileNext := if s.pkg.thermalRide then p.profileNext else some p.sel }) := by
  refine (evOut_pos h).trans (congrArg (fun t : State => Host.Outcome.next (t.notify 3)) ?_)
  exact onPkg_congr (goSel_of_pwr (p := { s.pkg with pwr := 0 }) (by simp) (by simp))

theorem exec_thermalRide {s : State} (hp : s.pkg.pwr ≠ 4) (ht : s.pkg.thermalRide = false) :
    exec .thermalRide s = .next (s.onPkg fun p => { p.goRide with thermalRide := true }) :=
  evOut_pos ⟨by rw [ht]; rfl, hp⟩

theorem exec_thermalReturn {s : State} (hp : s.pkg.pwr ≠ 4) (ht : s.pkg.thermalRide = true) :
    exec .thermalReturn s =
      .next (s.onPkg fun p =>
        { p with thermalRide := false, profileNext := if s.pkg.pwr = 2 ∨ s.pkg.pwr = 3 then p.profileNext else some p.sel }) := by
  exact (evOut_pos ⟨ht, hp⟩).trans
    (congrArg Host.Outcome.next (onPkg_congr (goSel_of_cool (p := { s.pkg with thermalRide := false }) rfl)))

/-- Every strand is in the Basin, and the buffered reduce-adds have been added (R429). -/
def State.quiesced (s : State) : State :=
  [0, 1, 2, 3].foldl (fun s d => s.drainDie d fun _ => true) (s.quiesceStrands.arriveReduces fun _ => true)

theorem exec_quiesceComplete {s : State} (hp : s.pkg.pwr = 3) (hr : ∀ c ∈ s.quiesced.cores, c.running = false) :
    exec .quiesceComplete s =
      .next ((({ s.quiesced with
        clusters := s.quiesced.clusters.map Cluster.dropFaulty
        dies := s.quiesced.dies.map fun d => { d with slotsOut := [], l2Lines := [] } } : State).onPkg
          fun p => p.spareRows (Config.freeWait s.quiesced.free)).setPwr 4 id) := by
  refine evOut_neg (c := s.pkg.pwr ≠ 3 ∨ s.quiesced.cores.any (·.running)) ?_
  simpa [hp] using hr

theorem exec_heldRestart {s : State} (h : s.pkg.pwr = 4) :
    exec .heldRestart s =
      .next ((((s.setPwr 0 fun p => { p with thermalRide := false, profileNext := some p.sel }).cores.map (·.cid)).foldl State.liftCore
        (s.setPwr 0 fun p => { p with thermalRide := false, profileNext := some p.sel })).reHealth) := evOut_pos h

theorem exec_profileSwitch {s : State} {x : BitVec 2} (h : s.pkg.profileNext = some x) :
    exec .profileSwitch s =
      .next (s.onPkg fun p => { p with profile := (p.profile &&& ~~~0x300#64) ||| (x.setWidth 64 <<< 8), profileNext := none }) := by
  show evOut _ s.evProfile = _
  rw [State.evProfile, h]
  rfl

theorem exec_burstClockChange {s : State} {fast : Bool} (ha : s.pkg.active = 2) (hf : s.pkg.burstFast ≠ fast) :
    exec (.burstClockChange fast) s = .next (s.onPkg fun p => { p with burstFast := fast }) := evOut_pos ⟨ha, hf⟩

/-! ## Boot (R423, R431) -/

theorem stageAccepted_iff {i : StageImage} {fuse : Nat} :
    stageAccepted i fuse = true ↔ i.ed25519Ok = true ∧ i.mldsaOk = true ∧ fuse ≤ i.version := by
  simp [stageAccepted, and_assoc]

/-- The three measurements fill the vector. -/
theorem toList_measured {α : Type} (v : Vector α 3) (x y z : α) :
    (((v.setIfInBounds 0 x).setIfInBounds 1 y).setIfInBounds 2 z).toList = [x, y, z] := by
  apply List.ext_getElem
  · simp
  · intro i _ hi
    match i, hi with
    | 0, _ | 1, _ | 2, _ => simp

/-- Three accepted images run, and their digests are the measurements. -/
theorem stages_allAccepted {k : Boot} {a b c : StageImage} (h0 : k.stage = 0) (hf : k.failed = none) (ha : stageAccepted a k.fuse = true)
    (hb : stageAccepted b k.fuse = true) (hc : stageAccepted c k.fuse = true) :
    (k.stages [a, b, c]).stage = 3 ∧ (k.stages [a, b, c]).failed = none ∧
      (k.stages [a, b, c]).meas.toList = [a.digest, b.digest, c.digest] := by
  simp only [Boot.stages, ha, hb, hc, if_true, h0, hf]
  exact ⟨trivial, trivial, toList_measured ..⟩

/-- A second image that is not accepted stops the boot behind the first. -/
theorem stages_secondRefused {k : Boot} {a b c : StageImage} (h0 : k.stage = 0) (ha : stageAccepted a k.fuse = true)
    (hb : ¬stageAccepted b k.fuse = true) : (k.stages [a, b, c]).stage = 1 ∧ (k.stages [a, b, c]).failed = some 2 := by
  simp only [Boot.stages, ha, hb, if_true, Bool.false_eq_true, if_false, h0]
  exact ⟨trivial, trivial⟩

/-- A cold start runs the stages; without a self-test that is due, or without all stages, nothing else happens. -/
theorem exec_powerUp {s : State} {a b c : StageImage} (r : SelfTestResult) (h0 : s.pkg.boot.stage = 0) (hf : s.pkg.boot.failed = none)
    (ht : (s.pkg.boot.stages [a, b, c]).failed.isNone = false ∨ s.pkg.testDue = false) :
    exec (.powerUp [a, b, c] r) s = .next (s.onPkg fun p => { p with boot := p.boot.stages [a, b, c] }) := by
  refine (evOut_neg (c := s.pkg.boot.stage ≠ 0 ∨ s.pkg.boot.failed.isSome ∨ [a, b, c].length ≠ 3) (by simp [h0, hf])).trans ?_
  refine congrArg Host.Outcome.next (if_neg ?_)
  rw [Bool.and_eq_true]
  rintro ⟨h1, h2⟩
  rcases ht with h | h
  · exact Bool.false_ne_true (h.symm.trans h1)
  · exact Bool.false_ne_true (h.symm.trans h2)

/-- The boot of three accepted images, with no self-test due. -/
theorem exec_powerUp_allAccepted {s : State} {a b c : StageImage} (r : SelfTestResult) (h0 : s.pkg.boot.stage = 0)
    (hf : s.pkg.boot.failed = none) (ha : stageAccepted a s.pkg.boot.fuse = true) (hb : stageAccepted b s.pkg.boot.fuse = true)
    (hc : stageAccepted c s.pkg.boot.fuse = true) (ht : s.pkg.testDue = false) :
    ∃ t, exec (.powerUp [a, b, c] r) s = .next t ∧ t.pkg.boot.stage = 3 ∧ t.pkg.boot.failed = none ∧
      t.pkg.boot.meas.toList = [a.digest, b.digest, c.digest] :=
  ⟨_, exec_powerUp r h0 hf (.inr ht), stages_allAccepted h0 hf ha hb hc⟩

/-- The boot that the second image stops. -/
theorem exec_powerUp_secondRefused {s : State} {a b c : StageImage} (r : SelfTestResult) (h0 : s.pkg.boot.stage = 0)
    (hf : s.pkg.boot.failed = none) (ha : stageAccepted a s.pkg.boot.fuse = true) (hb : ¬stageAccepted b s.pkg.boot.fuse = true) :
    ∃ t, exec (.powerUp [a, b, c] r) s = .next t ∧ t.pkg.boot.stage = 1 ∧ t.pkg.boot.failed = some 2 := by
  have hs := stages_secondRefused (c := c) h0 ha hb
  exact ⟨_, exec_powerUp r h0 hf (.inl (by rw [hs.2]; rfl)), hs⟩

theorem testDue_false {p : Package} (hs : p.shocks = p.shocksTested) (ht : p.tested = true) : p.testDue = false := by
  simp [Package.testDue, hs, ht]

/-! ## The host's accesses (R419) -/

theorem length_leBytes (n v : Nat) : (leBytes n v).length = n := by
  induction n generalizing v with
  | zero => rfl
  | succ n ih => rw [leBytes, List.length_cons, ih]

theorem hostMay_pos {s : State} {off len : Nat} (h : s.hostMay off len = true) : 0 < len := by
  simp only [State.hostMay, Bool.and_eq_true, decide_eq_true_eq] at h
  exact h.1.1.1.1.1

/-- An access that can be made does what the place of its offset says. -/
theorem exec_hostMemoryAccess {s : State} {w : Bool} {off len : Nat} {data : BitVec 512} (h : s.hostMay off len = true) :
    exec (.hostMemoryAccess w off len data) s =
      .next (if 2 ^ 32 ≤ off then
          if w then s.hostMemWrite (off - 2 ^ 32) (leBytes len data.toNat)
          else (s.hostMemRead (off - 2 ^ 32) len).1.hostAnswer (s.hostMemRead (off - 2 ^ 32) len).2
        else if !w then s.fresh.hostAnswer ((List.range len).map fun i => s.hostWinByte (off + i))
        else if off + len ≤ 0x200000 then s.hostLaunchWrite off (leBytes len data.toNat)
        else if 0x200000 ≤ off ∧ off + len ≤ 0x201000 then s.hostMailboxWrite (off - 0x200000) (leBytes len data.toNat)
        else s) := by
  show evOut _ (s.evHost w off len data) = _
  simp only [State.evHost, h, Bool.not_true, Bool.false_eq_true, if_false, ← apply_ite some]
  rfl

/-- A write that reaches the doorbell rings it. -/
theorem hostMailboxWrite_eq {s : State} {off : Nat} (h : 0x200000 ≤ off) (bs : List Byte) :
    s.hostMailboxWrite (off - 0x200000) bs =
      if off < 0x200088 ∧ 0x200080 < off + bs.length then
        (s.onPkg fun p => { p with mailbox := p.mailbox.hostWrite (off - 0x200000) bs }).ringMailbox
      else s.onPkg fun p => { p with mailbox := p.mailbox.hostWrite (off - 0x200000) bs } := by
  have hc : (off - 0x200000 < 0x88 ∧ 0x80 < off - 0x200000 + bs.length) ↔ off < 0x200088 ∧ 0x200080 < off + bs.length := by omega
  simp only [State.hostMailboxWrite, hc]

section
variable {s : State} {off len : Nat} {data : BitVec 512} (h : s.hostMay off len = true)
include h

theorem exec_hostWrite_memory (hm : 2 ^ 32 ≤ off) :
    exec (.hostMemoryAccess true off len data) s = .next (s.hostMemWrite (off - 2 ^ 32) (leBytes len data.toNat)) := by
  rw [exec_hostMemoryAccess h, if_pos hm, if_pos rfl]

theorem exec_hostRead_memory (hm : 2 ^ 32 ≤ off) :
    exec (.hostMemoryAccess false off len data) s =
      .next ((s.hostMemRead (off - 2 ^ 32) len).1.hostAnswer (s.hostMemRead (off - 2 ^ 32) len).2) := by
  rw [exec_hostMemoryAccess h, if_pos hm, if_neg Bool.false_ne_true]

theorem exec_hostRead_window (hw : off < 2 ^ 32) :
    exec (.hostMemoryAccess false off len data) s = .next (s.fresh.hostAnswer ((List.range len).map fun i => s.hostWinByte (off + i))) := by
  rw [exec_hostMemoryAccess h, if_neg (Nat.not_le.mpr hw), Bool.not_false, if_pos rfl]

theorem exec_hostWrite_launch (hw : off + len ≤ 0x200000) :
    exec (.hostMemoryAccess true off len data) s = .next (s.hostLaunchWrite off (leBytes len data.toNat)) := by
  rw [exec_hostMemoryAccess h, if_neg (by omega), Bool.not_true, if_neg Bool.false_ne_true, if_pos hw]

theorem exec_hostWrite_mailbox (h1 : 0x200000 ≤ off) (h2 : off + len ≤ 0x201000) :
    exec (.hostMemoryAccess true off len data) s = .next (s.hostMailboxWrite (off - 0x200000) (leBytes len data.toNat)) := by
  have := hostMay_pos h
  rw [exec_hostMemoryAccess h, if_neg (by omega), Bool.not_true, if_neg Bool.false_ne_true, if_neg (by omega), if_pos ⟨h1, h2⟩]

theorem exec_hostWrite_beyond (h1 : 0x201000 ≤ off) (h2 : off < 2 ^ 32) : exec (.hostMemoryAccess true off len data) s = .next s := by
  have := hostMay_pos h
  rw [exec_hostMemoryAccess h, if_neg (by omega), Bool.not_true, if_neg Bool.false_ne_true, if_neg (by omega), if_neg (by omega)]

end

/-! ## Fimet's commands (R422) -/

/-- Fimet performs the command whose code the request holds. -/
theorem command_asked {s : State} {code : Nat} (f : State → State × Nat) (hc : s.pkg.commands = true) (h : s.pkg.mailbox.last.toNat = code) :
    s.command code f = some ((f s).1.respond (f s).2) := by
  simp [State.command, hc, h]

/-- Fimet answers status 2 to a request with no code of R422. -/
theorem command_unknown {s : State} {code : Nat} (f : State → State × Nat) (hc : s.pkg.commands = true)
    (h : s.pkg.mailbox.last.toNat = 0 ∨ 7 < s.pkg.mailbox.last.toNat) (hn : 1 ≤ code ∧ code ≤ 7) :
    s.command code f = some (s.respond 2) := by
  simp only [State.command, hc, Bool.not_true, Bool.false_eq_true, if_false]
  rw [if_neg (by omega), if_neg (by omega)]

/-- Two states with the same translations and the same extents. -/
def SameMaps (t s : State) : Prop := t.tlb = s.tlb ∧ t.pkg.extents = s.pkg.extents

theorem SameMaps.trans {a b c : State} (h : SameMaps a b) (k : SameMaps b c) : SameMaps a c := ⟨h.1.trans k.1, h.2.trans k.2⟩

theorem onPkg_sameMaps {s : State} {f : Package → Package} (h : (f s.pkg).extents = s.pkg.extents) : SameMaps (s.onPkg f) s := ⟨rfl, h⟩

theorem notify_sameMaps (s : State) (v : Nat) : SameMaps (s.notify v) s := by
  unfold State.notify
  split
  · split
    · exact ⟨rfl, rfl⟩
    · exact onPkg_sameMaps rfl
  · exact ⟨rfl, rfl⟩

theorem reHealth_sameMaps (s : State) (b : Bool) : SameMaps (s.reHealth b) s := by
  unfold State.reHealth
  extract_lets w
  split
  · exact ⟨rfl, rfl⟩
  · exact (notify_sameMaps _ 2).trans (onPkg_sameMaps rfl)

/-- An answer changes neither. -/
theorem respond_sameMaps (s : State) (n : Nat) : SameMaps (s.respond n) s := by
  unfold State.respond
  extract_lets t
  have ht : SameMaps t s := (notify_sameMaps _ 1).trans (onPkg_sameMaps rfl)
  split
  · exact (reHealth_sameMaps t false).trans ht
  · exact ht

theorem exec_attest {s : State} {addr : Nat} {nonce : BitVec 256} (hc : s.pkg.commands = true) (h : s.pkg.mailbox.last.toNat = 1) :
    exec (.attest addr nonce) s =
      .next (if isHost addr && s.backed addr && isHost (addr + (s.pkg.signedReport nonce).length - 1) &&
          s.backed (addr + (s.pkg.signedReport nonce).length - 1) then (s.hostMemWrite addr (s.pkg.signedReport nonce)).respond 0
        else s.respond 3) := by
  refine (congrArg (evOut "ATTEST") (command_asked _ hc h)).trans (congrArg Host.Outcome.next ?_)
  dsimp only
  split <;> rfl

/-- A report to an address outside the host window is a bad argument. -/
theorem exec_attest_elsewhere {s : State} {addr : Nat} {nonce : BitVec 256} (hc : s.pkg.commands = true) (h : s.pkg.mailbox.last.toNat = 1)
    (ha : isHost addr = false) : exec (.attest addr nonce) s = .next (s.respond 3) := by
  rw [exec_attest hc h, ha]
  rfl

/-- A report whose first and last byte the host backs is written there. -/
theorem exec_attest_host {s : State} {addr : Nat} {nonce : BitVec 256} (hc : s.pkg.commands = true) (h : s.pkg.mailbox.last.toNat = 1)
    (ha : isHost addr = true) (hb : s.backed addr = true) (ha' : isHost (addr + (s.pkg.signedReport nonce).length - 1) = true)
    (hb' : s.backed (addr + (s.pkg.signedReport nonce).length - 1) = true) :
    exec (.attest addr nonce) s = .next ((s.hostMemWrite addr (s.pkg.signedReport nonce)).respond 0) := by
  rw [exec_attest hc h, if_pos (by rw [ha, hb, ha', hb']; rfl)]

/-- What EXTENTADD refuses as a bad argument (R367). -/
def State.badExtent (s : State) (off size : Nat) : Prop :=
  off % 2 ^ 28 ≠ 0 ∨ size % 2 ^ 28 ≠ 0 ∨ size = 0 ∨ 2 ^ 43 < off + size ∨ ∃ e ∈ s.pkg.extents, off < e.1 + e.2 ∧ e.1 < off + size

theorem badExtent_iff {s : State} {off size : Nat} :
    (off % 2 ^ 28 ≠ 0 ∨ size % 2 ^ 28 ≠ 0 ∨ size = 0 ∨ 0x80000000000 < off + size ∨
      (s.pkg.extents.any fun e => decide (off < e.1 + e.2) && decide (e.1 < off + size)) = true) ↔ s.badExtent off size := by
  simp only [State.badExtent, List.any_eq_true, Bool.and_eq_true, decide_eq_true_eq, Nat.reducePow]

/-- EXTENTADD in its three cases. -/
theorem exec_extentadd {s : State} {off size : Nat} (hc : s.pkg.commands = true) (h : s.pkg.mailbox.last.toNat = 2) :
    (s.badExtent off size → exec (.extentadd off size) s = .next (s.respond 3)) ∧
    (¬s.badExtent off size → 8192 * 10 ^ 9 < s.pkg.mapped + size → exec (.extentadd off size) s = .next (s.respond 1)) ∧
    (¬s.badExtent off size → s.pkg.mapped + size ≤ 8192 * 10 ^ 9 →
      exec (.extentadd off size) s = .next ((s.onPkg fun p => { p with extents := p.extents ++ [(off, size)] }).respond 0)) := by
  have he : exec (.extentadd off size) s = evOut "EXTENTADD" (s.evExtentAdd off size) := rfl
  rw [he, State.evExtentAdd, command_asked _ hc h]
  refine ⟨fun hb => ?_, fun hb hm => ?_, fun hb hm => ?_⟩
  · rw [if_pos (badExtent_iff.mpr hb)]; rfl
  · rw [if_neg (mt badExtent_iff.mp hb), if_pos hm]; rfl
  · rw [if_neg (mt badExtent_iff.mp hb), if_neg (Nat.not_lt.mpr hm)]; rfl

/-- No access under way has translated its address. -/
theorem flight_none {s : State} (h : ∀ m ∈ s.flight, m.translated.any isGlobalKey = false) :
    ¬(s.flight.any fun m => m.translated.any isGlobalKey) = true := by
  rw [Bool.not_eq_true, List.any_eq_false]
  exact fun m hm => by rw [h m hm]; exact Bool.false_ne_true

/-- EXTENTREL of an offset at which no extent starts. -/
theorem exec_extentrel_absent {s : State} {off : Nat} (hc : s.pkg.commands = true) (h : s.pkg.mailbox.last.toNat = 3)
    (hf : ∀ m ∈ s.flight, m.translated.any isGlobalKey = false) (he : s.pkg.extents.find? (·.1 == off) = none) :
    exec (.extentrel off) s = .next (s.respond 3) := by
  have hx : exec (.extentrel off) s = evOut "EXTENTREL" (s.evExtentRel off) := rfl
  rw [hx, State.evExtentRel, if_neg (flight_none hf), command_asked _ hc h]
  simp only [he]
  rfl

/-- EXTENTREL drops every translation and the extent. -/
theorem exec_extentrel_found {s : State} {off : Nat} {e : Nat × Nat} (hc : s.pkg.commands = true) (h : s.pkg.mailbox.last.toNat = 3)
    (hf : ∀ m ∈ s.flight, m.translated.any isGlobalKey = false) (he : s.pkg.extents.find? (·.1 == off) = some e) :
    ∃ t, exec (.extentrel off) s = .next t ∧ t.tlb = [] ∧ t.pkg.extents = s.pkg.extents.filter (· != e) := by
  have hx : exec (.extentrel off) s = evOut "EXTENTREL" (s.evExtentRel off) := rfl
  rw [hx, State.evExtentRel, if_neg (flight_none hf), command_asked _ hc h]
  simp only [he]
  obtain ⟨ht, hp⟩ := respond_sameMaps _ _
  exact ⟨_, rfl, ht.trans rfl, hp.trans rfl⟩

theorem exec_setvec {s : State} {vec : Nat} {addr : Word} {data : BitVec 32} (hc : s.pkg.commands = true) (h : s.pkg.mailbox.last.toNat = 4) :
    exec (.setvec vec addr data) s =
      .next (if 4 ≤ vec then s.respond 3
        else (s.onPkg fun p => { p with vectors := p.vectors.setIfInBounds vec ⟨addr, data⟩ }).respond 0) := by
  refine (congrArg (evOut "SETVEC") (command_asked _ hc h)).trans (congrArg Host.Outcome.next ?_)
  split <;> rfl

theorem exec_mbxProfile {s : State} {sel : BitVec 2} (hc : s.pkg.commands = true) (h : s.pkg.mailbox.last.toNat = 5) :
    exec (.mbxProfile sel) s = .next (if sel = 3 then s.respond 3 else (s.onPkg (·.select sel)).respond 0) := by
  refine (congrArg (evOut "MBX_PROFILE") (command_asked _ hc h)).trans (congrArg Host.Outcome.next ?_)
  split <;> rfl

theorem exec_debugstop {s : State} {core : Nat} {stop : Bool} (hc : s.pkg.commands = true) (h : s.pkg.mailbox.last.toNat = 6)
    (hn : core < 1536) (hs : (s.coreOf core).inService = true) :
    exec (.debugstop core stop) s =
      .next ((s.onCore core fun c =>
        if stop then { c with stopWanted := true } else { c with stopWanted := false, stopped := false }).respond 0) := by
  have hx : exec (.debugstop core stop) s = evOut "DEBUGSTOP" (s.evDebug core stop) := rfl
  have hok : ¬(Config.coresPerPackage ≤ core ∨ (!(s.coreOf core).inService) = true) := by
    rw [hs]
    rintro (h1 | h1)
    · exact absurd hn (Nat.not_lt.mpr h1)
    · exact Bool.false_ne_true h1
  rw [hx, State.evDebug, command_asked _ hc h]
  simp only [if_neg hok]
  rfl

theorem exec_selftest {s : State} {t : SelfTestResult} (hc : s.pkg.commands = true) (h : s.pkg.mailbox.last.toNat = 7) (hp : s.pkg.pwr = 0) :
    exec (.selftest t) s = .next ((s.selfTest t).respond 0) := by
  have hx : exec (.selftest t) s = evOut "SELFTEST" (s.evSelftest t) := rfl
  rw [hx, State.evSelftest, if_neg (not_not_intro hp), command_asked _ hc h]
  rfl

/-- FUSE_VERSION_ADVANCE answers a request with no code of R422. -/
theorem exec_fuseVersionAdvance {s : State} {v : Nat} (hc : s.pkg.commands = true)
    (h : s.pkg.mailbox.last.toNat = 0 ∨ 7 < s.pkg.mailbox.last.toNat) (hv : s.pkg.boot.fuse < v) (hr : s.pkg.boot.version ≤ v) :
    exec (.fuseVersionAdvance v) s = .next ((s.onPkg fun p => { p with boot := { p.boot with fuse := v } }).respond 0) := by
  refine evOut_pos ⟨hc, ?_, hv, hr⟩
  simp only [Bool.not_eq_true', decide_eq_false_iff_not]
  omega

theorem exec_attest_unknown {s : State} {addr : Nat} {nonce : BitVec 256} (hc : s.pkg.commands = true)
    (h : s.pkg.mailbox.last.toNat = 0 ∨ 7 < s.pkg.mailbox.last.toNat) : exec (.attest addr nonce) s = .next (s.respond 2) := by
  have hx : exec (.attest addr nonce) s = evOut "ATTEST" (s.evAttest addr nonce) := rfl
  rw [hx, State.evAttest, command_unknown _ hc h (by decide)]
  rfl

/-- Settles O54: each turn of the board answers as the lemmas above say, each under the code of its request. -/
theorem boardEvents : Obligations.BoardEvents := by
  intro s pwr ride thermal enter
  refine ⟨exec_supplyDroop, fun h => ⟨exec_stretchRecovery h, exec_rideEntry h⟩, exec_quiesceEntry, exec_rideRecovery, exec_thermalQuiesce,
    exec_quiesceComplete, exec_heldRestart, fun h => ⟨exec_thermalRide h, exec_thermalReturn h⟩, fun x => exec_profileSwitch,
    fun fast => exec_burstClockChange, fun mg => rfl, ⟨_, rfl, rfl, rfl, rfl, rfl, rfl, rfl, rfl, rfl, rfl, rfl⟩,
    ⟨_, rfl, rfl, rfl, rfl, rfl, rfl, rfl, rfl⟩, fun a b c r h0 hf => ⟨fun ha hb hc hs ht => ?_, fun ha hb => ?_⟩, ?_, fun hc => ?_⟩
  · exact exec_powerUp_allAccepted r h0 hf (stageAccepted_iff.mpr ha) (stageAccepted_iff.mpr hb) (stageAccepted_iff.mpr hc) (testDue_false hs ht)
  · exact exec_powerUp_secondRefused r h0 hf (stageAccepted_iff.mpr ha) (mt stageAccepted_iff.mp hb)
  · intro off len data h bs
    refine ⟨fun hm => ⟨exec_hostWrite_memory h hm, exec_hostRead_memory h hm⟩, exec_hostRead_window h, exec_hostWrite_launch h,
      fun h1 h2 => ?_, exec_hostWrite_beyond h⟩
    rw [exec_hostWrite_mailbox h h1 h2, hostMailboxWrite_eq h1, length_leBytes]
  · exact ⟨fun h => ⟨fun v => exec_fuseVersionAdvance hc h, fun addr nonce => exec_attest_unknown hc h⟩,
      fun h addr nonce => ⟨exec_attest_elsewhere hc h, exec_attest_host hc h⟩, fun h off size => exec_extentadd hc h,
      fun h hf off => ⟨exec_extentrel_absent hc h hf, fun e => exec_extentrel_found hc h hf⟩, fun h vec addr data => exec_setvec hc h,
      fun h sel => exec_mbxProfile hc h, fun h core hn hs => ⟨exec_debugstop hc h hn hs, exec_debugstop hc h hn hs⟩,
      fun h t hp => exec_selftest hc h hp⟩

end Sys2Proof.Machine
end

section
/-! SUPPORT. Fetch and step (R13, R31, R195): what a word in the instruction cache fetches as, what the bytes of words decode to, and
what the step of a core that runs does with them; and the machine after reset (R9, R72, R73). -/

namespace Sys2Proof.Machine

/-! ## The bytes of words -/

theorem toNat_append_add {m n : Nat} (x : BitVec m) (y : BitVec n) : (x ++ y).toNat = x.toNat * 2 ^ n + y.toNat := by
  rw [BitVec.toNat_append, ← Nat.shiftLeft_add_eq_or_of_lt y.isLt, Nat.shiftLeft_eq]

/-- The bytes of a word, put together again, are the word. -/
theorem wordOfBytes_split (w : BitVec 32) :
    wordOfBytes (BitVec.ofNat 8 w.toNat) (BitVec.ofNat 8 (w.toNat / 256)) (BitVec.ofNat 8 (w.toNat / 256 / 256))
      (BitVec.ofNat 8 (w.toNat / 256 / 256 / 256)) = w := by
  apply BitVec.eq_of_toNat_eq
  have hw := w.isLt
  simp only [wordOfBytes, toNat_append_add, BitVec.toNat_ofNat]
  omega

/-- The bytes of one word that is not `WIDE` decode as that word (R13). -/
theorem decodeBytes_word {w : BitVec 32} {i : Instr} (h : decodeBytes (leBytes 4 w.toNat) = some (i, [])) :
    isWide w = false ∧ i = decode w 0 := by
  simp only [leBytes, decodeBytes, wordOfBytes_split] at h
  cases hw : isWide w
  · simp only [hw, Bool.false_eq_true, if_false, Option.some.injEq, Prod.mk.injEq] at h
    exact ⟨rfl, h.1.symm⟩
  · simp [hw] at h

/-- The bytes of a `WIDE` word and of its payload decode as the two (R13, R28). -/
theorem decodeBytes_wide {w p : BitVec 32} {i : Instr} (hw : isWide w = true)
    (h : decodeBytes (leBytes 4 w.toNat ++ leBytes 4 p.toNat) = some (i, [])) : i = decode w p := by
  simp only [leBytes, List.cons_append, List.nil_append, decodeBytes, wordOfBytes_split, hw, if_true, Option.some.injEq, Prod.mk.injEq] at h
  exact h.1.symm

/-! ## Fetch -/

/-- A cached word whose line still agrees with memory is fetched as it stands. -/
theorem fetchLine_cached {s : State} {va k n : Nat} {w : BitVec 32} {line : BitVec 512}
    (hb : BitVec.ofNat 32 (Memory.getN (s.touch k 4).mem k 4) = w)
    (hf : (s.core.icache.find? fun x => x.1 == k / 64) = some (n, line)) (hl : lineWord line (k % 64) = w) :
    s.fetchLine va k = .word (s.touch k 4) w := by
  simp only [State.fetchLine, touch_core, hf, hl, hb, if_true]

theorem cacheFor_agent (s : State) (a : Agent) (va : Nat) : (s.cacheFor a va).agent = s.agent := by
  simp only [State.agent, State.cur, cacheFor_core]

/-- An address from which a word can be fetched gives the word, in the state in which its translation is cached. -/
theorem fetchWord_of_fetchesFrom {s : State} {va k : Nat} {w : BitVec 32} (h : FetchesFrom s va k w) :
    s.fetchWord va = .word (s.opened va k 4) w := by
  obtain ⟨n, line, hf, hl⟩ := h.cached
  rw [← cacheFor_core s s.agent va] at hf
  simp only [State.fetchWord, h.global, Bool.not_true, Bool.false_eq_true, if_false, cacheFor_agent, h.leads]
  exact fetchLine_cached h.bytes hf hl

/-! ## The step of a core -/

/-- Without a turn, the core that no other is behind takes the step. -/
theorem step_core {s : State} (h : s.turns = []) : step s = afterStep (coreStep (s.focusOn s.slowest)) := by
  simp only [step, move, h]

/-- The state in which a core that runs fetches: its fetch has been counted, its instruction register is empty. -/
def State.fetching (f : State) : State := f.tick.setIr 0 0

/-- A word without a payload is executed. -/
theorem coreStep_word {f t : State} {w : BitVec 32} (hr : f.runs = true)
    (h : f.fetching.fetchWord (addrOf f.fetching.cur.pc) = .word t w) (hw : isWide w = false) :
    coreStep f = exec (decode w 0) (t.setIr w 0) := by
  have hfetch : f.tick.fetch isWide = .inr (t.setIr w 0) := by
    unfold State.fetch
    rw [show f.tick.setIr 0 0 = f.fetching from rfl]
    simp only [h, Fetched.andThen, hw, Bool.false_eq_true, if_false]
  rw [coreStep, if_pos hr, hfetch]
  rfl

/-- A word with a payload is executed with it. -/
theorem coreStep_wide {f t u : State} {w p : BitVec 32} (hr : f.runs = true)
    (h : f.fetching.fetchWord (addrOf f.fetching.cur.pc) = .word t w) (hw : isWide w = true)
    (hp : (t.setIr w 0).fetchWord ((addrOf f.fetching.cur.pc + 4) % 2 ^ 56) = .word u p) :
    coreStep f = exec (decode w p) (u.setIr w p) := by
  have hfetch : f.tick.fetch isWide = .inr (u.setIr w p) := by
    unfold State.fetch
    rw [show f.tick.setIr 0 0 = f.fetching from rfl]
    simp only [h, Fetched.andThen, hw, if_true, hp]
  rw [coreStep, if_pos hr, hfetch]
  rfl

/-- Settles O56: a turn is executed as it stands; a core that runs executes what the fetch gives, and the bytes in a cached line are
fetched as their word. -/
theorem stepRunsDecoded : Obligations.StepRunsDecoded := by
  refine ⟨fun s i ts h hm => ?_, fun s c ts h hf => ?_, fun s h => ?_⟩
  · simp only [step, move, h, hm, if_true]
  · simp only [step, move, h, hf, Bool.false_eq_true, if_false, afterStep]
  · intro f hr q va
    rw [step_core h]
    refine ⟨fun w t hw hn => ?_, fun w p t u hw hn hp => ?_, fun w k i hk hd _ => ?_, fun w p k j i hk => ?_⟩
    · exact congrArg afterStep (coreStep_word hr hw hn)
    · exact congrArg afterStep (coreStep_wide hr hw hn hp)
    · obtain ⟨hn, rfl⟩ := decodeBytes_word hd
      exact congrArg afterStep (coreStep_word hr (fetchWord_of_fetchesFrom hk) hn)
    · intro r hj hd hn _
      obtain rfl := decodeBytes_wide hn hd
      exact congrArg afterStep (coreStep_wide hr (fetchWord_of_fetchesFrom hk) hn (fetchWord_of_fetchesFrom hj))

/-! ## Reset -/

theorem readG_reset (r : BitVec 5) : Strand.reset.readG r = 0 := by
  simp only [Strand.readG, Strand.reset]
  split
  · rfl
  · exact Vector.getElem_replicate ..

theorem getV_reset (r : BitVec 5) : VFile.reset.getV r = VReg.reset := Vector.getElem_replicate ..

theorem bits_reset : VReg.reset.bits = 0 := BitVec.zero_and

theorem deadG_reset : ∀ r : BitVec 5, Strand.reset.deadG r = decide (r ≠ 0) := by decide

/-- Settles O60: every field of the state after reset is read off its definition; the specials are evaluated one by one. -/
theorem resetState : Obligations.ResetState := by
  refine ⟨rfl, rfl, rfl, rfl, rfl, rfl, rfl, rfl, rfl, rfl, rfl, rfl, ?_, fun r => ⟨readG_reset r, ?_, ?_, deadG_reset r⟩, rfl, rfl, rfl⟩
  · decide +kernel
  · exact (congrArg VReg.bits (getV_reset r)).trans bits_reset
  · exact congrArg VReg.valid (getV_reset r)

end Sys2Proof.Machine
end

section
/-! SUPPORT. Decoding what `encode` gives (R15, R26-R29): the fields of an assembled word, the opcode map, and the round trip. -/

namespace Sys2Proof.Encoding

/-! ## Fields of a word -/

theorem getLsbD_append_of_lt {m n i : Nat} (x : BitVec m) (y : BitVec n) (h : i < n) : (x ++ y).getLsbD i = y.getLsbD i := by
  rw [BitVec.getLsbD_append, if_pos h]

theorem getLsbD_append_of_le {m n i : Nat} (x : BitVec m) (y : BitVec n) (h : n ≤ i) : (x ++ y).getLsbD i = x.getLsbD (i - n) := by
  rw [BitVec.getLsbD_append, if_neg (Nat.not_lt.mpr h)]

theorem getLsbD_ofBool_zero (b : Bool) : (BitVec.ofBool b).getLsbD 0 = b := by cases b <;> rfl

/-! One lemma for each format of R15: a word assembled from fields is decoded as `ins` when every word with those fields is. -/

/-- The words that name a special register. -/
theorem decodeWords_spec {s : Bool} {o : BitVec 6} {d a : BitVec 5} {u : BitVec 1} {r : BitVec 2} {x : BitVec 12} {ins : Instr}
    (hw : ∀ w : BitVec 32, w.getLsbD 31 = s → majorOf w = o.toNat → w.extractLsb' 20 5 = d → w.extractLsb' 15 5 = a → w.extractLsb' 14 1 = u →
      w.extractLsb' 12 2 = r → w.extractLsb' 0 12 = x → decode w 0 = ins) :
    decodeWords [BitVec.ofBool s ++ (o ++ (d ++ (a ++ (u ++ (r ++ x)))))] = some ins := by
  refine congrArg some (hw _ ?_ ?_ ?_ ?_ ?_ ?_ ?_) <;>
    simp only [majorOf, ↓BitVec.extractLsb'_append_eq_of_le, ↓BitVec.extractLsb'_append_eq_of_add_le, ↓getLsbD_append_of_le,
      getLsbD_ofBool_zero, Nat.reduceSub, Nat.reduceLeDiff, Nat.reduceAdd, BitVec.extractLsb'_eq_self]

/-- A function code alone. -/
theorem decodeWords_fn {s : Bool} {o : BitVec 6} {z : BitVec 18} {f : BitVec 7} {ins : Instr}
    (hw : ∀ w : BitVec 32, w.getLsbD 31 = s → majorOf w = o.toNat → w.extractLsb' 7 18 = z → w.extractLsb' 0 7 = f → decode w 0 = ins) :
    decodeWords [BitVec.ofBool s ++ (o ++ (z ++ f))] = some ins := by
  refine congrArg some (hw _ ?_ ?_ ?_ ?_) <;>
    simp only [majorOf, ↓BitVec.extractLsb'_append_eq_of_le, ↓BitVec.extractLsb'_append_eq_of_add_le, ↓getLsbD_append_of_le,
      getLsbD_ofBool_zero, Nat.reduceSub, Nat.reduceLeDiff, Nat.reduceAdd, BitVec.extractLsb'_eq_self]

/-- RR, the operand b and the Couloir fields reserved. -/
theorem decodeWords_da {s : Bool} {o : BitVec 6} {d a : BitVec 5} {z : BitVec 8} {f : BitVec 7} {ins : Instr}
    (hw : ∀ w : BitVec 32, w.getLsbD 31 = s → majorOf w = o.toNat → w.extractLsb' 20 5 = d → w.extractLsb' 15 5 = a → w.extractLsb' 7 8 = z →
      w.extractLsb' 0 7 = f → decode w 0 = ins) :
    decodeWords [BitVec.ofBool s ++ (o ++ (d ++ (a ++ (z ++ f))))] = some ins := by
  refine congrArg some (hw _ ?_ ?_ ?_ ?_ ?_ ?_) <;>
    simp only [majorOf, ↓BitVec.extractLsb'_append_eq_of_le, ↓BitVec.extractLsb'_append_eq_of_add_le, ↓getLsbD_append_of_le,
      getLsbD_ofBool_zero, Nat.reduceSub, Nat.reduceLeDiff, Nat.reduceAdd, BitVec.extractLsb'_eq_self]

/-- RR, the Couloir fields reserved. -/
theorem decodeWords_dab {s : Bool} {o : BitVec 6} {d a b : BitVec 5} {z : BitVec 3} {f : BitVec 7} {ins : Instr}
    (hw : ∀ w : BitVec 32, w.getLsbD 31 = s → majorOf w = o.toNat → w.extractLsb' 20 5 = d → w.extractLsb' 15 5 = a → w.extractLsb' 10 5 = b →
      w.extractLsb' 7 3 = z → w.extractLsb' 0 7 = f → decode w 0 = ins) :
    decodeWords [BitVec.ofBool s ++ (o ++ (d ++ (a ++ (b ++ (z ++ f)))))] = some ins := by
  refine congrArg some (hw _ ?_ ?_ ?_ ?_ ?_ ?_ ?_) <;>
    simp only [majorOf, ↓BitVec.extractLsb'_append_eq_of_le, ↓BitVec.extractLsb'_append_eq_of_add_le, ↓getLsbD_append_of_le,
      getLsbD_ofBool_zero, Nat.reduceSub, Nat.reduceLeDiff, Nat.reduceAdd, BitVec.extractLsb'_eq_self]

/-- RR with the Couloir fields. -/
theorem decodeWords_rr {s : Bool} {o : BitVec 6} {d a b : BitVec 5} {k : BitVec 2} {n : Bool} {f : BitVec 7} {ins : Instr}
    (hw : ∀ w : BitVec 32, w.getLsbD 31 = s → majorOf w = o.toNat → w.extractLsb' 20 5 = d → w.extractLsb' 15 5 = a → w.extractLsb' 10 5 = b →
      w.extractLsb' 8 2 = k → w.getLsbD 7 = n → w.extractLsb' 0 7 = f → decode w 0 = ins) :
    decodeWords [BitVec.ofBool s ++ (o ++ (d ++ (a ++ (b ++ (k ++ (BitVec.ofBool n ++ f))))))] = some ins := by
  refine congrArg some (hw _ ?_ ?_ ?_ ?_ ?_ ?_ ?_ ?_) <;>
    simp only [majorOf, ↓BitVec.extractLsb'_append_eq_of_le, ↓BitVec.extractLsb'_append_eq_of_add_le, ↓getLsbD_append_of_le, ↓getLsbD_append_of_lt,
      getLsbD_ofBool_zero, Nat.reduceSub, Nat.reduceLeDiff, Nat.reduceLT, Nat.reduceAdd, BitVec.extractLsb'_eq_self]

/-- RI with an immediate of 15 bits. -/
theorem decodeWords_ri {s : Bool} {o : BitVec 6} {d a : BitVec 5} {i : BitVec 15} {ins : Instr}
    (hw : ∀ w : BitVec 32, w.getLsbD 31 = s → majorOf w = o.toNat → w.extractLsb' 20 5 = d → w.extractLsb' 15 5 = a → w.extractLsb' 0 15 = i → decode w 0
      = ins) :
    decodeWords [BitVec.ofBool s ++ (o ++ (d ++ (a ++ i)))] = some ins := by
  refine congrArg some (hw _ ?_ ?_ ?_ ?_ ?_) <;>
    simp only [majorOf, ↓BitVec.extractLsb'_append_eq_of_le, ↓BitVec.extractLsb'_append_eq_of_add_le, ↓getLsbD_append_of_le,
      getLsbD_ofBool_zero, Nat.reduceSub, Nat.reduceLeDiff, Nat.reduceAdd, BitVec.extractLsb'_eq_self]

/-- RI with a shift count. -/
theorem decodeWords_shi {s : Bool} {o : BitVec 6} {d a : BitVec 5} {u : BitVec 2} {z : BitVec 7} {h : BitVec 6} {ins : Instr}
    (hw : ∀ w : BitVec 32, w.getLsbD 31 = s → majorOf w = o.toNat → w.extractLsb' 20 5 = d → w.extractLsb' 15 5 = a → w.extractLsb' 13 2 = u →
      w.extractLsb' 6 7 = z → w.extractLsb' 0 6 = h → decode w 0 = ins) :
    decodeWords [BitVec.ofBool s ++ (o ++ (d ++ (a ++ (u ++ (z ++ h)))))] = some ins := by
  refine congrArg some (hw _ ?_ ?_ ?_ ?_ ?_ ?_ ?_) <;>
    simp only [majorOf, ↓BitVec.extractLsb'_append_eq_of_le, ↓BitVec.extractLsb'_append_eq_of_add_le, ↓getLsbD_append_of_le,
      getLsbD_ofBool_zero, Nat.reduceSub, Nat.reduceLeDiff, Nat.reduceAdd, BitVec.extractLsb'_eq_self]

/-- RU. -/
theorem decodeWords_ru {s : Bool} {o : BitVec 6} {d : BitVec 5} {i : BitVec 20} {ins : Instr}
    (hw : ∀ w : BitVec 32, w.getLsbD 31 = s → majorOf w = o.toNat → w.extractLsb' 20 5 = d → w.extractLsb' 0 20 = i → decode w 0 = ins) :
    decodeWords [BitVec.ofBool s ++ (o ++ (d ++ i))] = some ins := by
  refine congrArg some (hw _ ?_ ?_ ?_ ?_) <;>
    simp only [majorOf, ↓BitVec.extractLsb'_append_eq_of_le, ↓BitVec.extractLsb'_append_eq_of_add_le, ↓getLsbD_append_of_le,
      getLsbD_ofBool_zero, Nat.reduceSub, Nat.reduceLeDiff, Nat.reduceAdd, BitVec.extractLsb'_eq_self]

/-- RI with a function of 3 bits. -/
theorem decodeWords_ri12 {s : Bool} {o : BitVec 6} {d a : BitVec 5} {u : BitVec 3} {i : BitVec 12} {ins : Instr}
    (hw : ∀ w : BitVec 32, w.getLsbD 31 = s → majorOf w = o.toNat → w.extractLsb' 20 5 = d → w.extractLsb' 15 5 = a → w.extractLsb' 12 3 = u →
      w.extractLsb' 0 12 = i → decode w 0 = ins) :
    decodeWords [BitVec.ofBool s ++ (o ++ (d ++ (a ++ (u ++ i))))] = some ins := by
  refine congrArg some (hw _ ?_ ?_ ?_ ?_ ?_ ?_) <;>
    simp only [majorOf, ↓BitVec.extractLsb'_append_eq_of_le, ↓BitVec.extractLsb'_append_eq_of_add_le, ↓getLsbD_append_of_le,
      getLsbD_ofBool_zero, Nat.reduceSub, Nat.reduceLeDiff, Nat.reduceAdd, BitVec.extractLsb'_eq_self]

/-- BRZ. -/
theorem decodeWords_brz {s : Bool} {o : BitVec 6} {c : BitVec 4} {a : BitVec 5} {i : BitVec 16} {ins : Instr}
    (hw : ∀ w : BitVec 32, w.getLsbD 31 = s → majorOf w = o.toNat → w.extractLsb' 21 4 = c → w.extractLsb' 16 5 = a → w.extractLsb' 0 16 = i → decode w 0
      = ins) :
    decodeWords [BitVec.ofBool s ++ (o ++ (c ++ (a ++ i)))] = some ins := by
  refine congrArg some (hw _ ?_ ?_ ?_ ?_ ?_) <;>
    simp only [majorOf, ↓BitVec.extractLsb'_append_eq_of_le, ↓BitVec.extractLsb'_append_eq_of_add_le, ↓getLsbD_append_of_le,
      getLsbD_ofBool_zero, Nat.reduceSub, Nat.reduceLeDiff, Nat.reduceAdd, BitVec.extractLsb'_eq_self]

/-- BRR. -/
theorem decodeWords_brr {s : Bool} {o : BitVec 6} {c : BitVec 4} {a b : BitVec 5} {i : BitVec 11} {ins : Instr}
    (hw : ∀ w : BitVec 32, w.getLsbD 31 = s → majorOf w = o.toNat → w.extractLsb' 21 4 = c → w.extractLsb' 16 5 = a → w.extractLsb' 11 5 = b →
      w.extractLsb' 0 11 = i → decode w 0 = ins) :
    decodeWords [BitVec.ofBool s ++ (o ++ (c ++ (a ++ (b ++ i))))] = some ins := by
  refine congrArg some (hw _ ?_ ?_ ?_ ?_ ?_ ?_) <;>
    simp only [majorOf, ↓BitVec.extractLsb'_append_eq_of_le, ↓BitVec.extractLsb'_append_eq_of_add_le, ↓getLsbD_append_of_le,
      getLsbD_ofBool_zero, Nat.reduceSub, Nat.reduceLeDiff, Nat.reduceAdd, BitVec.extractLsb'_eq_self]

/-- J. -/
theorem decodeWords_j {s : Bool} {o : BitVec 6} {i : BitVec 25} {ins : Instr}
    (hw : ∀ w : BitVec 32, w.getLsbD 31 = s → majorOf w = o.toNat → w.extractLsb' 0 25 = i → decode w 0 = ins) :
    decodeWords [BitVec.ofBool s ++ (o ++ i)] = some ins := by
  refine congrArg some (hw _ ?_ ?_ ?_) <;>
    simp only [majorOf, ↓BitVec.extractLsb'_append_eq_of_le, ↓BitVec.extractLsb'_append_eq_of_add_le, ↓getLsbD_append_of_le,
      getLsbD_ofBool_zero, Nat.reduceSub, Nat.reduceLeDiff, Nat.reduceAdd, BitVec.extractLsb'_eq_self]

/-- RI with a function of 2 bits. -/
theorem decodeWords_ri13 {s : Bool} {o : BitVec 6} {d a : BitVec 5} {u : BitVec 2} {i : BitVec 13} {ins : Instr}
    (hw : ∀ w : BitVec 32, w.getLsbD 31 = s → majorOf w = o.toNat → w.extractLsb' 20 5 = d → w.extractLsb' 15 5 = a → w.extractLsb' 13 2 = u →
      w.extractLsb' 0 13 = i → decode w 0 = ins) :
    decodeWords [BitVec.ofBool s ++ (o ++ (d ++ (a ++ (u ++ i))))] = some ins := by
  refine congrArg some (hw _ ?_ ?_ ?_ ?_ ?_ ?_) <;>
    simp only [majorOf, ↓BitVec.extractLsb'_append_eq_of_le, ↓BitVec.extractLsb'_append_eq_of_add_le, ↓getLsbD_append_of_le,
      getLsbD_ofBool_zero, Nat.reduceSub, Nat.reduceLeDiff, Nat.reduceAdd, BitVec.extractLsb'_eq_self]

/-- RR of the atomics. -/
theorem decodeWords_amo {s : Bool} {o : BitVec 6} {d a b : BitVec 5} {p q : BitVec 3} {f : BitVec 4} {ins : Instr}
    (hw : ∀ w : BitVec 32, w.getLsbD 31 = s → majorOf w = o.toNat → w.extractLsb' 20 5 = d → w.extractLsb' 15 5 = a → w.extractLsb' 10 5 = b →
      w.extractLsb' 7 3 = p → w.extractLsb' 4 3 = q → w.extractLsb' 0 4 = f → decode w 0 = ins) :
    decodeWords [BitVec.ofBool s ++ (o ++ (d ++ (a ++ (b ++ (p ++ (q ++ f))))))] = some ins := by
  refine congrArg some (hw _ ?_ ?_ ?_ ?_ ?_ ?_ ?_ ?_) <;>
    simp only [majorOf, ↓BitVec.extractLsb'_append_eq_of_le, ↓BitVec.extractLsb'_append_eq_of_add_le, ↓getLsbD_append_of_le,
      getLsbD_ofBool_zero, Nat.reduceSub, Nat.reduceLeDiff, Nat.reduceAdd, BitVec.extractLsb'_eq_self]

/-- RR, all below the operands reserved. -/
theorem decodeWords_dab10 {s : Bool} {o : BitVec 6} {d a b : BitVec 5} {z : BitVec 10} {ins : Instr}
    (hw : ∀ w : BitVec 32, w.getLsbD 31 = s → majorOf w = o.toNat → w.extractLsb' 20 5 = d → w.extractLsb' 15 5 = a → w.extractLsb' 10 5 = b →
      w.extractLsb' 0 10 = z → decode w 0 = ins) :
    decodeWords [BitVec.ofBool s ++ (o ++ (d ++ (a ++ (b ++ z))))] = some ins := by
  refine congrArg some (hw _ ?_ ?_ ?_ ?_ ?_ ?_) <;>
    simp only [majorOf, ↓BitVec.extractLsb'_append_eq_of_le, ↓BitVec.extractLsb'_append_eq_of_add_le, ↓getLsbD_append_of_le,
      getLsbD_ofBool_zero, Nat.reduceSub, Nat.reduceLeDiff, Nat.reduceAdd, BitVec.extractLsb'_eq_self]

/-- VM. -/
theorem decodeWords_vm {s : Bool} {o : BitVec 6} {d a b : BitVec 5} {m : BitVec 4} {x : Bool} {c : BitVec 3} {u : BitVec 2} {ins : Instr}
    (hw : ∀ w : BitVec 32, w.getLsbD 31 = s → majorOf w = o.toNat → w.extractLsb' 20 5 = d → w.extractLsb' 15 5 = a → w.extractLsb' 10 5 = b →
      w.extractLsb' 6 4 = m → w.getLsbD 5 = x → w.extractLsb' 2 3 = c → w.extractLsb' 0 2 = u → decode w 0 = ins) :
    decodeWords [BitVec.ofBool s ++ (o ++ (d ++ (a ++ (b ++ (m ++ (BitVec.ofBool x ++ (c ++ u)))))))] = some ins := by
  refine congrArg some (hw _ ?_ ?_ ?_ ?_ ?_ ?_ ?_ ?_ ?_) <;>
    simp only [majorOf, ↓BitVec.extractLsb'_append_eq_of_le, ↓BitVec.extractLsb'_append_eq_of_add_le, ↓getLsbD_append_of_le, ↓getLsbD_append_of_lt,
      getLsbD_ofBool_zero, Nat.reduceSub, Nat.reduceLeDiff, Nat.reduceLT, Nat.reduceAdd, BitVec.extractLsb'_eq_self]

/-- VV. -/
theorem decodeWords_vv {s : Bool} {o : BitVec 6} {d a b : BitVec 5} {m : BitVec 4} {x : Bool} {f : BitVec 5} {ins : Instr}
    (hw : ∀ w : BitVec 32, w.getLsbD 31 = s → majorOf w = o.toNat → w.extractLsb' 20 5 = d → w.extractLsb' 15 5 = a → w.extractLsb' 10 5 = b →
      w.extractLsb' 6 4 = m → w.getLsbD 5 = x → w.extractLsb' 0 5 = f → decode w 0 = ins) :
    decodeWords [BitVec.ofBool s ++ (o ++ (d ++ (a ++ (b ++ (m ++ (BitVec.ofBool x ++ f))))))] = some ins := by
  refine congrArg some (hw _ ?_ ?_ ?_ ?_ ?_ ?_ ?_ ?_) <;>
    simp only [majorOf, ↓BitVec.extractLsb'_append_eq_of_le, ↓BitVec.extractLsb'_append_eq_of_add_le, ↓getLsbD_append_of_le, ↓getLsbD_append_of_lt,
      getLsbD_ofBool_zero, Nat.reduceSub, Nat.reduceLeDiff, Nat.reduceLT, Nat.reduceAdd, BitVec.extractLsb'_eq_self]

/-- VV with a flag above a function of 4 bits. -/
theorem decodeWords_vv4 {s : Bool} {o : BitVec 6} {d a b : BitVec 5} {m : BitVec 4} {x g : Bool} {f : BitVec 4} {ins : Instr}
    (hw : ∀ w : BitVec 32, w.getLsbD 31 = s → majorOf w = o.toNat → w.extractLsb' 20 5 = d → w.extractLsb' 15 5 = a → w.extractLsb' 10 5 = b →
      w.extractLsb' 6 4 = m → w.getLsbD 5 = x → w.getLsbD 4 = g → w.extractLsb' 0 4 = f → decode w 0 = ins) :
    decodeWords [BitVec.ofBool s ++ (o ++ (d ++ (a ++ (b ++ (m ++ (BitVec.ofBool x ++ (BitVec.ofBool g ++ f)))))))] = some ins := by
  refine congrArg some (hw _ ?_ ?_ ?_ ?_ ?_ ?_ ?_ ?_ ?_) <;>
    simp only [majorOf, ↓BitVec.extractLsb'_append_eq_of_le, ↓BitVec.extractLsb'_append_eq_of_add_le, ↓getLsbD_append_of_le, ↓getLsbD_append_of_lt,
      getLsbD_ofBool_zero, Nat.reduceSub, Nat.reduceLeDiff, Nat.reduceLT, Nat.reduceAdd, BitVec.extractLsb'_eq_self]

/-! ## The opcode map (R26) -/

section
variable {w : BitVec 32} (p : BitVec 32)

theorem decode_sys (h : majorOf w = 0x00) : decode w p = decodeSys w := by rw [decode, h]; rfl
theorem decode_spec (h : majorOf w = 0x01) : decode w p = decodeSpec w := by rw [decode, h]; rfl
theorem decode_alu (h : majorOf w = 0x02) : decode w p = decodeAlu w := by rw [decode, h]; rfl
theorem decode_shi (h : majorOf w = 0x07) : decode w p = decodeShi w := by rw [decode, h]; rfl
theorem decode_set (h : majorOf w = 0x0B) : decode w p = decodeSet w := by rw [decode, h]; rfl
theorem decode_seti (h : majorOf w = 0x0C) : decode w p = decodeSeti w := by rw [decode, h]; rfl
theorem decode_bf (h : majorOf w = 0x0D) : decode w p = decodeBf w := by rw [decode, h]; rfl
theorem decode_ptr (h : majorOf w = 0x0E) : decode w p = decodePtr w := by rw [decode, h]; rfl
theorem decode_brz (h : majorOf w = 0x10) : decode w p = decodeBrz w := by rw [decode, h]; rfl
theorem decode_brr (h : majorOf w = 0x11) : decode w p = decodeBrr w := by rw [decode, h]; rfl
theorem decode_jr (h : majorOf w = 0x14) : decode w p = decodeJr w := by rw [decode, h]; rfl
theorem decode_ld (h : majorOf w = 0x18) : decode w p = decodeLd w := by rw [decode, h]; rfl
theorem decode_st (h : majorOf w = 0x19) : decode w p = decodeSt w := by rw [decode, h]; rfl
theorem decode_ldq (h : majorOf w = 0x1A) : decode w p = decodeLdq w := by rw [decode, h]; rfl
theorem decode_amo (h : majorOf w = 0x1B) : decode w p = decodeAmo w := by rw [decode, h]; rfl
theorem decode_fe (h : majorOf w = 0x1D) : decode w p = decodeFe w := by rw [decode, h]; rfl
theorem decode_cache (h : majorOf w = 0x1F) : decode w p = decodeCache w := by rw [decode, h]; rfl
theorem decode_vld (h : majorOf w = 0x22) : decode w p = decodeVld w := by rw [decode, h]; rfl
theorem decode_vst (h : majorOf w = 0x23) : decode w p = decodeVst w := by rw [decode, h]; rfl
theorem decode_vint (h : majorOf w = 0x24) : decode w p = decodeVint w := by rw [decode, h]; rfl
theorem decode_vints (h : majorOf w = 0x25) : decode w p = decodeVints w := by rw [decode, h]; rfl
theorem decode_vfp (h : majorOf w = 0x26) : decode w p = decodeVfp w := by rw [decode, h]; rfl
theorem decode_vfps (h : majorOf w = 0x27) : decode w p = decodeVfps w := by rw [decode, h]; rfl
theorem decode_vcmp (h : majorOf w = 0x28) : decode w p = decodeVcmp w := by rw [decode, h]; rfl
theorem decode_vmov (h : majorOf w = 0x2A) : decode w p = decodeVmov w := by rw [decode, h]; rfl
theorem decode_vperm (h : majorOf w = 0x2B) : decode w p = decodeVperm w := by rw [decode, h]; rfl
theorem decode_vred (h : majorOf w = 0x2C) : decode w p = decodeVred w := by rw [decode, h]; rfl
theorem decode_vsm (h : majorOf w = 0x2D) : decode w p = decodeVsm w := by rw [decode, h]; rfl
theorem decode_mask (h : majorOf w = 0x2E) : decode w p = decodeMask w := by rw [decode, h]; rfl
theorem decode_scale (h : majorOf w = 0x2F) : decode w p = decodeScale w := by rw [decode, h]; rfl
theorem decode_mtx (h : majorOf w = 0x30) : decode w p = decodeMtx w := by rw [decode, h]; rfl
theorem decode_tok (h : majorOf w = 0x32) : decode w p = decodeTok w := by rw [decode, h]; rfl
theorem decode_await (h : majorOf w = 0x33) : decode w p = decodeAwait w := by rw [decode, h]; rfl
theorem decode_strand (h : majorOf w = 0x34) : decode w p = decodeStrand w := by rw [decode, h]; rfl
theorem decode_chain (h : majorOf w = 0x35) : decode w p = decodeChain w := by rw [decode, h]; rfl
theorem decode_bar (h : majorOf w = 0x36) : decode w p = decodeBar w := by rw [decode, h]; rfl
theorem decode_gang (h : majorOf w = 0x37) : decode w p = decodeGang w := by rw [decode, h]; rfl
theorem decode_gcp (h : majorOf w = 0x38) : decode w p = decodeGcp w := by rw [decode, h]; rfl
theorem decode_ss (h : majorOf w = 0x39) : decode w p = decodeSs w := by rw [decode, h]; rfl
theorem decode_stream (h : majorOf w = 0x3B) : decode w p = decodeStream w := by rw [decode, h]; rfl
theorem decode_acct (h : majorOf w = 0x3C) : decode w p = decodeAcct w := by rw [decode, h]; rfl
theorem decode_wide (h : majorOf w = 0x3E) : decode w p = decodeWide w p := by rw [decode, h]; rfl

end

theorem accept_eq {z : Bool} {i : Instr} {w : BitVec 32} (hz : z = true) (h : i.wf = true) : accept z i w = i := by
  rw [accept, if_pos hz, if_pos h]

/-- An index without a row of its own is that of the general `WRS` (R105). -/
theorem wrsForm_of_not_own {x : BitVec 12} (h : (!ownRowIndex x) = true) (s : Bool) (a : BitVec 5) : wrsForm s a x = .wrs s a x := by
  have hx : ∀ n : Nat, x.toNat = n → x = BitVec.ofNat 12 n := fun n hn => by rw [← hn, BitVec.ofNat_toNat, BitVec.setWidth_eq]
  unfold wrsForm
  split
  case h_13 => rfl
  all_goals
    rename_i hn
    rw [hx _ hn] at h
    exact absurd h (by decide)

/-! ## The round trip -/

/-- The constructors of one format go together: its word is decoded under the opcode map of its major and under its function code, and
the fields that are read are the operands. The formats of a single word or two are read in place. -/
theorem decodeWords_encode {i : Instr} {ws : List (BitVec 32)} (hwf : i.wf = true) (he : encode i = some ws) : decodeWords ws = some i := by
  cases i
  case wrsVtype | wrsVbank | wrsCclimit | wrsSlotpol | wrsRedcfg | wrsProfile | wrsAcctctl | wrsTrptr | wrsLcancel | wrsMigdoor | wrsDumpdoor | wrsNetreload =>
    cases he
    refine decodeWords_spec ?_
    rintro w rfl ho hd rfl hu hr hx
    simp only [decode_spec, decodeSpec, wrsForm, ho, hd, hu, hr, hx, BitVec.reduceToNat, BitVec.reduceBEq, Bool.and_self, accept_eq rfl
      hwf]
  case rds =>
    cases he
    refine decodeWords_spec ?_
    rintro w rfl ho rfl ha hu hr rfl
    simp only [decode_spec, decodeSpec, ho, ha, hu, hr, BitVec.reduceToNat, BitVec.reduceBEq, Bool.and_self, accept_eq rfl hwf]
  case wrs =>
    cases he
    refine decodeWords_spec ?_
    rintro w rfl ho hd rfl hu hr rfl
    simp only [decode_spec, decodeSpec, wrsForm_of_not_own hwf, ho, hd, hu, hr, BitVec.reduceToNat, BitVec.reduceBEq, Bool.and_self,
      accept_eq rfl hwf]
  case illegal | synci | mapfence | mend | exit | cadv | ungang =>
    cases he
    refine decodeWords_fn ?_
    rintro w rfl ho hz hf
    simp only [decode_sys, decode_mtx, decode_strand, decode_chain, decode_gang, decodeSys, decodeMtx, decodeStrand, decodeChain, decodeGang, ho, hz, hf,
      BitVec.reduceToNat, BitVec.reduceBEq, accept_eq rfl hwf]
  case trap | rett | uefix | mxsave | mxrst | park | tokf | toks | prio | mark | acctclr | jr =>
    cases he
    refine decodeWords_da ?_
    rintro w rfl ho hd rfl hz hf
    simp only [decode_sys, decode_tok, decode_strand, decode_acct, decode_jr, decodeSys, decodeTok, decodeStrand, decodeAcct, decodeJr, ho, hd, hz, hf,
      BitVec.reduceToNat, BitVec.reduceBEq, Bool.and_self, accept_eq rfl hwf]
  case jalr | stfe | fefill | feq | unpin | mpop | mfirst | mupto | mbefore | mscan | mmov | mld | mst | msetl | cst | cmov | mrcommit | mma | mrpop | mrq |
    tokt | self | item | cxq | barq | ssclose | sunb | sq | ldfe | pin | cld | mring | toka | pub | gang | ssopen | acctrd =>
    cases he
    refine decodeWords_da ?_
    rintro w rfl ho rfl rfl hz hf
    simp only [decode_jr, decode_fe, decode_cache, decode_mask, decode_scale, decode_mtx, decode_tok, decode_strand, decode_chain, decode_bar, decode_ss,
      decode_stream, decode_gang, decode_acct, decodeJr, decodeFe, decodeCache, decodeMask, decodeScale, decodeMtx, decodeTok, decodeStrand,
      decodeChain, decodeBar, decodeSs, decodeStream, decodeGang, decodeAcct, ho, hz, hf, BitVec.reduceToNat, BitVec.reduceBEq,
      accept_eq rfl hwf]
  case tlbinv | feinit | cflush | cinv | pref | toke | gshape =>
    cases he
    refine decodeWords_dab ?_
    rintro w rfl ho hd rfl rfl hz hf
    simp only [decode_sys, decode_fe, decode_cache, decode_tok, decode_gcp, decodeSys, decodeFe, decodeCache, decodeTok, decodeGcp, ho, hd, hz, hf,
      BitVec.reduceToNat, BitVec.reduceBEq, Bool.and_self, accept_eq rfl hwf]
  case ldq | mand | spawn | bara | sbind | stq | bankcfg | mor | mxor | mandn | cset | mmas | mrd | mwr | tokr | hop | deposit | gcp | gcpm | gfill | gred |
    gcpr | ssld | sscm | ssroll | ssfork | sspin | ssunpin | ssq =>
    cases he
    refine decodeWords_dab ?_
    rintro w rfl ho rfl rfl rfl hz hf
    simp only [decode_ldq, decode_mask, decode_strand, decode_bar, decode_stream, decode_cache, decode_scale, decode_mtx, decode_tok, decode_gcp,
      decode_ss, decodeLdq, decodeMask, decodeStrand, decodeBar, decodeStream, decodeCache, decodeScale, decodeMtx, decodeTok, decodeGcp, decodeSs,
      ho, hz, hf, BitVec.reduceToNat, BitVec.reduceBEq, accept_eq rfl hwf]
  case add | seteq | adda | sub | and | or | xor | andn | orn | shl | shr | sra | rot | min | max | minn | maxn | mul | mulh | mulhn | div | divn | rem |
    remn | sext | zext | sel | setne | setlt | setge | setltn | setgen | tagset | pdiff =>
    cases he
    refine decodeWords_rr ?_
    rintro w rfl ho rfl rfl rfl rfl rfl hf
    simp only [decode_alu, decode_set, decode_ptr, decodeAlu, decodeSet, decodePtr, ho, hf, BitVec.reduceToNat,
      accept_eq rfl hwf]
  case clz | ctz | popc | tagget =>
    cases he
    refine decodeWords_rr ?_
    rintro w rfl ho rfl rfl hb rfl rfl hf
    simp only [decode_alu, decode_ptr, decodeAlu, decodePtr, ho, hb, hf, BitVec.reduceToNat, BitVec.reduceBEq, accept_eq
      rfl hwf]
  case addi | andi | ori | xori =>
    cases he
    refine decodeWords_ri ?_
    rintro w rfl ho rfl rfl rfl
    rw [decode, ho]
    exact accept_eq rfl hwf
  case dbnz =>
    cases he
    refine decodeWords_ri ?_
    rintro w rfl ho rfl ha rfl
    rw [decode, ho]
    exact accept_eq (by rw [ha]; rfl) hwf
  case shli | shri | srai | roti =>
    cases he
    refine decodeWords_shi ?_
    rintro w rfl ho rfl rfl hu hz rfl
    simp only [decode_shi, decodeShi, ho, hu, hz, BitVec.reduceToNat, BitVec.reduceBEq, accept_eq rfl hwf]
  case li | lsh | addpc =>
    cases he
    refine decodeWords_ru ?_
    rintro w rfl ho rfl rfl
    rw [decode, ho]
    exact accept_eq rfl hwf
  case seteqi | setnei | setlti | setgei | setltni | setgeni | ldI8 | ldN8 | ldI16 | ldN16 | ldI32 | ldN32 | ldI64 =>
    cases he
    refine decodeWords_ri12 ?_
    rintro w rfl ho rfl rfl hu rfl
    simp only [decode_seti, decode_ld, decodeSeti, decodeLd, ho, hu, BitVec.reduceToNat, accept_eq rfl
      hwf]
  case beqz | bnez | bltz | bgez | blez | bgtz =>
    cases he
    refine decodeWords_brz ?_
    rintro w rfl ho hc rfl rfl
    simp only [decode_brz, decodeBrz, ho, hc, BitVec.reduceToNat, accept_eq rfl hwf]
  case beq | bne | blt | bge | bltn | bgen =>
    cases he
    refine decodeWords_brr ?_
    rintro w rfl ho hc rfl rfl rfl
    simp only [decode_brr, decodeBrr, ho, hc, BitVec.reduceToNat, accept_eq rfl hwf]
  case jal | j =>
    cases he
    refine decodeWords_j ?_
    rintro w rfl ho rfl
    rw [decode, ho]
    exact accept_eq rfl hwf
  case st8 | st16 | st32 | st64 =>
    cases he
    refine decodeWords_ri13 ?_
    rintro w rfl ho rfl rfl hu rfl
    simp only [decode_st, decodeSt, ho, hu, BitVec.reduceToNat, accept_eq rfl hwf]
  case ldp =>
    cases he
    refine decodeWords_ri13 ?_
    rintro w rfl ho rfl ha rfl rfl
    rw [decode, ho]
    exact accept_eq (by rw [ha]; rfl) hwf
  case amoadd | amoand | amoor | amoxor | amomin | amomax | amominn | amomaxn | amoswap | amofadd32 | amofmax32 =>
    cases he
    refine decodeWords_amo ?_
    rintro w rfl ho rfl rfl rfl rfl rfl hf
    simp only [decode_amo, decodeAmo, ho, hf, BitVec.reduceToNat, accept_eq rfl hwf]
  case cas =>
    cases he
    refine decodeWords_amo ?_
    rintro w rfl ho rfl rfl rfl rfl rfl hf
    rw [decode, ho]
    exact accept_eq (by rw [hf]; rfl) hwf
  case setl | launch =>
    cases he
    refine decodeWords_dab10 ?_
    rintro w rfl ho rfl rfl rfl hz
    rw [decode, ho]
    exact accept_eq (by rw [hz]; rfl) hwf
  case vld | vst | vlds | vldx | vldff | vsts | vstx | vstra =>
    cases he
    refine decodeWords_vm ?_
    rintro w rfl ho rfl rfl rfl rfl rfl rfl hu
    simp only [decode_vld, decode_vst, decodeVld, decodeVst, ho, hu, BitVec.reduceToNat, accept_eq rfl
      hwf]
  case vadd | vaddG | vfadd | vfaddG | vslup | vsmx | vsub | vmul | vmulh | vmulhn | vmin | vmax | vminn | vmaxn | vand | vor | vxor | vshl | vshr | vsra |
    vrshr | vrnshr | vadds | vsubs | vmac | vdot2 | vdot4 | vavg | vwmul | vwadd | vsubG | vmulG | vmulhG | vmulhnG | vminG | vmaxG | vminnG | vmaxnG
    | vandG | vorG | vxorG | vshlG | vshrG | vsraG | vrshrG | vrnshrG | vaddsG | vsubsG | vmacG | vdot2G | vdot4G | vavgG | vwmulG | vwaddG | vfsub |
    vfmul | vfma | vfms | vfdiv | vfmin | vfmax | vfsgnj | vfsubG | vfmulG | vfmaG | vfmsG | vfdivG | vfminG | vfmaxG | vfsgnjG | vmrg | vrowb | vcolb
    | vsldn | vsl1up | vsl1dn | vgath =>
    cases he
    refine decodeWords_vv ?_
    rintro w rfl ho rfl rfl rfl rfl rfl hf
    simp only [decode_vint, decode_vints, decode_vfp, decode_vfps, decode_vperm, decode_vsm, decode_vmov, decodeVint, decodeVints, decodeVfp, decodeVfps,
      decodeVperm, decodeVsm, decodeVmov, ho, hf, BitVec.reduceToNat, accept_eq rfl hwf]
  case vabs | vfsqrt | vfabs | vfneg | vfexp2 | vflog2 | vfrcp | vfrsq | vfclass | vcprs | vexpd | vmv =>
    cases he
    refine decodeWords_vv ?_
    rintro w rfl ho rfl rfl hb rfl rfl hf
    simp only [decode_vint, decode_vfp, decode_vperm, decode_vmov, decodeVint, decodeVfp, decodeVperm, decodeVmov, ho, hb, hf, BitVec.reduceToNat,
      BitVec.reduceBEq, accept_eq rfl hwf]
  case vbrd =>
    cases he
    refine decodeWords_vv ?_
    rintro w rfl ho rfl ha rfl rfl rfl hf
    simp only [decode_vmov, decodeVmov, ho, ha, hf, BitVec.reduceToNat, BitVec.reduceBEq, accept_eq rfl hwf]
  case vcmpeq | vcmpne | vcmplt | vcmpge | vcmpltn | vcmpgen | vcmpfeq | vcmpfne | vcmpflt | vcmpfge | vcmpfun =>
    cases he
    refine decodeWords_vv4 ?_
    rintro w rfl ho rfl rfl rfl rfl rfl rfl hf
    simp only [decode_vcmp, decodeVcmp, ho, hf, BitVec.reduceToNat, accept_eq rfl hwf]
  case vredsum | vredmin | vredmax | vredminn | vredmaxn | vredand | vredor | vredxor | vfredo | vfredt | vfredmax | vfredmin =>
    cases he
    refine decodeWords_vv4 ?_
    rintro w rfl ho rfl rfl hb rfl rfl rfl hf
    simp only [decode_vred, decodeVred, ho, hb, hf, BitVec.reduceToNat, BitVec.reduceBEq, accept_eq rfl hwf]
  case unassignedEncoding => cases hwf
  case fence | strip | vcvt =>
    cases he
    simp only [decodeWords, decode, majorOf, ↓BitVec.extractLsb'_append_eq_of_le, ↓BitVec.extractLsb'_append_eq_of_add_le, ↓getLsbD_append_of_le,
      ↓getLsbD_append_of_lt, getLsbD_ofBool_zero, Nat.reduceSub, Nat.reduceLeDiff, Nat.reduceLT, Nat.reduceAdd, BitVec.extractLsb'_eq_self,
      BitVec.reduceToNat, BitVec.reduceBEq, Bool.and_self, accept_eq rfl hwf]
  case bfx | bfi | vext | vins | viota | vtrn | vgxch | vsmg | vsmf | mzero | mbeg | gq | await | yield | lix | lixh | mcmd | mdist =>
    cases he
    simp only [decodeWords, ↓decode_bf, ↓decode_vmov, ↓decode_vperm, ↓decode_vsm, ↓decode_mtx, ↓decode_gcp, ↓decode_await, ↓decode_wide, decodeBf,
      decodeVmov, decodeVperm, decodeVsm, decodeMtx, decodeGcp, decodeAwait, decodeWide, majorOf, ↓BitVec.extractLsb'_append_eq_of_le,
      ↓BitVec.extractLsb'_append_eq_of_add_le, ↓getLsbD_append_of_le, ↓getLsbD_append_of_lt, getLsbD_ofBool_zero, Nat.reduceSub, Nat.reduceLeDiff,
      Nat.reduceLT, Nat.reduceAdd, BitVec.extractLsb'_eq_self, BitVec.reduceToNat, BitVec.reduceBEq, Bool.and_self, accept_eq rfl
      hwf]
  all_goals cases he

/-- Settles O58, format by format. -/
theorem decodeEncode : Obligations.DecodeEncode := fun _ _ => decodeWords_encode

/-- Settles O57: the kernel decodes each word. -/
theorem decodeWords : Obligations.DecodeWords := by
  refine ⟨rfl, rfl, rfl, rfl, rfl, rfl, rfl, rfl, rfl, rfl, rfl, rfl, rfl, rfl, rfl, rfl, rfl, rfl, rfl, rfl, rfl, rfl, rfl, rfl, rfl, rfl,
    rfl, rfl, rfl, rfl, rfl, rfl⟩

end Sys2Proof.Encoding
end

section
/-! SUPPORT. Branches and jumps (R16, R92, R102, R103): where they go on, and what they write. -/

namespace Sys2Proof.Machine

/-- The target of R16 and R102, with the offset in words. -/
theorem branchTarget_eq (pc : Word) {n : Nat} (o : BitVec n) :
    branchTarget pc o = ((pc + 4 * o.signExtend 64).extractLsb' 0 56).setWidth 64 := by
  have h : sx o <<< 2 = 4 * o.signExtend 64 := by rw [sx, ← BitVec.mul_twoPow_eq_shiftLeft, BitVec.mul_comm]; rfl
  rw [branchTarget, h]

/-- Where a branch goes on: at its target when it is taken, else behind itself. -/
def State.wayOf (t : State) (st c : Bool) {n : Nat} (o : BitVec n) : State :=
  if c then t.after st (branchTarget t.cur.pc o) else t.after4 st

/-- An effect that ends in a branch. -/
theorem branch_gives {s t : State} {u : Use} {st c : Bool} {n : Nat} {o : BitVec n} {body : State → Res} (h : Issues s u st)
    (hb : ∀ x, ∃ r, body (s.counted x) = r.branch c o ∧ Like r t)
    (hr : t.core.running = true) (he : t.core.exact = false) (hn : t.core.run = none) (hp : st = true → t.cur.Calm) :
    Gives (issue st 4 u body s) (t.wayOf st c o) := by
  cases c with
  | false => exact issue_ok h hb hr he hp
  | true =>
    refine issue_jump h (fun x => ?_) hr he hn hp
    obtain ⟨r, hx, y, rfl⟩ := hb x
    exact ⟨_, hx, y, rfl⟩

theorem branchZ_gives {s : State} {st : Bool} {a : BitVec 5} (h : Issues s { g := [a] } st) (o : BitVec 16) (f : Word → Bool) :
    Gives (branchZ st a o f s) (s.wayOf st (f (s.rg a)) o) :=
  branch_gives h (fun x => ⟨_, rfl, x, rfl⟩) h.running h.untraced h.noRun h.calm

theorem branchR_gives {s : State} {st : Bool} {a b : BitVec 5} (h : Issues s { g := [a, b] } st) (o : BitVec 11) (f : Word → Word → Bool) :
    Gives (branchR st a b o f s) (s.wayOf st (f (s.rg a) (s.rg b)) o) :=
  branch_gives h (fun x => ⟨_, rfl, x, rfl⟩) h.running h.untraced h.noRun h.calm

/-- `dbnz` branches on the counter that it writes (R103). -/
theorem execDbnz_gives {s : State} {st : Bool} {a : BitVec 5} (h : Issues s { g := [a] } st) (o : BitVec 15) :
    Gives (execDbnz st a o s) ((s.wg a (s.rg a - 1)).wayOf st (s.rg a - 1 != 0) o) :=
  branch_gives h (fun x => ⟨_, rfl, wg_like ⟨x, rfl⟩ a _⟩) h.running h.untraced h.noRun fun hs => wg_calm (h.calm hs) a _

theorem execJ_gives {s : State} {st : Bool} (h : Issues s {} st) (o : BitVec 25) :
    Gives (execJ st o s) (s.after st (branchTarget s.cur.pc o)) :=
  issue_jump h (fun x => ⟨_, rfl, x, rfl⟩) h.running h.untraced h.noRun h.calm

theorem execJal_gives {s : State} {st : Bool} (h : Issues s {} st) (o : BitVec 25) :
    Gives (execJal st o s) ((s.wg 31 (s.cur.pc + 4)).after st (branchTarget s.cur.pc o)) :=
  issue_jump h (fun x => ⟨_, rfl, wg_like ⟨x, rfl⟩ 31 _⟩) h.running h.untraced h.noRun fun hs => wg_calm (h.calm hs) 31 _

/-- A jump to an aligned target links and goes on there (R16, R102). -/
theorem jumpReg_aligned {s : State} {st : Bool} {a : BitVec 5} (h : Issues s { g := [a] } st) (d : BitVec 5)
    (ha : (s.rg a).extractLsb' 0 2 = 0) :
    Gives (jumpReg st d a s) ((s.wg d (s.cur.pc + 4)).after st (((s.rg a).extractLsb' 0 56).setWidth 64)) := by
  refine issue_jump h (fun x => ⟨_, if_neg (not_not_intro ha), wg_like ⟨x, rfl⟩ d _⟩) h.running h.untraced h.noRun
    fun hs => wg_calm (h.calm hs) d _

/-- A jump to a misaligned target traps, with no link written (R16). -/
theorem jumpReg_misaligned {s : State} {st : Bool} {a : BitVec 5} (h : Issues s { g := [a] } st) (d : BitVec 5)
    (ha : (s.rg a).extractLsb' 0 2 ≠ 0) :
    jumpReg st d a s = .next (s.vqNow.unwait.takeTrap (mkTrap 0x03 0)) := by
  obtain ⟨x, hx⟩ := vqNow_like s
  have hb : (s.vqNow.rg a).extractLsb' 0 2 ≠ 0 := by rw [hx]; exact ha
  simp only [jumpReg, issue, gate_eq h, if_pos hb, State.raise, Res.finish]

/-! The conditions of R99, as the comparison of values. -/

theorem bne_decide (x y : Word) : (x != y) = decide (x ≠ y) := by
  rw [decide_not]; rfl

theorem slt_zero_decide (x : Word) : x.slt 0 = decide (x.toInt < 0) := rfl

theorem zero_slt_decide (x : Word) : (0#64).slt x = decide (0 < x.toInt) := rfl

theorem not_slt_decide (x y : Word) : (!x.slt y) = decide (y.toInt ≤ x.toInt) := by
  rw [BitVec.slt, ← decide_not]; exact decide_eq_decide.mpr Int.not_lt

theorem not_ult_decide (x y : Word) : (!x.ult y) = decide (y.toNat ≤ x.toNat) := by
  rw [BitVec.ult, ← decide_not]; exact decide_eq_decide.mpr Nat.not_lt

/-- `dbnz` branches unless its counter was 1 (R103). -/
theorem sub_one_bne_zero (x : Word) : (x - 1 != 0) = decide (x ≠ 1) := by
  rw [bne_decide]; exact decide_eq_decide.mpr (not_congr sub_eq_zero)

/-- Settles O3: each condition is the one its word compares by, and the ways are those of the branch and jump shapes. -/
theorem controlResults : Obligations.ControlResults := by
  refine ⟨fun s st a b => ⟨fun h o => ?_, fun h o => ?_, fun h o => ?_⟩, fun s st d a o => ⟨fun h => ?_, fun h => ⟨fun ha => ?_, fun ha => ?_⟩⟩⟩
  · have way : ∀ f c, f (s.rg a) = c → Gives (branchZ st a o f s) (s.wayOf st c o) := fun f c hc => hc ▸ branchZ_gives h o f
    simp only [State.wayOf, branchTarget_eq] at way
    exact ⟨way (fun x => x == 0) _ rfl, way (fun x => x != 0) _ (bne_decide _ 0), way (fun x => x.slt 0) _ (slt_zero_decide _),
      way (fun x => !x.slt 0) _ (not_slt_decide _ 0), way (fun x => !(0#64).slt x) _ (not_slt_decide 0 _),
      way (fun x => (0#64).slt x) _ (zero_slt_decide _)⟩
  · have way : ∀ f c, f (s.rg a) (s.rg b) = c → Gives (branchR st a b o f s) (s.wayOf st c o) := fun f c hc => hc ▸ branchR_gives h o f
    simp only [State.wayOf, branchTarget_eq] at way
    exact ⟨way (fun x y => x == y) _ rfl, way (fun x y => x != y) _ (bne_decide _ _), way (fun x y => x.slt y) _ rfl,
      way (fun x y => !x.slt y) _ (not_slt_decide _ _), way (fun x y => x.ult y) _ rfl, way (fun x y => !x.ult y) _ (not_ult_decide _ _)⟩
  · have way := execDbnz_gives h o
    rwa [sub_one_bne_zero, State.wayOf, branchTarget_eq, wg_pc] at way
  · rw [← branchTarget_eq]
    exact ⟨execJal_gives h o, execJ_gives h o⟩
  · exact ⟨jumpReg_aligned h 0 ha, jumpReg_aligned h d ha⟩
  · exact ⟨s.vqNow, vqNow_like s, jumpReg_misaligned h 0 ha, jumpReg_misaligned h d ha⟩

end Sys2Proof.Machine
end

section
/-! SUPPORT. Scalar loads (R206): the value of the bytes read, and the frame of an access that reaches its key. -/

namespace Sys2Proof.Machine

/-! ## The value of a load -/

theorem getN_lt (m : List Host.Cell) (k n : Nat) : Memory.getN m k n < 2 ^ (8 * n) := by
  induction n generalizing k with
  | zero => exact Nat.one_pos
  | succ n ih =>
    have hb := (Memory.get m k).isLt
    have hr := ih (k + 1)
    rw [Memory.getN, Nat.mul_succ, Nat.pow_add]
    omega

/-- The two's complement value of `w` bits (R48). -/
theorem intVal_eq_toInt {w x : Nat} (hw : 0 < w) (hx : x < 2 ^ w) : intVal true w x = (BitVec.ofNat w x).toInt := by
  have hm : (BitVec.ofNat w x).msb = x.testBit (w - 1) := by
    rw [BitVec.msb_eq_getLsbD_last, BitVec.getLsbD_ofNat, decide_eq_true (by omega), Bool.true_and]
  rw [BitVec.toInt_eq_msb_cond, hm, BitVec.toNat_ofNat, Nat.mod_eq_of_lt hx, intVal, Bool.true_and]
  norm_cast

theorem extendN_signed {n x : Nat} (hn : 0 < n) (hx : x < 2 ^ (8 * n)) : extendN true n x = (BitVec.ofNat (8 * n) x).signExtend 64 := by
  rw [extendN, if_pos rfl, intVal_eq_toInt (by omega) hx, BitVec.signExtend]

theorem extendN_unsigned {n x : Nat} (hn : 8 * n ≤ 64) (hx : x < 2 ^ (8 * n)) : extendN false n x = (BitVec.ofNat (8 * n) x).setWidth 64 := by
  rw [extendN, if_neg Bool.false_ne_true, BitVec.setWidth_ofNat_of_le_of_lt hn hx]

/-! ## The access -/

theorem opened_agent (s : State) (va k n : Nat) : (s.opened va k n).agent = s.agent := by
  simp only [State.agent, State.cur, opened_core]

/-- A sound access meets no erroneous data. -/
theorem scalarErr_sound {s : State} {va key n : Nat} (h : s.sound va key n) : (s.opened va key n).scalarErr (.here key) n va = none := by
  simp only [State.scalarErr, State.homeBad, show (s.opened va key n).badAt key n = none from h, Option.map_none]

/-- A load that reaches its key defers the bytes there. -/
theorem loadPtr_reaches {s : State} {n : Nat} {ea : Word} {key : Nat} (h : Reaches s .read n false ea key) (hn : 0 < n) (hd : n ∣ 64)
    (hs : s.sound (addrOf ea) key n) (d : BitVec 5) (signed : Bool) :
    s.loadPtr d n signed ea =
      .ok ((s.opened (addrOf ea) key n).deferred (.g d (extendN signed n (Memory.getN (s.opened (addrOf ea) key n).mem key n)))
        (addrOf ea) none) := by
  have hr : ¬(region (addrOf ea) = 14 ∧ n = 8) := fun hc => by have := h.region; omega
  rw [State.loadPtr, h.tag, Bool.not_true, if_neg Bool.false_ne_true, if_neg hr, State.loadAt, checkAt_reaches h hn hd]
  exact congrArg (fun e => Res.ok (State.deferred _ _ _ e)) (scalarErr_sound hs)

/-- What a load word gives. -/
theorem loadWord_gives {s : State} {st : Bool} {d a : BitVec 5} {o : BitVec 12} {n key : Nat} {v : Word} (h : AtOnce s { g := [a], pends := 1 } st)
    (hn : 0 < n) (hd : n ∣ 64) (signed : Bool) :
    let va := addrOf (adda (s.rg a) (o.signExtend 64 * BitVec.ofNat 64 n))
    let r := s.opened va key n
    Reaches s .read n false (adda (s.rg a) (o.signExtend 64 * BitVec.ofNat 64 n)) key → s.sound va key n →
      extendN signed n (Memory.getN r.mem key n) = v →
      Gives (loadWord st d a o n signed s) ((r.deferred (.g d v) va none).after4 st) := by
  intro va r hr hs hv
  have hc : r.core = s.core := opened_core s va key n
  refine issue_at h ((loadPtr_reaches hr hn hd hs d signed).trans (by rw [hv])) ?_ ?_ fun hst => deferred_calm ?_ d v va
  · rw [State.deferred, defer_running, hc]; exact h.running
  · rw [State.deferred, defer_exact, hc]; exact h.untraced
  · rw [State.cur, hc]; exact h.calm hst

/-- Settles O4: each load is the shape of its size, its value the bytes extended. -/
theorem loadResults : Obligations.LoadResults := by
  intro s st d a o key h ea load
  have hx := fun n => getN_lt (s.opened (addrOf (ea n)) key n).mem key n
  refine ⟨fun hr hs => ?_, fun hr hs => ?_, fun hr hs => ?_, fun hr hs => ?_, fun hr hs => ?_, fun hr hs => ?_, fun hr hs => ?_⟩
  · exact loadWord_gives h (by decide) (by decide) true hr hs (extendN_signed (by decide) (hx 1))
  · exact loadWord_gives h (by decide) (by decide) false hr hs (extendN_unsigned (by decide) (hx 1))
  · exact loadWord_gives h (by decide) (by decide) true hr hs (extendN_signed (by decide) (hx 2))
  · exact loadWord_gives h (by decide) (by decide) false hr hs (extendN_unsigned (by decide) (hx 2))
  · exact loadWord_gives h (by decide) (by decide) true hr hs (extendN_signed (by decide) (hx 4))
  · exact loadWord_gives h (by decide) (by decide) false hr hs (extendN_unsigned (by decide) (hx 4))
  · exact loadWord_gives h (by decide) (by decide) true hr hs ((extendN_signed (by decide) (hx 8)).trans (BitVec.signExtend_eq _))

end Sys2Proof.Machine
end

section
/-! SUPPORT. The checks before an instruction's effect (R31, R76, R83, R91, R172), and the save that an empty deposit register
brings about: the settles and movements of contexts on its way leave the strand's registers alone. -/

namespace Sys2Proof.Machine

/-! ## Without pending results, a settle does nothing -/

/-- A settle with no pending result changes nothing and finds no error. -/
theorem settle_noPend {s : State} (h : s.cur.pend = []) (c : Cause) : s.settle c = (s, none) := by
  have hp : s.core.cur.pend = [] := h
  have ha : s.awaitReplies c = s := by simp [State.awaitReplies, h]
  have hw : s.core.cur.wake [] = (0, s.core.cur) := rfl
  simp only [State.settle, ha, State.cur, hp, List.filter_nil, List.any_nil, Bool.false_eq_true, if_false, List.flatMap_nil, hw, stall_zero,
    State.onCur, List.foldl_nil, List.find?_nil, remaining]
  rw [← hp]

/-- So the drain and settle before a save are accounting. -/
theorem drainSettle_noPend {s : State} (hr : s.core.running = true) (he : s.core.exact = false) (h : s.cur.pend = []) (c : Cause) :
    ∃ t, Like t s ∧ s.drainSettle c = (t, none) := by
  have hl := quiesce_like hr he c
  have hp : (s.quiesce c).cur.pend = [] := by obtain ⟨x, hx⟩ := hl; rw [hx]; exact h
  exact ⟨_, hl, by rw [State.drainSettle, settle_noPend hp]⟩

theorem settleToSave_noPend {s : State} (hr : s.core.running = true) (he : s.core.exact = false) (h : s.cur.pend = []) (b : Strand → Nat)
    (cond : Cond) (r : Resume) : ∃ t, Like t s ∧ s.settleToSave b cond r = (t, none) := by
  simp only [State.settleToSave]
  split <;> exact drainSettle_noPend hr he h _

/-! ## Movements of other contexts -/

/-- What the movements of other contexts leave of the running strand. -/
structure StrandKept (t s : State) : Prop where
  exact : t.core.exact = s.core.exact
  num : t.cur.num = s.cur.num
  pc : t.cur.pc = s.cur.pc
  g : t.cur.g = s.cur.g

theorem StrandKept.refl (s : State) : StrandKept s s := ⟨rfl, rfl, rfl, rfl⟩

theorem StrandKept.trans {a b c : State} (h : StrandKept a b) (k : StrandKept b c) : StrandKept a c :=
  ⟨h.exact.trans k.exact, h.num.trans k.num, h.pc.trans k.pc, h.g.trans k.g⟩

theorem Like.strandKept {a b : State} (h : Like a b) : StrandKept a b := by
  obtain ⟨x, rfl⟩ := h
  exact ⟨rfl, rfl, rfl, rfl⟩

theorem strandKept_of_core {a b : State} (h : a.core = b.core) : StrandKept a b := by
  constructor <;> simp only [State.cur, h]

theorem free_strandKept (s : State) (n : Nat) : StrandKept { s with free := n } s := ⟨rfl, rfl, rfl, rfl⟩

theorem images_strandKept (s : State) (f : Core → List Image) : StrandKept (s.onFocus fun c => { c with images := f c }) s :=
  ⟨rfl, rfl, rfl, rfl⟩

theorem charge_strandKept {s : State} (he : s.core.exact = false) (c : Cause) (ctx : Option Nat) (pc nx : Word) (n : Nat) :
    StrandKept (s.charge c ctx pc nx n) s := by
  unfold State.charge
  split
  · exact .refl s
  · rw [runSlots_untraced he]
    cases ctx with
    | none => exact ⟨rfl, rfl, rfl, rfl⟩
    | some num => simp only [State.onFocus]; split <;> exact ⟨rfl, rfl, rfl, rfl⟩

theorem basinCharge_strandKept {s : State} (he : s.core.exact = false) (f n num : Nat) (pc : Word) :
    StrandKept (s.basinCharge f n num pc) s := by
  have h := charge_strandKept he .basin (some num) pc pc (f + ceilDiv n 64)
  simp only [State.basinCharge]
  split
  · exact h
  · exact (free_strandKept ..).trans ((charge_strandKept (h.exact.trans he) .basin (some num) pc pc _).trans h)

theorem storeBytes_core (s : State) (k : Nat) (bs : List Byte) : (s.storeBytes k bs).core = s.core := by
  show ((s.touch k bs.length).cleanLines k bs.length).core = s.core
  rw [cleanLines_core, touch_core]

theorem fillHome_core (s : State) (h n : Nat) : (s.fillHome h n).core = s.core := by
  simp only [State.fillHome]
  split
  · exact storeBytes_core ..
  · rfl

theorem evict_strandKept {s : State} (he : s.core.exact = false) (i : Image) : StrandKept (s.evict i) s :=
  (images_strandKept ..).trans ((strandKept_of_core (fillHome_core ..)).trans (basinCharge_strandKept he ..))

theorem endRowCopy_strandKept {s : State} (he : s.core.exact = false) (i : Image) : StrandKept (s.endRowCopy i) s :=
  (images_strandKept ..).trans (basinCharge_strandKept he ..)

theorem makeRoom_strandKept {s : State} (he : s.core.exact = false) (body : Nat) (self : Option Image) (n : Nat) :
    StrandKept (s.makeRoom body self n).1 s := by
  induction n generalizing s with
  | zero => exact .refl s
  | succ n ih =>
    have hc : ∀ i, StrandKept ((s.endRowCopy i).makeRoom body self n).1 s := fun i =>
      have h := endRowCopy_strandKept he i
      (ih (h.exact.trans he)).trans h
    have hv : ∀ i, StrandKept ((s.evict i).makeRoom body self n).1 s := fun i =>
      have h := evict_strandKept he i
      (ih (h.exact.trans he)).trans h
    unfold State.makeRoom
    split
    · exact .refl s
    split
    · exact .refl s
    split
    · exact hc _
    split
    · exact .refl s
    split
    · split
      · exact .refl s
      · exact hv _
    · exact hv _

theorem trim_strandKept {s : State} (he : s.core.exact = false) (own n : Nat) : StrandKept (s.trim own n) s := by
  induction n generalizing s with
  | zero => exact .refl s
  | succ n ih =>
    unfold State.trim
    split
    · exact .refl s
    split
    · have h := endRowCopy_strandKept he (by assumption)
      exact (ih (h.exact.trans he)).trans h
    split
    · exact .refl s
    · have h := evict_strandKept he (by assumption)
      exact (ih (h.exact.trans he)).trans h

/-! ## Saves -/

/-- A strand that leaves the core is behind with its image, unless the image's condition is met at once. -/
theorem leave_image {s : State} {i : Image} (h : ∀ c, i.cellMet c = false) : i ∈ (s.leave i).core.images := by
  simp only [State.leave, State.onFocus, Core.wakeCells, List.map_cons, h]
  exact List.mem_cons_self

@[simp] theorem cleaned_num (t : Strand) : t.cleaned.num = t.num := by simp only [Strand.cleaned]
@[simp] theorem cleaned_pc (t : Strand) : t.cleaned.pc = t.pc := by simp only [Strand.cleaned]
@[simp] theorem cleaned_g (t : Strand) : t.cleaned.g = t.g := by simp only [Strand.cleaned]
@[simp] theorem cleaned_sp (t : Strand) : t.cleaned.sp = t.sp := by simp only [Strand.cleaned]

theorem leave_saved {v s : State} {i : Image} {cond : Cond} (h : StrandKept v s) (hs : i.st = v.cur.cleaned) (hi : i.cond = cond)
    (hc : ∀ (i : Image) c, i.cond = cond → i.cellMet c = false) :
    (v.leave i).core.running = false ∧
    ∃ j : Image, j ∈ (v.leave i).core.images ∧ j.st.num = s.cur.num ∧ j.st.pc = s.cur.pc ∧ j.st.g = s.cur.g ∧ j.cond = cond :=
  ⟨rfl, i, leave_image fun c => hc i c hi, by simp only [hs, cleaned_num, h.num], by simp only [hs, cleaned_pc, h.pc],
    by simp only [hs, cleaned_g, h.g], hi⟩

/-- A save takes the strand off the core and leaves an image of it, with its registers and PC. -/
theorem save_image {s : State} (he : s.core.exact = false) (w b : Nat) {cond : Cond} (r : Resume) (a : BitVec 16)
    (hc : ∀ (i : Image) c, i.cond = cond → i.cellMet c = false) :
    (s.save w b cond r a).core.running = false ∧
    ∃ j : Image, j ∈ (s.save w b cond r a).core.images ∧ j.st.num = s.cur.num ∧ j.st.pc = s.cur.pc ∧ j.st.g = s.cur.g ∧ j.cond = cond := by
  have hm := makeRoom_strandKept he (b - 1024) (some (s.cur.image b cond r s.core.cycle)) makeRoomFuel
  generalize hx : s.save w b cond r a = x
  unfold State.save at hx
  dsimp only at hx
  generalize s.makeRoom (b - 1024) (some (s.cur.image b cond r s.core.cycle)) makeRoomFuel = m at hm hx
  obtain ⟨u, ok⟩ := m
  have hu : u.core.exact = false := hm.exact.trans he
  have ht := trim_strandKept hu 0 makeRoomFuel
  generalize u.trim 0 makeRoomFuel = v at ht hx
  subst hx
  refine leave_saved ?_ rfl rfl hc
  cases ok with
  | true =>
    rw [if_pos rfl]
    exact (charge_strandKept hu ..).trans hm
  | false =>
    rw [if_neg Bool.false_ne_true]
    exact ((strandKept_of_core (fillHome_core ..)).trans ((basinCharge_strandKept (ht.exact.trans hu) ..).trans ht)).trans hm

/-- A read of empty deposit registers takes the strand off the core at its own PC (R172). -/
theorem suspendDeposit_image {s : State} (hr : s.core.running = true) (he : s.core.exact = false) (hp : s.cur.pend = []) (m : BitVec 4) :
    (s.suspendDeposit m).core.running = false ∧
    ∃ c, ∃ j : Image, j ∈ (s.suspendDeposit m).core.images ∧ j.st.num = s.cur.num ∧ j.st.pc = s.cur.pc ∧ j.st.g = s.cur.g ∧ j.cond = .deposit m c := by
  obtain ⟨t, hl, ht⟩ := settleToSave_noPend hr he hp Strand.fullBytes (.deposit m (s.cur.deadline s.core.cycle)) .go
  have hs : s.suspendDeposit m = t.save t.cur.fullWritten t.cur.fullBytes (.deposit m (t.cur.deadline t.core.cycle)) .go 0 := by
    unfold State.suspendDeposit State.suspendFull
    simp only [ht, State.saveFull]
  have hk := hl.strandKept
  obtain ⟨h1, j, hj, h2, h3, h4, h5⟩ := save_image (hk.exact.trans he) t.cur.fullWritten t.cur.fullBytes
    (cond := .deposit m (t.cur.deadline t.core.cycle)) .go 0 (by intro i c hi; simp [Image.cellMet, hi])
  rw [hs]
  exact ⟨h1, _, j, hj, h2.trans hk.num, h3.trans hk.pc, h4.trans hk.g, h5⟩

/-! ## The checks in the order of R31 -/

/-- An empty deposit register among the sources suspends the strand (R172). -/
theorem gate_empty {s : State} {u : Use} {body : State → Res} (hu : u.priv = false) (h : s.cur.emptySources u ≠ 0) :
    s.gate u body = .left (s.suspendDeposit (s.cur.emptySources u)) := by
  simp only [State.gate, hu, Bool.false_and, Bool.false_eq_true, if_false, ne_eq, h, not_false_eq_true, if_true]

/-- A dead source under DEADTRAP (R83). -/
theorem gate_dead {s : State} {u : Use} {body : State → Res} {k : BitVec 3} {r : BitVec 5} (hu : u.priv = false)
    (h : s.cur.emptySources u = 0) (hb : ∀ r ∈ u.banks, s.cur.bankOf r = 0) (hp : s.cur.powerTill ≤ s.core.cycle)
    (hd : s.cur.deadSource u = some (k, r)) : s.gate u body = .trap s { mkTrap 0x08 0 with rclass := k, reg := r } := by
  simp [State.gate, hu, h, powered_on hb hp, hd]

/-- The wait for banks that are ON is accounting. -/
theorem powered_like {s t : State} {rs : List (BitVec 5)} (hr : s.core.running = true) (he : s.core.exact = false)
    (hb : ∀ r ∈ rs, s.cur.bankOf r = 0) (h : s.powered rs = some t) : Like t s := by
  simp only [State.powered, wake_on hb, ne_eq, not_true_eq_false, if_false] at h
  split at h
  · cases h; exact stall_like hr he ..
  · cases h

/-- While the latency of a source runs, the instruction only waits (R91, R180). -/
theorem gate_latency {s : State} {u : Use} {body : State → Res} (hr : s.core.running = true) (he : s.core.exact = false)
    (hu : u.priv = false) (h : s.cur.emptySources u = 0) (hb : ∀ r ∈ u.banks, s.cur.bankOf r = 0) (hd : s.cur.deadSource u = none)
    (hc : s.chainWaits u = false) (hp : s.cur.pend.length + u.pends ≤ 16) (hw : s.depWait u ≠ 0) :
    ∃ t, Like t s ∧ s.gate u body = .left t := by
  cases hpw : s.powered u.banks with
  | some t =>
    refine ⟨t, powered_like hr he hb hpw, ?_⟩
    simp only [State.gate, hu, Bool.false_and, Bool.false_eq_true, if_false, h, ne_eq, not_true_eq_false, hpw]
  | none =>
    have hq := vqNow_like s
    refine ⟨s.vqNow.stall .dep 1, (stall_like (hq.running.trans hr) (hq.exact.trans he) ..).trans hq, ?_⟩
    have hw' : s.vqNow.depWait u ≠ 0 := by rw [(vqNow_waits s u).1]; exact hw
    simp only [State.gate, hu, Bool.false_and, Bool.false_eq_true, if_false, h, ne_eq, not_true_eq_false, hpw, hd, hc, State.withRoom, hp,
      if_true, State.whenReady, hw', not_false_eq_true]

theorem deadSource_first {t : Strand} {a b : BitVec 5} (hs : t.sp.sctl.getLsbD 2 = true) (ha : t.deadG a = true) :
    t.deadSource { g := [a, b] } = some (1, a) := by
  simp [Strand.deadSource, hs, ha]

theorem deadSource_second {t : Strand} {a b : BitVec 5} (hs : t.sp.sctl.getLsbD 2 = true) (ha : t.deadG a = false) (hb : t.deadG b = true) :
    t.deadSource { g := [a, b] } = some (1, b) := by
  simp [Strand.deadSource, hs, ha, hb]

theorem emptySources_one {t : Strand} {a : BitVec 5} (h : t.emptyG a = true) :
    t.emptySources { g := [a] } = 1#4 <<< (depositIx a).toNat := by
  simp [Strand.emptySources, h]

theorem depositBit_ne_zero : ∀ i : BitVec 2, 1#4 <<< i.toNat ≠ 0 := by decide

/-- Settles O19: each clause is one exit of the gate. -/
theorem issueChecks : Obligations.IssueChecks := by
  unfold Obligations.IssueChecks
  refine ⟨?_, ?_, ?_, ?_⟩
  · intro s st a b hs
    have trap : ∀ {u : Use} {body : State → Res}, u.priv = true →
        issue st 4 u body s = .next (s.unwait.takeTrap (mkTrap 0x02 0)) := fun hu => by rw [issue, gate_user hu hs]; rfl
    refine ⟨trap rfl, trap rfl, trap rfl, fun hh => ?_⟩
    show execPark st a s = _
    simp only [execPark, issueOut, hh, Option.isSome_none, Bool.false_eq_true, if_false]
    exact trap rfl
  · intro s st d a b hs he hp
    have trap : ∀ {k r}, s.cur.deadSource { g := [a, b] } = some (k, r) →
        exec (.add st d a b 0 false) s = .next (s.unwait.takeTrap { mkTrap 0x08 0 with rclass := k, reg := r }) := fun hd => by
      show issue st 4 { g := [a, b] } _ s = _
      rw [issue, gate_dead rfl he (by simp [Use.banks]) hp hd]
      rfl
    exact ⟨fun ha => trap (deadSource_first hs ha), fun ha hb => trap (deadSource_second hs ha hb)⟩
  · intro s st d a i hr he hp ha
    obtain ⟨h1, c, hj⟩ := suspendDeposit_image hr he hp (s.cur.emptySources { g := [a] })
    have hm := emptySources_one ha
    refine ⟨_, c, ?_, h1, by rw [← hm]; exact hj⟩
    show issue st 4 { g := [a] } _ s = _
    rw [issue, gate_empty rfl (by rw [hm]; exact depositBit_ne_zero _)]
    rfl
  · intro s st d a b hr he hq hp hs hd hw
    obtain ⟨t, ht, hg⟩ := gate_latency hr he rfl hs (by simp [Use.banks]) hd rfl hp hw
    refine ⟨t, ht, ?_⟩
    show issue st 4 { g := [a, b] } _ s = _
    rw [issue, hg]
    rfl

end Sys2Proof.Machine
end

section
/-! SUPPORT. Stores by virtual address do not look at the focus core (R195, R353, R366), so slots charged to it change nothing of
what they write; and the delivery of a trap (R251-R253). -/

namespace Sys2Proof.Machine

/-! ## Memory does not look at the focus core -/

/-- The state with another focus core. -/
def State.withCore (s : State) (c : Core) : State := { s with core := c }

/-- A change of memory, messages, dies and package that neither looks at the focus core nor changes it. -/
def CoreBlind (f : State → State) : Prop := ∀ s c, f (s.withCore c) = (f s).withCore c

theorem CoreBlind.core {f : State → State} (h : CoreBlind f) (s : State) : (f s).core = s.core := by
  rw [show f s = (f s).withCore s.core from h s s.core]
  rfl

theorem foldl_coreBlind {α : Type} {f : State → α → State} (h : ∀ a, CoreBlind fun s => f s a) (l : List α) :
    CoreBlind fun s => l.foldl f s := by
  induction l with
  | nil => exact fun _ _ => rfl
  | cons a l ih =>
    intro s c
    simp only [List.foldl_cons]
    rw [show f (s.withCore c) a = (f s a).withCore c from h a s c]
    exact ih _ c

theorem drainDie_blind (d : Nat) (p : Nat → Bool) : CoreBlind (·.drainDie d p) := fun _ _ => rfl

theorem addContribution_blind (x : Contribution) : CoreBlind (·.addContribution x) := by
  intro s c
  show (s.withCore c).addContribution x = _
  simp only [State.addContribution]
  rw [show (s.withCore c).dieAt = s.dieAt from rfl]
  split
  · split <;> rfl
  · rfl

theorem addPackets_blind (l : List Contribution) : CoreBlind (·.addPackets l) := by
  intro s c
  exact foldl_coreBlind addContribution_blind (s.onTheWay l) s c

theorem arriveReduces_blind (p : Nat → Bool) : CoreBlind (·.arriveReduces p) := by
  intro s c
  show (s.withCore c).arriveReduces p = _
  simp only [State.arriveReduces]
  rw [show (s.withCore c).flight = s.flight from rfl]
  split
  · exact foldl_coreBlind (fun m : Msg => addPackets_blind m.contributions) _ { s with flight := s.flight.filter fun m => !m.reducesTo p } c
  · rfl

theorem drainLines_blind (a b : Nat) : CoreBlind (·.drainLines a b) := by
  intro s c
  show (s.withCore c).drainLines a b = _
  simp only [State.drainLines]
  rw [show (s.withCore c).arriveReduces _ = (s.arriveReduces _).withCore c from arriveReduces_blind _ s c]
  generalize s.arriveReduces _ = t
  rw [show (t.withCore c).dies = t.dies from rfl]
  split <;> rfl

@[simp] theorem withCore_touch (s : State) (c : Core) (k n : Nat) : (s.withCore c).touch k n = (s.touch k n).withCore c := drainLines_blind _ _ s c

@[simp] theorem withCore_mem (s : State) (c : Core) : (s.withCore c).mem = s.mem := rfl
@[simp] theorem withCore_pkg (s : State) (c : Core) : (s.withCore c).pkg = s.pkg := rfl
@[simp] theorem withCore_tlb (s : State) (c : Core) : (s.withCore c).tlb = s.tlb := rfl
@[simp] theorem withCore_free (s : State) (c : Core) : (s.withCore c).free = s.free := rfl
@[simp] theorem withCore_homeOf (s : State) (c : Core) (pa : Nat) : (s.withCore c).homeOf pa = s.homeOf pa := rfl
@[simp] theorem withCore_paHome (s : State) (c : Core) (pa : Nat) : (s.withCore c).paHome pa = s.paHome pa := rfl
@[simp] theorem withCore_backed (s : State) (c : Core) (pa : Nat) : (s.withCore c).backed pa = s.backed pa := rfl
@[simp] theorem withCore_tableAt (s : State) (c : Core) (pa : Nat) : (s.withCore c).tableAt pa = s.tableAt pa := rfl
@[simp] theorem withCore_way (s : State) (c : Core) (k : Nat) (h : Home) : (s.withCore c).way k h = s.way k h := rfl
@[simp] theorem withCore_sramAt (s : State) (c : Core) (a : Agent) (va n : Nat) : (s.withCore c).sramAt a va n = s.sramAt a va n := rfl
@[simp] theorem withCore_scratchAt (s : State) (c : Core) (a : Agent) (va n : Nat) : (s.withCore c).scratchAt a va n = s.scratchAt a va n := rfl
@[simp] theorem withCore_frameByte (s : State) (c : Core) (i : BitVec 12) (w : Word) (va : Nat) : (s.withCore c).frameByte i w va = s.frameByte i w va := rfl
@[simp] theorem withCore_dumpHolds (s : State) (c : Core) (i : BitVec 12) (w : Word) (va : Nat) : (s.withCore c).dumpHolds i w va = s.dumpHolds i w va := rfl
@[simp] theorem withCore_homeBad (s : State) (c : Core) (h : Home) (n : Nat) : (s.withCore c).homeBad h n = s.homeBad h n := rfl
@[simp] theorem withCore_homeLoad (s : State) (c : Core) (h : Home) (n : Nat) : (s.withCore c).homeLoad h n = s.homeLoad h n := by cases h <;> rfl

theorem cleanLines_blind (k n : Nat) : CoreBlind (·.cleanLines k n) := by
  intro s c
  show (s.withCore c).cleanLines k n = _
  simp only [State.cleanLines]
  rw [show (s.withCore c).poison = s.poison from rfl, show (s.withCore c).ue = s.ue from rfl]
  split <;> rfl

@[simp] theorem withCore_markPoison (s : State) (c : Core) (k n : Nat) : (s.withCore c).markPoison k n = (s.markPoison k n).withCore c := rfl

@[simp] theorem withCore_storeBytes (s : State) (c : Core) (k : Nat) (bs : List Byte) :
    (s.withCore c).storeBytes k bs = (s.storeBytes k bs).withCore c := by
  simp only [State.storeBytes, withCore_touch]
  rw [show ((s.touch k bs.length).withCore c).cleanLines k bs.length = _ from cleanLines_blind k bs.length (s.touch k bs.length) c]
  rfl

@[simp] theorem withCore_homeStore (s : State) (c : Core) (h : Home) (n v : Nat) :
    (s.withCore c).homeStore h n v = (s.homeStore h n v).withCore c := by
  cases h with
  | here k =>
    simp only [State.homeStore, withCore_touch]
    rw [show ((s.touch k n).withCore c).cleanLines k n = _ from cleanLines_blind k n (s.touch k n) c]
    rfl
  | _ => rfl

@[simp] theorem withCore_homeTouch (s : State) (c : Core) (h : Home) (n : Nat) : (s.withCore c).homeTouch h n = (s.homeTouch h n).withCore c := by
  cases h <;> simp [State.homeTouch]

@[simp] theorem withCore_loadPa (s : State) (c : Core) (pa n : Nat) : (s.withCore c).loadPa pa n = s.loadPa pa n := by
  simp only [State.loadPa, withCore_paHome, withCore_touch, withCore_mem, withCore_free]

@[simp] theorem withCore_storePa (s : State) (c : Core) (pa n v : Nat) : (s.withCore c).storePa pa n v = (s.storePa pa n v).withCore c := by
  simp only [State.storePa, withCore_paHome, withCore_homeStore]

/-! ## Walks -/

@[simp] theorem withCore_walkLeaf (s : State) (c : Core) (t va : Nat) : (s.withCore c).walkLeaf t va = s.walkLeaf t va := by
  simp only [State.walkLeaf, State.leafEntry, withCore_tableAt, withCore_loadPa]

@[simp] theorem withCore_walkMid (s : State) (c : Core) (t va : Nat) : (s.withCore c).walkMid t va = s.walkMid t va := by
  simp only [State.walkMid, State.midEntry, withCore_tableAt, withCore_loadPa, withCore_walkLeaf]

@[simp] theorem withCore_walk (s : State) (c : Core) (p : Word) (va : Nat) : (s.withCore c).walk p va = s.walk p va := by
  simp only [State.walk, State.rootEntry, withCore_tableAt, withCore_loadPa, withCore_walkMid]

@[simp] theorem withCore_walkFrom (s : State) (c : Core) (e : TlbEntry) (va : Nat) : (s.withCore c).walkFrom e va = s.walkFrom e va := by
  simp only [State.walkFrom, withCore_walkLeaf, withCore_walkMid]

@[simp] theorem withCore_walkCached (s : State) (c : Core) (p : Word) (va : Nat) : (s.withCore c).walkCached p va = s.walkCached p va := by
  unfold State.walkCached
  rw [withCore_walk, withCore_tlb]
  refine congrArg (fun f => List.foldl f _ _) (funext fun w => funext fun e => ?_)
  rw [withCore_walkFrom, withCore_free]

@[simp] theorem withCore_xlate (s : State) (c : Core) (p : Word) (priv : Bool) (k : AccKind) (va : Nat) :
    (s.withCore c).xlate p priv k va = s.xlate p priv k va := by
  unfold State.xlate
  rw [withCore_walkCached]
  rfl

@[simp] theorem withCore_locate (s : State) (c : Core) (a : Agent) (k : AccKind) (va n : Nat) : (s.withCore c).locate a k va n = s.locate a k va n := by
  simp only [State.locate, withCore_xlate, withCore_homeOf, withCore_way, withCore_sramAt, withCore_scratchAt]

@[simp] theorem withCore_reach (s : State) (c : Core) (a : Agent) (k : AccKind) (va n : Nat) : (s.withCore c).reach a k va n = s.reach a k va n := by
  simp only [State.reach, withCore_locate, withCore_xlate, withCore_homeOf, withCore_sramAt, withCore_scratchAt]

/-! ## The copy of a dump's piece (R366), and stores -/

theorem withCore_ite {p : Prop} [Decidable p] (a b : State) (c : Core) :
    (if p then a.withCore c else b.withCore c) = (if p then a else b).withCore c := by split <;> rfl

@[simp] theorem withCore_leafAt (s : State) (c : Core) (p : Word) (va : Nat) : (s.withCore c).leafAt p va = s.leafAt p va := by
  simp only [State.leafAt, withCore_walk, withCore_loadPa]

@[simp] theorem withCore_setLeafBit (s : State) (c : Core) (l : LeafAt) (k : Nat) (v : Bool) :
    (s.withCore c).setLeafBit l k v = (s.setLeafBit l k v).withCore c := by
  simp only [State.setLeafBit, withCore_loadPa, withCore_storePa]

@[simp] theorem withCore_setBitmap (s : State) (c : Core) (pa i : Nat) (v : Bool) : (s.withCore c).setBitmap pa i v = (s.setBitmap pa i v).withCore c := by
  simp only [State.setBitmap, withCore_loadPa, withCore_storePa]

/-- A copy between physical addresses: the state after it, and what it met. -/
theorem withCore_copyPa (s : State) (c : Core) (src dst n : Nat) :
    (s.withCore c).copyPa src dst n = ((s.copyPa src dst n).1.withCore c, (s.copyPa src dst n).2) := by
  unfold State.copyPa
  generalize (⟨false, false⟩ : PaCopy) = r
  induction pieces src n generalizing s r with
  | nil => rfl
  | cons p l ih =>
    simp only [List.foldl_cons, withCore_homeOf, withCore_homeTouch, withCore_homeBad, withCore_homeLoad, withCore_storeBytes, withCore_markPoison,
      withCore_ite]
    split <;> exact ih _ _

theorem withCore_onPkg (s : State) (c : Core) (f : Package → Package) : (s.withCore c).onPkg f = (s.onPkg f).withCore c := rfl
theorem withCore_dropPage (s : State) (c : Core) (i : BitVec 12) (va : Nat) : (s.withCore c).dropPage i va = (s.dropPage i va).withCore c := rfl

theorem withCore_dumpPiece (s : State) (c : Core) (i : BitVec 12) (va : Nat) : (s.withCore c).dumpPiece i va = (s.dumpPiece i va).withCore c := by
  simp only [State.dumpPiece, withCore_pkg, withCore_leafAt]
  split
  · rfl
  split
  · rfl
  split
  · rfl
  rw [withCore_copyPa]
  generalize s.copyPa _ _ _ = x
  simp only [withCore_setBitmap, withCore_setLeafBit, withCore_dropPage, withCore_onPkg, withCore_ite]

/-- Bytes stored by virtual address are the same whatever happens on the focus core. -/
theorem storeVa_blind (a : Agent) (va : Nat) (bs : List Byte) : CoreBlind (·.storeVa a va bs) := by
  refine foldl_coreBlind (fun p s c => ?_) (pieces va bs.length)
  simp only [withCore_pkg, withCore_locate, withCore_dumpPiece, withCore_ite, withCore_reach, withCore_storeBytes, withCore_markPoison]
  split <;> rfl

@[simp] theorem withCore_storeVa (s : State) (c : Core) (a : Agent) (va : Nat) (bs : List Byte) :
    (s.withCore c).storeVa a va bs = (s.storeVa a va bs).withCore c := storeVa_blind a va bs s c

/-! ## Slots charged to the running strand -/

/-- `t` is `s` with other accounting, and no free value has been taken in between. -/
def Ticked (t s : State) : Prop := ∃ x, t = s.counted x ∧ x.free = s.free

theorem Ticked.of_like {t s : State} (h : Like t s) (hf : t.free = s.free) : Ticked t s := by
  obtain ⟨x, rfl⟩ := h
  exact ⟨x, rfl, hf⟩

theorem charge_free {s : State} (he : s.core.exact = false) (c : Cause) (ctx : Option Nat) (pc nx : Word) (n : Nat) :
    (s.charge c ctx pc nx n).free = s.free := by
  unfold State.charge
  split
  · rfl
  · rw [runSlots_untraced he]; rfl

theorem stall_ticked {s : State} (hr : s.core.running = true) (he : s.core.exact = false) (c : Cause) (n : Nat) : Ticked (s.stall c n) s :=
  .of_like (stall_like hr he c n) (charge_free he ..)

theorem closeConvoy_free {s : State} (he : s.core.exact = false) : s.closeConvoy.free = s.free := by
  unfold State.closeConvoy
  split
  · rfl
  · simp only [he, Bool.and_false, Bool.false_eq_true, if_false]; rfl

/-- Before a save, the queue drains and results arrive: nothing but slots. -/
theorem quiesce_ticked {s : State} (hr : s.core.running = true) (he : s.core.exact = false) (c : Cause) : Ticked (s.quiesce c) s := by
  refine .of_like (quiesce_like hr he c) ?_
  have hd := vqDrain_like hr he c
  have hw := vqWait_like hr he c fun _ => true
  calc (s.quiesce c).free = (s.vqDrain c).free := charge_free (hd.exact.trans he) ..
    _ = (s.vqWait c fun _ => true).free := closeConvoy_free (hw.exact.trans he)
    _ = s.free := charge_free he ..

/-- Slots charged at another PC. -/
theorem atPc_ticked {s : State} (pc : Word) {f : State → State}
    (h : ∀ t : State, t.core.running = s.core.running → t.core.exact = s.core.exact → Ticked (f t) t) : Ticked (s.atPc pc f) s := by
  obtain ⟨x, hx, hf⟩ := h (s.onCur fun t => { t with pc := pc }) rfl rfl
  refine ⟨x, ?_, hf⟩
  rw [State.atPc, hx]
  rfl

/-! ## Delivery -/

theorem trim_within {s : State} {own : Nat} (h : s.core.heldEntries + own ≤ s.core.entryLimit) (n : Nat) : s.trim own n = s := by
  cases n with
  | zero => rfl
  | succ n => rw [State.trim, if_pos h]

theorem trimSaving_within {s : State} (h : s.noTrim) : s.trimSaving = s := trim_within h _

/-- A record shows the strand's number, PC, registers and specials. -/
theorem trapRecordBytes_congr (i : TrapInfo) {t u : Strand} (hn : t.num = u.num) (hp : t.pc = u.pc) (hg : t.g = u.g) (hd : t.gdead = u.gdead)
    (hs : t.sp = u.sp) : trapRecordBytes i t = trapRecordBytes i u := by
  have hr : t.readG = u.readG := by funext r; rw [Strand.readG, Strand.readG, hg]
  unfold trapRecordBytes TrapInfo.pcOf TrapInfo.resume
  rw [hn, hp, hd, hr, hs]

/-- The image of a trapped strand in its slot (R251). -/
def State.slotImage (s : State) (t : TrapInfo) (slot : Nat) : Image :=
  let img := { s.cur.cleaned.image s.cur.taggedWhole .trapped .go s.core.cycle with place := .slot slot, cleanCopy := s.cleanRows }
  { img with st := { img.st with trapDue := some t } }

theorem slotImage_place (s : State) (t : TrapInfo) (n : Nat) : (s.slotImage t n).place = .slot n := rfl
theorem slotImage_cond (s : State) (t : TrapInfo) (n : Nat) : (s.slotImage t n).cond = .trapped := rfl
theorem slotImage_trapDue (s : State) (t : TrapInfo) (n : Nat) : (s.slotImage t n).st.trapDue = some t := rfl
theorem slotImage_num (s : State) (t : TrapInfo) (n : Nat) : (s.slotImage t n).st.num = s.cur.num := by
  simp only [State.slotImage, Strand.image, cleaned_num]
theorem slotImage_pc (s : State) (t : TrapInfo) (n : Nat) : (s.slotImage t n).st.pc = s.cur.pc := by
  simp only [State.slotImage, Strand.image, cleaned_pc]
theorem slotImage_g (s : State) (t : TrapInfo) (n : Nat) : (s.slotImage t n).st.g = s.cur.g := by
  simp only [State.slotImage, Strand.image, cleaned_g]
theorem slotImage_sp (s : State) (t : TrapInfo) (n : Nat) : (s.slotImage t n).st.sp = s.cur.sp := by
  simp only [State.slotImage, Strand.image, cleaned_sp]

/-- The handler strand that serves a trap of the strand `st` (R253). -/
def State.handlerOf (s : State) (t : TrapInfo) (slot base : Nat) (st : Strand) : Strand :=
  handlerStrand s.cur base ⟨slot, t.cause, false, false, false, s.core.ownsMatrix st⟩ st.sp.self

/-- The handler takes the core, and the trapped image its slot. -/
def State.takeCore (s : State) (img : Image) (slot num : Nat) (h : Strand) : State :=
  s.onFocus fun c =>
    { c with images := img :: c.images, trapSlots := ⟨slot, num⟩ :: c.trapSlots, curEntry := false, waiting := false, reply := .none, cur := h }

/-- The state in which the record has been written, before the handler takes the core. -/
def State.recordPut (s : State) (t : TrapInfo) (slot : Nat) : State :=
  s.storeVa s.supervisor (s.core.slotBase slot) (trapRecordBytes t s.cur)

/-- The handler takes the core from the strand `st` of a state in which the record at `base` is written. -/
def State.handOver (s : State) (t : TrapInfo) (slot base : Nat) (st : Strand) : State :=
  let h := s.handlerOf t slot base st
  (s.takeCore (s.slotImage t slot) slot st.num h).charge .switch (some st.num) h.pc h.pc 2

/-- A delivery: its slots, the record, the contexts that leave with it, the handler. The operations are generalised before `rfl`, which
else would run the 128 steps of `makeRoomFuel`. -/
theorem deliver_eq (s : State) (t : TrapInfo) (slot bytes : Nat) {u : State}
    (h : (s.atPc (t.resume s.cur) fun s => s.stall .trap (8 + ceilDiv (bytes + 2048) 64)) = u) :
    s.deliver t slot bytes = (u.recordPut t slot).trimSaving.handOver t slot (u.core.slotBase slot) s.cur := by
  subst h
  delta State.deliver State.handOver State.takeCore State.slotImage State.handlerOf State.recordPut
  generalize State.trimSaving = f
  generalize trapRecordBytes = r
  generalize State.storeVa = v
  generalize State.atPc = p
  rfl

/-- The record goes where the trapping strand's address space leads, whatever slots are charged meanwhile. -/
theorem recordPut_counted (s : State) (t : TrapInfo) (slot : Nat) {x : Accounting} (hf : x.free = s.free) :
    (s.counted x).recordPut t slot = (s.recordPut t slot).withCore (s.counted x).core := by
  have hc : s.counted x = s.withCore (s.counted x).core := by rw [State.counted, hf]; rfl
  unfold State.recordPut
  rw [trapRecordBytes_congr t (t := (s.counted x).cur) (u := s.cur) rfl rfl rfl rfl rfl]
  show (s.counted x).storeVa s.supervisor (s.core.slotBase slot) (trapRecordBytes t s.cur) = _
  generalize trapRecordBytes t s.cur = b
  generalize (s.counted x).core = c at hc ⊢
  rw [hc]
  exact withCore_storeVa ..

/-- The handler takes the core: what the trapped strand leaves, and what the handler starts with. -/
theorem handOver_delivered {s w : State} {x : Accounting} (hr : s.core.running = true) (he : s.core.exact = false) (t : TrapInfo) (n : Nat)
    (hw : w.mem = (s.recordPut t n).mem) :
    Delivered s ((w.withCore (s.counted x).core).handOver t n (s.core.slotBase n) s.cur) n t := by
  obtain ⟨y, hy⟩ := charge_like (s := (w.withCore (s.counted x).core).takeCore ((w.withCore (s.counted x).core).slotImage t n) n s.cur.num
      ((w.withCore (s.counted x).core).handlerOf t n (s.core.slotBase n) s.cur)) hr he .switch s.cur.sp.trapvec s.cur.sp.trapvec 2
  rw [show (w.withCore (s.counted x).core).handOver t n (s.core.slotBase n) s.cur = _ from hy]
  exact {
    running := hr
    pc := rfl
    num := rfl
    mode := rfl
    gang := rfl
    record := rfl
    inherited := ⟨rfl, rfl, rfl, rfl, rfl, rfl, rfl, rfl, rfl⟩
    fresh := ⟨rfl, rfl, rfl⟩
    serves := rfl
    slot := rfl
    saved := ⟨_, rfl, slotImage_place .., slotImage_cond .., slotImage_num .., slotImage_pc .., slotImage_g .., slotImage_sp .., slotImage_trapDue ..⟩
    memory := hw }

/-- A trap that has drained and settled the strand is delivered into a free slot (R251, R253, R256). -/
theorem deliver_delivered {s : State} (hr : s.core.running = true) (he : s.core.exact = false) (ht : s.noTrim) (t : TrapInfo) (n b : Nat) :
    Delivered s (s.deliver t n b) n t := by
  obtain ⟨x, hx, hf⟩ := atPc_ticked (s := s) (t.resume s.cur) (f := fun s => s.stall .trap (8 + ceilDiv (b + 2048) 64))
    fun u h1 h2 => stall_ticked (h1.trans hr) (h2.trans he) _ _
  rw [deliver_eq s t n b hx, recordPut_counted s t n hf,
    trimSaving_within (show ((s.recordPut t n).withCore (s.counted x).core).noTrim from ht)]
  exact handOver_delivered hr he t n rfl

/-- What a delivery reads of the core: the trapped strand's registers, its address space, its images and slots. -/
structure TrapsAlike (c k : Core) : Prop where
  cid : c.cid = k.cid
  num : c.cur.num = k.cur.num
  pc : c.cur.pc = k.cur.pc
  g : c.cur.g = k.cur.g
  gdead : c.cur.gdead = k.cur.gdead
  sp : c.cur.sp = k.cur.sp
  launch : c.cur.launch = k.cur.launch
  area : c.trapcfg = k.trapcfg
  slots : c.trapSlots = k.trapSlots
  images : c.images = k.images
  matrix : c.ownsMatrix c.cur = k.ownsMatrix k.cur

/-- So a delivery from one core is a delivery from the other. -/
theorem Delivered.of_alike {s t : State} {c : Core} {n : Nat} {i : TrapInfo} (h : Delivered (s.withCore c) t n i) (k : TrapsAlike c s.core) :
    Delivered s t n i := by
  have hb : c.slotBase n = s.core.slotBase n := by rw [Core.slotBase, k.area]; rfl
  have ha : (s.withCore c).supervisor = s.supervisor := by
    show (⟨c.cid, c.cur.launch, c.cur.sp.ptroot, true⟩ : Agent) = _
    rw [k.cid, k.launch, k.sp]
    rfl
  have hr : trapRecordBytes i c.cur = trapRecordBytes i s.cur := trapRecordBytes_congr i k.num k.pc k.g k.gdead k.sp
  obtain ⟨j, h1, h2, h3, h4, h5, h6, h7, h8⟩ := h.saved
  exact {
    running := h.running
    pc := h.pc.trans (congrArg (·.trapvec) k.sp)
    num := h.num.trans k.num
    mode := h.mode
    gang := h.gang
    record := h.record.trans (congrArg _ hb)
    inherited := by
      have hi := h.inherited
      rw [show (s.withCore c).cur.sp = s.cur.sp from k.sp, show (s.withCore c).cur.launch = s.cur.launch from k.launch] at hi
      exact hi
    fresh := h.fresh
    serves := by rw [h.serves, ← k.matrix]; rfl
    slot := by rw [h.slot, ← k.num, ← k.slots]; rfl
    saved := ⟨j, by rw [h1, ← k.images]; rfl, h2, h3, h4.trans k.num, h5.trans k.pc, h6.trans k.g, h7.trans k.sp, h8⟩
    memory := by
      rw [h.memory, ha, show (s.withCore c).core.slotBase n = s.core.slotBase n from hb,
        show trapRecordBytes i (s.withCore c).cur = trapRecordBytes i s.cur from hr, withCore_storeVa, withCore_mem] }

/-- The reissue state is reset, in a trap (R261). -/
def Strand.attemptOver (t : Strand) : Strand := { t with reissue := false, attempts := 0, firstRefusal := none }

/-- A trap of a strand whose results have settled: a double trap, an unhandled trap, a delivery, or a wait for a slot (R251, R254, R255). -/
def State.serveTrap (s : State) (t : TrapInfo) : State :=
  match s.cur.handler with
  | some h => s.doubleTrap t h
  | none =>
    if s.cur.sp.trapvec = 0 then s.unhandled t
    else
      match s.core.freeSlot with
      | some n => s.deliver t n s.cur.taggedBytes
      | none =>
        let num := s.cur.num
        (s.saveBasin .trap (.slotWait t s.cur.taggedBytes) .go false).onFocus fun c => { c with slotQueue := c.slotQueue ++ [num] }

/-- The settle of a trap (R251, R262), charged at the PC where the strand goes on. -/
def State.trapSettle (s : State) (t : TrapInfo) : State × Option Pending :=
  let r := (s.onCur fun c => { c with pc := t.resume c }).settle .trap
  (r.1.onCur fun c => { c with pc := s.cur.pc }, r.2)

/-- The trap that the strand takes after its settle: an erroneous result takes the place of the trap (R262). -/
def servedAfter (p : State × Option Pending) (t : TrapInfo) : State :=
  (p.1.onCur Strand.attemptOver).serveTrap (match p.2 with
    | some e => e.trap p.1.cur.pc
    | none => t)

/-- Taking a trap: the queue drains, the results settle, the trap is served. The operations are generalised as in `deliver_eq`. -/
theorem takeTrap_eq (s : State) {i : TrapInfo} (h : i.settledAt = none) :
    s.takeTrap i = servedAfter ((s.atPc ((s.recorded i).resume s.cur) (·.quiesce .trap)).trapSettle (s.recorded i)) (s.recorded i) := by
  cases i
  subst h
  delta State.takeTrap servedAfter State.trapSettle State.serveTrap Strand.attemptOver State.recorded
  generalize State.deliver = d
  generalize State.unhandled = u
  generalize State.doubleTrap = e
  generalize State.saveBasin = b
  generalize State.settle = z
  generalize State.atPc = p
  rfl

theorem serveTrap_slot {s : State} {t : TrapInfo} {n : Nat} (hh : s.cur.handler = none) (hv : s.cur.sp.trapvec ≠ 0)
    (hn : s.core.freeSlot = some n) : s.serveTrap t = s.deliver t n s.cur.taggedBytes := by
  simp only [State.serveTrap, hh, if_neg hv, hn]

/-- A trap without pending results: the queue drains, and the trap is delivered. -/
theorem takeTrap_delivered {s : State} {i : TrapInfo} {n : Nat} (hr : s.core.running = true) (he : s.core.exact = false) (hp : s.cur.pend = [])
    (hh : s.cur.handler = none) (hv : s.cur.sp.trapvec ≠ 0) (hn : s.core.freeSlot = some n) (hi : i.settledAt = none) (ht : s.noTrim) :
    Delivered s (s.takeTrap i) n (s.recorded i) := by
  obtain ⟨x, hx, hf⟩ := atPc_ticked (s := s) ((s.recorded i).resume s.cur) (f := (·.quiesce .trap))
    fun u h1 h2 => quiesce_ticked (h1.trans hr) (h2.trans he) _
  have hs := settle_noPend (s := (s.counted x).onCur fun c => { c with pc := (s.recorded i).resume c }) hp .trap
  have hd : s.takeTrap i = ((s.counted x).onCur Strand.attemptOver).serveTrap (s.recorded i) := by
    rw [takeTrap_eq s hi, hx, State.trapSettle, hs]
    rfl
  rw [hd, serveTrap_slot (s := (s.counted x).onCur Strand.attemptOver) hh hv hn]
  have hc : (s.counted x).onCur Strand.attemptOver = s.withCore ((s.counted x).onCur Strand.attemptOver).core := by
    rw [State.counted, hf]; rfl
  refine Delivered.of_alike (c := ((s.counted x).onCur Strand.attemptOver).core) ?_ ⟨rfl, rfl, rfl, rfl, rfl, rfl, rfl, rfl, rfl, rfl, rfl⟩
  rw [← hc]
  exact deliver_delivered (s := (s.counted x).onCur Strand.attemptOver) hr he ht _ _ _

/-- Settles O17: each word raises its trap at once, and a trap that finds a free slot is delivered. -/
theorem trapWords : Obligations.TrapWords := by
  unfold Obligations.TrapWords
  intro s st a r w n hp hh hv hn ht
  have delivers : ∀ {u : Use} {len : Nat} {st : Bool} {body : State → Res} {i : TrapInfo}, i.settledAt = none → AtOnce s u st → body s = .trap s i →
      ∃ t, issue st len u body s = .next t ∧ Delivered s t n (s.recorded i) := fun hi h hb =>
    ⟨s.unwait.takeTrap _, by rw [issue, gate_atOnce h, hb]; rfl,
      (takeTrap_delivered (s := s.unwait) h.running h.untraced hp hh hv hn hi ht).of_alike (c := s.unwait.core)
        ⟨rfl, rfl, rfl, rfl, rfl, rfl, rfl, rfl, rfl, rfl, rfl⟩⟩
  exact ⟨fun h => delivers rfl h rfl, fun h => delivers rfl h rfl, fun h => delivers rfl h rfl⟩

end Sys2Proof.Machine
end

section
/-! SUPPORT. Rounding what a format holds (R44, R45, R56, R57): the fields of a pattern, the value that they decode to, and the exact rounding
of a magnitude whose unit is that of the format. -/

namespace Sys2Proof.Machine

/-- The exponent field of a pattern (R44). -/
def Fmt.expField (f : Fmt) (n : Nat) : Nat := (n >>> f.m) % 2 ^ f.e

theorem sign_testBit (f : Fmt) (n : Nat) : f.sign (n.testBit (f.e + f.m)) = 2 ^ (f.e + f.m) * (n / 2 ^ (f.e + f.m) % 2) := by
  rw [← Nat.toNat_testBit, Fmt.sign]
  cases n.testBit (f.e + f.m) <;> simp

/-- A pattern is its sign bit, its exponent field and its mantissa field (R44). -/
theorem pattern_fields {f : Fmt} {n : Nat} (h : n < 2 ^ (1 + f.e + f.m)) :
    f.sign (n.testBit (f.e + f.m)) + (f.expField n * 2 ^ f.m + n % 2 ^ f.m) = n := by
  have low : n % 2 ^ (f.e + f.m) = f.expField n * 2 ^ f.m + n % 2 ^ f.m := by
    rw [Fmt.expField, Nat.shiftRight_eq_div_pow, Nat.add_comm f.e, Nat.pow_add, Nat.mod_mul]
    ring
  rw [← low, sign_testBit, Nat.add_comm, ← Nat.mod_pow_succ]
  exact Nat.mod_eq_of_lt (by rwa [Nat.add_comm _ 1, ← Nat.add_assoc])

/-- How a format with infinities decodes (R45, R46). -/
theorem decode_ieee {f : Fmt} (ht : f.top = .ieee) (n : Nat) :
    f.decode n =
      if f.expField n = 2 ^ f.e - 1 then
        if n % 2 ^ f.m = 0 then .inf (n.testBit (f.e + f.m)) else .nan (!(n % 2 ^ f.m).testBit (f.m - 1))
      else if f.expField n = 0 then .fin (n.testBit (f.e + f.m)) (n % 2 ^ f.m) f.qmin
      else .fin (n.testBit (f.e + f.m)) (2 ^ f.m + n % 2 ^ f.m) ((f.expField n : Int) - f.bias - f.m) := by
  simp only [Fmt.decode, ht]
  rfl

/-- What a pattern that decodes to a finite value of a format with infinities holds (R45): a subnormal or a normal. -/
theorem decode_fin {f : Fmt} (ht : f.top = .ieee) {n k : Nat} {neg : Bool} {e : Int} (h : f.decode n = .fin neg k e) :
    neg = n.testBit (f.e + f.m) ∧
      (f.expField n = 0 ∧ k = n % 2 ^ f.m ∧ e = f.qmin ∨
        f.expField n ≠ 0 ∧ f.expField n ≠ 2 ^ f.e - 1 ∧ k = 2 ^ f.m + n % 2 ^ f.m ∧ e = (f.expField n : Int) - f.bias - f.m) := by
  rw [decode_ieee ht] at h
  split at h
  · split at h <;> cases h
  · rename_i htop
    split at h
    · rename_i h0
      cases h
      exact ⟨rfl, .inl ⟨h0, rfl, rfl⟩⟩
    · rename_i h0
      cases h
      exact ⟨rfl, .inr ⟨h0, htop, rfl, rfl⟩⟩

/-- A nonzero magnitude whose exponent is that of its unit in the format, and which does not overflow, is kept (R56). -/
theorem round_exact {f : Fmt} {k : Nat} {e : Int} (mode : RMode) (satm neg : Bool) (hk : k ≠ 0)
    (hq : max (e + (k.log2 : Int) - f.m) f.qmin = e) (hv : ¬(f.qmax < e ∨ e = f.qmax ∧ f.kmax < k)) :
    f.round mode satm neg ⟨k, e, false⟩ = ⟨f.pack neg k e, 0⟩ := by
  simp [Fmt.round, Mag.toUnit, hk, hq, hv]

theorem kmax_ieee {f : Fmt} (ht : f.top = .ieee) : f.kmax = 2 ^ (f.m + 1) - 1 := by simp only [Fmt.kmax, ht]

theorem qmax_ieee {f : Fmt} (ht : f.top = .ieee) : f.qmax = (2 : Int) ^ f.e - 2 - f.bias - f.m := by simp only [Fmt.qmax, ht]

theorem round_zero (f : Fmt) (mode : RMode) (satm neg : Bool) (e : Int) : f.round mode satm neg ⟨0, e, false⟩ = ⟨f.sign neg, 0⟩ := rfl

/-- Zero and the subnormals are kept: their unit is the least (R45, R56). -/
theorem round_subnormal {f : Fmt} (ht : f.top = .ieee) (he : 2 ≤ f.e) {k : Nat} (hk : k < 2 ^ f.m) (mode : RMode) (satm neg : Bool) :
    f.round mode satm neg ⟨k, f.qmin, false⟩ = ⟨f.sign neg + k, 0⟩ := by
  by_cases h0 : k = 0
  · subst h0; exact round_zero ..
  have hlog : k.log2 < f.m := (Nat.log2_lt h0).mpr hk
  have hlt : f.qmin < f.qmax := by
    have h4 : (2 : Int) ^ 2 ≤ 2 ^ f.e := pow_le_pow_right₀ (by decide) he
    rw [Fmt.qmin, qmax_ieee ht]
    omega
  rw [round_exact mode satm neg h0 (by omega) (by omega), Fmt.pack, if_neg (by rw [Nat.pow_succ]; omega)]
  simp only [hk, if_true]

/-- The normal values are kept: a mantissa of `m + 1` bits has its own unit (R45, R56). -/
theorem round_normal {f : Fmt} (ht : f.top = .ieee) {x r : Nat} (hx0 : x ≠ 0) (hx : x < 2 ^ f.e - 1) (hr : r < 2 ^ f.m)
    (mode : RMode) (satm neg : Bool) :
    f.round mode satm neg ⟨2 ^ f.m + r, (x : Int) - f.bias - f.m, false⟩ = ⟨f.sign neg + (x * 2 ^ f.m + r), 0⟩ := by
  have hpos : 0 < 2 ^ f.m := Nat.two_pow_pos _
  have hlog : (2 ^ f.m + r).log2 = f.m := by
    rw [Nat.log2_eq_iff (by omega), Nat.pow_succ]
    omega
  have hq : max ((x : Int) - f.bias - f.m + ((2 ^ f.m + r).log2 : Int) - f.m) f.qmin = (x : Int) - f.bias - f.m := by
    rw [hlog, Fmt.qmin]
    omega
  have hv : ¬(f.qmax < (x : Int) - f.bias - f.m ∨ (x : Int) - f.bias - f.m = f.qmax ∧ f.kmax < 2 ^ f.m + r) := by
    have hxi : (x : Int) + 2 ≤ 2 ^ f.e := by
      exact_mod_cast (show x + 2 ≤ 2 ^ f.e by omega)
    rw [qmax_ieee ht, kmax_ieee ht, Nat.pow_succ]
    omega
  rw [round_exact mode satm neg (by omega) hq hv, Fmt.pack, if_neg (by rw [Nat.pow_succ]; omega)]
  simp only [Nat.not_lt.mpr (Nat.le_add_right _ r), if_false, Nat.add_sub_cancel_left]
  rw [show (x : Int) - f.bias - f.m + f.m + f.bias = x by omega, Int.toNat_natCast]

/-- Rounding keeps each finite value that a format with infinities holds, in every mode and with no flag. -/
theorem round_decode {f : Fmt} (ht : f.top = .ieee) (he : 2 ≤ f.e) {n k : Nat} {neg : Bool} {e : Int} (hn : n < 2 ^ (1 + f.e + f.m))
    (h : f.decode n = .fin neg k e) (mode : RMode) (satm : Bool) : f.round mode satm neg ⟨k, e, false⟩ = ⟨n, 0⟩ := by
  have hm : n % 2 ^ f.m < 2 ^ f.m := Nat.mod_lt _ (Nat.two_pow_pos _)
  have hfields := pattern_fields hn
  obtain ⟨rfl, ⟨hx, rfl, rfl⟩ | ⟨hx, htop, rfl, rfl⟩⟩ := decode_fin ht h
  · rw [hx, Nat.zero_mul, Nat.zero_add] at hfields
    rw [round_subnormal ht he hm, hfields]
  · have hlt : f.expField n < 2 ^ f.e := Nat.mod_lt _ (Nat.two_pow_pos _)
    rw [round_normal ht hx (by omega) hm, hfields]

/-- Settles O37: the three formats have infinities and at least two exponent bits. -/
theorem roundingKeepsValues : Obligations.RoundingKeepsValues := by
  unfold Obligations.RoundingKeepsValues
  intro f hf mode satm neg n k e hn h
  have hieee : ∀ f ∈ [fp32, bf16, fp16], f.top = .ieee ∧ 2 ≤ f.e := by decide
  obtain ⟨ht, he⟩ := hieee f hf
  exact round_decode ht he hn h mode satm

end Sys2Proof.Machine
end

section
/-! SUPPORT. What the vector words give when they issue (R107-R111, R123, R126): writes of the register files do not look at the
accounting and leave calm results calm, so that a word whose checks pass gives its write, with the flags noted. -/

namespace Sys2Proof.Machine

/-! ## Writes of the register files -/

/-- A change of the state that neither reads nor changes accounting, leaves the core running untraced, and leaves calm results calm. -/
structure FileWrite (f : State → State) : Prop where
  counted : ∀ s x, f (s.counted x) = (f s).counted x
  running : ∀ s, (f s).core.running = s.core.running
  exact : ∀ s, (f s).core.exact = s.core.exact
  calm : ∀ s, s.cur.Calm → (f s).cur.Calm

theorem FileWrite.comp {f g : State → State} (hg : FileWrite g) (hf : FileWrite f) : FileWrite fun s => g (f s) where
  counted s x := by rw [hf.counted, hg.counted]
  running s := by rw [hg.running, hf.running]
  exact s := by rw [hg.exact, hf.exact]
  calm s h := hg.calm _ (hf.calm s h)

theorem FileWrite.id : FileWrite fun s => s := ⟨fun _ _ => rfl, fun _ => rfl, fun _ => rfl, fun _ h => h⟩

theorem FileWrite.ite {f g : State → State} (p : Prop) [Decidable p] (hf : FileWrite f) (hg : FileWrite g) :
    FileWrite fun s => if p then f s else g s := by
  split <;> assumption

/-- Results stay calm where they and the banks stand. -/
theorem calm_same {t u : Strand} (h : t.Calm) (hp : u.pend = t.pend) (hb : u.sp.vbank = t.sp.vbank) : u.Calm := by
  simpa only [Strand.Calm, hp, Strand.bankOf, hb] using h

theorem takenV_due (r : BitVec 5) (e : Pending) : (e.takenV r).due = e.due := by
  unfold Pending.takenV
  repeat' split
  all_goals rfl

/-- A later write of a vector register leaves of a result what R20 asks of it. -/
theorem takenV_kept (r : BitVec 5) (e : Pending) :
    (e.takenV r).err = e.err ∧ (e.takenV r).token = e.token ∧ (e.takenV r).present = e.present ∧
      ∀ q ∈ (e.takenV r).wr.vregs, q ∈ e.wr.vregs := by
  unfold Pending.takenV
  repeat' split
  all_goals simp_all [PendWrite.vregs]

/-- Results that a vector write takes stay calm (R21). -/
theorem calm_takenV {t u : Strand} {r : BitVec 5} (h : t.Calm) (hp : u.pend = t.pend.map (·.takenV r)) (hb : u.sp.vbank = t.sp.vbank) :
    u.Calm := by
  intro f hf hd
  rw [hp] at hf
  obtain ⟨e, he, rfl⟩ := List.mem_map.mp hf
  rw [takenV_due] at hd
  obtain ⟨herr, htok, hpre, hregs⟩ := takenV_kept r e
  obtain ⟨h1, h2, h3⟩ := h e he hd
  rw [herr, htok, hpre]
  refine ⟨h1, h2, fun q hq => ?_⟩
  rw [Strand.bankOf, hb]
  exact h3 q (hregs q hq)

theorem writeV_fileWrite (d : BitVec 5) (ws : State → List VWrite) (hw : ∀ s x, ws (s.counted x) = ws s) :
    FileWrite fun s => s.onCur (·.writeV s.own d (ws s)) where
  counted s x := by rw [hw]; rfl
  running _ := rfl
  exact _ := rfl
  calm _ h := calm_takenV h rfl rfl

theorem putElems_fileWrite (d : BitVec 5) (w : Nat) (es : List (Nat × Nat)) : FileWrite fun s => s.putElems d w es :=
  writeV_fileWrite d (fun s => s.writes w es) fun _ _ => rfl

theorem putCells_fileWrite (d : BitVec 5) (w : Nat) (es : List (Nat × Nat × Nat)) : FileWrite fun s => s.putCells d w es :=
  writeV_fileWrite d (fun s => s.cellWrites w es) fun _ _ => rfl

/-- A write of a mask register, of values that do not look at the accounting. -/
theorem putMask_fileWrite (d : BitVec 4) (xs : State → List (BitVec 8192)) (hx : ∀ s x, xs (s.counted x) = xs s) :
    FileWrite fun s => s.putMask d (xs s) := by
  by_cases hd : d = 0
  · subst hd
    exact ⟨fun _ _ => rfl, fun _ => rfl, fun _ => rfl, fun _ h => h⟩
  · have hw : ∀ (t : Strand) o ys, t.writeM o d ys = { t.putM o d ys with pend := cancelIf (·.isM d) t.pend } := fun t o ys => if_neg hd
    have hp : ∀ (t : Strand) o ys, t.putM o d ys = _ := fun t o ys => if_neg hd
    simp only [State.putMask, hw, hp]
    exact ⟨fun s x => by rw [hx]; rfl, fun _ => rfl, fun _ => rfl, fun _ h => calm_cancelIf (p := (·.isM d)) h rfl rfl⟩

theorem onSp_fileWrite (f : Specials → Specials) (hf : ∀ p, (f p).vbank = p.vbank) : FileWrite fun s => s.onSp f :=
  ⟨fun _ _ => rfl, fun _ => rfl, fun _ => rfl, fun s h => calm_same h rfl (hf s.core.cur.sp)⟩

theorem captureXm_fileWrite (bits : List (Nat × Nat)) : FileWrite fun s => s.captureXm bits := by
  unfold State.captureXm
  exact .ite _ .id ⟨fun _ _ => rfl, fun _ => rfl, fun _ => rfl, fun _ h => calm_same h rfl rfl⟩

theorem unitBand_fileWrite (d : BitVec 5) : FileWrite fun s => s.unitBand d :=
  ⟨fun _ _ => rfl, fun _ => rfl, fun _ => rfl, fun _ h => calm_same h rfl rfl⟩

theorem noteFlags_fileWrite (l : List Raised) : FileWrite fun s => s.noteFlags l where
  counted s x := (captureXm_fileWrite _).counted (s.orFlags _) x
  running s := (captureXm_fileWrite _).running (s.orFlags _)
  exact s := (captureXm_fileWrite _).exact (s.orFlags _)
  calm s h := (captureXm_fileWrite _).calm (s.orFlags _) ((onSp_fileWrite _ fun _ => rfl).calm s h)

/-! ## The checks (R126, R262) -/

theorem poisonTrap_none {s : State} {reads : List (BitVec 5 × Nat × List Nat)} (h : ∀ p ∈ reads, s.badElems p.1 p.2.1 p.2.2 = []) :
    s.poisonTrap reads = none := by
  rw [State.poisonTrap, Option.map_eq_none_iff, List.find?_eq_none]
  intro p hp
  simp [h p hp]

theorem poisonTrap_sources {s : State} {rs : List (BitVec 5)} {w : Nat} {js : List Nat} (h : ∀ r ∈ rs, s.badElems r w js = []) :
    s.poisonTrap (rs.map fun r => (r, w, js)) = none :=
  poisonTrap_none (by simpa only [List.forall_mem_map] using h)

theorem vecCheck_pass {s : State} {ty sh : Bool} {reads : List (BitVec 5 × Nat × List Nat)} (k : State → Res) (ht : ty = true) (hs : sh = true)
    (hp : s.poisonTrap reads = none) : s.vecCheck ty sh reads k = k s := by
  subst ht hs
  simp only [State.vecCheck, hp]
  rfl

/-! ## What a vector word reads does not look at the accounting -/

section
variable (s : State) (y : Accounting)

@[simp] theorem counted_vt : (s.counted y).vt = s.vt := rfl
@[simp] theorem counted_vw : (s.counted y).vw = s.vw := rfl
@[simp] theorem counted_vcols : (s.counted y).vcols = s.vcols := rfl
@[simp] theorem counted_vrows : (s.counted y).vrows = s.vrows := rfl
@[simp] theorem counted_active (m : BitVec 4) : (s.counted y).active m = s.active m := rfl
@[simp] theorem counted_elt (r : BitVec 5) (w j : Nat) : (s.counted y).elt r w j = s.elt r w j := rfl
@[simp] theorem counted_eltOf (t r : BitVec 5) (j : Nat) : (s.counted y).eltOf t r j = s.eltOf t r j := rfl
@[simp] theorem counted_bElt (t : BitVec 5) (b : VSrc) (j : Nat) : (s.counted y).bElt t b j = s.bElt t b j := by cases b <;> rfl
@[simp] theorem counted_raisedAt (j f : Nat) : (s.counted y).raisedAt j f = s.raisedAt j f := rfl
@[simp] theorem counted_maskOf (js : List Nat) : (s.counted y).maskOf js = s.maskOf js := rfl
@[simp] theorem counted_poisonTrap (l : List (BitVec 5 × Nat × List Nat)) : (s.counted y).poisonTrap l = s.poisonTrap l := rfl
@[simp] theorem counted_fpTrap (l : List Raised) : (s.counted y).fpTrap l = s.fpTrap l := rfl

end

/-! ## The words -/

/-- A vector word whose checks pass, up to accounting, and that raises no enabled flag gives its write with the flags noted. -/
theorem vector_gives {s : State} {u : Use} {st : Bool} {body : State → Res} {raised : List Raised} {write : State → State}
    (h : Issues s u st) (hw : FileWrite write) (ht : s.fpTrap raised = none)
    (hb : ∀ x, ∃ q, body (s.counted x) = (s.counted x).vecFinish raised q write) :
    Gives (issue st 4 u body s) (((write s).noteFlags raised).after4 st) := by
  have hn := (noteFlags_fileWrite raised).comp hw
  refine issue_ok h ?_ ((hn.running s).trans h.running) ((hn.exact s).trans h.untraced) fun hs => hn.calm s (h.calm hs)
  intro x
  obtain ⟨q, hq⟩ := hb x
  have hx : (write (s.counted x)).noteFlags raised = ((write s).noteFlags raised).counted x := hn.counted s x
  have hl : Like (((write s).noteFlags raised).counted x) ((write s).noteFlags raised) := ⟨x, rfl⟩
  have he : (((write s).noteFlags raised).counted x).core.exact = false := (hn.exact s).trans h.untraced
  refine ⟨(((write s).noteFlags raised).counted x).enqueue q, ?_, (enqueue_like he q).trans hl⟩
  rw [hq, State.vecFinish, counted_fpTrap, ht, hx]

/-- The results of an element-wise word: each active element with its bits and flags. -/
def State.elemResults (s : State) (m : BitVec 4) (f : Nat → Rounded) : List (Nat × Rounded) := (s.active m).map fun j => (j, f j)

/-- The results of a comparison: each active element with its bit and flags. -/
def State.cmpResults (s : State) (a : BitVec 5) (b : VSrc) (m : BitVec 4) (f : Nat → Nat → Bool × Nat) : List (Nat × Bool × Nat) :=
  (s.active m).map fun j => (j, f (s.eltOf s.vt a j) (s.bElt s.vt b j))

/-- The results of a reduction, for each row or for all of them (R137). -/
def State.redResults (s : State) (run : List (Nat × Nat) → Nat → Rounded) (a : BitVec 5) (m : BitVec 4) (row : Bool) : List (Nat × Rounded) :=
  let js := s.active m
  if row then (List.range s.vrows).map fun r => (r, run ((js.filter fun j => j / s.vcols == r).map fun j => (j % s.vcols, s.eltOf s.vt a j)) s.vcols)
  else [(0, run (js.map fun j => (j, s.eltOf s.vt a j)) (s.vrows * s.vcols))]

section
variable {s : State} {st : Bool} {d a b : BitVec 5} {m : BitVec 4} {x g row : Bool}

/-! Each shape, once its checks pass in a state with other accounting, ends with the results of the state itself. -/

theorem vecElem_pass {o : VOp} {v : VSrc} {fn : State → Nat → Nat → Nat → Rounded} {f : Nat → Rounded} (y : Accounting)
    (ht : o.types s.vt = true) (hc : fn (s.counted y) = fn s) (hs : s.vcols * max s.vw (o.dw s.vw) ≤ 1024)
    (hp : ∀ r ∈ a :: v.vregs ++ (if o.acc then [d] else []), s.badElems r s.vw (s.active m) = [])
    (hf : ∀ j, fn s (s.eltOf s.vt a j) (s.bElt s.vt v j) (s.elt d (o.dw s.vw) j) = f j) :
    ∃ q, (s.counted y).vecElem o d a v m x (fn (s.counted y)) =
      (s.counted y).vecFinish ((s.elemResults m f).map fun p => s.raisedAt p.1 p.2.flags) q
        fun s' => s'.putElems d (o.dw s.vw) ((s.elemResults m f).map fun p => (p.1, p.2.bits)) := by
  simp only [State.vecElem, counted_vt, counted_vw, counted_vcols, counted_active, hs, decide_true]
  rw [vecCheck_pass _ ht rfl ((counted_poisonTrap s y _).trans (poisonTrap_sources hp))]
  simp only [hc, hf, counted_eltOf, counted_bElt, counted_elt, counted_raisedAt]
  exact ⟨_, rfl⟩

theorem vecCmp_pass {types : BitVec 5 → Bool} {d : BitVec 4} {v : VSrc} {fn : State → Nat → Nat → Bool × Nat} (y : Accounting)
    (ht : types s.vt = true) (hc : fn (s.counted y) = fn s) (hp : ∀ r ∈ a :: v.vregs, s.badElems r s.vw (s.active m) = []) :
    ∃ q, (s.counted y).vecCmp types d a v m x (fn (s.counted y)) =
      (s.counted y).vecFinish ((s.cmpResults a v m (fn s)).map fun p => s.raisedAt p.1 p.2.2) q
        fun s' => s'.putMask d (s'.maskOf (((s.cmpResults a v m (fn s)).filter fun p => p.2.1).map (·.1))) := by
  dsimp only [State.vecCmp, counted_vt, counted_vw, counted_active]
  rw [vecCheck_pass _ ht rfl ((counted_poisonTrap s y _).trans (poisonTrap_sources hp))]
  simp only [hc, counted_eltOf, counted_bElt, counted_raisedAt]
  exact ⟨_, rfl⟩

theorem vecRed_pass {o : RedOp} (y : Accounting) (ht : o.types s.vt = true) (hc : o.run (s.counted y) = o.run s)
    (hp : s.badElems a s.vw (s.active m) = []) :
    ∃ q, (s.counted y).vecRed o d a m x row =
      (s.counted y).vecFinish ((s.redResults (o.run s) a m row).map fun p => rowRaised p.1 p.2.flags) q
        fun s' => s'.putCells d s.vw ((s.redResults (o.run s) a m row).map fun p => (p.1, 0, p.2.bits)) := by
  dsimp only [State.vecRed, counted_vt, counted_vw, counted_vcols, counted_active]
  rw [vecCheck_pass _ ht rfl ((counted_poisonTrap s y _).trans (poisonTrap_none (reads := [(a, s.vw, s.active m)]) (by simpa using hp)))]
  simp only [hc, counted_eltOf, counted_vrows]
  exact ⟨_, rfl⟩

/-- An element-wise word that accepts the type: each active element is what its function gives. -/
theorem vecWord_gives {i : Instr} {o : VOp} {v : VSrc} {fn : State → Nat → Nat → Nat → Rounded} {f : Nat → Rounded}
    (hi : exec i s = vecWord st o d a v m x fn s) (ht : o.types s.vt = true) (hc : ∀ y, fn (s.counted y) = fn s)
    (hf : ∀ j, fn s (s.eltOf s.vt a j) (s.bElt s.vt v j) (s.elt d (o.dw s.vw) j) = f j) :
    ElemWord i s st v.gregs (a :: v.vregs ++ if o.acc then [d] else []) d m (o.dw s.vw) f := by
  intro hissue hshape hgood out htrap
  have hgives := vector_gives (body := fun s => s.vecElem o d a v m x (fn s)) hissue (putElems_fileWrite ..) htrap
    fun y => vecElem_pass y ht (hc y) hshape hgood hf
  rw [hi]
  exact hgives

/-- A comparison that accepts the type: the mask of the active elements whose relation holds. -/
theorem cmpWord_gives {types : BitVec 5 → Bool} {fn : State → Nat → Nat → Bool × Nat} (ht : types s.vt = true)
    (hc : ∀ y, fn (s.counted y) = fn s) (h : Issues s (vuse (cmpSrc g b).gregs (a :: (cmpSrc g b).vregs) [] [m]) st)
    (hp : ∀ r ∈ a :: (cmpSrc g b).vregs, s.badElems r s.vw (s.active m) = []) :
    let out := s.cmpResults a (cmpSrc g b) m (fn s)
    let raised := out.map fun p => s.raisedAt p.1 p.2.2
    s.fpTrap raised = none →
      Gives (cmpWord st types d a b m x g fn s)
        (((s.putMask (d.setWidth 4) (s.maskOf ((out.filter fun p => p.2.1).map (·.1)))).noteFlags raised).after4 st) := by
  intro out raised htrap
  have hw := putMask_fileWrite (d.setWidth 4) (fun s => s.maskOf ((out.filter fun p => p.2.1).map (·.1))) fun s y => counted_maskOf s y _
  have hgives := vector_gives (body := fun s => s.vecCmp types (d.setWidth 4) a (cmpSrc g b) m x (fn s)) h hw htrap
    fun y => vecCmp_pass y ht (hc y) hp
  exact hgives

/-- A reduction that accepts the type: the results in column 0. -/
theorem redWord_gives {o : RedOp} (ht : o.types s.vt = true) (hc : ∀ y, o.run (s.counted y) = o.run s)
    (h : Issues s (vuse [] [a] [d] [m]) st) (hp : s.badElems a s.vw (s.active m) = []) :
    let out := s.redResults (o.run s) a m row
    let raised := out.map fun p => rowRaised p.1 p.2.flags
    s.fpTrap raised = none →
      Gives (redWord st o d a m x row s) (((s.putCells d s.vw (out.map fun p => (p.1, 0, p.2.bits))).noteFlags raised).after4 st) := by
  intro out raised htrap
  have hgives := vector_gives (body := fun s => s.vecRed o d a m x row) h (putCells_fileWrite ..) htrap
    fun y => vecRed_pass y ht (hc y) hp
  exact hgives

end

end Sys2Proof.Machine
end

section
/-! SUPPORT. Comparisons (R47, R118): elements as numbers of their width, and what a comparison word gives. -/

namespace Sys2Proof.Machine

/-! ## Elements as numbers -/

theorem memWidth_le : ∀ t : BitVec 5, memWidth t ≤ width t := by decide

theorem width_pos : ∀ t : BitVec 5, 0 < width t := by decide

/-- Integers, FP32, BF16 and FP16 fill their containers (R48). -/
theorem memWidth_int : ∀ t : BitVec 5, isIntType t = true → memWidth t = width t := by decide

theorem memWidth_wideFp : ∀ t : BitVec 5, isWideFp t = true → memWidth t = width t := by decide

theorem eltOf_lt (s : State) (r : BitVec 5) (j : Nat) : s.eltOf s.vt r j < 2 ^ s.vw :=
  (Nat.mod_lt _ (Nat.two_pow_pos _)).trans_le (Nat.pow_le_pow_right (by decide) (memWidth_le s.vt))

theorem bElt_lt (s : State) (v : VSrc) (j : Nat) : s.bElt s.vt v j < 2 ^ s.vw := by
  cases v with
  | v r => exact eltOf_lt s r j
  | g r => exact (Nat.mod_lt _ (Nat.two_pow_pos _)).trans_le (Nat.pow_le_pow_right (by decide) (memWidth_le s.vt))
  | none => exact Nat.two_pow_pos _

/-- The signed value of an element is that of its bits (R43). -/
theorem sval_eq_toInt {w n : Nat} (hw : 0 < w) (h : n < 2 ^ w) : sval w n = (BitVec.ofNat w n).toInt := by
  rw [BitVec.toInt_eq_msb_cond, BitVec.msb_eq_getLsbD_last, BitVec.getLsbD_ofNat, BitVec.toNat_ofNat, Nat.mod_eq_of_lt h,
    decide_eq_true (show w - 1 < w by omega)]
  simp only [sval, intVal, Bool.true_and, Nat.cast_pow, Nat.cast_ofNat]

/-! ## The words -/

/-- A comparison with the relation and flags `f` (R118): the mask d gets the bits of the active elements for which it holds, and no
other. -/
def CompareWord (i : Instr) (s : State) (st : Bool) (d a b : BitVec 5) (m : BitVec 4) (g : Bool) (f : Nat → Nat → Bool × Nat) : Prop :=
  let js := s.active m
  let out := js.map fun j => (j, f (s.eltOf s.vt a j) (if g then (s.rg b).toNat % 2 ^ memWidth s.vt else s.eltOf s.vt b j))
  let raised := out.map fun p => s.raisedAt p.1 p.2.2
  let rs := if g then [a] else [a, b]
  Issues s (vuse (if g then [b] else []) rs [] [m]) st → (∀ r ∈ rs, s.badElems r s.vw js = []) → s.fpTrap raised = none →
    Gives (exec i s) (((s.putMask (d.setWidth 4) (s.maskOf ((out.filter fun p => p.2.1).map (·.1)))).noteFlags raised).after4 st)

section
variable {s : State} {st : Bool} {d a b : BitVec 5} {m : BitVec 4} {x g : Bool} {i : Instr} {types : BitVec 5 → Bool}

/-- A comparison word that accepts the type has the relation of its function on elements of the type's width. -/
theorem compareWord_of {fn : State → Nat → Nat → Bool × Nat} {f : Nat → Nat → Bool × Nat}
    (hi : exec i s = cmpWord st types d a b m x g fn s) (ht : types s.vt = true) (hc : ∀ y, fn (s.counted y) = fn s)
    (hf : ∀ n < 2 ^ s.vw, ∀ z < 2 ^ s.vw, fn s n z = f n z) : CompareWord i s st d a b m g f := by
  have hr : s.cmpResults a (cmpSrc g b) m (fn s) = s.cmpResults a (cmpSrc g b) m f :=
    List.map_congr_left fun j _ => by rw [hf _ (eltOf_lt s a j) _ (bElt_lt s _ j)]
  have hw := @cmpWord_gives s st d a b m x g types fn ht hc
  rw [← hi, hr] at hw
  cases g <;> exact hw

/-- A comparison of bits or natural numbers raises no flag. -/
theorem compareWord_nat {f : Nat → Nat → Bool} (hi : exec i s = cmpWord st types d a b m x g (fun _ n z => quiet (f n z)) s)
    (ht : types s.vt = true) : CompareWord i s st d a b m g fun n z => (f n z, 0) :=
  compareWord_of hi ht (fun _ => rfl) fun _ _ _ _ => rfl

/-- A signed comparison is that of the integers of the elements. -/
theorem compareWord_int {f : Int → Int → Bool}
    (hi : exec i s = cmpWord st types d a b m x g (fun s n z => quiet (f (sval s.vw n) (sval s.vw z))) s) (ht : types s.vt = true) :
    CompareWord i s st d a b m g fun n z => (f (BitVec.ofNat s.vw n).toInt (BitVec.ofNat s.vw z).toInt, 0) :=
  compareWord_of hi ht (fun _ => rfl) fun n hn z hz => by
    have hw : 0 < s.vw := width_pos s.vt
    rw [sval_eq_toInt hw hn, sval_eq_toInt hw hz, quiet]

/-- A floating-point comparison is that of the flushed values, with the flags of R47. -/
theorem compareWord_fp {any : Bool} {f : FV → FV → Bool} (hi : exec i s = cmpWord st types d a b m x g (fun s n z => s.fpCompare any f n z) s)
    (ht : types s.vt = true) : CompareWord i s st d a b m g (s.fpCompare any f) :=
  compareWord_of hi ht (fun _ => rfl) fun _ _ _ _ => rfl

end

/-- Settles O38: each word is a comparison with the relation of its element function. -/
theorem vectorCompareResults : Obligations.VectorCompareResults := by
  unfold Obligations.VectorCompareResults
  intro s st d a b m x g
  refine ⟨fun ht => ⟨?eq, ?ne⟩, fun ht => ⟨?lt, ?ge, ?ltn, ?gen⟩, fun ht => ⟨?feq, ?fne, ?flt, ?fge, ?unordered⟩⟩
  case eq => exact compareWord_nat (x := x) (f := fun n z => n == z) rfl ht
  case ne => exact compareWord_nat (x := x) (f := fun n z => n != z) rfl ht
  case lt => exact compareWord_int (x := x) (f := fun n z => decide (n < z)) rfl ht
  case ge => exact compareWord_int (x := x) (f := fun n z => decide (z ≤ n)) rfl ht
  case ltn => exact compareWord_nat (x := x) (f := fun n z => decide (n < z)) rfl ht
  case gen => exact compareWord_nat (x := x) (f := fun n z => decide (z ≤ n)) rfl ht
  case feq => exact compareWord_fp (x := x) (any := false) (f := FV.eq) rfl ht
  case fne => exact compareWord_fp (x := x) (any := false) (f := fun p q => !p.eq q) rfl ht
  case flt => exact compareWord_fp (x := x) (any := true) (f := FV.lt) rfl ht
  case fge => exact compareWord_fp (x := x) (any := true) (f := fun p q => !p.isNan && !q.isNan && !p.lt q) rfl ht
  case unordered => exact compareWord_fp (x := x) (any := false) (f := fun p q => p.isNan || q.isNan) rfl ht

end Sys2Proof.Machine
end

section
/-! SUPPORT. Reductions (R70, R137): the folds of elements as numbers are those of the bits, and what a reduction word gives. -/

namespace Sys2Proof.Machine

/-- A reduction whose result over a list of elements, of which the second number counts the positions, is `f` (R137): column 0 of row 0,
or with the row form of every row, is written. -/
def ReduceWord (i : Instr) (s : State) (st : Bool) (d a : BitVec 5) (m : BitVec 4) (row : Bool) (f : List (Nat × Nat) → Nat → Rounded) : Prop :=
  let part := fun p : Nat → Bool => ((s.active m).filter p).map fun j => (j, s.eltOf s.vt a j)
  let out :=
    if row then (List.range s.vrows).map fun r => (r, f ((part fun j => j / s.vcols == r).map fun e => (e.1 % s.vcols, e.2)) s.vcols)
    else [(0, f (part fun _ => true) (s.vrows * s.vcols))]
  let raised := out.map fun p => rowRaised p.1 p.2.flags
  Issues s (vuse [] [a] [d] [m]) st → s.badElems a s.vw (s.active m) = [] → s.fpTrap raised = none →
    Gives (exec i s) (((s.putCells d s.vw (out.map fun p => (p.1, 0, p.2.bits))).noteFlags raised).after4 st)

/-! ## Folds -/

/-- A fold of numbers below 2^w is that of their bits. -/
theorem foldl_eq_toNat {w : Nat} {f : Nat → Nat → Nat} {g : BitVec w → BitVec w → BitVec w}
    (h : ∀ p z : BitVec w, f p.toNat z.toNat = (g p z).toNat) (es : List (Nat × Nat)) (he : ∀ e ∈ es, e.2 < 2 ^ w) (z : BitVec w) :
    es.foldl (fun acc e => f acc e.2) z.toNat = (es.foldl (fun acc e => g acc (BitVec.ofNat w e.2)) z).toNat := by
  induction es generalizing z with
  | nil => rfl
  | cons e es ih =>
    have hstep := h z (BitVec.ofNat w e.2)
    rw [BitVec.toNat_ofNat, Nat.mod_eq_of_lt (he e (List.mem_cons_self ..))] at hstep
    rw [List.foldl_cons, List.foldl_cons, hstep]
    exact ih (fun e' he' => he e' (List.mem_cons_of_mem _ he')) _

theorem sval_toNat {w : Nat} (hw : 0 < w) (p : BitVec w) : sval w p.toNat = p.toInt := by
  rw [sval_eq_toInt hw p.isLt, BitVec.ofNat_toNat, BitVec.setWidth_eq]

/-- The lesser and the greater by signed value (R112). -/
theorem vPickS_toNat {w : Nat} (hw : 0 < w) (p z : BitVec w) :
    vPickS false w p.toNat z.toNat = (if p.toInt ≤ z.toInt then p else z).toNat ∧
      vPickS true w p.toNat z.toNat = (if p.toInt ≤ z.toInt then z else p).toNat := by
  simp only [vPickS, sval_toNat hw]
  rcases lt_trichotomy p.toInt z.toInt with hlt | heq | hgt
  · simp [hlt, hlt.le]
  · obtain rfl := BitVec.eq_of_toInt_eq heq
    simp
  · simp [not_lt.mpr hgt.le, not_le.mpr hgt]

/-- The lesser and the greater by natural value (R112). -/
theorem vPickN_toNat {w : Nat} (p z : BitVec w) :
    vPickN false p.toNat z.toNat = (if p.toNat ≤ z.toNat then p else z).toNat ∧
      vPickN true p.toNat z.toNat = (if p.toNat ≤ z.toNat then z else p).toNat := by
  simp only [vPickN]
  rcases lt_trichotomy p.toNat z.toNat with hlt | heq | hgt
  · simp [hlt, hlt.le]
  · obtain rfl := BitVec.eq_of_toNat_eq heq
    simp
  · simp [not_lt.mpr hgt.le, not_le.mpr hgt]

/-! ## The words -/

section
variable {s : State} {st : Bool} {d a : BitVec 5} {m : BitVec 4} {x row : Bool} {i : Instr}

/-- A reduction word that accepts the type reduces as its function does on elements of the type's width. -/
theorem reduceWord_of {o : RedOp} {f : List (Nat × Nat) → Nat → Rounded} (hi : exec i s = redWord st o d a m x row s)
    (ht : o.types s.vt = true) (hc : ∀ y, o.run (s.counted y) = o.run s)
    (hf : ∀ es n, (∀ e ∈ es, e.2 < 2 ^ s.vw) → o.run s es n = f es n) : ReduceWord i s st d a m row f := by
  have hlt : ∀ (js : List Nat) (k : Nat → Nat), ∀ e ∈ js.map fun j => (k j, s.eltOf s.vt a j), e.2 < 2 ^ s.vw := by
    intro js k e he
    obtain ⟨j, -, rfl⟩ := List.mem_map.mp he
    exact eltOf_lt s a j
  have hw := redWord_gives (st := st) (d := d) (a := a) (m := m) (x := x) (row := row) ht hc
  simp only [State.redResults, hf _ _ (hlt _ _)] at hw
  simpa only [ReduceWord, List.map_map, Function.comp_def, List.filter_true, hi] using hw

/-- An integer or bitwise reduction is the fold of the bits of its elements. -/
theorem reduceWord_fold {types : BitVec 5 → Bool} {fp : Bool} {f : State → Nat → Nat → Nat} {unit : State → Nat}
    {g : BitVec s.vw → BitVec s.vw → BitVec s.vw} {z : BitVec s.vw}
    (hi : exec i s = redWord st { types := types, run := redFold f unit, fp := fp } d a m x row s) (ht : types s.vt = true)
    (hc : ∀ y, redFold f unit (s.counted y) = redFold f unit s) (hz : unit s = z.toNat)
    (hg : ∀ p n : BitVec s.vw, f s p.toNat n.toNat = (g p n).toNat) :
    ReduceWord i s st d a m row fun es _ => ⟨(es.foldl (fun acc e => g acc (BitVec.ofNat s.vw e.2)) z).toNat, 0⟩ :=
  reduceWord_of hi ht hc fun es n he => by
    simp only [redFold, hz, plain, foldl_eq_toNat hg es he]

/-- A floating-point reduction is that of the model's function. -/
theorem reduceWord_fp {o : RedOp} (hi : exec i s = redWord st o d a m x row s) (ht : o.types s.vt = true)
    (hc : ∀ y, o.run (s.counted y) = o.run s) : ReduceWord i s st d a m row (o.run s) :=
  reduceWord_of hi ht hc fun _ _ _ => rfl

end

/-- Settles O40: the integer and bitwise words fold the bits of the elements, the floating-point ones are chains and the tree. -/
theorem reductionResults : Obligations.ReductionResults := by
  unfold Obligations.ReductionResults
  intro s st d a m x row
  have hw : 0 < s.vw := width_pos s.vt
  refine ⟨fun ht => ⟨?and, ?or, ?xor⟩, fun ht => ⟨?sum, ?min, ?max, ?minn, ?maxn⟩, fun ht => ⟨?ordered, ?fmax, ?fmin, ?tree⟩⟩
  case and =>
    have hlt : 2 ^ memWidth s.vt - 1 < 2 ^ s.vw :=
      (Nat.sub_lt (Nat.two_pow_pos _) Nat.one_pos).trans_le (Nat.pow_le_pow_right (by decide) (memWidth_le s.vt))
    exact reduceWord_fold (x := x) (g := fun p z => p &&& z) rfl ht (fun _ => rfl)
      ((BitVec.toNat_ofNat ..).trans (Nat.mod_eq_of_lt hlt)).symm
      fun p z => (BitVec.toNat_and ..).symm
  case or =>
    exact reduceWord_fold (x := x) (g := fun p z => p ||| z) rfl ht (fun _ => rfl) BitVec.toNat_zero.symm
      fun p z => (BitVec.toNat_or ..).symm
  case xor =>
    exact reduceWord_fold (x := x) (g := fun p z => p ^^^ z) rfl ht (fun _ => rfl) BitVec.toNat_zero.symm
      fun p z => (BitVec.toNat_xor ..).symm
  case sum =>
    exact reduceWord_fold (x := x) (g := fun p z => p + z) rfl ht (fun _ => rfl) BitVec.toNat_zero.symm
      fun p z => (BitVec.toNat_add ..).symm
  case min =>
    exact reduceWord_fold (x := x) (g := fun p z => if p.toInt ≤ z.toInt then p else z) rfl ht (fun _ => rfl) BitVec.toNat_intMax.symm
      fun p z => (vPickS_toNat hw p z).1
  case max =>
    exact reduceWord_fold (x := x) (g := fun p z => if p.toInt ≤ z.toInt then z else p) rfl ht (fun _ => rfl) (BitVec.toNat_intMin_of_pos hw).symm
      fun p z => (vPickS_toNat hw p z).2
  case minn =>
    exact reduceWord_fold (x := x) (g := fun p z => if p.toNat ≤ z.toNat then p else z) rfl ht (fun _ => rfl) BitVec.toNat_allOnes.symm
      fun p z => (vPickN_toNat p z).1
  case maxn =>
    exact reduceWord_fold (x := x) (g := fun p z => if p.toNat ≤ z.toNat then z else p) rfl ht (fun _ => rfl) BitVec.toNat_zero.symm
      fun p z => (vPickN_toNat p z).2
  case ordered => exact reduceWord_fp (x := x) (o := { types := isWideFp, run := redOrdered, ordered := true }) rfl ht fun _ => rfl
  case fmax => exact reduceWord_fp (x := x) (o := { types := isWideFp, run := redExtreme true }) rfl ht fun _ => rfl
  case fmin => exact reduceWord_fp (x := x) (o := { types := isWideFp, run := redExtreme false }) rfl ht fun _ => rfl
  case tree => exact reduceWord_fp (x := x) (o := { types := isWideFp, run := redTree }) rfl ht fun _ => rfl

end Sys2Proof.Machine
end

section
/-! SUPPORT. Floating-point words (R67, R116, R117): what they give, in both forms of operand b, and the sign words as changes of a bit. -/

namespace Sys2Proof.Machine

/-- The element-wise words `i` and `ig`, with operand b in a vector and in a `g` register (R107), give `f` of the elements of a, b and, when
they accumulate (R108), d. -/
def FloatPair (i ig : Instr) (s : State) (st : Bool) (d a b : BitVec 5) (m : BitVec 4) (acc : Bool) (f : Nat → Nat → Nat → Rounded) : Prop :=
  let ds := if acc then [d] else []
  ElemWord i s st [] (a :: [b] ++ ds) d m s.vw (fun j => f (s.eltOf s.vt a j) (s.eltOf s.vt b j) (s.elt d s.vw j)) ∧
    ElemWord ig s st [b] (a :: ds) d m s.vw (fun j => f (s.eltOf s.vt a j) ((s.rg b).toNat % 2 ^ s.vw) (s.elt d s.vw j))

/-- Inverting the sign bit of a pattern of `k + 1` bits. -/
theorem xor_signBit {n k : Nat} (h : n < 2 ^ (k + 1)) : n ^^^ 2 ^ k = if n < 2 ^ k then n + 2 ^ k else n - 2 ^ k := by
  have hpos : 0 < 2 ^ k := Nat.two_pow_pos k
  have hdiv : (n ^^^ 2 ^ k) / 2 ^ k = n / 2 ^ k ^^^ 1 := by rw [Nat.xor_div_two_pow, Nat.div_self hpos]
  have hmod : (n ^^^ 2 ^ k) % 2 ^ k = n % 2 ^ k := by rw [Nat.xor_mod_two_pow, Nat.mod_self, Nat.xor_zero]
  rw [← Nat.div_add_mod (n ^^^ 2 ^ k) (2 ^ k), hdiv, hmod]
  split
  · next hlt => rw [Nat.div_eq_of_lt hlt, Nat.mod_eq_of_lt hlt, Nat.zero_xor, Nat.mul_one, Nat.add_comm]
  · next hge =>
    have hle : 2 ^ k ≤ n := Nat.not_lt.mp hge
    rw [Nat.pow_succ] at h
    rw [Nat.div_eq_of_lt_le (k := 1) (by omega) (by omega), Nat.xor_self, Nat.mul_zero, Nat.zero_add, Nat.mod_eq_sub_mod hle,
      Nat.mod_eq_of_lt (by omega)]

section
variable {s : State} {st : Bool} {d a b : BitVec 5} {m : BitVec 4} {x acc : Bool} {i ig : Instr} {l k : Nat}

/-- Operand b of a floating-point word in a `g` register: its low bits (R107). -/
theorem bElt_g (ht : isWideFp s.vt = true) (j : Nat) : s.bElt s.vt (.g b) j = (s.rg b).toNat % 2 ^ s.vw := by
  rw [State.bElt, valueBits, memWidth_wideFp _ ht, State.vw, State.vt]

/-- A floating-point word of two or three operands gives its element function. -/
theorem floatPair_of {fn : State → Nat → Nat → Nat → Rounded} (ht : isWideFp s.vt = true)
    (hi : exec i s = vecWord st { acc := acc, types := isWideFp, lam := l, f := k, fp := true } d a (.v b) m x fn s)
    (hg : exec ig s = vecWord st { acc := acc, types := isWideFp, lam := l, f := k, fp := true } d a (.g b) m x fn s)
    (hc : ∀ y, fn (s.counted y) = fn s) : FloatPair i ig s st d a b m acc (fn s) :=
  ⟨vecWord_gives hi ht hc fun _ => rfl, vecWord_gives hg ht hc fun j => by rw [bElt_g ht]; rfl⟩

/-- A floating-point word of one operand gives its element function. -/
theorem floatOne_of {fn : State → Nat → Rounded} (ht : isWideFp s.vt = true)
    (hi : exec i s = vecWord st { types := isWideFp, lam := l, f := k, fp := true } d a .none m x (fun s n _ _ => fn s n) s)
    (hc : ∀ y, fn (s.counted y) = fn s) : ElemWord i s st [] [a] d m s.vw fun j => fn s (s.eltOf s.vt a j) :=
  vecWord_gives hi ht (fun y => by rw [hc]) fun _ => rfl

end

end Sys2Proof.Machine
end

section
/-! SUPPORT. `vcvt` (R59, R79, R120, R121): the band of its destination and the capture of flags touch different registers, whatever the
gang; and what the word gives. -/

namespace Sys2Proof.Machine

/-! ## Register files rewritten twice -/

/-- The files of a gang after they have been replaced: a member that the list has not is as at reset. -/
theorem files_setFiles (t : Strand) (o : Nat) (fs : List VFile) :
    (t.setFiles o fs).files o = if o < fs.length then fs else fs ++ [VFile.reset] := by
  simp only [Strand.files, Strand.setFiles]
  split
  · next h =>
    rw [List.getElem?_eq_getElem h, Option.getD_some, List.eraseIdx_eq_take_drop_succ,
      List.take_append_of_le_length (List.length_take_of_le h.le).ge, List.take_take, Nat.min_self, List.drop_append,
      List.length_take_of_le h.le, Nat.sub_self, List.drop_zero, List.drop_of_length_le (List.length_take_of_le h.le).le, List.nil_append,
      List.getElem_cons_drop, List.take_append_drop]
  · next h =>
    have hle : fs.length ≤ o := Nat.not_lt.mp h
    rw [List.getElem?_eq_none hle, List.eraseIdx_of_length_le hle, List.take_of_length_le hle, List.drop_of_length_le hle, Option.getD_none]

theorem setFiles_setFiles (t : Strand) (o : Nat) (fs gs : List VFile) : (t.setFiles o fs).setFiles o gs = t.setFiles o gs := rfl

/-- One member with the BAND of a register at 1.0 (R121). -/
def VFile.unitBand (f : VFile) (d : BitVec 5) : VFile := f.setV d { f.getV d with band := 0x3F80#16 }

/-- Member `i` with its bits of XM set (R65). -/
def VFile.capture (bits : List (Nat × Nat)) (f : VFile) (i : Nat) : VFile :=
  { f with xm := bits.foldl (fun x (m, b) => if m = i then x ||| (1#8192 <<< b) else x) f.xm }

theorem unitBand_reset (d : BitVec 5) : VFile.reset.unitBand d = VFile.reset := by
  rw [VFile.unitBand, getV_reset]
  exact congrArg (fun v => { VFile.reset with v := v }) Vector.set_replicate_self

theorem capture_unitBand (bits : List (Nat × Nat)) (f : VFile) (i : Nat) (d : BitVec 5) :
    VFile.capture bits (f.unitBand d) i = (VFile.capture bits f i).unitBand d := rfl

/-- A member that no bit names stays as it is. -/
theorem capture_other {bits : List (Nat × Nat)} {i : Nat} (h : ∀ p ∈ bits, p.1 ≠ i) (f : VFile) : VFile.capture bits f i = f := by
  have hx : ∀ x : BitVec 8192, bits.foldl (fun x (p : Nat × Nat) => if p.1 = i then x ||| (1#8192 <<< p.2) else x) x = x := by
    induction bits with
    | nil => exact fun _ => rfl
    | cons p l ih =>
      intro x
      rw [List.foldl_cons, if_neg (h p (List.mem_cons_self ..))]
      exact ih (fun q hq => h q (List.mem_cons_of_mem _ hq)) x
  exact congrArg (fun x => ({ f with xm := x } : VFile)) (hx f.xm)

/-- The members of a gang with bits of XM set, and with a BAND at 1.0, in either order. -/
theorem captured_unitBand {bits : List (Nat × Nat)} {fs : List VFile} (d : BitVec 5) (o : Nat) (h : ∀ p ∈ bits, p.1 < fs.length) (t : Strand) :
    ((t.setFiles o (fs.map (·.unitBand d))).files o).zipIdx.map (fun p => VFile.capture bits p.1 p.2) =
      ((t.setFiles o (fs.zipIdx.map fun p => VFile.capture bits p.1 p.2)).files o).map (·.unitBand d) := by
  rw [files_setFiles, files_setFiles]
  simp only [List.length_map, List.length_zipIdx]
  split <;>
    simp [List.zipIdx_map, List.map_map, Function.comp_def, capture_unitBand, unitBand_reset, List.zipIdx_append,
      capture_other fun p hp => (h p hp).ne]

theorem captureXm_unitBand {s : State} {bits : List (Nat × Nat)} (d : BitVec 5) (h : ∀ p ∈ bits, p.1 < s.files.length) :
    (s.unitBand d).captureXm bits = (s.captureXm bits).unitBand d := by
  cases bits with
  | nil => rfl
  | cons p l => exact congrArg (fun fs => s.onCur fun t => t.setFiles s.own fs) (captured_unitBand d s.own h s.cur)

/-- Flags of members that the gang has are noted before or after a BAND is set (R111, R121). -/
theorem noteFlags_unitBand {s : State} {l : List Raised} (d : BitVec 5) (h : ∀ r ∈ l, r.mem < s.files.length) :
    (s.unitBand d).noteFlags l = (s.noteFlags l).unitBand d := by
  refine captureXm_unitBand (s := s.orFlags _) d fun p hp => ?_
  obtain ⟨r, hr, rfl⟩ := List.mem_map.mp hp
  exact h r (List.mem_of_mem_filter hr)

/-- SRSTATE of FPCR after the steps of a conversion, if it has taken any (R59). -/
def State.seedSr (s : State) (z : Option (BitVec 32)) : State :=
  match z with
  | some r => s.onSp fun p => { p with fpcr := r ++ p.fpcr.extractLsb' 0 32 }
  | none => s

theorem seedSr_fileWrite (z : Option (BitVec 32)) : FileWrite fun s => s.seedSr z := by
  cases z with
  | none => exact .id
  | some r => exact onSp_fileWrite (fun p => { p with fpcr := r ++ p.fpcr.extractLsb' 0 32 }) fun _ => rfl

theorem captureXm_seedSr (s : State) (bits : List (Nat × Nat)) (z : Option (BitVec 32)) :
    (s.seedSr z).captureXm bits = (s.captureXm bits).seedSr z := by
  cases z <;> cases bits <;> rfl

theorem noteFlags_seedSr (s : State) (l : List Raised) (z : Option (BitVec 32)) : (s.seedSr z).noteFlags l = (s.noteFlags l).seedSr z := by
  cases z with
  | none => rfl
  | some r => exact captureXm_seedSr (s.orFlags _) _ (some r)

/-! ## The members of active elements (R78) -/

theorem memOf_active {s : State} {m : BitVec 4} {j : Nat} (h : j ∈ s.active m) : memOf s.vcols j < s.files.length := by
  have hbit := (List.mem_filter.mp h).2
  by_contra hge
  rw [maskAt, List.getElem?_eq_none (by rw [List.length_map]; exact Nat.not_lt.mp hge)] at hbit
  cases hbit

theorem files_putElems_length (s : State) (d : BitVec 5) (w : Nat) (es : List (Nat × Nat)) :
    s.files.length ≤ (s.putElems d w es).files.length := by
  have hfiles : ∃ fs : List VFile, fs.length = s.files.length ∧ (s.putElems d w es).files = (s.cur.setFiles s.own fs).files s.own :=
    ⟨_, (List.length_map ..).trans List.length_zipIdx, rfl⟩
  obtain ⟨fs, hl, hf⟩ := hfiles
  rw [hf, files_setFiles, ← hl]
  split
  · exact le_rfl
  · rw [List.length_append]
    exact Nat.le_add_right ..

/-! ## The word -/

/-- The states of SRSTATE that the `n` elements of a conversion use (R59). -/
def State.srSteps (s : State) (sr : Bool) (n : Nat) : List (BitVec 32) :=
  if sr then lfsrRun n (s.cur.sp.fpcr.extractLsb' 32 32) else []

theorem srSteps_getElem? (s : State) (sr : Bool) (n i : Nat) :
    (s.srSteps sr n)[i]? = if sr then (lfsrRun n (s.cur.sp.fpcr.extractLsb' 32 32))[i]? else none := by
  cases sr <;> rfl

theorem srSteps_getLast? (s : State) (sr : Bool) (n : Nat) :
    (s.srSteps sr n).getLast? = if sr then (lfsrRun n (s.cur.sp.fpcr.extractLsb' 32 32)).getLast? else none := by
  cases sr <;> rfl

/-- The results of a conversion: each active element with its bits and flags. -/
def State.cvtResults (s : State) (src : BitVec 5) (c : Option (BitVec 3)) (d a : BitVec 5) (m : BitVec 4) (steps : List (BitVec 32)) :
    List (Nat × Rounded) :=
  (s.active m).zipIdx.map fun p =>
    let mode := match steps[p.2]? with
      | some y => RMode.sr (y.toNat % 2 ^ 16)
      | none => rmOf s.cur.sp.fpcr
    (p.1, s.cvtElem src c d a mode p.1)

/-- What a conversion writes: the elements, the BAND of a quantising one (R121), SRSTATE. -/
def State.cvtWritten (s : State) (d : BitVec 5) (w : Nat) (es : List (Nat × Nat)) (unit : Bool) (z : Option (BitVec 32)) : State :=
  (if unit then (s.putElems d w es).unitBand d else s.putElems d w es).seedSr z

theorem cvtWritten_fileWrite (d : BitVec 5) (w : Nat) (es : List (Nat × Nat)) (unit : Bool) (z : Option (BitVec 32)) :
    FileWrite fun s => s.cvtWritten d w es unit z :=
  (seedSr_fileWrite z).comp (.ite _ ((unitBand_fileWrite d).comp (putElems_fileWrite d w es)) (putElems_fileWrite d w es))

@[simp] theorem counted_cvtElem (s : State) (y : Accounting) (src : BitVec 5) (c : Option (BitVec 3)) (d a : BitVec 5) (mode : RMode) (j : Nat) :
    (s.counted y).cvtElem src c d a mode j = s.cvtElem src c d a mode j := by
  cases c <;> rfl

@[simp] theorem counted_cvtTagOk (s : State) (y : Accounting) (src : BitVec 5) (c : Option (BitVec 3)) :
    (s.counted y).cvtTagOk src c = s.cvtTagOk src c := by
  cases c <;> rfl

section
variable {s : State} {st : Bool} {d a src : BitVec 5} {m : BitVec 4} {x r : Bool} {c : Option (BitVec 3)}

/-- A conversion, once its checks pass in a state with other accounting, ends with the results of the state itself. -/
theorem vecCvt_pass (y : Accounting) (ht : (r && (s.vt == 0x10 || isIntType s.vt)) = false) (hs : s.vcols * max (width src) s.vw ≤ 1024)
    (hc : s.cvtTagOk src c = true) (hp : s.badElems a (width src) (s.active m) = []) :
    let steps := s.srSteps (s.cvtSr src r) (s.active m).length
    let out := s.cvtResults src c d a m steps
    ∃ q, (s.counted y).vecCvt src r c d a m x =
      (s.counted y).vecFinish (out.map fun p => s.raisedAt p.1 p.2.flags) q
        fun s' => s'.cvtWritten d s.vw (out.map fun p => (p.1, p.2.bits)) (c.isSome && isWideFp src) steps.getLast? := by
  have hpoison : s.poisonTrap [(a, width src, s.active m)] = none := poisonTrap_none (by simpa using hp)
  simp only [State.vecCvt, counted_vt, counted_vw, counted_vcols, counted_active, hs, decide_true]
  rw [vecCheck_pass _ (by rw [ht]; rfl) rfl rfl]
  simp only [counted_cvtTagOk, hc, counted_poisonTrap, hpoison, counted_cvtElem, counted_raisedAt, Bool.not_true, Bool.false_eq_true, if_false]
  exact ⟨_, rfl⟩

/-- A conversion whose checks pass: the elements and their flags, then the BAND and SRSTATE. -/
theorem vcvt_gives {i : Instr} (hi : exec i s = issue st 4 { vuse [] [a] [d] [m] with c := c.toList } (fun s => s.vecCvt src r c d a m x) s)
    (h : Issues s { vuse [] [a] [d] [m] with c := c.toList } st) (ht : (r && (s.vt == 0x10 || isIntType s.vt)) = false)
    (hs : s.vcols * max (width src) s.vw ≤ 1024) (hc : s.cvtTagOk src c = true) (hp : s.badElems a (width src) (s.active m) = []) :
    let steps := s.srSteps (s.cvtSr src r) (s.active m).length
    let out := s.cvtResults src c d a m steps
    s.fpTrap (out.map fun p => s.raisedAt p.1 p.2.flags) = none →
      Gives (exec i s)
        (((if c.isSome && isWideFp src then (s.elemWritten d s.vw out).unitBand d
            else s.elemWritten d s.vw out).seedSr steps.getLast?).after4 st) := by
  intro steps out htrap
  have hmem : ∀ q ∈ out.map fun p => s.raisedAt p.1 p.2.flags, q.mem < (s.putElems d s.vw (out.map fun p => (p.1, p.2.bits))).files.length := by
    intro q hq
    obtain ⟨p, hp, rfl⟩ := List.mem_map.mp hq
    obtain ⟨j, hj, rfl⟩ := List.mem_map.mp hp
    exact (memOf_active (List.fst_mem_of_mem_zipIdx hj)).trans_le (files_putElems_length ..)
  have hgives := vector_gives (body := fun s => s.vecCvt src r c d a m x) h (cvtWritten_fileWrite ..) htrap
    fun y => vecCvt_pass y ht hs hc hp
  rw [State.cvtWritten, noteFlags_seedSr, apply_ite (State.noteFlags · _), noteFlags_unitBand d hmem] at hgives
  rw [hi]
  exact hgives

end

/-- Settles O36: each word of the first group is element-wise in its function; a conversion steps SRSTATE for narrowing alone. -/
theorem vectorFloatResults : Obligations.VectorFloatResults := by
  unfold Obligations.VectorFloatResults
  intro s st d a b m x
  refine ⟨fun ht => ⟨?add, ?sub, ?mul, ?div, ?min, ?max, ?sgnj, ?fma, ?fms, ?sqrt, ?abs, ?neg, ?exp2, ?log2, ?rcp, ?rsq, ?kind⟩,
    fun src r u cr => ?cvt⟩
  case cvt =>
    intro cs js steps sr mode out y h ht hs hc hp htrap
    have hty : (r && (s.vt == 0x10 || isIntType s.vt)) = false := by
      cases r with
      | false => rfl
      | true => rw [beq_false_of_ne (ht rfl).1, (ht rfl).2]; rfl
    have hgives := vcvt_gives (i := .vcvt st d a src m x r u cr) rfl h hty hs hc hp
    simp only [State.cvtResults, srSteps_getElem?, srSteps_getLast?] at hgives
    rw [show cs.isSome = u by cases u <;> rfl] at hgives
    exact hgives htrap
  case add => exact (floatPair_of (i := .vfadd st d a b m x) (ig := .vfaddG st d a b m x) ht rfl rfl fun _ => rfl :)
  case sub => exact (floatPair_of (i := .vfsub st d a b m x) (ig := .vfsubG st d a b m x) ht rfl rfl fun _ => rfl :)
  case mul => exact (floatPair_of (i := .vfmul st d a b m x) (ig := .vfmulG st d a b m x) ht rfl rfl fun _ => rfl :)
  case div => exact (floatPair_of (i := .vfdiv st d a b m x) (ig := .vfdivG st d a b m x) ht rfl rfl fun _ => rfl :)
  case min => exact (floatPair_of (i := .vfmin st d a b m x) (ig := .vfminG st d a b m x) ht rfl rfl fun _ => rfl :)
  case max => exact (floatPair_of (i := .vfmax st d a b m x) (ig := .vfmaxG st d a b m x) ht rfl rfl fun _ => rfl :)
  case sgnj => exact (floatPair_of (i := .vfsgnj st d a b m x) (ig := .vfsgnjG st d a b m x) ht rfl rfl fun _ => rfl :)
  case fma => exact (floatPair_of (i := .vfma st d a b m x) (ig := .vfmaG st d a b m x) ht rfl rfl fun _ => rfl :)
  case fms => exact (floatPair_of (i := .vfms st d a b m x) (ig := .vfmsG st d a b m x) ht rfl rfl fun _ => rfl :)
  case sqrt => exact (floatOne_of (i := .vfsqrt st d a m x) ht rfl fun _ => rfl :)
  case abs => exact (floatOne_of (i := .vfabs st d a m x) ht rfl fun _ => rfl :)
  case neg =>
    have hw : s.vw - 1 + 1 = s.vw := Nat.sub_add_cancel (width_pos s.vt)
    have hone := floatOne_of (i := .vfneg st d a m x) ht rfl fun _ => rfl
    simpa only [plain, xor_signBit (hw ▸ eltOf_lt s a _)] using hone
  case exp2 => exact (floatOne_of (i := .vfexp2 st d a m x) ht rfl fun _ => rfl :)
  case log2 => exact (floatOne_of (i := .vflog2 st d a m x) ht rfl fun _ => rfl :)
  case rcp => exact (floatOne_of (i := .vfrcp st d a m x) ht rfl fun _ => rfl :)
  case rsq => exact (floatOne_of (i := .vfrsq st d a m x) ht rfl fun _ => rfl :)
  case kind => exact (floatOne_of (i := .vfclass st d a m x) ht rfl fun _ => rfl :)

end Sys2Proof.Machine
end

section
/-! SUPPORT. `ldp` (R88, R104): a load at an address that passes its checks, and what the three answers of a parameter window give. -/

namespace Sys2Proof.Machine

/-- The address bits of an address as a pointer. -/
theorem addrOf_ofNat {va : Nat} (h : va < 2 ^ 56) : addrOf (BitVec.ofNat 64 va) = va := by
  simp only [addrOf, BitVec.extractLsb'_toNat, BitVec.toNat_ofNat, Nat.shiftRight_zero]
  omega

/-- A load at an address that reaches its key defers the bytes there. -/
theorem loadAt_reaches {s : State} {n va key : Nat} {fp : Bool} (hv : va < 2 ^ 56) (h : Reaches s .read n fp (BitVec.ofNat 64 va) key)
    (hn : 0 < n) (hd : n ∣ 64) (hs : s.sound va key n) (d : BitVec 5) (signed : Bool) :
    s.loadAt d n signed va =
      .ok ((s.opened va key n).deferred (.g d (extendN signed n (Memory.getN (s.opened va key n).mem key n))) va none) := by
  have hgo := checkAt_reaches h hn hd
  rw [addrOf_ofNat hv] at hgo
  rw [State.loadAt, hgo]
  exact congrArg (fun e => Res.ok (State.deferred _ _ _ e)) (scalarErr_sound hs)

/-- A trap that the effect raises is taken at the instruction itself. -/
theorem issue_raise {s : State} {u : Use} {st : Bool} {len : Nat} {body : State → Res} {c : BitVec 8} {v : Word} (h : AtOnce s u st)
    (hb : body s = s.raise c v) : issue st len u body s = .next (s.unwait.takeTrap (mkTrap c v)) := by
  rw [issue, gate_atOnce h, hb]
  rfl

/-- Settles O5: the three answers of a parameter window are the branches of the effect of `ldp`. -/
theorem parameterLoad : Obligations.ParameterLoad := by
  intro s st d w o h pw va
  have hw : s.window w = pw := rfl
  refine ⟨fun hbound => ?unbound, fun hbound hsize => ?beyond, fun hbound hsize key hr hs => ?within⟩
  case unbound => exact issue_raise h (by simp only [hw, hbound]; rfl)
  case beyond =>
    refine issue_at h (t := (s.wg d 0).setSflags 1) ?_ h.running h.untraced fun hst => ?_
    · simp only [hw, hbound, hsize, if_true]; rfl
    · exact (onSp_fileWrite (fun p => { p with sflags := p.sflags ||| 1 }) fun _ => rfl).calm _ (wg_calm (h.calm hst) d 0)
  case within =>
    have hva : va < 2 ^ 56 := Nat.mod_lt _ (by decide)
    have hcore : (s.opened va key 8).core = s.core := opened_core s va key 8
    have hload := loadAt_reaches hva hr (by decide) (by decide) hs d true
    rw [extendN_signed (by decide) (getN_lt _ key 8), BitVec.signExtend_eq] at hload
    refine issue_at h (t := (s.opened va key 8).deferred _ va none) ?_ ?_ ?_ fun hst => deferred_calm ?_ d _ va
    · simp only [hw, hbound, if_neg (Nat.not_le.mpr hsize)]
      exact hload
    · rw [State.deferred, defer_running, hcore]; exact h.running
    · rw [State.deferred, defer_exact, hcore]; exact h.untraced
    · rw [State.cur, hcore]; exact h.calm hst

end Sys2Proof.Machine
end

section
/-! SUPPORT. `wrs` of VBANK (R84, R85): a settle of a result in a bank that the write has lowered raises it again. -/

namespace Sys2Proof.Machine

/-- A result that lands leaves the specials alone. -/
theorem land_sp (t : Strand) (o : Nat) (e : Pending) : (t.land o e).sp = t.sp := by
  unfold Strand.land
  split
  · rfl
  · split
    · simp only [Strand.putG]; split <;> rfl
    · split <;> rfl
    · simp only [Strand.putM]; split <;> rfl
    · rfl
    · rfl

theorem lands_sp (l : List Pending) (t : Strand) (o : Nat) : (l.foldl (fun t e => t.land o e) t).sp = t.sp := by
  induction l generalizing t with
  | nil => rfl
  | cons e l ih => rw [List.foldl_cons, ih, land_sp]

theorem after_sp (s : State) (st : Bool) (pc : Word) : (s.after st pc).cur.sp = s.cur.sp := by
  cases st with
  | false => rfl
  | true => exact lands_sp _ _ _

/-- A strand whose g5 holds the VBANK value with bank 1 RETAIN, and for which an element of v8, a register of bank 1,
has been loaded and is pending. -/
def loweringBank1 : State :=
  { State.reset with
    core := { State.reset.core with
      running := true
      cur := { Strand.reset with
        g := Strand.reset.g.set 5 4
        gdead := 0
        pend := [{ wr := .v 8 [VWrite.none.add 32 0 0 1] none, token := 0, addr := 0, pc := 0, word := 0, present := true,
                   observed := false, cancelled := false, err := none }] } } }

theorem loweringBank1_atOnce : AtOnce loweringBank1 { g := [5] } true where
  running := rfl
  untraced := rfl
  noRun := rfl
  priv := nofun
  full := rfl
  live := rfl
  banks := nofun
  powered := le_rfl
  streams := rfl
  room := by decide
  chain := rfl
  ready := rfl
  queue := rfl
  going := rfl
  calm := by
    intro _ e he _
    obtain rfl := List.mem_singleton.mp he
    exact ⟨rfl, .inl rfl, by decide⟩
  idle := rfl

/-- The settle of `!wrs` wakes the lowered bank for its result. -/
theorem loweringBank1_wakes : ∃ t, exec (.wrsVbank true 5) loweringBank1 = .next t ∧ t.cur.sp.vbank = 0 :=
  ⟨_, rfl, by decide +kernel⟩

/-- Refutes O15: `!wrs` lowers bank 1 while a result for v8 is pending. Its settle writes the result, which first wakes the bank (R84), so
VBANK is 0 afterwards and not the value written. -/
theorem not_writeSpecial : ¬ Obligations.WriteSpecial := by
  intro h
  obtain ⟨-, hrows⟩ := h
  obtain ⟨huser, -⟩ := hrows loweringBank1 true 5
  obtain ⟨-, hvbank, -⟩ := huser loweringBank1_atOnce
  obtain ⟨hlowered, -⟩ := hvbank (by decide +kernel) (by decide)
  obtain ⟨x, hx⟩ := hlowered (by decide)
  obtain ⟨t, ht, hwoken⟩ := loweringBank1_wakes
  obtain rfl : t = _ := Host.Outcome.next.inj (ht.symm.trans hx)
  have hkept := congrArg Specials.vbank (after_sp _ true _) |>.symm.trans hwoken
  exact absurd hkept (by decide)

end Sys2Proof.Machine
end

section
/-! SUPPORT. Writes of vector elements (R78, R79, R110): elements of one shape lie apart in a register, so that a list of element writes is
read back element by element, the last write of each winning. -/

namespace Sys2Proof.Machine

/-! ## The place of an element -/

/-- Element (row, column) exists on a member in the shape of `vcols` columns of `w` bits (R77, R78). -/
structure InShape (w vcols row col : Nat) : Prop where
  fits : w * vcols ≤ 1024
  row : row < 32
  col : col < vcols

/-- The lowest bit of element (row, column) in containers of `w` bits (R78). -/
abbrev elemBit (w row col : Nat) : Nat := 1024 * row + w * col

section
variable {w vcols row col row' col' : Nat}

/-- An element lies in its row. -/
theorem InShape.in_row (h : InShape w vcols row col) : w * col + w ≤ 1024 :=
  (Nat.mul_succ w col ▸ Nat.mul_le_mul_left w h.col).trans h.fits

theorem InShape.in_register (h : InShape w vcols row col) : elemBit w row col + w ≤ 32768 := by
  have := h.in_row
  have := h.row
  simp only [elemBit]
  omega

/-- Element `j` of a register that the gang's first member holds. -/
theorem inShape_of_lt {j : Nat} (hw : w * vcols ≤ 1024) (hj : j < 32 * vcols) : InShape w vcols (j / vcols) (j % vcols) :=
  ⟨hw, Nat.div_lt_of_lt_mul (Nat.mul_comm 32 vcols ▸ hj), Nat.mod_lt _ (Nat.pos_of_mul_pos_left (Nat.zero_lt_of_lt hj))⟩

/-- Two elements of one shape share no bit. -/
theorem elemBit_apart (h : InShape w vcols row col) (h' : InShape w vcols row' col') (hne : ¬(row' = row ∧ col' = col)) :
    elemBit w row' col' + w ≤ elemBit w row col ∨ elemBit w row col + w ≤ elemBit w row' col' := by
  have hrow := h.in_row
  have hrow' := h'.in_row
  have before : ∀ {a b : Nat}, a < b → w * a + w ≤ w * b := fun hab => Nat.mul_succ w _ ▸ Nat.mul_le_mul_left w hab
  simp only [elemBit]
  rcases Nat.lt_trichotomy row row' with hr | rfl | hr
  · omega
  · rcases Nat.lt_trichotomy col col' with hc | rfl | hc
    · have := before hc
      omega
    · exact absurd ⟨rfl, rfl⟩ hne
    · have := before hc
      omega
  · omega

/-! ## Values at their places -/

/-- The bits of a value of `w` bits placed at bit `p`. -/
theorem getLsbD_placed {p x : Nat} (hx : x < 2 ^ w) (hp : p + w ≤ 32768) (i : Nat) :
    (BitVec.ofNat 32768 (x <<< p)).getLsbD i = (decide (p ≤ i) && x.testBit (i - p)) := by
  rw [BitVec.getLsbD_ofNat, Nat.testBit_shiftLeft]
  by_cases hi : i < 32768
  · simp [hi]
  · simp [Nat.testBit_lt_two_pow (hx.trans_le (Nat.pow_le_pow_right (by decide) (show w ≤ i - p by omega)))]

/-- A value read at its own place. -/
theorem slice_placed {p x : Nat} (hx : x < 2 ^ w) (hp : p + w ≤ 32768) :
    (BitVec.ofNat 32768 (x <<< p)).extractLsb' p w = BitVec.ofNat w x := by
  ext i hi
  rw [BitVec.getElem_extractLsb', getLsbD_placed hx hp, ← BitVec.getLsbD_eq_getElem, BitVec.getLsbD_ofNat]
  simp [hi]

/-- A value leaves the places apart from its own clear. -/
theorem slice_placed_apart {p q x : Nat} (hx : x < 2 ^ w) (hp : p + w ≤ 32768) (hpq : p + w ≤ q ∨ q + w ≤ p) :
    (BitVec.ofNat 32768 (x <<< p)).extractLsb' q w = 0#w := by
  ext i hi
  simp only [BitVec.getElem_extractLsb', getLsbD_placed hx hp, BitVec.getElem_zero]
  rcases hpq with h | h
  · simp [Nat.testBit_lt_two_pow (hx.trans_le (Nat.pow_le_pow_right (by decide) (show w ≤ q + i - p by omega)))]
  · simp [show ¬p ≤ q + i by omega]

theorem slice_not {p : Nat} (x : BitVec 32768) (hp : p + w ≤ 32768) : (~~~x).extractLsb' p w = ~~~x.extractLsb' p w := by
  ext i hi
  simp [show p + i < 32768 by omega]

/-- A merge of two registers under a mask, at one place. -/
theorem slice_merge {p : Nat} (b d m : BitVec 32768) (hp : p + w ≤ 32768) :
    ((b &&& ~~~m) ||| (d &&& m)).extractLsb' p w =
      (b.extractLsb' p w &&& ~~~m.extractLsb' p w) ||| (d.extractLsb' p w &&& m.extractLsb' p w) := by
  rw [BitVec.extractLsb'_or, BitVec.extractLsb'_and, BitVec.extractLsb'_and, slice_not _ hp]

theorem ones_lt (w : Nat) : 2 ^ w - 1 < 2 ^ w := Nat.sub_one_lt (Nat.two_pow_pos w).ne'

theorem ofNat_ones (w : Nat) : BitVec.ofNat w (2 ^ w - 1) = BitVec.allOnes w := by
  apply BitVec.eq_of_toNat_eq
  rw [BitVec.toNat_ofNat, BitVec.toNat_allOnes, Nat.mod_eq_of_lt (ones_lt w)]

/-! ## A write, element by element -/

/-- What a write does at element (row, column): it sets a value, or leaves the element alone. -/
def VWrite.Puts (x : VWrite) (w row col : Nat) : Option Nat → Prop
  | some y => x.mask.extractLsb' (elemBit w row col) w = BitVec.allOnes w ∧
      x.data.extractLsb' (elemBit w row col) w = BitVec.ofNat w y ∧ x.rows.getLsbD row = true
  | .none => x.mask.extractLsb' (elemBit w row col) w = 0#w

theorem puts_none (w row col : Nat) : VWrite.none.Puts w row col none := by
  simp [VWrite.Puts, VWrite.none]

/-- An element added is set. -/
theorem puts_add (x : VWrite) (h : InShape w vcols row col) (y : Nat) : (x.add w row col y).Puts w row col (some y) := by
  have hp := h.in_register
  refine ⟨?_, ?_, ?_⟩
  · rw [VWrite.add, BitVec.extractLsb'_or, slice_placed (ones_lt w) hp, ofNat_ones, BitVec.or_allOnes]
  · rw [VWrite.add, BitVec.extractLsb'_or, BitVec.extractLsb'_and, slice_not _ hp, slice_placed (ones_lt w) hp,
      slice_placed (Nat.mod_lt _ (Nat.two_pow_pos w)) hp, ofNat_ones, BitVec.not_allOnes, BitVec.and_zero, BitVec.zero_or]
    simp [← BitVec.toNat_inj]
  · simp [VWrite.add, h.row]

/-- An element added leaves what the write does at the others. -/
theorem puts_add_ne {x : VWrite} {o : Option Nat} (h : InShape w vcols row col) (h' : InShape w vcols row' col')
    (hne : ¬(row' = row ∧ col' = col)) (y : Nat) (hx : x.Puts w row col o) : (x.add w row' col' y).Puts w row col o := by
  have hp := h'.in_register
  have hfree : ∀ {z : Nat}, z < 2 ^ w → (BitVec.ofNat 32768 (z <<< elemBit w row' col')).extractLsb' (elemBit w row col) w = 0#w :=
    fun hz => slice_placed_apart hz hp (elemBit_apart h h' hne)
  have hmask : (x.add w row' col' y).mask.extractLsb' (elemBit w row col) w = x.mask.extractLsb' (elemBit w row col) w := by
    rw [VWrite.add, BitVec.extractLsb'_or, hfree (ones_lt w), BitVec.or_zero]
  cases o with
  | none => exact hmask.trans hx
  | some z =>
    obtain ⟨hm, hd, hr⟩ := hx
    refine ⟨hmask.trans hm, ?_, ?_⟩
    · rw [VWrite.add, BitVec.extractLsb'_or, BitVec.extractLsb'_and, slice_not _ h.in_register, hfree (ones_lt w),
        hfree (Nat.mod_lt _ (Nat.two_pow_pos w)), BitVec.not_zero, BitVec.and_allOnes, BitVec.or_zero, hd]
    · simp [VWrite.add, hr]

/-! ## A register after a write -/

/-- An element reads the written bits of its register: none at or above VALID (R79). -/
theorem elem_eq_bits (v : VReg) (h : InShape w vcols row col) :
    v.elem w row col = (v.bits.extractLsb' (elemBit w row col) w).toNat := by
  have hrow := h.in_row
  have hreg := h.in_register
  have hmask : ∀ i < w, (BitVec.ofNat 32768 (2 ^ (1024 * v.valid) - 1)).getLsbD (elemBit w row col + i) = decide (row < v.valid) := by
    intro i hi
    rw [BitVec.getLsbD_ofNat, Nat.testBit_two_pow_sub_one, decide_eq_true (by omega), Bool.true_and]
    refine decide_eq_decide.mpr ?_
    simp only [elemBit]
    omega
  have hslice : v.bits.extractLsb' (elemBit w row col) w = if row < v.valid then v.data.extractLsb' (elemBit w row col) w else 0#w := by
    ext i hi
    rw [BitVec.getElem_extractLsb', VReg.bits, BitVec.getLsbD_and, hmask i hi]
    split <;> simp [*]
  rw [hslice, VReg.elem]
  split <;> rfl

/-- A write raises VALID above each row that it writes. -/
theorem lt_valid_of_row {rows : BitVec 32} (h : rows.getLsbD row = true) : row < rows.toNat.log2 + 1 :=
  (Nat.pow_lt_pow_iff_right (by decide : 1 < 2)).mp ((Nat.ge_two_pow_of_testBit h).trans_lt Nat.lt_log2_self)

/-- Every element after a write: the value set, or what it was. -/
theorem elem_write (v : VReg) {x : VWrite} {o : Option Nat} (h : InShape w vcols row col) (hx : x.Puts w row col o) :
    (v.write x).elem w row col = o.elim (v.elem w row col) (· % 2 ^ w) := by
  rw [VReg.write]
  split
  · next hrows =>
    cases o with
    | none => rfl
    | some y => simp [VWrite.Puts, hrows] at hx
  · next hrows =>
    simp only [VReg.elem, slice_merge _ _ _ h.in_register]
    cases o with
    | none =>
      rw [show x.mask.extractLsb' _ w = 0#w from hx]
      simp only [BitVec.not_zero, BitVec.and_allOnes, BitVec.and_zero, BitVec.or_zero, ← elem_eq_bits v h]
      exact ite_eq_left_iff.mpr fun hge => (if_neg fun hlt => hge (hlt.trans_le (le_max_left ..))).symm
    | some y =>
      obtain ⟨hm, hd, hr⟩ := hx
      have hvalid : row < max v.valid (x.rows.toNat.log2 + 1) := (lt_valid_of_row hr).trans_le (le_max_right ..)
      rw [if_pos hvalid, hm, hd]
      simp

/-! ## A list of elements -/

/-- The write of a list of elements on the member that holds them all, in order. -/
def memberWrite (w vcols : Nat) (es : List (Nat × Nat)) : VWrite :=
  es.foldl (fun x e => x.add w (e.1 / vcols) (e.1 % vcols) e.2) VWrite.none

theorem memberWrite_concat (w vcols : Nat) (es : List (Nat × Nat)) (e : Nat × Nat) :
    memberWrite w vcols (es ++ [e]) = (memberWrite w vcols es).add w (e.1 / vcols) (e.1 % vcols) e.2 :=
  List.foldl_concat ..

/-- On a core alone, a vector write is that of its one member. -/
theorem buildWrites_one {es : List (Nat × Nat)} (hes : ∀ e ∈ es, e.1 < 32 * vcols) :
    buildWrites 1 w vcols es = [memberWrite w vcols es] := by
  induction es using List.reverseRecOn with
  | nil => rfl
  | append_singleton es e ih =>
    have he : e.1 / vcols < 32 := Nat.div_lt_of_lt_mul (Nat.mul_comm 32 vcols ▸ hes e (by simp))
    have hes' := ih fun q hq => hes q (List.mem_append_left _ hq)
    rw [buildWrites] at hes' ⊢
    rw [List.foldl_concat, hes', memberWrite_concat]
    simp [Nat.div_eq_of_lt he, Nat.mod_eq_of_lt he]

/-- A list of elements sets each to the last value that it gives it. -/
theorem memberWrite_puts {es : List (Nat × Nat)} (hw : w * vcols ≤ 1024) (hes : ∀ e ∈ es, e.1 < 32 * vcols) {j : Nat}
    (hj : j < 32 * vcols) :
    (memberWrite w vcols es).Puts w (j / vcols) (j % vcols) ((es.reverse.find? (·.1 == j)).map (·.2)) := by
  induction es using List.reverseRecOn with
  | nil => exact puts_none ..
  | append_singleton es e ih =>
    have hrest := ih fun q hq => hes q (List.mem_append_left _ hq)
    rw [memberWrite_concat, List.reverse_concat, List.find?_cons]
    by_cases hej : e.1 = j
    · subst hej
      rw [beq_self_eq_true]
      exact puts_add _ (inShape_of_lt hw hj) e.2
    · rw [beq_false_of_ne hej]
      refine puts_add_ne (inShape_of_lt hw hj) (inShape_of_lt hw (hes e (by simp))) (fun hsame => hej ?_) e.2 hrest
      rw [← Nat.div_add_mod e.1 vcols, ← Nat.div_add_mod j vcols, hsame.1, hsame.2]

end

/-! ## The strand after a vector write -/

theorem getV_setV (f : VFile) (d : BitVec 5) (v : VReg) : (f.setV d v).getV d = v := Vector.getElem_set_self ..

theorem getV_setV_ne (f : VFile) {d r : BitVec 5} (h : r ≠ d) (v : VReg) : (f.setV d v).getV r = f.getV r :=
  Vector.getElem_set_ne d.isLt r.isLt fun e => h (BitVec.eq_of_toNat_eq e.symm)

theorem own_alone {s : State} (h : s.cur.sp.gangsz ≤ 1) : s.own = 0 := by
  rw [State.own, Nat.max_eq_right h, Nat.mod_one]

theorem files_alone {s : State} (h : s.cur.partners = []) : s.files = [s.cur.vf] := by
  simp [State.files, Strand.files, h]

theorem elt_alone {s : State} {d : BitVec 5} {w j : Nat} (h : s.cur.partners = []) (hj : j / s.vcols < 32) :
    s.elt d w j = (s.cur.vf.getV d).elem w (j / s.vcols) (j % s.vcols) := by
  simp [State.elt, elemAt, files_alone h, Nat.div_eq_of_lt hj, Nat.mod_eq_of_lt hj]

/-- On a core without partners, a vector write is a write of one register of its own file. -/
theorem putElems_alone {s : State} {d : BitVec 5} {w : Nat} {es : List (Nat × Nat)} (hp : s.cur.partners = []) (hg : s.cur.sp.gangsz ≤ 1)
    (hes : ∀ e ∈ es, e.1 < 32 * s.vcols) :
    (s.putElems d w es).cur.vf = s.cur.vf.setV d ((s.cur.vf.getV d).write (memberWrite w s.vcols es)) ∧
      (s.putElems d w es).cur.partners = [] := by
  have hw : s.writes w es = [memberWrite w s.vcols es] := by
    rw [State.writes, files_alone hp]
    exact buildWrites_one hes
  have hf : s.core.cur.files 0 = [s.cur.vf] := own_alone hg ▸ files_alone hp
  simp [State.putElems, hw, own_alone hg, State.onCur, Strand.writeV, Strand.putV, Strand.setFiles, hf]

/-- Settles O43: the register written is read back element by element; nothing else of the strand's files is touched. -/
theorem elementsWritten : Obligations.ElementsWritten := by
  intro s d w es hp hg _ _ hw hes t
  obtain ⟨hvf, hpt⟩ := putElems_alone (d := d) (w := w) hp hg hes
  refine ⟨fun j hj => ?_, fun r hr => ?_, ?_, ?_, rfl, rfl, rfl⟩
  · have hputs := memberWrite_puts hw hes hj
    rw [elt_alone hpt (inShape_of_lt hw hj).row, elt_alone hp (inShape_of_lt hw hj).row, hvf, getV_setV]
    refine (elem_write _ (inShape_of_lt hw hj) hputs).trans ?_
    cases es.reverse.find? (·.1 == j) <;> rfl
  · rw [hvf, getV_setV_ne _ hr]
  · rw [hvf]; rfl
  · rw [hvf]; rfl

end Sys2Proof.Machine
end

section
/-! SUPPORT. The register-register, immediate, constant and bit-field words (R94-R101): what each of the model's functions computes, in
the terms of the rules. -/

namespace Sys2Proof.Machine

/-! ## Shifts, extensions and fields -/

theorem rotateRight_sixBits (x : Word) (h : BitVec 6) : x.rotateRight h.toNat = (x >>> h.toNat) ||| (x <<< (64 - h.toNat)) := by
  rw [BitVec.rotateRight_def, Nat.mod_eq_of_lt h.isLt]

/-- Bit `i` below `w` comes from bit `i` of x, every other from bit `w - 1`, the sign of the field. -/
theorem shiftLeft_sshiftRight_eq_signExtend (x : Word) {w : Nat} (h0 : 0 < w) (h : w ≤ 64) :
    (x <<< (64 - w)).sshiftRight (64 - w) = (x.setWidth w).signExtend 64 := by
  ext i hi
  rw [BitVec.getElem_sshiftRight, BitVec.getElem_signExtend]
  by_cases hw : i < w
  · have hs : 64 - w + i < 64 := by omega
    simp [hw, hs, hi]
  · have hs : ¬64 - w + i < 64 := by omega
    have hn : ¬63 < 64 - w := by omega
    have ht : 63 - (64 - w) = w - 1 := by omega
    have hl : w - 1 < 64 := by omega
    simp [hw, hs, hn, ht, h0, hl, BitVec.msb_eq_getLsbD_last, BitVec.getLsbD_eq_getElem]

theorem shiftLeft_ushiftRight_eq_setWidth (x : Word) {w : Nat} (h : w ≤ 64) :
    (x <<< (64 - w)) >>> (64 - w) = (x.setWidth w).setWidth 64 := by
  ext i hi
  have hs : 64 - w + i < 64 ↔ i < w := by omega
  simp [hs, hi]

theorem extWidth_eq (y : Word) : extWidth y = if (y.extractLsb' 0 6).toNat = 0 then 64 else (y.extractLsb' 0 6).toNat :=
  if_congr BitVec.toNat_eq rfl rfl

theorem extWidth_pos (y : Word) : 0 < extWidth y := by
  rw [extWidth_eq]; split <;> omega

theorem extWidth_le (y : Word) : extWidth y ≤ 64 := by
  rw [extWidth_eq]; split <;> omega

theorem signExt_eq (x y : Word) : signExt x y = (x.setWidth (extWidth y)).signExtend 64 :=
  shiftLeft_sshiftRight_eq_signExtend x (extWidth_pos y) (extWidth_le y)

theorem zeroExt_eq (x y : Word) : zeroExt x y = (x.setWidth (extWidth y)).setWidth 64 :=
  shiftLeft_ushiftRight_eq_setWidth x (extWidth_le y)

/-- A field of at most 64 bits, as quotient and remainder (R100). -/
theorem bitField_eq (x : Word) (p : Nat) {w : Nat} (h : w ≤ 64) : bitField x p w = BitVec.ofNat 64 (x.toNat / 2 ^ p % 2 ^ w) := by
  have hw : 2 ^ w ≤ 2 ^ 64 := Nat.pow_le_pow_right two_pos h
  have hm : 2 ^ w - 1 < 2 ^ 64 := by omega
  have hr : x.toNat / 2 ^ p % 2 ^ w < 2 ^ 64 := (Nat.mod_lt _ (Nat.two_pow_pos w)).trans_le hw
  apply BitVec.eq_of_toNat_eq
  rw [bitField, BitVec.toNat_and, BitVec.toNat_ushiftRight, BitVec.toNat_ofNat, BitVec.toNat_ofNat, Nat.mod_eq_of_lt hm,
    Nat.mod_eq_of_lt hr, Nat.and_two_pow_sub_one_eq_mod, Nat.shiftRight_eq_div_pow]

/-! ## Minimum and maximum, truth values -/

/-- Which of the two is taken when they are equal does not matter. -/
theorem ite_lt_eq_ite_le {κ : Type} [LinearOrder κ] {a b : κ} {p q : Word} (h : a = b → p = q) :
    (if a < b then p else q) = if a ≤ b then p else q := by
  rcases lt_trichotomy a b with hl | he | hg
  · rw [if_pos hl, if_pos hl.le]
  · rw [h he, ite_self, ite_self]
  · rw [if_neg hg.not_gt, if_neg hg.not_ge]

theorem minS_eq (x y : Word) : minS x y = if x.toInt ≤ y.toInt then x else y := by
  simp only [minS, BitVec.slt, decide_eq_true_eq]
  exact ite_lt_eq_ite_le BitVec.eq_of_toInt_eq

theorem maxS_eq (x y : Word) : maxS x y = if x.toInt ≤ y.toInt then y else x := by
  simp only [maxS, BitVec.slt, decide_eq_true_eq]
  exact ite_lt_eq_ite_le fun h => (BitVec.eq_of_toInt_eq h).symm

theorem minN_eq (x y : Word) : minN x y = if x.toNat ≤ y.toNat then x else y := by
  simp only [minN, BitVec.ult, decide_eq_true_eq]
  exact ite_lt_eq_ite_le BitVec.eq_of_toNat_eq

theorem maxN_eq (x y : Word) : maxN x y = if x.toNat ≤ y.toNat then y else x := by
  simp only [maxN, BitVec.ult, decide_eq_true_eq]
  exact ite_lt_eq_ite_le fun h => (BitVec.eq_of_toNat_eq h).symm

/-- A comparison as a register value (R99), from the comparison of values that it decides. -/
theorem boolWord_eq {b : Bool} {c : Prop} [Decidable c] (h : b = decide c) : boolWord b = if c then 1 else 0 := by
  simp only [h, boolWord, decide_eq_true_eq]

/-! ## Division (R95) -/

/-- The quotient of -2^63 by -1 is 2^63, whose pattern is that of -2^63. -/
theorem divS_eq (x y : Word) : divS x y = if y = 0 then 0 else BitVec.ofInt 64 (x.toInt.tdiv y.toInt) :=
  congrArg (ite (y = 0) 0) (BitVec.eq_of_toInt_eq (by rw [BitVec.toInt_sdiv, BitVec.toInt_ofInt]))

theorem divN_eq (x y : Word) : divN x y = if y = 0 then 0 else BitVec.ofNat 64 (x.toNat / y.toNat) := by
  rw [divN, ← BitVec.toNat_udiv, BitVec.ofNat_toNat, BitVec.setWidth_eq]

theorem remS_eq (x y : Word) : remS x y = if y = 0 then x else BitVec.ofInt 64 (x.toInt.tmod y.toInt) := by
  rw [remS, ← BitVec.toInt_srem, BitVec.ofInt_toInt]

theorem remN_eq (x y : Word) : remN x y = if y = 0 then x else BitVec.ofNat 64 (x.toNat % y.toNat) := by
  rw [remN, ← BitVec.toNat_umod, BitVec.ofNat_toNat, BitVec.setWidth_eq]

/-! ## Tagged pointers (R101) -/

/-- No carry or borrow reaches the low bits of a sum from above. -/
theorem adda_eq (x y : Word) : adda x y = x.extractLsb' 56 8 ++ (x.extractLsb' 0 56 + y.extractLsb' 0 56) := by
  rw [adda, BitVec.extractLsb'_add (by decide)]

theorem ptrDiff_eq (x y : Word) : ptrDiff x y = (x.extractLsb' 0 56 - y.extractLsb' 0 56).signExtend 64 := by
  have h : (x - y).extractLsb' 0 56 + y.extractLsb' 0 56 = x.extractLsb' 0 56 := by
    rw [← BitVec.extractLsb'_add (by decide), BitVec.sub_add_cancel]
  rw [ptrDiff, ← h, BitVec.add_sub_cancel]

/-! ## The words -/

/-- `sel` reads d, and operand b, as they are before its own write (R90). -/
theorem execSel_gives {s s' : State} {st : Bool} {d a b : BitVec 5} {k : BitVec 2} {n : Bool} {x : Word}
    (h : Issues s (srcA a k [b, d]) st) (hx : s.operandA a k n = some (x, s')) :
    Gives (execSel st d a b k n s) ((s'.wg d (if s.rg d ≠ 0 then x else s.rg b)).after4 st) := by
  obtain ⟨hrun, hexact, -, -, -, hg⟩ := operandA_kept hx
  refine issue_ok h (fun y => ⟨_, by rw [withA_eq hx], ?_⟩) (hrun.trans h.running) (hexact.trans h.untraced)
    fun hs => wg_calm ((operandA_kept hx).calm (h.calm hs)) d _
  rw [show (s'.counted y).rg b = s.rg b from hg b, show (s'.counted y).rg d = s.rg d from hg d]
  exact wg_like ⟨y, rfl⟩ d _

/-- Settles O1: each word has one of the scalar shapes, and its function is the one of the rules. -/
theorem scalarRegisterResults : Obligations.ScalarRegisterResults := by
  refine ⟨fun s s' st d a b k n x h hx => ?_, fun s s' st d a b k n x hx => ⟨fun h => ?_, fun h => execSel_gives h hx⟩⟩
  · have alu : ∀ f, Gives (scalarRR st d a b k n f s) ((s'.wg d (f x (s.rg b))).after4 st) := fun f => scalarRR_gives f h hx
    have aluOf : ∀ f v, f x (s.rg b) = v → Gives (scalarRR st d a b k n f s) ((s'.wg d v).after4 st) := fun f v hv => hv ▸ alu f
    have mult : ∀ f, Gives (scalarMul st d a b k n f s) ((s'.wg d (f x (s.rg b))).after4 st) := fun f => scalarMul_gives f h hx
    have truth : ∀ (f : Word → Word → Bool) (c : Prop) [Decidable c], f x (s.rg b) = decide c →
        Gives (scalarRR st d a b k n (fun x y => boolWord (f x y)) s) ((s'.wg d (if c then 1 else 0)).after4 st) :=
      fun f c _ hc => aluOf (fun x y => boolWord (f x y)) _ (boolWord_eq hc)
    refine ⟨alu (· + ·), alu (· - ·), alu (· &&& ·), alu (· ||| ·), alu (· ^^^ ·), alu fun x y => x &&& ~~~y,
      alu fun x y => x ||| ~~~y, alu fun x y => x <<< shAmt y, alu fun x y => x >>> shAmt y, alu fun x y => x.sshiftRight (shAmt y),
      aluOf (fun x y => x.rotateRight (shAmt y)) _ (rotateRight_sixBits _ _), aluOf minS _ (minS_eq _ _), aluOf maxS _ (maxS_eq _ _),
      aluOf minN _ (minN_eq _ _), aluOf maxN _ (maxN_eq _ _), mult (· * ·), mult mulHigh, mult mulHighN,
      fun hd => ?_, ?_, ?_, truth (fun x y => x == y) _ rfl, truth (fun x y => x != y) _ (bne_decide _ _),
      truth (fun x y => x.slt y) _ rfl, truth (fun x y => !x.slt y) _ (not_slt_decide _ _), truth (fun x y => x.ult y) _ rfl,
      truth (fun x y => !x.ult y) _ (not_ult_decide _ _), aluOf adda _ (adda_eq _ _), alu tagPut, aluOf ptrDiff _ (ptrDiff_eq _ _)⟩
    · have div : ∀ f v, f x (s.rg b) = v → Gives (scalarDiv st d a b k n f s) ((s'.wg d v).after4 st) :=
        fun f v hv => hv ▸ scalarDiv_gives f hd hx
      exact ⟨div divS _ (divS_eq _ _), div divN _ (divN_eq _ _), div remS _ (remS_eq _ _), div remN _ (remN_eq _ _)⟩
    · rw [← extWidth_eq]; exact aluOf signExt _ (signExt_eq _ _)
    · rw [← extWidth_eq]; exact aluOf zeroExt _ (zeroExt_eq _ _)
  · exact ⟨scalarR_gives countLz h hx, scalarR_gives countTz h hx, scalarR_gives countOnes h hx,
      scalarR_gives (fun x => (x.extractLsb' 56 8).setWidth 64) h hx⟩

/-- Settles O2: each word writes one register, with the function of the rules; the register file is that of R18. -/
theorem scalarImmediateResults : Obligations.ScalarImmediateResults := by
  refine ⟨fun s st d a => ⟨fun h => ?_, fun h p w => write_gives _ _ h fun _ => rfl,
      fun h => ⟨fun i => ⟨write_gives _ _ h fun _ => rfl, ?_⟩, fun e => write_gives _ _ h fun _ => rfl⟩,
      fun h => ⟨fun i => write_gives _ _ h fun _ => rfl, fun e => write_gives _ _ h fun _ => rfl⟩⟩,
    fun s r q v => ⟨rg_zero s, wg_zero s v, fun hr => rg_wg s hr v, fun hq => rg_wg_ne s hq v⟩⟩
  · have imm : ∀ f, Gives (scalarI st d a f s) ((s.wg d (f (s.rg a))).after4 st) := fun f => scalarI_gives f h
    have immOf : ∀ f v, f (s.rg a) = v → Gives (scalarI st d a f s) ((s.wg d v).after4 st) := fun f v hv => hv ▸ imm f
    have truth : ∀ (f : Word → Bool) (c : Prop) [Decidable c], f (s.rg a) = decide c →
        Gives (scalarI st d a (fun x => boolWord (f x)) s) ((s.wg d (if c then 1 else 0)).after4 st) :=
      fun f c _ hc => immOf (fun x => boolWord (f x)) _ (boolWord_eq hc)
    exact ⟨fun i => ⟨imm (· + sx i), imm (· &&& sx i), imm (· ||| i.setWidth 64), imm (· ^^^ i.setWidth 64)⟩,
      fun c => ⟨imm (· <<< c.toNat), imm (· >>> c.toNat), imm fun x => x.sshiftRight c.toNat,
        immOf (fun x => x.rotateRight c.toNat) _ (rotateRight_sixBits _ c)⟩,
      fun i => ⟨truth (fun x => x == sx i) _ rfl, truth (fun x => x != sx i) _ (bne_decide _ _), truth (fun x => x.slt (sx i)) _ rfl,
        truth (fun x => !x.slt (sx i)) _ (not_slt_decide _ _), truth (fun x => x.ult (sx i)) _ rfl,
        truth (fun x => !x.ult (sx i)) _ (not_ult_decide _ _)⟩,
      fun p w => immOf (fun x => bitField x p.toNat (w.toNat + 1)) _ (bitField_eq _ _ w.isLt)⟩
  · rw [← branchTarget_eq]
    exact write_gives _ _ h fun _ => rfl

end Sys2Proof.Machine
end

section
/-! SUPPORT. Integer vector words (R112-R115): the functions of the elements as functions of bits, or of integers that are wrapped or
clamped, and what the words and the dot products give. -/

namespace Sys2Proof.Machine

/-! ## Values and results of elements (R43) -/

/-- An element of the type in force as an integer. -/
def State.eltInt (s : State) (n : Nat) : Int := if isSigned s.vt then (BitVec.ofNat s.vw n).toInt else n

/-- A result in `k` bits that wraps. -/
def wrapped (k : Nat) (v : Int) : Rounded := ⟨(BitVec.ofInt k v).toNat, 0⟩

/-- The least integer of a type of `k` bits. -/
def intLow (signed : Bool) (k : Nat) : Int := if signed then -(2 ^ (k - 1)) else 0

/-- The greatest integer of a type of `k` bits. -/
def intHigh (signed : Bool) (k : Nat) : Int := if signed then 2 ^ (k - 1) - 1 else 2 ^ k - 1

/-- A result in `k` bits that is clamped, with SAT. -/
def clamped (signed : Bool) (k : Nat) (v : Int) : Rounded :=
  ⟨(BitVec.ofInt k (max (intLow signed k) (min (intHigh signed k) v))).toNat, if v < intLow signed k ∨ intHigh signed k < v then fSAT else 0⟩

/-- The rounding shift of R113. -/
def State.halfUp (s : State) (n z : Nat) : Int := if z = 0 then s.eltInt n else (s.eltInt n + 2 ^ (z - 1)) / 2 ^ z

theorem wrapInt_eq (k : Nat) (v : Int) : wrapInt k v = (BitVec.ofInt k v).toNat := by
  rw [wrapInt, BitVec.toNat_ofInt, Nat.cast_pow, Nat.cast_ofNat]

theorem plain_wrapInt (k : Nat) (v : Int) : plain (wrapInt k v) = wrapped k v := by rw [plain, wrapInt_eq, wrapped]

theorem intRange_eq (signed : Bool) (k : Nat) : intRange signed k = (intLow signed k, intHigh signed k) := by
  cases signed <;> rfl

theorem intLow_le_intHigh (signed : Bool) (k : Nat) : intLow signed k ≤ intHigh signed k := by
  have hhalf : (0 : Int) < 2 ^ (k - 1) := by positivity
  have hfull : (0 : Int) < 2 ^ k := by positivity
  cases signed <;> simp only [intLow, intHigh, if_true, Bool.false_eq_true, if_false] <;> omega

/-- Clamping takes the nearest integer of the type. -/
theorem clampInt_eq (signed : Bool) (k : Nat) (v : Int) : clampInt signed k v = clamped signed k v := by
  have hle := intLow_le_intHigh signed k
  simp only [clampInt, intRange_eq, clamped, wrapInt_eq]
  split
  · next hlow => rw [min_eq_right (hlow.le.trans hle), max_eq_left hlow.le, if_pos (.inl hlow)]
  · next hlow =>
    split
    · next hhigh => rw [min_eq_left hhigh.le, max_eq_right hle, if_pos (.inr hhigh)]
    · next hhigh => rw [min_eq_right (not_lt.mp hhigh), max_eq_right (not_lt.mp hlow), if_neg (not_or.mpr ⟨hlow, hhigh⟩)]

/-- A result that fits is its bits. -/
theorem clamped_fits {signed : Bool} {k : Nat} {v : Int} (hl : intLow signed k ≤ v) (hh : v ≤ intHigh signed k) :
    clamped signed k v = wrapped k v := by
  rw [clamped, min_eq_right hh, max_eq_right hl, if_neg (not_or.mpr ⟨not_lt.mpr hl, not_lt.mpr hh⟩), wrapped]

section
variable {s : State} {n z : Nat}

theorem tval_eq (hn : n < 2 ^ s.vw) : tval s.vt n = s.eltInt n := by
  rw [tval, State.eltInt]
  cases isSigned s.vt with
  | false => rfl
  | true => exact sval_eq_toInt (width_pos s.vt) hn

/-- The value of an element lies within the range of its type. -/
theorem eltInt_range (hn : n < 2 ^ s.vw) : intLow (isSigned s.vt) s.vw ≤ s.eltInt n ∧ s.eltInt n ≤ intHigh (isSigned s.vt) s.vw := by
  unfold State.eltInt intLow intHigh
  split
  · exact ⟨BitVec.le_toInt _, Int.le_sub_one_of_lt (BitVec.toInt_lt)⟩
  · have hn' : (n : Int) < 2 ^ s.vw := by exact_mod_cast hn
    omega

/-- Rounding shifts by more than the width give 0. -/
theorem halfUp_large (hn : n < 2 ^ s.vw) (hz : s.vw < z) : s.halfUp n z = 0 := by
  obtain ⟨u, rfl⟩ : ∃ u, z = u + 1 := ⟨z - 1, by omega⟩
  obtain ⟨hlow, hhigh⟩ := eltInt_range hn
  have hw : (2 : Int) ^ s.vw ≤ 2 ^ u := pow_le_pow_right₀ (by decide) (by omega)
  have hhalf : (2 : Int) ^ (s.vw - 1) ≤ 2 ^ s.vw := pow_le_pow_right₀ (by decide) (by omega)
  have hpos : (0 : Int) < 2 ^ (s.vw - 1) := by positivity
  rw [State.halfUp, if_neg (by omega), Nat.add_sub_cancel, pow_succ]
  unfold intLow at hlow
  unfold intHigh at hhigh
  refine Int.ediv_eq_zero_of_lt ?_ ?_ <;> split at hlow <;> omega

theorem roundShift_eq (hn : n < 2 ^ s.vw) : roundShift s.vt n z = s.halfUp n z := by
  have hmin : roundShift s.vt n z = s.halfUp n (min z (s.vw + 1)) := by
    rw [State.halfUp, ← tval_eq hn]; rfl
  rw [hmin]
  rcases le_total z (s.vw + 1) with h | h
  · rw [min_eq_left h]
  · rw [min_eq_right h, halfUp_large hn (Nat.lt_succ_self _), halfUp_large hn h]

theorem vAbs_eq (hn : n < 2 ^ s.vw) :
    vAbs s.vt n = clamped (isSigned s.vt) s.vw (if s.eltInt n < 0 then -s.eltInt n else s.eltInt n) := by
  cases ht : isSigned s.vt with
  | true =>
    have habs : ((tval s.vt n).natAbs : Int) = if s.eltInt n < 0 then -s.eltInt n else s.eltInt n := by
      rw [tval_eq hn]; split <;> omega
    rw [vAbs, ht, if_pos rfl, habs, clampInt_eq]; rfl
  | false =>
    have hv : s.eltInt n = n := by rw [State.eltInt, ht]; rfl
    obtain ⟨hlow, hhigh⟩ := eltInt_range hn
    rw [ht] at hlow hhigh
    rw [hv] at hlow hhigh
    rw [hv, if_neg (by omega), clamped_fits hlow hhigh, vAbs, ht, wrapped, BitVec.ofInt_natCast, BitVec.toNat_ofNat, Nat.mod_eq_of_lt hn]
    rfl

end

/-! ## Functions of the bits (R112) -/

section
variable {w : Nat}

theorem sub_toNat (p z : BitVec w) : (p.toNat + 2 ^ w - z.toNat) % 2 ^ w = (p - z).toNat := by
  rw [BitVec.toNat_sub, Nat.add_comm, Nat.sub_add_comm z.isLt.le]

theorem vMulHigh_toNat (hw : 0 < w) (p z : BitVec w) : vMulHigh w p.toNat z.toNat = (BitVec.ofInt w (p.toInt * z.toInt / 2 ^ w)).toNat := by
  rw [vMulHigh, sval_toNat hw, sval_toNat hw, wrapInt_eq]

theorem mulHighN_toNat (p z : BitVec w) : p.toNat * z.toNat / 2 ^ w = (BitVec.ofNat w (p.toNat * z.toNat / 2 ^ w)).toNat := by
  have hlt : p.toNat * z.toNat / 2 ^ w < 2 ^ w := Nat.div_lt_of_lt_mul (Nat.mul_lt_mul'' p.isLt z.isLt)
  rw [BitVec.toNat_ofNat, Nat.mod_eq_of_lt hlt]

theorem shl_toNat (p : BitVec w) (z : Nat) : (if w ≤ z then 0 else p.toNat <<< z % 2 ^ w) = (p <<< z).toNat := by
  split
  · next h => rw [BitVec.shiftLeft_eq_zero h]; rfl
  · exact (BitVec.toNat_shiftLeft ..).symm

theorem shr_toNat (p : BitVec w) (z : Nat) : (if w ≤ z then 0 else p.toNat >>> z) = (p >>> z).toNat := by
  split
  · next h => rw [BitVec.ushiftRight_eq_zero h]; rfl
  · exact (BitVec.toNat_ushiftRight ..).symm

/-- An arithmetic shift by the width or more leaves sign bits alone. -/
theorem sshiftRight_min (p : BitVec w) (z : Nat) : p.sshiftRight (min z w) = p.sshiftRight z := by
  rcases le_total z w with h | h
  · rw [min_eq_left h]
  · ext i hi
    rw [min_eq_right h, BitVec.getElem_sshiftRight, BitVec.getElem_sshiftRight, dif_neg (by omega), dif_neg (by omega)]

theorem vSra_toNat (hw : 0 < w) (p : BitVec w) (z : Nat) : vSra w p.toNat z = (p.sshiftRight z).toNat := by
  rw [← sshiftRight_min, vSra, sval_toNat hw, wrapInt_eq, BitVec.sshiftRight, Int.shiftRight_eq_div_pow, Nat.cast_pow, Nat.cast_ofNat]

end

/-! ## The words -/

/-- The element-wise words `i` and `ig`, with operand b in a vector and in a `g` register (R107), give `f` of the elements of a, b and,
when they accumulate (R108), d, in containers of `w'` bits. -/
def ElemPair (i ig : Instr) (s : State) (st : Bool) (d a b : BitVec 5) (m : BitVec 4) (w' : Nat) (acc : Bool)
    (f : Nat → Nat → Nat → Rounded) : Prop :=
  let ds := if acc then [d] else []
  ElemWord i s st [] (a :: [b] ++ ds) d m w' (fun j => f (s.eltOf s.vt a j) (s.eltOf s.vt b j) (s.elt d w' j)) ∧
    ElemWord ig s st [b] (a :: ds) d m w' (fun j => f (s.eltOf s.vt a j) ((s.rg b).toNat % 2 ^ memWidth s.vt) (s.elt d w' j))

section
variable {s : State} {st : Bool} {d a b : BitVec 5} {m : BitVec 4} {x : Bool} {i ig : Instr} {o : VOp}

/-- The two forms of a word that accepts the type have its function on elements of the type's width. -/
theorem elemPair_of {fn : State → Nat → Nat → Nat → Rounded} {f : Nat → Nat → Nat → Rounded}
    (hi : exec i s = vecWord st o d a (.v b) m x fn s) (hg : exec ig s = vecWord st o d a (.g b) m x fn s) (ht : o.types s.vt = true)
    (hc : ∀ y, fn (s.counted y) = fn s) (hf : ∀ n < 2 ^ s.vw, ∀ z < 2 ^ s.vw, ∀ y, fn s n z y = f n z y) :
    ElemPair i ig s st d a b m (o.dw s.vw) o.acc f :=
  ⟨vecWord_gives hi ht hc fun j => hf _ (eltOf_lt s a j) _ (bElt_lt s (.v b) j) _,
    vecWord_gives hg ht hc fun j => hf _ (eltOf_lt s a j) _ (bElt_lt s (.g b) j) _⟩

/-- A word whose function is one of the bits of two elements. -/
theorem elemPair_bits {fn : State → Nat → Nat → Nat} {g : BitVec s.vw → BitVec s.vw → BitVec s.vw}
    (hi : exec i s = vecWord st o d a (.v b) m x (fun s n z _ => plain (fn s n z)) s)
    (hg : exec ig s = vecWord st o d a (.g b) m x (fun s n z _ => plain (fn s n z)) s) (ht : o.types s.vt = true)
    (hc : ∀ y, fn (s.counted y) = fn s) (hf : ∀ p z : BitVec s.vw, fn s p.toNat z.toNat = (g p z).toNat) :
    ElemPair i ig s st d a b m (o.dw s.vw) o.acc fun n z _ => ⟨(g (BitVec.ofNat s.vw n) (BitVec.ofNat s.vw z)).toNat, 0⟩ :=
  elemPair_of hi hg ht (fun y => by rw [hc]) fun n hn z hz _ => by
    rw [← hf, BitVec.toNat_ofNat, BitVec.toNat_ofNat, Nat.mod_eq_of_lt hn, Nat.mod_eq_of_lt hz, plain]

end

theorem narrowable_of {t : BitVec 5} (ht : isIntType t = true) (h : 8 ≤ width t) : narrowable t = true := by
  rw [narrowable, ht, decide_eq_true h]; rfl

theorem widenable_of {t : BitVec 5} (ht : isIntType t = true) (h : width t ≤ 32) : widenable t = true := by
  rw [widenable, ht, decide_eq_true h]; rfl

/-- Operand b of an integer word in a `g` register: its low bits (R107). -/
theorem bElt_int {s : State} (ht : isIntType s.vt = true) (b : BitVec 5) : s.bElt s.vt (.g b) = fun _ => (s.rg b).toNat % 2 ^ s.vw :=
  funext fun _ => by rw [State.bElt, valueBits, memWidth_int _ ht, State.vw, State.vt]

/-! ## Dot products (R115) -/

/-- The first column of a over which group `k` of `p` columns goes, as an element. -/
def State.groupFirst (s : State) (p k : Nat) : Nat := k / (s.vcols / p) * s.vcols + k % (s.vcols / p) * p

/-- The groups of `p` columns with an active element. -/
def State.groupsOn (s : State) (p : Nat) (m : BitVec 4) : List Nat :=
  (List.range (s.vrows * (s.vcols / p))).filter fun k => (List.range p).any fun n => (s.active m).contains (s.groupFirst p k + n)

/-- The exact sum of group `k`: the INT32 container of d and the products of the active elements of a and of `z`. -/
def State.dotSum (s : State) (p : Nat) (d a : BitVec 5) (m : BitVec 4) (z : Nat → Nat) (k : Nat) : Int :=
  (List.range p).foldl
    (fun acc n =>
      if (s.active m).contains (s.groupFirst p k + n) then
        acc + s.eltInt (s.eltOf s.vt a (s.groupFirst p k + n)) * s.eltInt (z (s.groupFirst p k + n))
      else acc)
    (BitVec.ofNat 32 (s.cell d 32 (k / (s.vcols / p)) (k % (s.vcols / p)))).toInt

/-- The results of a dot product: each group with its clamped sum. -/
def State.dotResults (s : State) (p : Nat) (d a : BitVec 5) (m : BitVec 4) (z : Nat → Nat) : List (Nat × Rounded) :=
  (s.groupsOn p m).map fun k => (k, clamped true 32 (s.dotSum p d a m z k))

/-- A dot product of `p` columns with the elements `z` (R115): the containers of the groups with an active element are written. -/
def DotWord (i : Instr) (s : State) (st : Bool) (p : Nat) (g bs : List (BitVec 5)) (d a : BitVec 5) (m : BitVec 4) (z : Nat → Nat) : Prop :=
  let per := s.vcols / p
  let out := s.dotResults p d a m z
  let raised := out.map fun o => s.raisedAt (s.groupFirst p o.1) o.2.flags
  Issues s (vuse g (a :: bs ++ [d]) [d] [m]) st → s.vw * p = 32 → s.vcols % p = 0 → (∀ r ∈ a :: bs, s.badElems r s.vw (s.active m) = []) →
    s.badElems d 32 ((s.groupsOn p m).map fun k => k / per * s.vcols + k % per) = [] → s.fpTrap raised = none →
    Gives (exec i s) (((s.putCells d 32 (out.map fun o => (o.1 / per, o.1 % per, o.2.bits))).noteFlags raised).after4 st)

theorem cell_lt (s : State) (r : BitVec 5) (w row col : Nat) : s.cell r w row col < 2 ^ w := by
  unfold State.cell VReg.elem
  split
  · split
    · exact BitVec.isLt _
    · exact Nat.two_pow_pos w
  · exact Nat.two_pow_pos w

section
variable {s : State} {st : Bool} {d a b : BitVec 5} {m : BitVec 4} {x : Bool} {i : Instr} {p w : Nat} {v : VSrc}

/-- The sum that the model takes is that of the integers. -/
theorem dotSum_eq (k : Nat) :
    (List.range p).foldl
        (fun acc n =>
          if (s.active m).contains (s.groupFirst p k + n) then
            acc + tval s.vt (s.eltOf s.vt a (s.groupFirst p k + n)) * tval s.vt (s.bElt s.vt v (s.groupFirst p k + n))
          else acc)
        (intVal true 32 (s.cell d 32 (k / (s.vcols / p)) (k % (s.vcols / p)))) =
      s.dotSum p d a m (s.bElt s.vt v) k := by
  have hold : intVal true 32 (s.cell d 32 (k / (s.vcols / p)) (k % (s.vcols / p))) = (BitVec.ofNat 32 _).toInt :=
    sval_eq_toInt (by decide) (cell_lt ..)
  simp only [State.dotSum, hold, tval_eq (eltOf_lt s a _), tval_eq (bElt_lt s v _)]

/-- A dot product whose checks pass gives its results. -/
theorem vecDot_eq (ht : (isIntType s.vt && width s.vt == w) = true) (hc : s.vcols % p = 0)
    (hp : ∀ r ∈ a :: v.vregs, s.badElems r w (s.active m) = [])
    (hd : s.badElems d 32 ((s.groupsOn p m).map fun k => k / (s.vcols / p) * s.vcols + k % (s.vcols / p)) = []) :
    let out := s.dotResults p d a m (s.bElt s.vt v)
    ∃ q, s.vecDot p w d a v m x =
      s.vecFinish (out.map fun o => s.raisedAt (s.groupFirst p o.1) o.2.flags) q
        fun s' => s'.putCells d 32 (out.map fun o => (o.1 / (s.vcols / p), o.1 % (s.vcols / p), o.2.bits)) := by
  obtain ⟨ha, hb⟩ := List.forall_mem_cons.mp hp
  have hreads : s.poisonTrap
      [(a, w, s.active m), (d, 32, (s.groupsOn p m).map fun k => k / (s.vcols / p) * s.vcols + k % (s.vcols / p))] = none :=
    poisonTrap_none (by simpa using ⟨ha, hd⟩)
  have hpass := fun k => vecCheck_pass k ht (beq_iff_eq.mpr hc) hreads
  dsimp only [State.vecDot, State.groupsOn, State.groupFirst] at hpass ⊢
  rw [hpass, poisonTrap_sources hb]
  simp only [State.dotResults, ← dotSum_eq, ← clampInt_eq, State.putCells, State.cellWrites, List.map_map, List.foldl_map]
  exact ⟨_, rfl⟩

theorem counted_dotResults (y : Accounting) :
    (s.counted y).dotResults p d a m ((s.counted y).bElt (s.counted y).vt v) = s.dotResults p d a m (s.bElt s.vt v) := by
  rw [counted_vt, funext (counted_bElt s y s.vt v)]
  rfl

/-- It ends in the same way in a state with other accounting. -/
theorem vecDot_pass (y : Accounting) (ht : (isIntType s.vt && width s.vt == w) = true) (hc : s.vcols % p = 0)
    (hp : ∀ r ∈ a :: v.vregs, s.badElems r w (s.active m) = [])
    (hd : s.badElems d 32 ((s.groupsOn p m).map fun k => k / (s.vcols / p) * s.vcols + k % (s.vcols / p)) = []) :
    let out := s.dotResults p d a m (s.bElt s.vt v)
    ∃ q, (s.counted y).vecDot p w d a v m x =
      (s.counted y).vecFinish (out.map fun o => s.raisedAt (s.groupFirst p o.1) o.2.flags) q
        fun s' => s'.putCells d 32 (out.map fun o => (o.1 / (s.vcols / p), o.1 % (s.vcols / p), o.2.bits)) := by
  have hdot := vecDot_eq (s := s.counted y) (x := x) ht hc hp hd
  rw [counted_dotResults] at hdot
  exact hdot

/-- A dot-product word for elements of `w` bits whose integer type it accepts. -/
theorem dotWord_gives (hi : exec i s = dotWord st p w d a v m x s) (ht : isIntType s.vt = true) (hw : w * p = 32) :
    DotWord i s st p v.gregs v.vregs d a m (s.bElt s.vt v) := by
  intro hissue hwidth hcols hsrc hdst htrap
  obtain rfl : s.vw = w := Nat.eq_of_mul_eq_mul_right (Nat.pos_of_ne_zero fun h => by simp [h] at hw) (hwidth.trans hw.symm)
  have hty : (isIntType s.vt && width s.vt == s.vw) = true := by rw [ht]; exact beq_self_eq_true _
  have hgives := vector_gives (body := fun t => t.vecDot p s.vw d a v m x) hissue (putCells_fileWrite ..) htrap
    fun y => vecDot_pass y hty hcols hsrc hdst
  rw [hi]
  exact hgives

end

/-- Settles O35: each word is a function of the bits of its elements, or of their integers, wrapped or clamped. -/
theorem vectorIntegerResults : Obligations.VectorIntegerResults := by
  unfold Obligations.VectorIntegerResults
  intro s st d a b m x
  have hw : 0 < s.vw := width_pos s.vt
  refine ⟨fun ht => ⟨?and, ?or, ?xor⟩, fun ht => ⟨?add, ?sub, ?mul, ?mulh, ?mulhn, ?min, ?max, ?minn, ?maxn, ?shl, ?shr, ?sra, ?rshr, ?adds,
    ?subs, ?avg, ?mac, ?abs, ?dot2, ?dot2G, ?dot4, ?dot4G, fun h8 => ?rnshr, fun h32 => ⟨?wmul, ?wadd⟩⟩⟩
  case and =>
    exact (elemPair_bits (i := .vand st d a b m x) (ig := .vandG st d a b m x) (g := fun p z => p &&& z) rfl rfl ht (fun _ => rfl)
      fun p z => (BitVec.toNat_and ..).symm :)
  case or =>
    exact (elemPair_bits (i := .vor st d a b m x) (ig := .vorG st d a b m x) (g := fun p z => p ||| z) rfl rfl ht (fun _ => rfl)
      fun p z => (BitVec.toNat_or ..).symm :)
  case xor =>
    exact (elemPair_bits (i := .vxor st d a b m x) (ig := .vxorG st d a b m x) (g := fun p z => p ^^^ z) rfl rfl ht (fun _ => rfl)
      fun p z => (BitVec.toNat_xor ..).symm :)
  case add =>
    exact (elemPair_bits (i := .vadd st d a b m x) (ig := .vaddG st d a b m x) (g := fun p z => p + z) rfl rfl ht (fun _ => rfl)
      fun p z => (BitVec.toNat_add ..).symm :)
  case sub =>
    exact (elemPair_bits (i := .vsub st d a b m x) (ig := .vsubG st d a b m x) (g := fun p z => p - z) rfl rfl ht (fun _ => rfl) sub_toNat :)
  case mul =>
    exact (elemPair_bits (i := .vmul st d a b m x) (ig := .vmulG st d a b m x) (g := fun p z => p * z) rfl rfl ht (fun _ => rfl)
      fun p z => (BitVec.toNat_mul ..).symm :)
  case mulh =>
    exact (elemPair_bits (i := .vmulh st d a b m x) (ig := .vmulhG st d a b m x) rfl rfl ht (fun _ => rfl) (vMulHigh_toNat hw) :)
  case mulhn =>
    exact (elemPair_bits (i := .vmulhn st d a b m x) (ig := .vmulhnG st d a b m x) rfl rfl ht (fun _ => rfl) mulHighN_toNat :)
  case min =>
    exact (elemPair_bits (i := .vmin st d a b m x) (ig := .vminG st d a b m x) rfl rfl ht (fun _ => rfl) fun p z => (vPickS_toNat hw p z).1 :)
  case max =>
    exact (elemPair_bits (i := .vmax st d a b m x) (ig := .vmaxG st d a b m x) rfl rfl ht (fun _ => rfl) fun p z => (vPickS_toNat hw p z).2 :)
  case minn =>
    exact (elemPair_bits (i := .vminn st d a b m x) (ig := .vminnG st d a b m x) rfl rfl ht (fun _ => rfl) fun p z => (vPickN_toNat p z).1 :)
  case maxn =>
    exact (elemPair_bits (i := .vmaxn st d a b m x) (ig := .vmaxnG st d a b m x) rfl rfl ht (fun _ => rfl) fun p z => (vPickN_toNat p z).2 :)
  case shl =>
    exact (elemPair_bits (i := .vshl st d a b m x) (ig := .vshlG st d a b m x) rfl rfl ht (fun _ => rfl) fun p z => shl_toNat p z.toNat :)
  case shr =>
    exact (elemPair_bits (i := .vshr st d a b m x) (ig := .vshrG st d a b m x) rfl rfl ht (fun _ => rfl) fun p z => shr_toNat p z.toNat :)
  case sra =>
    exact (elemPair_bits (i := .vsra st d a b m x) (ig := .vsraG st d a b m x) rfl rfl ht (fun _ => rfl) fun p z => vSra_toNat hw p z.toNat :)
  case rshr =>
    exact (elemPair_of (i := .vrshr st d a b m x) (ig := .vrshrG st d a b m x)
      (f := fun n z _ => wrapped s.vw (s.halfUp n z)) rfl rfl ht (fun _ => rfl)
      fun n hn z _ _ => by rw [roundShift_eq hn, plain_wrapInt] :)
  case adds =>
    exact (elemPair_of (i := .vadds st d a b m x) (ig := .vaddsG st d a b m x)
      (f := fun n z _ => clamped (isSigned s.vt) s.vw (s.eltInt n + s.eltInt z)) rfl rfl ht (fun _ => rfl)
      fun n hn z hz _ => by rw [tval_eq hn, tval_eq hz]; exact clampInt_eq .. :)
  case subs =>
    exact (elemPair_of (i := .vsubs st d a b m x) (ig := .vsubsG st d a b m x)
      (f := fun n z _ => clamped (isSigned s.vt) s.vw (s.eltInt n - s.eltInt z)) rfl rfl ht (fun _ => rfl)
      fun n hn z hz _ => by rw [tval_eq hn, tval_eq hz]; exact clampInt_eq .. :)
  case avg =>
    exact (elemPair_of (i := .vavg st d a b m x) (ig := .vavgG st d a b m x)
      (f := fun n z _ => wrapped s.vw ((s.eltInt n + s.eltInt z + 1) / 2)) rfl rfl ht (fun _ => rfl)
      fun n hn z hz _ => by rw [tval_eq hn, tval_eq hz, plain_wrapInt] :)
  case mac =>
    exact (elemPair_of (i := .vmac st d a b m x) (ig := .vmacG st d a b m x)
      (f := fun n z y => ⟨(BitVec.ofNat s.vw y + BitVec.ofNat s.vw n * BitVec.ofNat s.vw z).toNat, 0⟩) rfl rfl ht (fun _ => rfl)
      fun n _ z _ y => by rw [← BitVec.ofNat_mul, ← BitVec.ofNat_add, BitVec.toNat_ofNat, plain] :)
  case abs =>
    exact (vecWord_gives (i := .vabs st d a m x) rfl ht (fun _ => rfl) fun j => vAbs_eq (eltOf_lt s a j) :)
  case dot2 => exact dotWord_gives (i := .vdot2 st d a b m x) (v := .v b) rfl ht (by decide)
  case dot4 => exact dotWord_gives (i := .vdot4 st d a b m x) (v := .v b) rfl ht (by decide)
  case dot2G => exact bElt_int ht b ▸ dotWord_gives (i := .vdot2G st d a b m x) (v := .g b) rfl ht (by decide)
  case dot4G => exact bElt_int ht b ▸ dotWord_gives (i := .vdot4G st d a b m x) (v := .g b) rfl ht (by decide)
  case rnshr =>
    exact (elemPair_of (i := .vrnshr st d a b m x) (ig := .vrnshrG st d a b m x)
      (f := fun n z _ => clamped (isSigned s.vt) (s.vw / 2) (s.halfUp n z)) rfl rfl (narrowable_of ht h8) (fun _ => rfl)
      fun n hn z _ _ => by rw [roundShift_eq hn, clampInt_eq] :)
  case wmul =>
    exact (elemPair_of (i := .vwmul st d a b m x) (ig := .vwmulG st d a b m x)
      (f := fun n z _ => wrapped (2 * s.vw) (s.eltInt n * s.eltInt z)) rfl rfl (widenable_of ht h32) (fun _ => rfl)
      fun n hn z hz _ => by rw [tval_eq hn, tval_eq hz]; exact plain_wrapInt .. :)
  case wadd =>
    exact (elemPair_of (i := .vwadd st d a b m x) (ig := .vwaddG st d a b m x)
      (f := fun n z _ => wrapped (2 * s.vw) (s.eltInt n + s.eltInt z)) rfl rfl (widenable_of ht h32) (fun _ => rfl)
      fun n hn z hz _ => by rw [tval_eq hn, tval_eq hz]; exact plain_wrapInt .. :)

end Sys2Proof.Machine
end

section
/-! SUPPORT. `vtrn` (R134) on a strand outside a gang that holds a partner's register file. -/

namespace Sys2Proof.Machine

/-- A strand whose GANGSZ is 1 and that still holds the register files of a partner, with a stream bound to v4 whose block has not
arrived. -/
def strandWithPartner : State :=
  { State.reset with
    core := { State.reset.core with
      running := true
      cur := { Strand.reset with
        vdead := 0
        partners := [VFile.reset]
        bindings := [{ reg := 4, out := false, etype := 5, cols := 4, cursor := 0, bit := 0, remaining := 8, blockLen := 4, arrived := false,
                       drains := 0, failed := 0, faults := 0, written := [], taken := [] }]
        sp := { Strand.reset.sp with vtype := 5, vrows := 2, vcols := 4, vl := 7, gangsz := 1 } } } }

theorem strandWithPartner_issues : Issues strandWithPartner (vuse [] [1] [4] [0]) false where
  running := rfl
  untraced := rfl
  noRun := rfl
  priv := nofun
  full := by decide +kernel
  live := by decide +kernel
  banks := by decide +kernel
  powered := le_rfl
  streams := rfl
  room := by decide +kernel
  chain := rfl
  ready := by decide +kernel
  queue := by decide +kernel
  going := by decide +kernel
  calm := nofun

/-- For each stream of the running strand, the number of members whose own writes it has noted (R220). -/
def State.notedMembers (s : State) : List Nat := s.cur.bindings.map (·.written.length)

theorem counted_notedMembers (s : State) (x : Accounting) : (s.counted x).notedMembers = s.notedMembers := rfl

/-- `vtrn` writes, and so notes, its own member alone. -/
theorem strandWithPartner_vtrn : ∃ t, exec (.vtrn false 4 1 0) strandWithPartner = .next t ∧ t.notedMembers = [1] :=
  ⟨_, rfl, by decide +kernel⟩

/-- Refutes O39: `vtrn` writes v4 on its own member alone, the statement's `putCells` on every member whose files the strand holds. The two
differ on a strand outside a gang with a partner's files, where a stream bound to v4 notes the writes of one member, not two. `ungang`
leaves no such strand, but the statement does not shut it out, as O43 does by `partners = []`. -/
theorem not_vectorMoveResults : ¬ Obligations.VectorMoveResults := by
  unfold Obligations.VectorMoveResults
  intro h
  obtain ⟨-, -, -, -, -, -, -, -, -, -, halone⟩ := h strandWithPartner false 4 1 0 0 false
  obtain ⟨-, -, -, -, -, hshape⟩ := halone (by decide +kernel)
  obtain ⟨-, htranspose, -⟩ := hshape strandWithPartner_issues (by decide +kernel)
  obtain ⟨x, hx⟩ := htranspose (by decide +kernel) (by decide +kernel) (by decide +kernel)
  obtain ⟨t, ht, hnoted⟩ := strandWithPartner_vtrn
  obtain rfl : t = _ := Host.Outcome.next.inj (ht.symm.trans hx)
  rw [counted_notedMembers] at hnoted
  exact absurd hnoted (by decide +kernel)

end Sys2Proof.Machine
end

section
/-! SUPPORT. The online softmax words (R138-R141): they end like every vector word, with writes of cells and, for `vsmf`, the capture of
empty rows. -/

namespace Sys2Proof.Machine

/-- A choice between two changes by what does not look at the accounting. -/
theorem FileWrite.ite_of {f g : State → State} {p : State → Prop} [DecidablePred p] (hp : ∀ s x, p (s.counted x) ↔ p s) (hf : FileWrite f)
    (hg : FileWrite g) : FileWrite fun s => if p s then f s else g s where
  counted s x := by simp only [hp]; split <;> simp only [hf.counted, hg.counted]
  running s := by split <;> simp only [hf.running, hg.running]
  exact s := by split <;> simp only [hf.exact, hg.exact]
  calm s h := by split; exacts [hf.calm s h, hg.calm s h]

section
variable (s : State) (y : Accounting)

@[simp] theorem counted_cell (r : BitVec 5) (w i k : Nat) : (s.counted y).cell r w i k = s.cell r w i k := rfl
@[simp] theorem counted_cellPoison (w : Nat) (l : List (BitVec 5 × List (Nat × Nat))) : (s.counted y).cellPoison w l = s.cellPoison w l := rfl
@[simp] theorem counted_pairCells (r : BitVec 5) : (s.counted y).pairCells r = s.pairCells r := rfl
@[simp] theorem counted_rg (r : BitVec 5) : (s.counted y).rg r = s.rg r := rfl

end

/-- A row is empty when its maximum is -∞ (R141). -/
theorem finishRow_snd (m l : Nat) (os : List Nat) : (finishRow m l os).2 = (m == negInf) := by
  unfold finishRow
  split <;> simp_all

/-- The heads of rows: maximum, sum and correction in columns 0 to 2 (R139, R140). -/
def rowHeads (n : Nat) (y : Nat → SoftRow) : List (Nat × Nat × Nat) :=
  (List.range n).flatMap fun i => [(i, 0, (y i).m), (i, 1, (y i).l), (i, 2, (y i).al)]

/-- The elements of rows (R139-R141). -/
def rowBodies (n : Nat) (y : Nat → SoftRow) : List (Nat × Nat × Nat) :=
  (List.range n).flatMap fun i => (y i).ps.zipIdx.map fun q => (i, q.2, q.1)

section
variable {s : State} {st : Bool} {d a b : BitVec 5} {m : BitVec 4} {x : Bool}

/-- What `vsmx` computes for row `i`. -/
def State.softRowAt (s : State) (d a b : BitVec 5) (m : BitVec 4) (i : Nat) : SoftRow :=
  softRow (s.cell d 32 i 0) (s.cell d 32 i 1) ((List.range s.vcols).map fun k =>
    if (s.active m).contains (i * s.vcols + k) then
      some (softCtx.mul (fp32.decode ((s.rg b).toNat % 2 ^ 32)) (fp32.decode (s.cell a 32 i k)))
    else none)

theorem vsmx_gives (ht : s.vt = 0x10) (h : Issues s (vuse [b] [d, a] [d, a] [m]) st)
    (hp : s.cellPoison 32 [(d, (List.range s.vrows).flatMap fun r => [(r, 0), (r, 1)]),
      (a, (s.active m).map fun j => (j / s.vcols, j % s.vcols))] = none) :
    let y := s.softRowAt d a b m
    let raised := (List.range s.vrows).map fun i => rowRaised i (y i).flags
    s.fpTrap raised = none →
      Gives (execVsmx st d a b m x s)
        ((((s.putCells a 32 (rowBodies s.vrows y)).putCells d 32 (rowHeads s.vrows y)).noteFlags raised).after4 st) := by
  intro y raised htrap
  refine vector_gives (write := fun t => (t.putCells a 32 (rowBodies s.vrows y)).putCells d 32 (rowHeads s.vrows y)) h
    ((putCells_fileWrite ..).comp (putCells_fileWrite ..)) htrap fun z => ?_
  simp only [counted_vt, counted_vrows, counted_vcols, counted_active, counted_cell, counted_cellPoison, counted_rg, ht, hp, ne_eq,
    not_true_eq_false, if_false, List.map_map, List.flatMap_map, Function.comp_def]
  exact ⟨_, rfl⟩

/-- What `vsmg` computes for row `i`. -/
def State.mergeRowAt (s : State) (d a : BitVec 5) (i : Nat) : SoftRow :=
  mergeRow (s.cell d 32 i 0) (s.cell d 32 i 1) (s.cell a 32 i 0) (s.cell a 32 i 1)
    ((List.range s.vcols).map fun k => (s.cell (nextReg d) 32 i k, s.cell (nextReg a) 32 i k))

theorem vsmg_gives (ht : s.vt = 0x10) (h : Issues s (vuse [] [d, nextReg d, a, nextReg a] [d, nextReg d] []) st)
    (hp : s.cellPoison 32 (s.pairCells d ++ s.pairCells a) = none) :
    let y := s.mergeRowAt d a
    let raised := (List.range s.vrows).map fun i => rowRaised i (y i).flags
    s.fpTrap raised = none →
      Gives (execVsmg st d a s)
        ((((s.putCells d 32 (rowHeads s.vrows y)).putCells (nextReg d) 32 (rowBodies s.vrows y)).noteFlags raised).after4 st) := by
  intro y raised htrap
  refine vector_gives (write := fun t => (t.putCells d 32 (rowHeads s.vrows y)).putCells (nextReg d) 32 (rowBodies s.vrows y)) h
    ((putCells_fileWrite ..).comp (putCells_fileWrite ..)) htrap fun z => ?_
  simp only [counted_vt, counted_vrows, counted_vcols, counted_cell, counted_cellPoison, counted_pairCells, ht, hp, ne_eq,
    not_true_eq_false, if_false, List.map_map, List.flatMap_map, Function.comp_def]
  exact ⟨_, rfl⟩

/-- What `vsmf` computes for row `i`. -/
def State.finishRowAt (s : State) (a : BitVec 5) (i : Nat) : SoftRow :=
  (finishRow (s.cell a 32 i 0) (s.cell a 32 i 1) ((List.range s.vcols).map fun k => s.cell (nextReg a) 32 i k)).1

/-- The bits of XM of the rows that are empty (log 17). -/
def State.emptyRows (s : State) (a : BitVec 5) : List (Nat × Nat) :=
  ((List.range s.vrows).filter fun i => s.cell a 32 i 0 == negInf).map fun i => (i / 32, i % 32)

/-- The capture of empty rows under EMPTYROW (R64, R141). -/
def State.captureEmpty (s : State) (bits : List (Nat × Nat)) : State :=
  if s.cur.sp.xsel.extractLsb' 0 4 = 7 then s.captureXm bits else s

theorem captureEmpty_fileWrite (bits : List (Nat × Nat)) : FileWrite fun s => s.captureEmpty bits :=
  .ite_of (p := fun s => s.cur.sp.xsel.extractLsb' 0 4 = 7) (fun _ _ => Iff.rfl) (captureXm_fileWrite bits) .id

theorem vsmf_gives (ht : s.vt = 0x10) (h : Issues s (vuse [] [a, nextReg a] [d, a] []) st) (hp : s.cellPoison 32 (s.pairCells a) = none) :
    let y := s.finishRowAt a
    let raised := (List.range s.vrows).map fun i => rowRaised i (y i).flags
    let sums := (List.range s.vrows).map fun i => (i, 3, (y i).l)
    s.fpTrap raised = none →
      Gives (execVsmf st d a s)
        (((((s.putCells d 32 (rowBodies s.vrows y)).putCells a 32 sums).captureEmpty (s.emptyRows a)).noteFlags raised).after4 st) := by
  intro y raised sums htrap
  refine vector_gives
    (write := fun t => ((t.putCells d 32 (rowBodies s.vrows y)).putCells a 32 sums).captureEmpty (s.emptyRows a)) h
    ((captureEmpty_fileWrite _).comp ((putCells_fileWrite ..).comp (putCells_fileWrite ..))) htrap fun z => ?_
  simp only [counted_vt, counted_vrows, counted_vcols, counted_cell, counted_cellPoison, counted_pairCells, ht, hp, ne_eq,
    not_true_eq_false, if_false, List.map_map, List.flatMap_map, List.filter_map, Function.comp_def, finishRow_snd]
  exact ⟨_, rfl⟩

end

/-- Settles O41: each word gives its rows; the second registers of state pairs are read as columns side by side. -/
theorem softmaxResults : Obligations.SoftmaxResults := by
  unfold Obligations.SoftmaxResults
  intro s st d a b m x ht
  refine ⟨fun h hp htrap => vsmx_gives ht h hp htrap, ?merge, fun h hp htrap => vsmf_gives ht h hp htrap⟩
  case merge =>
    simp only [List.zip_map']
    exact fun h hp htrap => vsmg_gives ht h hp htrap

end Sys2Proof.Machine
end

section
/-! SUPPORT. Shape, mask and scale words (R127-R131): what they write does not look at the accounting; `strip` with the pointers and streams
that it advances. -/

namespace Sys2Proof.Machine

/-! ## Pending results after a later write (R21) -/

/-- A later write leaves of a result what R20 asks of it, and gives it no vector register. -/
def Pending.Lessened (f e : Pending) : Prop :=
  f.due = e.due ∧ f.err = e.err ∧ f.token = e.token ∧ f.present = e.present ∧ ∀ q ∈ f.wr.vregs, q ∈ e.wr.vregs

/-- Results that a later write lessens stay calm. -/
theorem calm_lessened {t u : Strand} {f : Pending → Pending} (h : t.Calm) (hf : ∀ e, (f e).Lessened e) (hp : u.pend = t.pend.map f)
    (hb : u.sp.vbank = t.sp.vbank) : u.Calm := by
  intro g hg hd
  rw [hp] at hg
  obtain ⟨e, he, rfl⟩ := List.mem_map.mp hg
  obtain ⟨hdue, herr, htok, hpre, hregs⟩ := hf e
  obtain ⟨hgood, harrived, hon⟩ := h e he (hdue ▸ hd)
  refine ⟨herr.trans hgood, by rwa [htok, hpre], fun q hq => ?_⟩
  rw [Strand.bankOf, hb]
  exact hon q (hregs q hq)

/-! ## Words that write and join the vector queue -/

/-- A change of the running strand alone. -/
theorem onCur_fileWrite {g : State → Strand → Strand}
    (hx : ∀ (s : State) (x : Accounting), (s.counted x).onCur (g (s.counted x)) = (s.onCur (g s)).counted x)
    (hc : ∀ s : State, s.cur.Calm → (g s s.cur).Calm) : FileWrite fun s => s.onCur (g s) where
  counted := hx
  running s := onCur_core_running s (g s)
  exact s := congrArg (·.getLsbD 63) (onCur_core_acctctl s (g s))
  calm := hc

/-- A word whose effect in a state with other accounting is that of `f` up to accounting gives `f`. -/
theorem effect_gives {s : State} {u : Use} {st : Bool} {body : State → Res} {f : State → State} (h : Issues s u st)
    (hb : ∀ x, ∃ r, body (s.counted x) = .ok r ∧ Like r (f s)) (hr : (f s).core.running = s.core.running)
    (he : (f s).core.exact = s.core.exact) (hc : s.cur.Calm → (f s).cur.Calm) : Gives (issue st 4 u body s) ((f s).after4 st) :=
  issue_ok h hb (hr.trans h.running) (he.trans h.untraced) fun hs => hc (h.calm hs)

/-- A word that writes the register files and joins the vector queue gives its write. -/
theorem queued_gives {s : State} {u : Use} {st : Bool} {body : State → Res} {write : State → State} (h : Issues s u st) (hw : FileWrite write)
    (hb : ∀ x, ∃ q, body (s.counted x) = .ok ((write (s.counted x)).enqueue q)) : Gives (issue st 4 u body s) ((write s).after4 st) := by
  refine effect_gives h (fun x => ?_) (hw.running s) (hw.exact s) (hw.calm s)
  obtain ⟨q, hq⟩ := hb x
  have hl : Like (write (s.counted x)) (write s) := ⟨x, hw.counted s x⟩
  have he : (write (s.counted x)).core.exact = false := (hw.exact _).trans h.untraced
  exact ⟨_, hq, (enqueue_like he q).trans hl⟩

section
variable {s : State} {st : Bool} {d a b : BitVec 5}

/-! ## Masks (R129) -/

theorem maskWord_gives (f : BitVec 8192 → BitVec 8192 → BitVec 8192) (h : Issues s (vuse [] [] [] [mreg a, mreg b]) st) :
    Gives (maskWord st d a b f s) ((s.putMask (mreg d) (s.files.map fun k => f (k.getM (mreg a)) (k.getM (mreg b)))).after4 st) := by
  have hw := putMask_fileWrite (mreg d) (fun s => s.files.map fun k => f (k.getM (mreg a)) (k.getM (mreg b))) fun _ _ => rfl
  exact queued_gives h hw fun _ => ⟨_, rfl⟩

/-- A mask function with a `g` destination. -/
theorem maskToG_gives {f : List Nat → Word} (h : Issues s (vuse [] [] [] [mreg a]) st) :
    Gives (maskToG st d a f s) ((s.wg d (f (s.active (mreg a)))).after4 st) := by
  refine effect_gives (f := fun t => t.wg d (f (s.active (mreg a)))) h (fun x => ⟨_, rfl, ?_⟩) rfl rfl fun hc => wg_calm hc d _
  have hl : Like ((s.counted x).wg d (f (s.active (mreg a)))) (s.wg d (f (s.active (mreg a)))) := wg_like ⟨x, rfl⟩ d _
  have he : ((s.counted x).wg d (f (s.active (mreg a)))).core.exact = false := h.untraced
  exact (enqueue_like he _).trans hl

theorem maskPrefix_gives {f : Nat → Nat → Bool} (h : Issues s (vuse [] [] [] [mreg a]) st) :
    Gives (maskPrefix st d a f s)
      ((s.putMask (mreg d) (s.maskOf ((List.range s.vl).filter fun j => f j ((s.active (mreg a)).head?.getD s.vl)))).after4 st) :=
  queued_gives (write := fun t => t.putMask (mreg d)
      (t.maskOf ((List.range s.vl).filter fun j => f j ((s.active (mreg a)).head?.getD s.vl)))) h
    (putMask_fileWrite _ _ fun _ _ => rfl) fun _ => ⟨_, rfl⟩

/-- The active elements ascend. -/
theorem active_sorted (s : State) (m : BitVec 4) : (s.active m).Pairwise (· < ·) := List.pairwise_lt_range.filter _

/-- In an ascending list, the members below a bound come first. -/
theorem takeWhile_lt_eq_filter {l : List Nat} (h : l.Pairwise (· < ·)) (n : Nat) :
    l.takeWhile (fun k => decide (k < n)) = l.filter fun k => decide (k < n) := by
  induction l with
  | nil => rfl
  | cons k l ih =>
    obtain ⟨hk, hl⟩ := List.pairwise_cons.mp h
    by_cases hkn : k < n
    · simp [hkn, ih hl]
    · have hnone : l.filter (fun i => decide (i < n)) = [] := List.filter_eq_nil_iff.mpr fun i hi => by simp; have := hk i hi; omega
      simp [hkn, hnone]

theorem mscan_gives (ht : isIntType s.vt = true) (h : Issues s (vuse [] [] [d] [mreg a]) st) :
    Gives (execMscan st d a s)
      ((s.putElems d s.vw ((List.range s.vl).map fun j =>
        (j, ((s.active (mreg a)).filter fun k => decide (k < j)).length % 2 ^ s.vw))).after4 st) := by
  simp only [← takeWhile_lt_eq_filter (active_sorted s _)]
  refine queued_gives (write := fun t => t.putElems d s.vw ((List.range s.vl).map fun j =>
    (j, ((s.active (mreg a)).takeWhile fun k => decide (k < j)).length % 2 ^ s.vw))) h (putElems_fileWrite ..) fun x => ?_
  rw [vecCheck_pass _ (by rw [counted_vt, ht]) rfl rfl]
  exact ⟨_, rfl⟩

/-- What `mmov` does with its destination (R129). -/
def State.putMX (s : State) (d : BitVec 5) (xs : List (BitVec 8192)) : State :=
  if d.toNat < 16 then s.putMask (mreg d) xs
  else s.onCur fun t => t.setFiles s.own (((t.files s.own).zip xs).map fun q => q.1.setMX d q.2)

theorem putMX_fileWrite (d : BitVec 5) (xs : State → List (BitVec 8192)) (hx : ∀ s x, xs (s.counted x) = xs s) :
    FileWrite fun s => s.putMX d (xs s) := by
  unfold State.putMX
  refine .ite _ (putMask_fileWrite _ xs hx) (onCur_fileWrite (fun s x => ?_) fun _ h => calm_same h rfl rfl)
  rw [hx]
  rfl

theorem mmov_gives (h : Issues s (vuse [] [] [] (maskField a)) st) :
    Gives (execMmov st d a s) ((s.putMX d (s.files.map (·.getMX a))).after4 st) := by
  have hw := putMX_fileWrite d (fun s => s.files.map (·.getMX a)) fun _ _ => rfl
  exact queued_gives h hw fun _ => ⟨_, rfl⟩

theorem msetl_gives (h : Issues s (vuse [a] [] [] []) st) :
    Gives (execMsetl st d a s)
      ((s.putMask (mreg d) (s.maskOf ((List.range (s.vrows * s.vcols)).filter fun j => decide (j < (s.rg a).toNat)))).after4 st) :=
  queued_gives (write := fun t => t.putMask (mreg d)
      (t.maskOf ((List.range (s.vrows * s.vcols)).filter fun j => decide (j < (s.rg a).toNat)))) h
    (putMask_fileWrite _ _ fun _ _ => rfl) fun _ => ⟨_, rfl⟩

/-! ## Scale registers (R131) -/

theorem dropScale_vregs (w : PendWrite) (r : BitVec 3) : (w.dropScale r).vregs = w.vregs := by
  unfold PendWrite.dropScale
  repeat' split
  all_goals rfl

/-- What a later write of a scale register leaves of a pending result (R21). -/
def Pending.takenC (r : BitVec 3) (e : Pending) : Pending :=
  { e with wr := e.wr.dropScale r, cancelled := e.wr.isC r || e.cancelled }

theorem takenC_list (r : BitVec 3) (l : List Pending) :
    ((cancelIf (·.isC r) l).map fun e => { e with wr := e.wr.dropScale r }) = l.map (·.takenC r) := by
  rw [cancelIf, List.map_map]
  refine List.map_congr_left fun e _ => ?_
  simp only [Function.comp_apply, Pending.takenC]
  cases e.wr.isC r <;> rfl

theorem takenC_lessened (r : BitVec 3) (e : Pending) : (e.takenC r).Lessened e :=
  ⟨rfl, rfl, rfl, rfl, fun _ hq => dropScale_vregs e.wr r ▸ hq⟩

theorem putScaleReg_fileWrite (r : BitVec 3) (f : VFile → CReg) : FileWrite fun s => s.putScaleReg r f :=
  onCur_fileWrite (g := fun s t => t.writeC s.own r (s.files.map f)) (fun _ _ => rfl) fun s h =>
    calm_lessened h (takenC_lessened r) (takenC_list r s.cur.pend) rfl

/-- A tag that names no block format is FORMAT (R119, R131). -/
theorem cset_format (h : Issues s (vuse [a, b] [] [] []) st) (h0 : (s.rg a).extractLsb' 0 8 ≠ 0)
    (ht : scaleTagOk ((s.rg a).extractLsb' 0 8) = false) :
    ∃ t, Like t s ∧ execCset st d a b s = .next (t.unwait.takeTrap (mkTrap 0x05 0)) := by
  unfold execCset issue
  obtain ⟨x, hx⟩ := gate_issues h _
  refine ⟨s.counted x, ⟨x, rfl⟩, ?_⟩
  rw [hx]
  simp only [counted_rg, h0, ht, Bool.false_eq_true, or_self, if_false]
  rfl

theorem cset_gives (h : Issues s (vuse [a, b] [] [] []) st)
    (ht : (s.rg a).extractLsb' 0 8 = 0 ∨ scaleTagOk ((s.rg a).extractLsb' 0 8) = true) :
    Gives (execCset st d a b s)
      ((s.putScaleReg (creg d) fun _ => ⟨fillScale ((s.rg b).extractLsb' 0 8), (s.rg a).extractLsb' 0 8⟩).after4 st) := by
  refine queued_gives h (putScaleReg_fileWrite (creg d) fun _ => ⟨fillScale ((s.rg b).extractLsb' 0 8), (s.rg a).extractLsb' 0 8⟩) fun x => ?_
  simp only [counted_rg, ht, if_true]
  exact ⟨_, rfl⟩

theorem cmov_gives (h : Issues s { vuse [] [] [] [] with c := [creg a] } st) :
    Gives (execCmov st d a s) ((s.putScaleReg (creg d) (·.getC (creg a))).after4 st) :=
  queued_gives h (putScaleReg_fileWrite (creg d) (·.getC (creg a))) fun _ => ⟨_, rfl⟩

/-! ## `setl` (R127) -/

/-- The shape and VL set (R127). -/
def State.shaped (s : State) (rows cols vl : Nat) : State := s.onSp fun p => { p with vrows := rows, vcols := cols, vl := vl }

theorem setl_gives {rows cols vl : Nat} (h : Issues s { g := [a, b] } st)
    (hrows : (if a = 0 then min (32 * s.cur.sp.gangsz) (ceilDiv (s.rg b).toNat (1024 / s.vw))
      else min (s.rg a).toNat (32 * s.cur.sp.gangsz)) = rows)
    (hcols : (if a = 0 then 1024 / s.vw else min (s.rg b).toNat (1024 / s.vw)) = cols)
    (hvl : (if a = 0 then min (s.rg b).toNat (rows * cols) else rows * cols) = vl) :
    Gives (execSetl st d a b s) (((s.shaped rows cols vl).wg d (BitVec.ofNat 64 vl)).after4 st) := by
  have hcalm : s.cur.Calm → (s.shaped rows cols vl).cur.Calm := fun hc => calm_same hc rfl rfl
  have hlike : ∀ x, Like ((s.counted x).shaped rows cols vl) (s.shaped rows cols vl) := fun x => ⟨x, rfl⟩
  refine effect_gives (f := fun t => (t.shaped rows cols vl).wg d (BitVec.ofNat 64 vl)) h
    (fun x => ⟨_, ?_, wg_like (hlike x) d (BitVec.ofNat 64 vl)⟩) rfl rfl fun hc => wg_calm (hcalm hc) d _
  have hsp : (s.counted x).cur.sp = s.cur.sp := rfl
  simp only [counted_rg, counted_vw, hsp, hrows, hcols, hvl]
  rfl

end

/-! ## `strip` (R128, R221) -/

/-- A core that runs a strand without an exact trace. -/
def State.RunsUntraced (s : State) : Prop := s.core.running = true ∧ s.core.exact = false

theorem foldl_runsUntraced {α : Type} {f : State → α → State} (hf : ∀ s a, s.RunsUntraced → (f s a).RunsUntraced) (l : List α) {s : State}
    (h : s.RunsUntraced) : (l.foldl f s).RunsUntraced :=
  List.foldlRecOn l f h fun t ht a _ => hf t a ht

theorem hint_core (s : State) (p : Word) : (s.hint p).core = s.core := by
  unfold State.hint
  split
  · split <;> rfl
  · rfl

theorem advance_runsUntraced (t : Nat) (s : State) (r : BitVec 5) (h : s.RunsUntraced) : (s.advance t r).RunsUntraced := by
  simp only [State.advance, State.RunsUntraced, hint_core]
  exact h

theorem advanceBinding_runsUntraced (t vl : Nat) (s : State) (b : Binding) (h : s.RunsUntraced) : (s.advanceBinding t vl b).RunsUntraced := by
  simp only [State.advanceBinding]
  repeat' split
  all_goals exact h

/-- The state in which `strip` has advanced its pointers and the streams by `t` elements. -/
def State.stripped (s : State) (rs : List (BitVec 5)) (t vl : Nat) : State :=
  let p := rs.foldl (fun s r => s.advance t r) s
  p.cur.bindings.foldl (fun s b => s.advanceBinding t vl b) p

theorem stripped_runsUntraced {s : State} (h : s.RunsUntraced) (rs : List (BitVec 5)) (t vl : Nat) : (s.stripped rs t vl).RunsUntraced :=
  foldl_runsUntraced (advanceBinding_runsUntraced t vl) _ (foldl_runsUntraced (advance_runsUntraced t) rs h)

theorem strip_gives {s : State} {st : Bool} {d a : BitVec 5} {e f g h n : BitVec 3} (hi : AtOnce s { g := a :: stripRegs e f g h n } st)
    (hb : ∀ r ∈ stripRegs e f g h n, (s.stripBits (s.rg r)).isSome = true) :
    let x := (s.rg a).toNat
    let t := min s.vl x
    let vl := min (x - t) (s.vrows * s.vcols)
    let q := s.stripped (stripRegs e f g h n) t vl
    (st = true → q.cur.Calm) →
      Gives (execStrip st d a e f g h n s) (((q.onSp fun p => { p with vl := vl }).wg d (BitVec.ofNat 64 (x - t))).after4 st) := by
  intro x t vl q hq
  obtain ⟨hrun, htrace⟩ := stripped_runsUntraced ⟨hi.running, hi.untraced⟩ (stripRegs e f g h n) t vl
  have hfind : (stripRegs e f g h n).find? (fun r => (s.stripBits (s.rg r)).isNone) = none := by
    rw [List.find?_eq_none]
    intro r hr
    simp [Option.isSome_iff_ne_none.mp (hb r hr)]
  have hcalm : st = true → (q.onSp fun p => { p with vl := vl }).cur.Calm := fun hst =>
    (onSp_fileWrite (fun p => { p with vl := vl }) fun _ => rfl).calm q (hq hst)
  refine issue_at (t := (q.onSp fun p => { p with vl := vl }).wg d (BitVec.ofNat 64 (x - t))) hi ?_
    ((wg_running ..).trans ((onSp_core_running ..).trans hrun)) ((wg_exact ..).trans ((onSp_fileWrite _ fun _ => rfl).exact q |>.trans htrace))
    fun hst => wg_calm (hcalm hst) d _
  rw [hfind]
  rfl

/-- Settles O42: each word is its shape; `mscan` counts below a position what ascends. -/
theorem shapeAndMaskWords : Obligations.ShapeAndMaskWords := by
  unfold Obligations.ShapeAndMaskWords
  intro s st d a b
  refine ⟨fun h => ⟨?line, ?square⟩, fun e f g k n => ?strip, fun h => ⟨?and, ?or, ?xor, ?andn⟩, ⟨fun h => ⟨?pop, ?first, ?upto, ?before⟩, ?scan⟩,
    fun h => ⟨?toMask, ?toXm, ?toFltm⟩, fun h => ?setMask, fun h => ⟨?setScale, ?badScale⟩, fun h => ?moveScale⟩
  case line => exact fun ha => setl_gives h (if_pos ha) (if_pos ha) (if_pos ha)
  case square => exact fun ha => setl_gives h (if_neg ha) (if_neg ha) (if_neg ha)
  case strip => exact fun h hb hq => strip_gives h hb hq
  case and => exact maskWord_gives (fun x y => x &&& y) h
  case or => exact maskWord_gives (fun x y => x ||| y) h
  case xor => exact maskWord_gives (fun x y => x ^^^ y) h
  case andn => exact maskWord_gives (fun x y => x &&& ~~~y) h
  case pop => exact maskToG_gives (f := fun l => BitVec.ofNat 64 l.length) h
  case first =>
    have hgives : Gives (execMfirst st d a s) _ := maskToG_gives h
    cases hon : s.active (mreg a) <;> simp only [hon] at hgives ⊢ <;> exact hgives
  case upto => exact maskPrefix_gives (f := fun j j0 => decide (j ≤ j0)) h
  case before => exact maskPrefix_gives (f := fun j j0 => decide (j < j0)) h
  case scan => exact fun h ht => mscan_gives ht h
  case toMask =>
    intro hd
    have hgives : Gives (execMmov st d a s) _ := mmov_gives h
    rw [State.putMX, if_pos hd] at hgives
    exact hgives
  case toXm =>
    intro hd
    have hgives : Gives (execMmov st d a s) _ := mmov_gives h
    simp only [State.putMX, VFile.setMX, hd, Nat.lt_irrefl, if_true, if_false] at hgives
    exact hgives
  case toFltm =>
    intro hd
    have hgives : Gives (execMmov st d a s) _ := mmov_gives h
    simp only [State.putMX, VFile.setMX, hd.not_gt, hd.ne', if_false] at hgives
    exact hgives
  case setMask => exact msetl_gives h
  case setScale => exact fun ht => cset_gives h ht
  case badScale => exact fun h0 ht => cset_format h h0 ht
  case moveScale => exact cmov_gives h

end Sys2Proof.Machine
end

section
/-! SUPPORT. Vector accesses (R198-R205, R213-R223): performing them leaves the core alone, the checks pass where every byte is here, and what
a word whose access is performed gives. -/

namespace Sys2Proof.Machine

/-! ## Performing accesses leaves the core alone -/

theorem foldl_core {α : Type} {f : State → α → State} (hf : ∀ s a, (f s a).core = s.core) (l : List α) (s : State) :
    (l.foldl f s).core = s.core :=
  List.foldlRecOn (motive := fun t => t.core = s.core) l f rfl fun t ht a _ => (hf t a).trans ht

theorem cacheEls_core (s : State) (a : Agent) (els : List VEl) : (s.cacheEls a els).core = s.core := foldl_core (fun s _ => cacheFor_core s a _) els s

theorem homeTouch_core (s : State) (h : Home) (n : Nat) : (s.homeTouch h n).core = s.core := by
  cases h with
  | here k => exact touch_core s k n
  | _ => rfl

theorem touchHomes_core (s : State) (l : List (Home × Nat)) : (s.touchHomes l).core = s.core :=
  foldl_core (f := fun (s : State) (p : Home × Nat) => s.homeTouch p.1 p.2) (fun s p => homeTouch_core s p.1 p.2) l s

theorem openedEls_core (s : State) (k : AccKind) (els : List VEl) : (s.openedEls k els).core = s.core :=
  (touchHomes_core ..).trans (cacheEls_core ..)

theorem writeHomes_core (l : List (Home × Nat)) (s : State) (v : Nat) : (s.writeHomes l v).core = s.core := by
  induction l generalizing s v with
  | nil => rfl
  | cons p l ih => exact (ih _ _).trans (homeStore_core s p.1 p.2 _)

theorem writeEl_core (s : State) (a : Agent) (e : Nat) (x : VEl) (v : Nat) : (s.writeEl a e x v).core = s.core := by
  unfold State.writeEl
  split
  · exact writeHomes_core ..
  · exact (writeHomes_core ..).trans (touchHomes_core ..)

theorem putEls_core (s : State) (a : Agent) (d : BitVec 5) (e : Nat) (els : List VEl) : (s.putEls a d e els).core = s.core :=
  foldl_core (fun s x => writeEl_core s a e x _) els s

theorem cleanRowLines_core (s : State) (a : Agent) (e : Nat) (els : List VEl) : (s.cleanRowLines a e els).core = s.core := by
  unfold State.cleanRowLines
  split
  · rfl
  · refine foldl_core (fun s l => ?_) _ s
    split
    · exact cleanLines_core ..
    · rfl

theorem writeHdrs_core (s : State) (a : Agent) (t : TileAt) (base : Nat) (d : BitVec 5) (c : BitVec 3) (blocks : List (Nat × Nat))
    (hdrs : List VEl) : (s.writeHdrs a t base d c blocks hdrs).core = s.core := by
  have hput : ∀ (r : State) (p : Prop) [Decidable p] (x : VEl) (v : Nat), (if p then r.writeEl a 8 x v else r).core = r.core := fun r p _ x v => by
    split
    exacts [writeEl_core .., rfl]
  unfold State.writeHdrs
  dsimp only
  split
  · exact (writeEl_core ..).trans (foldl_core (fun _ _ => hput ..) blocks s)
  · exact foldl_core (fun _ _ => hput ..) blocks s

theorem poisonDead_core (s : State) (a : Agent) (els : List VEl) : (s.poisonDead a els).core = s.core :=
  foldl_core (fun s x => foldl_core (fun s h => by split <;> rfl) _ s) els s

theorem sendReduces_core (s : State) (n : Nat) (cs : List Contribution) : (s.sendReduces n cs).core = s.core := by
  refine (foldl_core ?post _ _).trans (addPackets_core ..)
  case post => exact fun _ _ => rfl

theorem regMoveWrite_core (s : State) (base : Nat) (xs : List (BitVec 8192)) : (s.regMoveWrite base xs).core = s.core :=
  foldl_core (fun s _ => foldl_core (fun s _ => writeEl_core s s.agent 512 _ _) _ s) _ s

section
variable {s t : State} (h : t.core = s.core)
include h

theorem agent_of_core : t.agent = s.agent := by simp only [State.agent, State.cur, h]
theorem elt_of_core (r : BitVec 5) (w j : Nat) : t.elt r w j = s.elt r w j := by
  simp only [State.elt, State.files, State.own, State.vcols, State.cur, h]
theorem vw_of_core : t.vw = s.vw := by simp only [State.vw, State.cur, h]
theorem files_of_core : t.files = s.files := by simp only [State.files, State.own, State.cur, h]

/-- The elements of a register stored in turn are those that the register held before the first store (R205). -/
theorem putEls_of_core (a : Agent) (d : BitVec 5) (e : Nat) (els : List VEl) :
    t.putEls a d e els = els.foldl (fun r y => r.writeEl a e y (s.elt d s.vw y.j % 2 ^ e)) t := by
  induction els generalizing t with
  | nil => rfl
  | cons y els ih =>
    rw [State.putEls, List.foldl_cons, List.foldl_cons, elt_of_core h, vw_of_core h]
    exact ih ((writeEl_core ..).trans h)

end

/-! ## The checks (R198, R199, R223) -/

/-- Every piece of an access lies in its region and leads to a key of this package. -/
def State.elHere (s : State) (k : AccKind) (x : VEl) : Prop :=
  ∀ p ∈ pieces x.va x.n, region p.1 = x.reg ∧ ∃ key, s.locate s.agent k p.1 p.2 = .at (.here key)

theorem elAny_here {s : State} {k : AccKind} {x : VEl} (h : s.elHere k x) {p : Loc → Bool} (hp : ∀ key, p (.at (.here key)) = false) :
    s.elAny s.agent k p x = false := by
  rw [State.elAny, State.elLocs, List.any_map, List.any_eq_false]
  intro q hq
  obtain ⟨hreg, key, hkey⟩ := h q hq
  simp [hreg, hkey, hp]

theorem elDenied_here {s : State} {k : AccKind} {x : VEl} (h : s.elHere k x) (hr : region x.va < 14) : s.elDenied s.agent k x = false := by
  rw [State.elDenied, elAny_here h fun _ => rfl, decide_eq_false (Nat.not_le.mpr hr)]
  rfl

theorem ffFaults_here {s : State} {x : VEl} (h : s.elHere .read x) : s.ffFaults s.agent x = false := elAny_here h fun _ => rfl

theorem vCheck_here {s : State} {k : AccKind} {align : Nat} {els : List VEl} (h : s.elsHere k align els) :
    s.vCheck s.agent k align els = .go := by
  have hhere : ∀ x ∈ els, s.elHere k x := fun x hx => (h x hx).2.2.2
  have hdenied : els.find? (s.elDenied s.agent k) = none :=
    List.find?_eq_none.mpr fun x hx => by simp [elDenied_here (hhere x hx) (h x hx).2.1]
  have halign : els.find? (fun x => !x.hdr && x.va % align != 0) = none :=
    List.find?_eq_none.mpr fun x hx => by simp [(h x hx).2.2.1]
  have hbounds : els.find? (s.elAny s.agent k (· == .bounds)) = none :=
    List.find?_eq_none.mpr fun x hx => by simp [elAny_here (hhere x hx) (p := (· == .bounds)) fun _ => rfl]
  have hheld : els.any (s.elAny s.agent k (· == .held)) = false :=
    List.any_eq_false.mpr fun x hx => by simp [elAny_here (hhere x hx) (p := (· == .held)) fun _ => rfl]
  have habsent : els.filter (s.elAbsent s.agent k) = [] :=
    List.filter_eq_nil_iff.mpr fun x hx => by simp [State.elAbsent, elAny_here (hhere x hx) (p := Loc.isAbsent) fun _ => rfl]
  rw [State.vCheck, hdenied, halign, hbounds, hheld, habsent]
  rfl

theorem vLoadRun_here {s : State} {align : Nat} {els hdrs : List VEl} (h : s.elsHere .read align (els ++ hdrs))
    (perform : List VEl → List VEl → State → Res) :
    s.vLoadRun s.agent align els hdrs perform = perform els hdrs (s.cacheEls s.agent (els ++ hdrs)) := by
  have hall : (els ++ hdrs).filter (·.n != 0) = els ++ hdrs :=
    List.filter_eq_self.mpr fun x hx => by simpa using (h x hx).1.ne'
  rw [State.vLoadRun, hall, vCheck_here h]

theorem vStoreRun_here {s : State} {k : AccKind} {align : Nat} {els hdrs : List VEl} (h : s.elsHere k align (els ++ hdrs))
    (write : List VEl → List VEl → State → State) (finish : State → State) :
    s.vStoreRun s.agent k align els hdrs write finish = .ok (finish (write els hdrs (s.cacheEls s.agent (els ++ hdrs)))).doneFltm := by
  rw [State.vStoreRun, vCheck_here h]

theorem regMove_here {s : State} {k : AccKind} {base : Nat} (h : s.elsHere k 64 (s.regMoveEls base)) (body : List VEl → State → Res) :
    s.regMove k base body = body (s.regMoveEls base) (s.openedEls k (s.regMoveEls base)) := by
  rw [State.regMove, vCheck_here h]

/-- An access that meets no erroneous data brings none (R262). -/
theorem loadErr_none {s : State} {a : Agent} {els : List VEl} (h : ∀ y ∈ els, s.elBad a y = none) (lanes : VEl → List Nat) :
    s.loadErr a lanes els = none := by
  have hbad : (els.filterMap fun x => (s.elBad a x).map fun b => (x, b)) = [] :=
    List.filterMap_eq_nil_iff.mpr fun y hy => by rw [h y hy]; rfl
  rw [State.loadErr, hbad]

/-- Outside a reissue, the active elements are performed (R218). -/
theorem performing_whole {s : State} (h : s.cur.masked = false) (m : BitVec 4) : s.performing m = s.active m :=
  if_neg (by rw [h]; exact Bool.false_ne_true)

theorem doneFltm_whole {s : State} (h : s.cur.masked = false) : s.doneFltm = s := if_neg (by rw [h]; exact Bool.false_ne_true)

theorem unpoisoned_pass {s : State} {reads : List (BitVec 5 × Nat × List Nat)} (h : ∀ p ∈ reads, s.badElems p.1 p.2.1 p.2.2 = []) (k : Res) :
    s.unpoisoned reads k = k := by
  rw [State.unpoisoned, poisonTrap_none h]

/-! ## Deferred results of vector accesses (R19-R21) -/

theorem takenV_lessened (r : BitVec 5) (e : Pending) : (e.takenV r).Lessened e := ⟨takenV_due r e, takenV_kept r e⟩

theorem Pending.Lessened.trans {e f g : Pending} (h : e.Lessened f) (k : f.Lessened g) : e.Lessened g := by
  obtain ⟨h1, h2, h3, h4, h5⟩ := h
  obtain ⟨k1, k2, k3, k4, k5⟩ := k
  exact ⟨h1.trans k1, h2.trans k2, h3.trans k3, h4.trans k4, fun q hq => k5 q (h5 q hq)⟩

/-- What `cancelIf` does to one result. -/
theorem cancelled_lessened (p : PendWrite → Bool) (e : Pending) : (if p e.wr then { e with cancelled := true } else e).Lessened e := by
  split <;> exact ⟨rfl, rfl, rfl, rfl, fun _ hq => hq⟩

/-- A new pending result stands behind the earlier ones, which it lessens (R21). -/
theorem defer_pend (s : State) (e : Pending) :
    ∃ f : Pending → Pending, (∀ e, (f e).Lessened e) ∧ (s.defer e).cur.pend = s.cur.pend.map f ++ [e] := by
  have hsame : ∀ e : Pending, (id e).Lessened e := fun e => ⟨rfl, rfl, rfl, rfl, fun _ hq => hq⟩
  obtain ⟨wr, token, addr, pc, word, present, observed, cancelled, err⟩ := e
  cases wr with
  | g r x =>
    by_cases hr : r = 0
    · exact ⟨id, hsame, congrArg (· ++ _) ((if_pos hr).trans (List.map_id _).symm)⟩
    · exact ⟨_, cancelled_lessened (·.isG r), congrArg (· ++ _) (if_neg hr)⟩
  | v r ws sc =>
    cases sc with
    | none => exact ⟨_, takenV_lessened r, rfl⟩
    | some w =>
      refine ⟨fun e => (e.takenV r).takenC w.reg, fun e => (takenC_lessened w.reg _).trans (takenV_lessened r e), congrArg (· ++ _) ?_⟩
      exact (takenC_list ..).trans (List.map_map ..)
  | m r x =>
    by_cases hr : r = 0
    · exact ⟨id, hsame, congrArg (· ++ _) ((if_pos hr).trans (List.map_id _).symm)⟩
    · exact ⟨_, cancelled_lessened (·.isM r), congrArg (· ++ _) (if_neg hr)⟩
  | c r x tag => exact ⟨_, takenC_lessened r, congrArg (· ++ _) (takenC_list ..)⟩
  | s r w => exact ⟨_, takenC_lessened w.reg, congrArg (· ++ _) (takenC_list ..)⟩

/-- A deferred result without an error, for registers in banks that are ON, leaves calm results calm. -/
theorem deferred_calm_of {s : State} (h : s.cur.Calm) (wr : PendWrite) (va : Nat) (hon : ∀ r ∈ wr.vregs, s.cur.bankOf r = 0) :
    (s.deferred wr va none).cur.Calm := by
  intro e he hd
  obtain ⟨f, hf, hp⟩ := defer_pend s
    { wr := wr, token := 0, addr := infoAt va, pc := s.cur.pc, word := s.core.ir, present := false, observed := false, cancelled := false, err := none }
  rw [State.deferred, hp] at he
  rcases List.mem_append.mp he with hold | hnew
  · have hcalm : ({ s.cur with pend := s.cur.pend.map f } : Strand).Calm := calm_lessened h hf rfl rfl
    exact hcalm e hold hd
  · obtain rfl := List.mem_singleton.mp hnew
    exact ⟨rfl, .inl rfl, hon⟩

/-! ## The words -/

theorem after_like {a b : State} (h : Like a b) (st : Bool) (pc : Word) : Like (a.after st pc) (b.after st pc) := by
  obtain ⟨x, rfl⟩ := h
  cases st with
  | false => exact ⟨x, rfl⟩
  | true => exact landed_like ⟨x, rfl⟩

theorem Gives.of_like {o : Out} {a b : State} (h : Gives o a) (k : Like a b) : Gives o b := by
  obtain ⟨x, rfl⟩ := h
  obtain ⟨y, rfl⟩ := k
  exact ⟨x, rfl⟩

/-- An effect that completes in the present cycle, up to accounting. -/
theorem issue_atLike {s t : State} {u : Use} {st : Bool} {body : State → Res} (h : AtOnce s u st) (hb : ∃ r, body s = .ok r ∧ Like r t)
    (hr : t.core.running = s.core.running) (he : t.core.exact = s.core.exact) (hc : s.cur.Calm → t.cur.Calm) :
    Gives (issue st 4 u body s) (t.after4 st) := by
  obtain ⟨r, hok, hl⟩ := hb
  have hcalm : st = true → r.cur.Calm := fun hst => by
    obtain ⟨x, rfl⟩ := hl
    exact calm_same (hc (h.calm hst)) rfl rfl
  have hpc : r.cur.pc = t.cur.pc := by obtain ⟨x, rfl⟩ := hl; rfl
  have hgives := issue_at (len := 4) h hok (hl.running.trans (hr.trans h.running)) (hl.exact.trans (he.trans h.untraced)) hcalm
  rw [hpc] at hgives
  exact hgives.of_like (after_like hl st _)

/-- A vector access enters the queue, and ends outside a reissue. -/
theorem enqueueMem_like {s : State} (he : s.core.exact = false) (v vd : List (BitVec 5)) (m : List (BitVec 4)) (c cd : List (BitVec 3)) (t : Nat)
    (js : List Nat) (els : List VEl) : Like (s.enqueueMem v vd m c cd t js els) s := enqueue_like he _

theorem queuedAccess_like {s : State} (he : s.core.exact = false) (hm : s.cur.masked = false) (v vd : List (BitVec 5)) (m : List (BitVec 4))
    (c cd : List (BitVec 3)) (t : Nat) (js : List Nat) (els : List VEl) : Like (s.enqueueMem v vd m c cd t js els).doneFltm s := by
  obtain ⟨x, hx⟩ := enqueueMem_like he v vd m c cd t js els
  rw [hx, doneFltm_whole (show (s.counted x).cur.masked = false from hm)]
  exact ⟨x, rfl⟩

end Sys2Proof.Machine
end

section
/-! SUPPORT. Plain vector loads and stores (R213-R217), and the moves of mask and scale registers (R130, R131). -/

namespace Sys2Proof.Machine

/-! ## Addresses (R214) -/

/-- An offset of 0 leaves the address of a pointer (R200). -/
theorem addrOf_adda_zero (p : Word) : addrOf (adda p 0) = addrOf p := by
  have hlow : (adda p 0).extractLsb' 0 56 = (p + 0#64).extractLsb' 0 56 := BitVec.extractLsb'_append_eq_right
  rw [addrOf, hlow, BitVec.add_zero, addrOf]

/-- An element is a number of its width. -/
theorem elt_lt (s : State) (r : BitVec 5) (w j : Nat) : s.elt r w j < 2 ^ w := cell_lt s r w (j / s.vcols) (j % s.vcols)

/-- The accesses of the active elements, at bit offsets from a base address. -/
def State.activeEls (s : State) (m : BitVec 4) (base : Nat) (rel : Nat → Int) : List VEl :=
  (s.active m).map fun j => elAt base (rel j) (memWidth s.vt) j

/-- Where the unit mode of R214 places the elements: side by side. -/
def State.flatRel (s : State) (j : Nat) : Int := ((j * memWidth s.vt : Nat) : Int)

/-- Where the strided mode of R214 places them: rows apart by the byte stride in b. -/
def State.rowedRel (s : State) (b : BitVec 5) (j : Nat) : Int :=
  8 * ((j / s.vcols : Nat) : Int) * (s.rg b).toInt + ((j % s.vcols * memWidth s.vt : Nat) : Int)

/-- Where the indexed mode of R214 places them: at the byte offsets in the register b. -/
def State.indexedRel (s : State) (b : BitVec 5) (j : Nat) : Int := 8 * (BitVec.ofNat 32 (s.elt b 32 j)).toInt

theorem elems_unit (s : State) (base : Nat) (m : BitVec 4) :
    s.elems .unit base (memWidth s.vt) (s.active m) = s.activeEls m base s.flatRel := rfl

theorem elems_stride (s : State) (b : BitVec 5) (base : Nat) (m : BitVec 4) :
    s.elems (.stride (intVal true 64 (s.rg b).toNat)) base (memWidth s.vt) (s.active m) = s.activeEls m base (s.rowedRel b) := by
  rw [intVal_eq_toInt (by decide) (s.rg b).isLt, BitVec.ofNat_toNat, BitVec.setWidth_eq]
  rfl

theorem elems_index (s : State) (b : BitVec 5) (base : Nat) (m : BitVec 4) :
    s.elems (.index b) base (memWidth s.vt) (s.active m) = s.activeEls m base (s.indexedRel b) := by
  refine List.map_congr_left fun j _ => ?_
  rw [State.elemRel, intVal_eq_toInt (by decide) (elt_lt s b 32 j), State.indexedRel]

/-! ## Loads -/

/-- What a plain load of the accesses given leaves: the deferred result of d. -/
def State.loadedEls (s : State) (d : BitVec 5) (els : List VEl) : State :=
  let r := s.openedEls .read els
  r.deferred (.v d (r.writes s.vw (els.map fun y => (y.j, r.readEl s.agent (memWidth s.vt) y))) none) ((els.head?.map (·.va)).getD 0) none

/-- What a plain load of the accesses given needs: they meet no erroneous data. -/
def State.soundEls (s : State) (els : List VEl) : Prop := ∀ y ∈ els, (s.openedEls .read els).elBad s.agent y = none

section
variable {s : State} {st : Bool} {d a b : BitVec 5} {m : BitVec 4} {x : Bool} {els : List VEl}

theorem loadedEls_running : (s.loadedEls d els).core.running = s.core.running :=
  (defer_running ..).trans (congrArg Core.running (openedEls_core s .read els))
theorem loadedEls_exact : (s.loadedEls d els).core.exact = s.core.exact :=
  (defer_exact ..).trans (congrArg Core.exact (openedEls_core s .read els))
theorem loadedEls_masked : (s.loadedEls d els).cur.masked = s.cur.masked :=
  congrArg (·.cur.masked) (openedEls_core s .read els)

theorem loadedEls_calm (hd : s.cur.bankOf d = 0) (h : s.cur.Calm) : (s.loadedEls d els).cur.Calm := by
  have hc : (s.openedEls .read els).cur = s.cur := congrArg Core.cur (openedEls_core s .read els)
  refine deferred_calm_of (hc ▸ h) _ _ fun r hr => ?_
  obtain rfl := List.mem_singleton.mp hr
  exact hc ▸ hd

theorem vLoadPlain_like (he : s.core.exact = false) (hm : s.cur.masked = false) (h : s.soundEls els) (bs : List (BitVec 5)) (x ix : Bool) :
    ∃ r, (s.cacheEls s.agent els).vLoadPlain s.agent d m bs x ix (memWidth s.vt) els = .ok r ∧ Like r (s.loadedEls d els) := by
  have hvw : (s.openedEls .read els).vw = s.vw := vw_of_core (openedEls_core ..)
  have herr : (s.openedEls .read els).loadErr s.agent lane1 els = none := loadErr_none h lane1
  have hstate : (s.cacheEls s.agent els).touchHomes (els.flatMap fun x => (s.cacheEls s.agent els).elHomes s.agent .read x.va x.n) =
      s.openedEls .read els := rfl
  rw [State.vLoadPlain]
  simp only [hstate, hvw, herr]
  exact ⟨_, rfl, queuedAccess_like (loadedEls_exact.trans he) (loadedEls_masked.trans hm) ..⟩

/-- A word that loads the accesses given, once its checks have passed. -/
theorem load_gives {u : Use} {body : State → Res} {bs : List (BitVec 5)} {ix : Bool} (h : AtOnce s u st) (hm : s.cur.masked = false)
    (hd : d ∈ u.banks) (hb : body s = (s.cacheEls s.agent els).vLoadPlain s.agent d m bs x ix (memWidth s.vt) els) (hs : s.soundEls els) :
    Gives (issue st 4 u body s) ((s.loadedEls d els).after4 st) :=
  issue_atLike h (hb ▸ vLoadPlain_like h.untraced hm hs bs x ix) loadedEls_running loadedEls_exact (loadedEls_calm (h.banks d hd))

/-- A plain load in a mode that places the elements at `els`. -/
theorem loadMode_here {mode : VMode} {bs : List (BitVec 5)} (hm : s.cur.masked = false) (hp : s.plainTag (s.rg a) 0 = true)
    (hbs : ∀ r ∈ bs, s.badElems r 32 (s.active m) = [])
    (hels : s.elems mode (addrOf (s.rg a)) (memWidth s.vt) (s.active m) = els) (h : s.elsHere .read (elAlign (memWidth s.vt)) els) :
    s.loadMode mode d a bs m x 0 = (s.cacheEls s.agent els).vLoadPlain s.agent d m bs x (!bs.isEmpty) (memWidth s.vt) els := by
  have hpoison : ∀ p ∈ bs.map fun r => (r, 32, s.active m), s.badElems p.1 p.2.1 p.2.2 = [] := by simpa using hbs
  rw [State.loadMode, hp]
  simp only [Bool.not_true, Bool.false_eq_true, if_false, performing_whole hm, addrOf_adda_zero, hels]
  rw [unpoisoned_pass hpoison, vLoadRun_here (by rwa [List.append_nil]), List.append_nil, agent_of_core (cacheEls_core ..)]

/-- `vldff` where no element would fault (R215). -/
theorem loadFf_here {mode : VMode} (hm : s.cur.masked = false) (hp : s.plainTag (s.rg a) 0 = true)
    (hels : s.elems mode (addrOf (s.rg a)) (memWidth s.vt) (s.active m) = els) (h : s.elsHere .read (elAlign (memWidth s.vt)) els) :
    s.loadFf mode d a m x 0 = (s.cacheEls s.agent els).vLoadPlain s.agent d m [] x false (memWidth s.vt) els := by
  have hregion : els.find? (fun x => 14 ≤ region x.va) = none :=
    List.find?_eq_none.mpr fun y hy => by simpa using (h y hy).2.1
  have hfault : els.find? (s.ffFaults s.agent) = none :=
    List.find?_eq_none.mpr fun y hy => by simp [ffFaults_here (h y hy).2.2.2]
  rw [State.loadFf, hp]
  simp only [Bool.not_true, Bool.false_eq_true, if_false, performing_whole hm, addrOf_adda_zero, hels, hregion, hfault]
  rw [vLoadRun_here (by rwa [List.append_nil]), List.append_nil]

/-! ## First faults (R215) -/

theorem activeEls_ascend (s : State) (m : BitVec 4) (base : Nat) (rel : Nat → Int) : (s.activeEls m base rel).Pairwise fun y z => y.j < z.j :=
  List.pairwise_map.mpr (active_sorted s m)

/-- In ascending order, the elements below one are those before it. -/
theorem filter_below {els : List VEl} (h : els.Pairwise fun y z => y.j < z.j) {k : Nat} {f : VEl} (hk : els[k]? = some f) :
    els.filter (fun y => decide (y.j < f.j)) = els.take k := by
  obtain ⟨hlt, rfl⟩ := List.getElem?_eq_some_iff.mp hk
  have hsplit : els = els.take k ++ els.drop k := (List.take_append_drop k els).symm
  obtain ⟨-, hdrop, hcross⟩ := List.pairwise_append.mp (hsplit ▸ h)
  have hat : els[k] ∈ els.drop k := by rw [List.drop_eq_getElem_cons hlt]; exact List.mem_cons_self ..
  rw [List.drop_eq_getElem_cons hlt] at hdrop
  have hbelow : (els.take k).filter (fun y => decide (y.j < els[k].j)) = els.take k :=
    List.filter_eq_self.mpr fun y hy => decide_eq_true (hcross y hy _ hat)
  have habove : (els.drop k).filter (fun y => decide (y.j < els[k].j)) = [] := by
    rw [List.drop_eq_getElem_cons hlt, List.filter_eq_nil_iff]
    intro y hy
    rcases List.mem_cons.mp hy with rfl | hy
    · simp
    · simpa using ((List.pairwise_cons.mp hdrop).1 y hy).le
  calc els.filter (fun y => decide (y.j < els[k].j))
      = (els.take k ++ els.drop k).filter (fun y => decide (y.j < els[k].j)) := by rw [← hsplit]
    _ = els.take k := by rw [List.filter_append, hbelow, habove, List.append_nil]

/-- `vldff` where element `k`, not the first, would fault and none before it: the elements before it are loaded, and VL is cut there. -/
theorem loadFf_cut {mode : VMode} {k : Nat} {f : VEl} (he : s.core.exact = false) (hm : s.cur.masked = false) (hp : s.plainTag (s.rg a) 0 = true)
    (hels : s.elems mode (addrOf (s.rg a)) (memWidth s.vt) (s.active m) = els) (hasc : els.Pairwise fun y z => y.j < z.j)
    (hk : els[k]? = some f) (h0 : 0 < k) (hf : s.ffFaults s.agent f = true) (h : s.elsHere .read (elAlign (memWidth s.vt)) (els.take k))
    (hrest : ∀ y ∈ els.drop k, region y.va < 14 ∧ y.va % elAlign (memWidth s.vt) = 0) (hs : s.soundEls (els.take k)) :
    ∃ r, s.loadFf mode d a m x 0 = .ok r ∧ Like r ((s.loadedEls d (els.take k)).onSp fun q => { q with vl := f.j }) := by
  obtain ⟨hlt, hat⟩ := List.getElem?_eq_some_iff.mp hk
  have hall : ∀ y ∈ els, region y.va < 14 ∧ y.va % elAlign (memWidth s.vt) = 0 := by
    intro y hy
    rw [← List.take_append_drop k els] at hy
    rcases List.mem_append.mp hy with hy | hy
    · exact ⟨(h y hy).2.1, (h y hy).2.2.1⟩
    · exact hrest y hy
  have hregion : els.find? (fun x => 14 ≤ region x.va) = none := List.find?_eq_none.mpr fun y hy => by simpa using (hall y hy).1
  have halign : els.find? (fun x => x.va % elAlign (memWidth s.vt) != 0) = none := List.find?_eq_none.mpr fun y hy => by simpa using (hall y hy).2
  have hfault : els.find? (s.ffFaults s.agent) = some f := by
    rw [← List.take_append_drop k els, List.drop_eq_getElem_cons hlt, hat, List.find?_append, List.find?_cons, hf,
      List.find?_eq_none.mpr fun y hy => by simp [ffFaults_here (h y hy).2.2.2]]
    rfl
  have hbelow := filter_below hasc hk
  have hfirst : ¬els.head?.map (·.j) = some f.j := by
    intro hj
    obtain ⟨y, hy, hyj⟩ := Option.map_eq_some_iff.mp hj
    have hmem : y ∈ els.take k := List.mem_of_mem_head? (by rw [List.head?_take, if_neg h0.ne']; exact hy)
    rw [← hbelow] at hmem
    have hlt : y.j < f.j := by simpa using (List.mem_filter.mp hmem).2
    exact absurd hyj hlt.ne
  have hheld : (els.take k).any (s.elAny s.agent .read (· == .held)) = false :=
    List.any_eq_false.mpr fun y hy => by simp [elAny_here (h y hy).2.2.2 (p := (· == .held)) fun _ => rfl]
  obtain ⟨r, hr, y, hy⟩ := vLoadPlain_like (d := d) (m := m) he hm hs [] x false
  refine ⟨r.onSp fun q => { q with vl := f.j }, ?_, y, by rw [hy]; rfl⟩
  rw [State.loadFf, hp]
  simp only [Bool.not_true, Bool.false_eq_true, if_false, performing_whole hm, addrOf_adda_zero, hels, hregion, hfault, hfirst, halign, hbelow,
    hheld, hr]

/-! ## Stores (R203, R205) -/

/-- The elements of d stored in turn at the accesses given. -/
def State.storedEls (s : State) (d : BitVec 5) (els : List VEl) : State :=
  els.foldl (fun r y => r.writeEl s.agent (memWidth s.vt) y (s.elt d s.vw y.j % 2 ^ memWidth s.vt)) (s.cacheEls s.agent els)

theorem putEls_stored : (s.cacheEls s.agent els).putEls s.agent d (memWidth s.vt) els = s.storedEls d els := putEls_of_core (cacheEls_core ..) ..

theorem storedEls_core : (s.storedEls d els).core = s.core := by
  rw [← putEls_stored, putEls_core, cacheEls_core]

/-- A word whose effect is an access that leaves the core alone. -/
theorem access_gives {t : State} {u : Use} {body : State → Res} (h : AtOnce s u st) (hb : ∃ r, body s = .ok r ∧ Like r t)
    (hc : t.core = s.core) : Gives (issue st 4 u body s) (t.after4 st) :=
  issue_atLike h hb (congrArg _ hc) (congrArg _ hc) fun hcalm => by rwa [State.cur, hc]

/-- Such an access enters the queue, and ends outside a reissue. -/
theorem queuedAccess_of_core {t : State} (he : s.core.exact = false) (hm : s.cur.masked = false) (hc : t.core = s.core) (v vd : List (BitVec 5))
    (m : List (BitVec 4)) (c cd : List (BitVec 3)) (n : Nat) (js : List Nat) (l : List VEl) :
    Like (t.enqueueMem v vd m c cd n js l).doneFltm t :=
  queuedAccess_like (by rwa [hc]) (by rwa [State.cur, hc]) ..

/-- What a plain store leaves: with whole lines of rows cleaned, except in the indexed mode. -/
def State.storedMode (s : State) (d : BitVec 5) (indexed : Bool) (els : List VEl) : State :=
  if indexed then s.storedEls d els else (s.storedEls d els).cleanRowLines s.agent (memWidth s.vt) els

theorem storedMode_core (ix : Bool) : (s.storedMode d ix els).core = s.core := by
  cases ix with
  | false => exact (cleanRowLines_core ..).trans storedEls_core
  | true => exact storedEls_core

/-- A plain store in a mode that places the elements at `els`. -/
theorem storeMode_here {mode : VMode} {bs : List (BitVec 5)} (he : s.core.exact = false) (hm : s.cur.masked = false)
    (hp : s.plainTag (s.rg a) 0 = true) (hbs : ∀ r ∈ bs, s.badElems r 32 (s.active m) = [])
    (hels : s.elems mode (addrOf (s.rg a)) (memWidth s.vt) (s.active m) = els) (h : s.elsHere .write (elAlign (memWidth s.vt)) els)
    (hd : s.badElems d s.vw (s.active m) = []) :
    ∃ r, s.storeMode mode d a bs m x 0 = .ok r ∧ Like r (s.storedMode d (!bs.isEmpty) els) := by
  have hpoison : ∀ p ∈ (bs.map fun r => (r, 32, s.active m)) ++ [(d, s.vw, s.active m)], s.badElems p.1 p.2.1 p.2.2 = [] := by
    simpa [or_imp, forall_and, hd] using hbs
  have hwrite : (if bs.isEmpty then (s.cacheEls s.agent els).writeEls s.agent d (memWidth s.vt) els
      else (s.cacheEls s.agent els).putEls s.agent d (memWidth s.vt) els) = s.storedMode d (!bs.isEmpty) els := by
    rw [State.writeEls, putEls_stored]
    cases bs <;> rfl
  rw [State.storeMode, hp]
  simp only [Bool.not_true, Bool.false_eq_true, if_false, performing_whole hm, addrOf_adda_zero, hels]
  rw [unpoisoned_pass hpoison, vStoreRun_here (by rwa [List.append_nil]), List.append_nil]
  rw [hwrite]
  exact ⟨_, rfl, queuedAccess_of_core he hm (storedMode_core _) ..⟩

/-! ## Reduce-adds (R217) -/

/-- What `vstra` leaves: the contributions sent, and counted. -/
def State.reducedEls (s : State) (d : BitVec 5) (els : List VEl) : State :=
  let r := s.cacheEls s.agent els
  (((r.sendReduces s.cur.redCount (r.contributionsOf s.agent d s.cur.redCount els)).poisonDead s.agent els).onCur fun t =>
    { t with redCount := s.cur.redCount + 1 })

theorem vstra_gives (h : AtOnce s (vuse [a] [d, b] [] [m]) st) (hm : s.cur.masked = false) (hp : s.plainTag (s.rg a) 0 = true)
    (hwide : 8 ≤ memWidth s.vt) (hcols : s.vcols ≤ 32) (hb : s.badElems b 32 (s.active m) = []) (hty : addType s.vt = true)
    (hels : s.elems (.index b) (addrOf (s.rg a)) (memWidth s.vt) (s.active m) = els) (hhere : s.elsHere .write (elAlign (memWidth s.vt)) els)
    (hd : s.badElems d s.vw (s.active m) = []) : Gives (execVstra st d a b m x 0 s) ((s.reducedEls d els).after4 st) := by
  have hpoison : ∀ p ∈ [(b, 32, s.active m), (d, s.vw, s.active m)], s.badElems p.1 p.2.1 p.2.2 = [] := by simp [hb, hd]
  have hcore : (((s.cacheEls s.agent els).sendReduces s.cur.redCount
      ((s.cacheEls s.agent els).contributionsOf s.agent d s.cur.redCount els)).poisonDead s.agent els).core = s.core := by
    rw [poisonDead_core, sendReduces_core, cacheEls_core]
  have hcur : (s.reducedEls d els).cur = { s.cur with redCount := s.cur.redCount + 1 } := by rw [State.reducedEls, State.cur, onCur_cur, hcore]
  have hrun : (s.reducedEls d els).core.running = s.core.running := by rw [State.reducedEls, onCur_core_running, hcore]
  have htrace : (s.reducedEls d els).core.exact = s.core.exact := by rw [Core.exact, State.reducedEls, onCur_core_acctctl, hcore, Core.exact]
  have hlike := queuedAccess_like (htrace.trans h.untraced) (show (s.reducedEls d els).cur.masked = false from hcur ▸ hm)
  refine issue_atLike (t := s.reducedEls d els) h ?body hrun htrace fun hcalm => hcur ▸ calm_same hcalm rfl rfl
  case body =>
    simp only [hty, Bool.not_true, Bool.false_eq_true, if_false]
    rw [State.indexedOk, if_neg (Nat.not_lt.mpr hwide), if_neg (Nat.not_lt.mpr hcols), hp]
    simp only [Bool.not_true, Bool.false_eq_true, if_false, performing_whole hm, addrOf_adda_zero, hels]
    rw [unpoisoned_pass hpoison, vStoreRun_here (by rwa [List.append_nil]), List.append_nil]
    exact ⟨_, rfl, hlike ..⟩

/-! ## Mask and scale registers (R130, R131) -/

theorem addrOf_lt (p : Word) : addrOf p < 2 ^ 56 := (p.extractLsb' 0 56).isLt

theorem files_length_pos (s : State) : 0 < s.files.length := by
  simp only [State.files, Strand.files, List.length_append, List.length_cons]
  omega

/-- A move of whole registers that passes its checks is aligned. -/
theorem regMove_aligned {k : AccKind} {base : Nat} (hb : base < 2 ^ 56) (h : s.elsHere k 64 (s.regMoveEls base)) : base % 64 = 0 := by
  have hlen := files_length_pos s
  have hfirst : (s.regMoveEls base)[0]? = some { j := 0, va := (base + 64 * 0) % 2 ^ 56, bit := 0, n := 64, hdr := false, reg := region base } := by
    rw [State.regMoveEls, List.getElem?_map, List.getElem?_range (by omega)]
    rfl
  have halign := (h _ (List.mem_of_getElem? hfirst)).2.2.1
  rwa [Nat.mul_zero, Nat.add_zero, Nat.mod_eq_of_lt hb] at halign

/-- The bytes of whole registers as a move reads them. -/
def State.movedWords (s : State) (base : Nat) : List (BitVec 8192) :=
  (List.range s.files.length).map fun i => (s.openedEls .read (s.regMoveEls base)).regMoveRead base i

/-- A move that loads whole registers defers its result. -/
theorem regLoad_gives {u : Use} {body : State → Res} {base : Nat} {wr : PendWrite} (h : AtOnce s u st) (hwr : wr.vregs = [])
    (hb : body s = .ok ((s.openedEls .read (s.regMoveEls base)).deferred wr base none)) :
    Gives (issue st 4 u body s) (((s.openedEls .read (s.regMoveEls base)).deferred wr base none).after4 st) := by
  have hc := openedEls_core s .read (s.regMoveEls base)
  refine issue_atLike h ⟨_, hb, Like.refl _⟩ ((defer_running ..).trans (congrArg _ hc)) ((defer_exact ..).trans (congrArg _ hc)) fun hcalm =>
    deferred_calm_of (by rwa [State.cur, hc]) wr base ?_
  rw [hwr]
  exact List.forall_mem_nil _

theorem mld_gives (h : AtOnce s { g := [a], md := [d.setWidth 4], pends := 1 } st) (hp : ptrTag (s.rg a) = 0)
    (hhere : s.elsHere .read 64 (s.regMoveEls (addrOf (s.rg a)))) (hs : s.soundEls (s.regMoveEls (addrOf (s.rg a)))) :
    Gives (execMld st d a s) (((s.openedEls .read (s.regMoveEls (addrOf (s.rg a)))).deferred
      (.m (d.setWidth 4) (s.movedWords (addrOf (s.rg a)))) (addrOf (s.rg a)) none).after4 st) := by
  have hc := openedEls_core s .read (s.regMoveEls (addrOf (s.rg a)))
  refine regLoad_gives h rfl ?_
  simp only [hp, ne_eq, not_true_eq_false, if_false]
  rw [regMove_here hhere, agent_of_core hc, loadErr_none hs, files_of_core hc]
  rfl

theorem cld_gives (h : AtOnce s { g := [a], pends := 1 } st) (hp : blockTag (s.rg a) = true)
    (hhere : s.elsHere .read 64 (s.regMoveEls (addrOf (s.rg a)))) (hs : s.soundEls (s.regMoveEls (addrOf (s.rg a)))) :
    Gives (execCld st d a s) (((s.openedEls .read (s.regMoveEls (addrOf (s.rg a)))).deferred
      (.c (d.setWidth 3) (s.movedWords (addrOf (s.rg a))) (ptrTag (s.rg a))) (addrOf (s.rg a)) none).after4 st) := by
  have hc := openedEls_core s .read (s.regMoveEls (addrOf (s.rg a)))
  refine regLoad_gives h rfl ?_
  simp only [hp, regMove_aligned (addrOf_lt _) hhere, Bool.not_true, bne_self_eq_false, Bool.or_self, Bool.false_eq_true, if_false]
  rw [regMove_here hhere, agent_of_core hc, loadErr_none hs, files_of_core hc]
  rfl

/-- A move that stores whole registers. -/
theorem regStore_gives {u : Use} {body : State → Res} {base : Nat} {xs : List (BitVec 8192)} {ms : List (BitVec 4)} {c : List (BitVec 3)}
    (h : AtOnce s u st) (hb : body s = .ok (((s.openedEls .write (s.regMoveEls base)).regMoveWrite base xs).enqueueMove ms c)) :
    Gives (issue st 4 u body s) (((s.openedEls .write (s.regMoveEls base)).regMoveWrite base xs).after4 st) := by
  have hc : ((s.openedEls .write (s.regMoveEls base)).regMoveWrite base xs).core = s.core := (regMoveWrite_core ..).trans (openedEls_core ..)
  exact access_gives h ⟨_, hb, enqueueMem_like (by rw [hc]; exact h.untraced) ..⟩ hc

theorem mst_gives (h : AtOnce s { g := [a], m := [d.setWidth 4], vec := true } st) (hp : ptrTag (s.rg a) = 0)
    (hhere : s.elsHere .write 64 (s.regMoveEls (addrOf (s.rg a)))) :
    Gives (execMst st d a s) (((s.openedEls .write (s.regMoveEls (addrOf (s.rg a)))).regMoveWrite (addrOf (s.rg a))
      (s.files.map fun f => f.getM (d.setWidth 4))).after4 st) := by
  refine regStore_gives h (ms := [d.setWidth 4]) (c := []) ?_
  simp only [hp, ne_eq, not_true_eq_false, if_false]
  rw [regMove_here hhere, files_of_core (openedEls_core ..)]

theorem cst_gives (h : AtOnce s { g := [a], c := [d.setWidth 3], vec := true } st)
    (hp : ptrTag (s.rg a) = 0 ∨ (ptrTag (s.rg a) = (s.cur.vf.getC (d.setWidth 3)).tag ∧ blockTag (s.rg a) = true))
    (hhere : s.elsHere .write 64 (s.regMoveEls (addrOf (s.rg a)))) :
    Gives (execCst st d a s) (((s.openedEls .write (s.regMoveEls (addrOf (s.rg a)))).regMoveWrite (addrOf (s.rg a))
      (s.files.map fun f => (f.getC (d.setWidth 3)).data)).after4 st) := by
  have htag : ¬(ptrTag (s.rg a) ≠ 0 ∧
      (ptrTag (s.rg a) ≠ (s.cur.vf.getC (d.setWidth 3)).tag ∨ ¬blockTag (s.rg a) = true ∨ addrOf (s.rg a) % 64 ≠ 0)) := by
    have halign := regMove_aligned (addrOf_lt _) hhere
    rcases hp with hraw | ⟨hown, hblock⟩
    · exact fun hc => hc.1 hraw
    · simp [← hown, hblock, halign]
  refine regStore_gives h (ms := []) (c := [d.setWidth 3]) ?_
  rw [if_neg htag, regMove_here hhere, files_of_core (openedEls_core ..)]

end

end Sys2Proof.Machine
end

section
/-! SUPPORT. Scale registers as bytes (R80, R216): what ORing bytes at places leaves at each of them. -/

namespace Sys2Proof.Machine

theorem scaleByte_or (x y : BitVec 8192) (n : Nat) : scaleByte (x ||| y) n = scaleByte x n ||| scaleByte y n := by
  rw [scaleByte, BitVec.extractLsb'_or, BitVec.toNat_or, scaleByte, scaleByte]

theorem scaleByte_zero (n : Nat) : scaleByte 0 n = 0 := by
  simp [scaleByte]

/-- One byte of a register. -/
theorem scaleByte_placed {v p : Nat} (hv : v < 256) (hp : p < 1024) (n : Nat) :
    scaleByte (BitVec.ofNat 8192 (v * 2 ^ (8 * p))) n = if p = n then v else 0 := by
  have hfits : v * 2 ^ (8 * p) < 2 ^ (8 * p + 8) := by
    rw [Nat.pow_add, Nat.mul_comm]
    exact Nat.mul_lt_mul_of_pos_left hv (Nat.two_pow_pos _)
  have hsmall : ∀ w, 8 * p + 8 ≤ w → (BitVec.ofNat w (v * 2 ^ (8 * p))).toNat = v * 2 ^ (8 * p) := fun w hw =>
    Nat.mod_eq_of_lt (hfits.trans_le (Nat.pow_le_pow_right Nat.two_pos hw))
  rw [scaleByte, BitVec.extractLsb'_toNat, hsmall 8192 (by omega), Nat.shiftRight_eq_div_pow]
  rcases lt_trichotomy p n with hlt | rfl | hgt
  · rw [if_neg hlt.ne, Nat.div_eq_of_lt (hfits.trans_le (Nat.pow_le_pow_right (by decide) (by omega))), Nat.zero_mod]
  · rw [if_pos rfl, Nat.mul_div_cancel _ (Nat.two_pow_pos _), Nat.mod_eq_of_lt hv]
  · have hsplit : v * 2 ^ (8 * p) = 2 ^ 8 * (v * 2 ^ (8 * p - 8 * n - 8)) * 2 ^ (8 * n) := by
      rw [Nat.mul_left_comm, ← Nat.pow_add, Nat.mul_assoc, ← Nat.pow_add]
      congr 2
      omega
    rw [if_neg hgt.ne', hsplit, Nat.mul_div_cancel _ (Nat.two_pow_pos _), Nat.mul_mod_right]

/-- Bytes ORed at their places into a register. -/
def orBytes (x : BitVec 8192) (es : List (Nat × Nat)) : BitVec 8192 := es.foldl (fun x e => x ||| BitVec.ofNat 8192 (e.2 * 2 ^ (8 * e.1))) x

/-- A byte at which every entry of the list that names it has the value `v`. -/
theorem scaleByte_orBytes {es : List (Nat × Nat)} {n v : Nat} (hes : ∀ e ∈ es, e.1 < 1024 ∧ e.2 < 256) (hv : ∀ e ∈ es, e.1 = n → e.2 = v)
    (x : BitVec 8192) : scaleByte (orBytes x es) n = scaleByte x n ||| if n ∈ es.map (·.1) then v else 0 := by
  induction es generalizing x with
  | nil => exact (Nat.or_zero _).symm
  | cons e es ih =>
    obtain ⟨hp, hb⟩ := hes e (List.mem_cons_self ..)
    have htail := ih (fun e' he' => hes e' (List.mem_cons_of_mem _ he')) (fun e' he' => hv e' (List.mem_cons_of_mem _ he'))
      (x ||| BitVec.ofNat 8192 (e.2 * 2 ^ (8 * e.1)))
    rw [orBytes, List.foldl_cons]
    refine htail.trans ?_
    rw [scaleByte_or, scaleByte_placed hb hp, Nat.or_assoc, List.map_cons]
    by_cases hn : e.1 = n
    · have he : e.2 = v := hv e (List.mem_cons_self ..) hn
      by_cases hmem : n ∈ es.map (·.1) <;> simp [hn, he, hmem]
    · have hmem : n ∈ e.1 :: es.map (·.1) ↔ n ∈ es.map (·.1) := List.mem_cons.trans (or_iff_right (Ne.symm hn))
      rw [if_neg hn, Nat.zero_or]
      simp only [hmem]

/-- Bytes that no entry names stay 0. -/
theorem mem_of_scaleByte_orBytes {es : List (Nat × Nat)} {n : Nat} (hes : ∀ e ∈ es, e.1 < 1024 ∧ e.2 < 256)
    (h : scaleByte (orBytes 0 es) n ≠ 0) : n ∈ es.map (·.1) := by
  by_contra hn
  have hnone : ∀ e ∈ es, e.1 = n → e.2 = 0 := fun e he hen => absurd (hen ▸ List.mem_map_of_mem he) hn
  exact h (by rw [scaleByte_orBytes hes hnone, scaleByte_zero, if_neg hn, Nat.or_zero])

/-- Two registers ORed side by side. -/
theorem foldl_orBytes {α : Type} (l : List α) (f g : α → List (Nat × Nat)) (x y : BitVec 8192) :
    l.foldl (fun mk r => (orBytes mk.1 (f r), orBytes mk.2 (g r))) (x, y) = (orBytes x (l.flatMap f), orBytes y (l.flatMap g)) := by
  induction l generalizing x y with
  | nil => rfl
  | cons r l ih =>
    rw [List.foldl_cons, ih]
    simp only [orBytes, List.flatMap_cons, List.foldl_append]

theorem foldl_placed (l : List Nat) (p u v : Nat → Nat) (mk : BitVec 8192 × BitVec 8192) :
    l.foldl (fun mk k => (mk.1 ||| BitVec.ofNat 8192 (u k * 2 ^ (8 * p k)), mk.2 ||| BitVec.ofNat 8192 (v k * 2 ^ (8 * p k)))) mk =
      (orBytes mk.1 (l.map fun k => (p k, u k)), orBytes mk.2 (l.map fun k => (p k, v k))) := by
  induction l generalizing mk with
  | nil => rfl
  | cons k l ih =>
    rw [List.foldl_cons, ih]
    rfl

/-- Rows of bytes ORed at their places into two registers. -/
theorem foldl_placedRows (l : List Nat) (b : Nat) (p u v : Nat → Nat → Nat) :
    l.foldl (fun mk r => (List.range b).foldl (fun mk k =>
        (mk.1 ||| BitVec.ofNat 8192 (u r k * 2 ^ (8 * p r k)), mk.2 ||| BitVec.ofNat 8192 (v r k * 2 ^ (8 * p r k)))) mk) (0, 0) =
      (orBytes 0 (l.flatMap fun r => (List.range b).map fun k => (p r k, u r k)),
        orBytes 0 (l.flatMap fun r => (List.range b).map fun k => (p r k, v r k))) := by
  simp only [foldl_placed]
  exact foldl_orBytes ..

end Sys2Proof.Machine
end

section
/-! SUPPORT. Tile loads and stores (R52, R80, R216). -/

namespace Sys2Proof.Machine

/-! ## The geometry of a tile -/

/-- Block formats have 1 to 32 blocks in a tile row, each whole (R52, R54). -/
theorem blocks_of_blockTag : ∀ tag : BitVec 8, scaleTagOk tag = true →
    2 ^ (tagBlk tag).toNat ∣ tileCols (tagFmt tag) ∧ 0 < tileCols (tagFmt tag) / 2 ^ (tagBlk tag).toNat ∧
      tileCols (tagFmt tag) / 2 ^ (tagBlk tag).toNat ≤ 32 := by decide +kernel

/-- What the position of a tile satisfies (R216), whose blocks divide its rows. -/
structure TileAt.Fits (t : TileAt) (s : State) : Prop where
  whole : t.len ∣ tileCols t.fmt
  pos : 0 < t.blocks
  le : t.blocks ≤ 32
  cols : t.c0 + s.vcols ≤ tileCols t.fmt
  rows : t.h + s.vrows ≤ 64

theorem tilePos_fits {s : State} {p y : Word} {t : TileAt} (hp : blockTag p = true) (h : s.tilePos (ptrFmt p) (tagBlk (ptrTag p)) y = some t) :
    t.fmt = ptrFmt p ∧ t.blk = tagBlk (ptrTag p) ∧ t.Fits s := by
  obtain ⟨hdvd, hpos, hle⟩ := blocks_of_blockTag (ptrTag p) hp
  rw [State.tilePos] at h
  obtain ⟨⟨-, -, hcols, hrows⟩, ht⟩ := Option.ite_none_right_eq_some.mp h
  obtain rfl := Option.some.inj ht
  exact ⟨rfl, rfl, hdvd, hpos, hle, hcols, hrows⟩

section
variable {s : State} {t : TileAt} {d : BitVec 5} {row row' k k' : Nat}

/-- The byte of a scale register that serves block `k` of a row lies in the register. -/
theorem scaleAt_lt (ht : t.Fits s) (hk : k < t.blocks) : scaleAt t.fmt t.blk d.toNat (row % 32) k < 1024 := by
  have hB : 32 * t.blocks ≤ 1024 := by have := ht.le; omega
  have hq : d.toNat % (1024 / (32 * t.blocks)) < 1024 / (32 * t.blocks) :=
    Nat.mod_lt _ (Nat.div_pos hB (by have := ht.pos; omega))
  have hplace : (d.toNat % (1024 / (32 * t.blocks)) + 1) * (32 * t.blocks) ≤ 1024 :=
    (Nat.mul_le_mul_right _ hq).trans (Nat.div_mul_le_self ..)
  have hrow : row % 32 * t.blocks + k < 32 * t.blocks := by
    have := Nat.mul_le_mul_right t.blocks (Nat.succ_le_of_lt (Nat.mod_lt row (by decide : 0 < 32)))
    rw [Nat.succ_mul] at this
    omega
  have hdef : scaleAt t.fmt t.blk d.toNat (row % 32) k =
      d.toNat % (1024 / (32 * t.blocks)) * (32 * t.blocks) + row % 32 * t.blocks + k := rfl
  rw [Nat.succ_mul] at hplace
  omega

/-- On one member, blocks of rows have their bytes apart. -/
theorem scaleAt_inj (ht : t.Fits s) (hm : row / 32 = row' / 32) (hk : k < t.blocks) (hk' : k' < t.blocks)
    (h : scaleAt t.fmt t.blk d.toNat (row % 32) k = scaleAt t.fmt t.blk d.toNat (row' % 32) k') : row = row' ∧ k = k' := by
  have hsame : t.blocks * (row % 32) + k = t.blocks * (row' % 32) + k' := by
    have hdef : ∀ r n, scaleAt t.fmt t.blk d.toNat r n = d.toNat % (1024 / (32 * t.blocks)) * (32 * t.blocks) + r * t.blocks + n := fun _ _ => rfl
    rw [hdef, hdef, Nat.mul_comm (row % 32), Nat.mul_comm (row' % 32)] at h
    omega
  have hdiv := congrArg (· / t.blocks) hsame
  simp only [Nat.mul_add_div ht.pos, Nat.div_eq_of_lt hk, Nat.div_eq_of_lt hk', Nat.add_zero] at hdiv
  have hrow : row = row' := by omega
  subst hrow
  exact ⟨rfl, by omega⟩

/-- The header bytes of a row lie below the band scale. -/
theorem hdr_lt_band (ht : t.Fits s) (hc : 0 < s.vcols) (hr : row < s.vrows) : t.hdr row 0 < t.band := by
  have hblock : t.c0 / t.len < t.blocks := Nat.div_lt_div_of_lt_of_dvd ht.whole (by have := ht.cols; omega)
  have hrows : (t.h + row + 1) * t.blocks ≤ 64 * t.blocks := Nat.mul_le_mul_right _ (by have := ht.rows; omega)
  rw [Nat.succ_mul] at hrows
  rw [TileAt.hdr, TileAt.band]
  omega

/-- The rows whose headers a tile load reads are those of the shape; the band scale is none of them. -/
theorem tileHdrs_rows (ht : t.Fits s) (hc : 0 < s.vcols) (base : Nat) :
    ((s.tileHdrs t base).filter fun x => x.n != 2 || t.fmt != 0x1D || x.va != (base + t.band) % 2 ^ 56).map (fun x => x.j / s.vcols) =
      List.range s.vrows := by
  have hrows : ∀ x ∈ (List.range s.vrows).map fun r => s.hdrEl base (t.hdr r 0) r (t.blocks - t.c0 / t.len),
      (x.n != 2 || t.fmt != 0x1D || x.va != (base + t.band) % 2 ^ 56) = true := by
    intro x hx
    obtain ⟨r, hr, rfl⟩ := List.mem_map.mp hx
    have hlt := hdr_lt_band ht hc (List.mem_range.mp hr)
    have hband : t.band ≤ 64 * 32 := Nat.mul_le_mul_left _ ht.le
    have hne : (base + t.hdr r 0) % 2 ^ 56 ≠ (base + t.band) % 2 ^ 56 := by omega
    rw [Bool.or_eq_true, bne_iff_ne]
    exact .inr hne
  have hband : (if t.fmt = 0x1D then [s.hdrEl base t.band 0 2] else []).filter
      (fun x => x.n != 2 || t.fmt != 0x1D || x.va != (base + t.band) % 2 ^ 56) = [] := by
    split
    · next hf => simp [hf, State.hdrEl]
    · rfl
  rw [State.tileHdrs, List.filter_append, List.filter_eq_self.mpr hrows, hband, List.append_nil, List.map_map]
  refine (List.map_congr_left fun r _ => ?_).trans (List.map_id _)
  exact Nat.mul_div_cancel _ hc

/-! ## The scale bytes of a tile load (R216) -/

/-- The bytes of a scale register that the rows of member `i` fill, block by block, with values. -/
def State.scalePlaces (s : State) (t : TileAt) (d : BitVec 5) (v : Nat → Nat → Nat) (i : Nat) : List (Nat × Nat) :=
  ((List.range s.vrows).filter fun r => r / 32 == i).flatMap fun r =>
    (List.range t.blocks).map fun k => (scaleAt t.fmt t.blk d.toNat (r % 32) k, v r k)

/-- The scale of block `k` of a row of the register, as a tile load reads it; blocks behind the tile's end have none. -/
def State.tileScale (s : State) (a : Agent) (t : TileAt) (base row k : Nat) : Nat :=
  if k < t.blocks - t.c0 / t.len then s.readEl a 8 (s.hdrEl base (t.hdr row k) row 1) else 0

theorem tileScale_lt (a : Agent) (base : Nat) : s.tileScale a t base row k < 256 := by
  rw [State.tileScale]
  split
  · exact Nat.mod_lt _ (by decide)
  · decide

theorem mem_scalePlaces {v : Nat → Nat → Nat} {i : Nat} {e : Nat × Nat} :
    e ∈ s.scalePlaces t d v i ↔
      ∃ r < s.vrows, r / 32 = i ∧ ∃ k < t.blocks, e = (scaleAt t.fmt t.blk d.toNat (r % 32) k, v r k) := by
  simp only [State.scalePlaces, List.mem_flatMap, List.mem_filter, List.mem_range, List.mem_map, beq_iff_eq, and_assoc, eq_comm (a := e)]

theorem scalePlaces_bounds {v : Nat → Nat → Nat} (ht : t.Fits s) (hv : ∀ r k, v r k < 256) (i : Nat) :
    ∀ e ∈ s.scalePlaces t d v i, e.1 < 1024 ∧ e.2 < 256 := by
  intro e he
  obtain ⟨r, -, -, k, hk, rfl⟩ := mem_scalePlaces.mp he
  exact ⟨scaleAt_lt ht hk, hv r k⟩

/-- The byte of each block of a row has its value. -/
theorem scaleByte_places {v : Nat → Nat → Nat} (ht : t.Fits s) (hv : ∀ r k, v r k < 256) (hr : row < s.vrows) (hk : k < t.blocks) :
    scaleByte (orBytes 0 (s.scalePlaces t d v (row / 32))) (scaleAt t.fmt t.blk d.toNat (row % 32) k) = v row k := by
  have hone : ∀ e ∈ s.scalePlaces t d v (row / 32), e.1 = scaleAt t.fmt t.blk d.toNat (row % 32) k → e.2 = v row k := by
    intro e he heq
    obtain ⟨r, -, hm, n, hn, rfl⟩ := mem_scalePlaces.mp he
    obtain ⟨rfl, rfl⟩ := scaleAt_inj ht hm hn hk heq
    rfl
  have hmem : scaleAt t.fmt t.blk d.toNat (row % 32) k ∈ (s.scalePlaces t d v (row / 32)).map (·.1) :=
    List.mem_map.mpr ⟨_, mem_scalePlaces.mpr ⟨row, hr, rfl, k, hk, rfl⟩, rfl⟩
  rw [scaleByte_orBytes (scalePlaces_bounds ht hv _) hone, if_pos hmem, scaleByte_zero, Nat.zero_or]

theorem tileScales_eq (ht : t.Fits s) (hc : 0 < s.vcols) (a : Agent) (base : Nat) (c : BitVec 3) :
    s.tileScales a t base d c (s.tileHdrs t base) =
      { reg := c
        mask := (List.range s.files.length).map fun i => orBytes 0 (s.scalePlaces t d (fun _ _ => 255) i)
        data := (List.range s.files.length).map fun i => orBytes 0 (s.scalePlaces t d (s.tileScale a t base) i)
        tag := t.fmt ++ t.blk } := by
  have hput : ∀ i, _ = (orBytes 0 (s.scalePlaces t d (fun _ _ => 255) i), orBytes 0 (s.scalePlaces t d (s.tileScale a t base) i)) := fun i =>
    foldl_placedRows ((List.range s.vrows).filter fun r => r / 32 == i) t.blocks
      (fun r k => scaleAt t.fmt t.blk d.toNat (r % 32) k) (fun _ _ => 255) (s.tileScale a t base)
  rw [State.tileScales, tileHdrs_rows ht hc]
  exact congrArg (fun put : Nat → BitVec 8192 × BitVec 8192 => (
    { reg := c, mask := (List.range s.files.length).map fun i => (put i).1, data := (List.range s.files.length).map fun i => (put i).2,
      tag := t.fmt ++ t.blk } : CWrite)) (funext hput)

theorem getD_map_range {f : Nat → BitVec 8192} {n i : Nat} : ((List.range n).map f)[i]?.getD 0 = if i < n then f i else 0 := by
  by_cases h : i < n <;> simp [h]

/-- What a tile load writes into the bytes that serve the blocks of its rows, and that it writes no others. -/
theorem tileScales_bytes (ht : t.Fits s) (hc : 0 < s.vcols) (a : Agent) (base : Nat) (c : BitVec 3) :
    let sc := s.tileScales a t base d c (s.tileHdrs t base)
    (∀ row < s.vrows, row / 32 < s.files.length → ∀ k < t.blocks,
      scaleByte (sc.mask[row / 32]?.getD 0) (scaleAt t.fmt t.blk d.toNat (row % 32) k) = 255 ∧
      scaleByte (sc.data[row / 32]?.getD 0) (scaleAt t.fmt t.blk d.toNat (row % 32) k) = s.tileScale a t base row k) ∧
    ∀ i n, scaleByte (sc.mask[i]?.getD 0) n ≠ 0 →
      ∃ row < s.vrows, row / 32 = i ∧ ∃ k < t.blocks, n = scaleAt t.fmt t.blk d.toNat (row % 32) k := by
  intro sc
  have hsc : sc = _ := tileScales_eq ht hc a base c
  have hones : ∀ _ _ : Nat, 255 < 256 := fun _ _ => by decide
  rw [hsc]
  refine ⟨fun row hr hm k hk => ?_, fun i n hn => ?_⟩
  · rw [getD_map_range, getD_map_range, if_pos hm, if_pos hm]
    exact ⟨scaleByte_places ht hones hr hk, scaleByte_places ht (fun _ _ => tileScale_lt a base) hr hk⟩
  · rw [getD_map_range] at hn
    split at hn
    · obtain ⟨e, he, rfl⟩ := List.mem_map.mp (mem_of_scaleByte_orBytes (scalePlaces_bounds ht hones i) hn)
      obtain ⟨row, hr, hi, k, hk, rfl⟩ := mem_scalePlaces.mp he
      exact ⟨row, hr, hi, k, hk, rfl⟩
    · exact absurd (scaleByte_zero n) hn

end

end Sys2Proof.Machine
end

section
/-! SUPPORT. What tile loads and stores leave (R216), and the words of vector memory. -/

namespace Sys2Proof.Machine

/-! ## Noting flags leaves memory alone -/

theorem noteFlags_withCore (s : State) (l : List Raised) : s.noteFlags l = s.withCore (s.noteFlags l).core := by
  simp only [State.noteFlags, State.captureXm]
  split <;> rfl

theorem noteFlags_masked (s : State) (l : List Raised) : (s.noteFlags l).cur.masked = s.cur.masked := by
  simp only [State.noteFlags, State.captureXm]
  split <;> rfl

theorem noteFlags_vbank (s : State) (l : List Raised) : (s.noteFlags l).cur.sp.vbank = s.cur.sp.vbank := by
  simp only [State.noteFlags, State.captureXm]
  split <;> rfl

theorem noteFlags_elBad (s : State) (l : List Raised) (a : Agent) (x : VEl) : (s.noteFlags l).elBad a x = s.elBad a x := by
  rw [noteFlags_withCore]
  simp only [State.elBad, withCore_locate, withCore_homeBad]

/-! ## Tile loads -/

/-- The band scale that a tile load reads. -/
def State.tileBand (s : State) (a : Agent) (t : TileAt) (base : Nat) : BitVec 16 :=
  if t.fmt = 0x1D then BitVec.ofNat 16 (s.readEl a 16 (s.hdrEl base t.band 0 2)) else 0x3F80#16

/-- The elements of a tile load, packed or widened. -/
def State.tileResults (s : State) (a : Agent) (t : TileAt) (base : Nat) (els : List VEl) : List (Nat × Rounded) :=
  els.map fun x =>
    (x.j, if blockElem t.fmt == some s.vt then ⟨s.readEl a t.e x, 0⟩
      else dequantElem t.fmt s.vt (s.cur.sp.fpcr &&& ~~~0x10#64) (rmOf (s.cur.sp.fpcr &&& ~~~0x10#64)) (s.readEl a t.e x)
        (s.readEl a 8 (s.hdrEl base (t.hdr (x.j / s.vcols) (x.j % s.vcols / t.len)) 0 1)) (s.tileBand a t base))

/-- What the elements of a tile load raise. -/
def State.tileRaised (s : State) (a : Agent) (t : TileAt) (base : Nat) (els : List VEl) : List Raised :=
  (s.tileResults a t base els).map fun p => s.raisedAt p.1 p.2.flags

/-- What a tile load writes into d, with the BAND of its packed form. -/
def State.tileWrites (s : State) (a : Agent) (t : TileAt) (base : Nat) (els : List VEl) : List VWrite :=
  (s.writes s.vw ((s.tileResults a t base els).map fun p => (p.1, p.2.bits))).map fun w =>
    { w with band := if blockElem t.fmt == some s.vt then s.tileBand a t base else 0x3F80#16 }

/-- What a tile load leaves: the flags, and the deferred result of d with its scales. -/
def State.loadedTile (s : State) (t : TileAt) (base : Nat) (d : BitVec 5) (c : BitVec 3) (els hdrs : List VEl) : State :=
  let o := s.openedEls .read (els ++ hdrs)
  (o.noteFlags (o.tileRaised s.agent t base els)).deferred
    (.v d (o.tileWrites s.agent t base els) (some (o.tileScales s.agent t base d c hdrs))) ((els.head?.map (·.va)).getD base) none

section
variable {s : State} {st : Bool} {d a b : BitVec 5} {m : BitVec 4} {x : Bool} {c : BitVec 3} {t : TileAt} {base : Nat} {els hdrs : List VEl}

theorem loadedTile_running : (s.loadedTile t base d c els hdrs).core.running = s.core.running :=
  (defer_running ..).trans (((noteFlags_fileWrite _).running _).trans (congrArg _ (openedEls_core ..)))

theorem loadedTile_exact : (s.loadedTile t base d c els hdrs).core.exact = s.core.exact :=
  (defer_exact ..).trans (((noteFlags_fileWrite _).exact _).trans (congrArg _ (openedEls_core ..)))

theorem loadedTile_masked : (s.loadedTile t base d c els hdrs).cur.masked = s.cur.masked :=
  (noteFlags_masked ..).trans (congrArg (·.cur.masked) (openedEls_core s .read (els ++ hdrs)))

theorem loadedTile_calm (hd : s.cur.bankOf d = 0) (h : s.cur.Calm) : (s.loadedTile t base d c els hdrs).cur.Calm := by
  have hc : (s.openedEls .read (els ++ hdrs)).cur = s.cur := congrArg Core.cur (openedEls_core ..)
  refine deferred_calm_of ((noteFlags_fileWrite _).calm _ (hc ▸ h)) _ _ fun r hr => ?_
  obtain rfl := List.mem_singleton.mp hr
  rw [Strand.bankOf, noteFlags_vbank, hc]
  exact hd

theorem vLoadTile_like (he : s.core.exact = false) (hm : s.cur.masked = false)
    (hs : ∀ y ∈ els ++ t.hdrBytes base hdrs, (s.openedEls .read (els ++ hdrs)).elBad s.agent y = none)
    (htrap : (s.openedEls .read (els ++ hdrs)).fpTrap ((s.openedEls .read (els ++ hdrs)).tileRaised s.agent t base els) = none) :
    ∃ r, (s.cacheEls s.agent (els ++ hdrs)).vLoadTile s.agent t base d m x c els hdrs = .ok r ∧ Like r (s.loadedTile t base d c els hdrs) := by
  have hlike := queuedAccess_like (loadedTile_exact.trans he : (s.loadedTile t base d c els hdrs).core.exact = false) (loadedTile_masked.trans hm)
  generalize ho : s.openedEls .read (els ++ hdrs) = o at hs htrap
  have hstate : (s.cacheEls s.agent (els ++ hdrs)).touchHomes
      ((els ++ hdrs).flatMap fun x => (s.cacheEls s.agent (els ++ hdrs)).elHomes s.agent .read x.va x.n) = o := ho
  have herr : ∀ lanes, (o.noteFlags (o.tileRaised s.agent t base els)).loadErr s.agent lanes (els ++ t.hdrBytes base hdrs) = none :=
    loadErr_none fun y hy => (noteFlags_elBad ..).trans (hs y hy)
  simp only [State.loadedTile, ho] at hlike ⊢
  rw [State.vLoadTile]
  simp only [hstate]
  split
  · next e hraised => exact absurd (htrap.symm.trans hraised) (Option.some_ne_none e).symm
  · refine ⟨_, rfl, ?_⟩
    change Like (State.doneFltm (State.enqueueMem (State.deferred (o.noteFlags (o.tileRaised s.agent t base els))
      (.v d (o.tileWrites s.agent t base els) (some (o.tileScales s.agent t base d c hdrs))) _
      ((o.noteFlags (o.tileRaised s.agent t base els)).loadErr s.agent _ _)) _ _ _ _ _ _ _ _)) _
    rw [herr]
    exact hlike ..

/-- A unit load through a block-format pointer (R216). -/
theorem loadTile_here (hm : s.cur.masked = false) (ha : addrOf (s.rg a) % 64 = 0)
    (hf : blockElem (ptrFmt (s.rg a)) = some s.vt ∨ s.vt = 0x10 ∨ s.vt = 0x11)
    (ht : s.tilePos (ptrFmt (s.rg a)) (tagBlk (ptrTag (s.rg a))) (if b = 0 then 0 else s.rg b) = some t)
    (h : s.elsHere .read 1 (s.tileElems t (addrOf (s.rg a)) (s.active m) ++ s.tileHdrs t (addrOf (s.rg a)))) :
    s.loadTile d a b m x c =
      (s.cacheEls s.agent (s.tileElems t (addrOf (s.rg a)) (s.active m) ++ s.tileHdrs t (addrOf (s.rg a)))).vLoadTile s.agent t
        (addrOf (s.rg a)) d m x c (s.tileElems t (addrOf (s.rg a)) (s.active m)) (s.tileHdrs t (addrOf (s.rg a))) := by
  have hformat : ¬(addrOf (s.rg a) % 64 ≠ 0 ∨ ¬(blockElem (ptrFmt (s.rg a)) = some s.vt ∨ s.vt = 0x10 ∨ s.vt = 0x11)) := by
    rintro (h | h)
    exacts [h ha, h hf]
  rw [State.loadTile]
  simp only [addrOf_adda_zero, ht, performing_whole hm]
  rw [if_neg hformat, vLoadRun_here h, agent_of_core (cacheEls_core ..)]

theorem vld_tile_gives (h : AtOnce s { vuse (s.unitSrc a b) [] [d] [m] with pends := 1 } st) (hm : s.cur.masked = false)
    (hp : blockTag (s.rg a) = true) (ha : addrOf (s.rg a) % 64 = 0)
    (hf : blockElem (ptrFmt (s.rg a)) = some s.vt ∨ s.vt = 0x10 ∨ s.vt = 0x11)
    (ht : s.tilePos (ptrFmt (s.rg a)) (tagBlk (ptrTag (s.rg a))) (if b = 0 then 0 else s.rg b) = some t) :
    let base := addrOf (s.rg a)
    let els := s.tileElems t base (s.active m)
    let hdrs := s.tileHdrs t base
    let o := s.openedEls .read (els ++ hdrs)
    s.elsHere .read 1 (els ++ hdrs) → (∀ y ∈ els ++ t.hdrBytes base hdrs, o.elBad s.agent y = none) →
      o.fpTrap (o.tileRaised s.agent t base els) = none →
      Gives (execVld st d a b m x c s) ((s.loadedTile t base d c els hdrs).after4 st) := by
  intro base els hdrs o hhere hs htrap
  have hd : s.cur.bankOf d = 0 := h.banks d (by simp [Use.banks, vuse])
  have hbody := loadTile_here (d := d) (x := x) (c := c) hm ha hf ht hhere
  refine issue_atLike (t := s.loadedTile t base d c els hdrs) h ?_ loadedTile_running loadedTile_exact (loadedTile_calm hd)
  rw [if_pos hp, hbody]
  exact vLoadTile_like h.untraced hm hs htrap

/-! ## Tile stores -/

/-- What a tile store leaves: elements, and headers of the blocks with an active element. -/
def State.storedTile (s : State) (t : TileAt) (base : Nat) (d : BitVec 5) (c : BitVec 3) (js : List Nat) : State :=
  let els := s.tileElems t base js
  let hdrs := s.tileStoreHdrs t base js
  ((s.cacheEls s.agent (els ++ hdrs)).writeEls s.agent d t.e els).writeHdrs s.agent t base d c (s.tileBlocks t js) hdrs

theorem storedTile_core (js : List Nat) : (s.storedTile t base d c js).core = s.core :=
  (writeHdrs_core ..).trans ((cleanRowLines_core ..).trans ((putEls_core ..).trans (cacheEls_core ..)))

theorem tileBlocks_of_core {r : State} (hc : r.core = s.core) (js : List Nat) : r.tileBlocks t js = s.tileBlocks t js := by
  simp only [State.tileBlocks, State.vcols, State.cur, hc]

theorem tileElems_j (js : List Nat) : (s.tileElems t base js).map (·.j) = js := by
  rw [State.tileElems, List.map_map]
  exact (List.map_congr_left fun _ _ => rfl).trans (List.map_id _)

theorem vst_tile_gives (h : AtOnce s { vuse (s.unitSrc a b) [d] [] [m] with c := s.unitScale a c } st) (hm : s.cur.masked = false)
    (hp : blockTag (s.rg a) = true) (ha : addrOf (s.rg a) % 64 = 0) (hf : blockElem (ptrFmt (s.rg a)) = some s.vt)
    (htags : s.tagsPass c (· == ptrTag (s.rg a)) = true)
    (ht : s.tilePos (ptrFmt (s.rg a)) (tagBlk (ptrTag (s.rg a))) (if b = 0 then 0 else s.rg b) = some t)
    (hd : s.badElems d s.vw (s.active m) = [])
    (hhere : s.elsHere .write 1 (s.tileElems t (addrOf (s.rg a)) (s.active m) ++ s.tileStoreHdrs t (addrOf (s.rg a)) (s.active m))) :
    Gives (execVst st d a b m x c s) ((s.storedTile t (addrOf (s.rg a)) d c (s.active m)).after4 st) := by
  have hformat : ¬(addrOf (s.rg a) % 64 ≠ 0 ∨ blockElem (ptrFmt (s.rg a)) ≠ some s.vt ∨ (!s.tagsPass c (· == ptrTag (s.rg a))) = true) := by
    rintro (h | h | h)
    exacts [h ha, h hf, by simp [htags] at h]
  have hpoison : ∀ p ∈ [(d, s.vw, s.active m)], s.badElems p.1 p.2.1 p.2.2 = [] := by simpa using hd
  refine access_gives h ?_ (storedTile_core (s.active m))
  rw [if_pos hp, State.storeTile]
  simp only [addrOf_adda_zero, ht, performing_whole hm]
  rw [if_neg hformat, unpoisoned_pass hpoison, vStoreRun_here hhere, tileElems_j, tileBlocks_of_core (cacheEls_core ..)]
  exact ⟨_, rfl, queuedAccess_of_core h.untraced hm (storedTile_core (s.active m)) ..⟩

end

end Sys2Proof.Machine
end

section
/-! SUPPORT. The words of vector memory through plain pointers (R213-R217), and what the statement of O44 says of each. -/

namespace Sys2Proof.Machine

section
variable {s : State} {st : Bool} {d a b : BitVec 5} {m : BitVec 4} {x : Bool}

/-- A unit access through a plain pointer reads no second register. -/
theorem unitSrc_zero : s.unitSrc a 0 = [a] := if_neg (by simp)

theorem vld_gives (h : AtOnce s { vuse [a] [] [d] [m] with pends := 1 } st) (hm : s.cur.masked = false) (hp : s.plainTag (s.rg a) 0 = true)
    (hb : blockTag (s.rg a) = false) (hhere : s.elsHere .read (elAlign (memWidth s.vt)) (s.activeEls m (addrOf (s.rg a)) s.flatRel))
    (hs : s.soundEls (s.activeEls m (addrOf (s.rg a)) s.flatRel)) :
    Gives (execVld st d a 0 m x 0 s) ((s.loadedEls d (s.activeEls m (addrOf (s.rg a)) s.flatRel)).after4 st) := by
  rw [← unitSrc_zero (s := s)] at h
  refine load_gives (m := m) (bs := []) (x := x) (ix := false) h hm (List.mem_append_left _ (by simp [vuse])) ?_ hs
  rw [hb, if_neg Bool.false_ne_true, if_neg (not_not_intro rfl)]
  exact loadMode_here hm hp (List.forall_mem_nil _) (elems_unit ..) hhere

theorem vlds_gives (h : AtOnce s { vuse [a, b] [] [d] [m] with pends := 1 } st) (hm : s.cur.masked = false) (hp : s.plainTag (s.rg a) 0 = true)
    (hhere : s.elsHere .read (elAlign (memWidth s.vt)) (s.activeEls m (addrOf (s.rg a)) (s.rowedRel b)))
    (hs : s.soundEls (s.activeEls m (addrOf (s.rg a)) (s.rowedRel b))) :
    Gives (execVlds st d a b m x 0 s) ((s.loadedEls d (s.activeEls m (addrOf (s.rg a)) (s.rowedRel b))).after4 st) :=
  load_gives (bs := []) (x := x) (ix := false) h hm (List.mem_append_left _ (by simp [vuse]))
    (loadMode_here hm hp (List.forall_mem_nil _) (elems_stride ..) hhere) hs

theorem vldx_gives (h : AtOnce s { vuse [a] [b] [d] [m] with pends := 1 } st) (hm : s.cur.masked = false) (hp : s.plainTag (s.rg a) 0 = true)
    (hwide : 8 ≤ memWidth s.vt) (hcols : s.vcols ≤ 32) (hb : s.badElems b 32 (s.active m) = [])
    (hhere : s.elsHere .read (elAlign (memWidth s.vt)) (s.activeEls m (addrOf (s.rg a)) (s.indexedRel b)))
    (hs : s.soundEls (s.activeEls m (addrOf (s.rg a)) (s.indexedRel b))) :
    Gives (execVldx st d a b m x 0 s) ((s.loadedEls d (s.activeEls m (addrOf (s.rg a)) (s.indexedRel b))).after4 st) := by
  refine load_gives (m := m) (bs := [b]) (x := x) (ix := true) h hm (List.mem_append_left _ (by simp [vuse])) ?_ hs
  rw [State.indexedOk, if_neg (Nat.not_lt.mpr hwide), if_neg (Nat.not_lt.mpr hcols)]
  exact loadMode_here hm hp (by simpa using hb) (elems_index ..) hhere

/-- How `vldff` places its elements (R215). -/
def State.ffRel (s : State) (b : BitVec 5) : Nat → Int := if b = 0 then s.flatRel else s.rowedRel b

theorem elems_ff (base : Nat) :
    s.elems (if b = 0 then .unit else .stride (intVal true 64 (s.rg b).toNat)) base (memWidth s.vt) (s.active m) =
      s.activeEls m base (s.ffRel b) := by
  rw [State.ffRel]
  split
  · exact elems_unit ..
  · exact elems_stride ..

theorem vldff_gives (h : AtOnce s { vuse (if b = 0 then [a] else [a, b]) [] [d] [m] with pends := 1 } st) (hm : s.cur.masked = false)
    (hp : s.plainTag (s.rg a) 0 = true)
    (hhere : s.elsHere .read (elAlign (memWidth s.vt)) (s.activeEls m (addrOf (s.rg a)) (s.ffRel b)))
    (hs : s.soundEls (s.activeEls m (addrOf (s.rg a)) (s.ffRel b))) :
    Gives (execVldff st d a b m x 0 s) ((s.loadedEls d (s.activeEls m (addrOf (s.rg a)) (s.ffRel b))).after4 st) :=
  load_gives (bs := []) (x := x) (ix := false) h hm (List.mem_append_left _ (by simp [vuse])) (loadFf_here hm hp (elems_ff _) hhere) hs

/-- `vldff` at an element that would fault. -/
theorem vldff_cuts {k : Nat} {f : VEl} (h : AtOnce s { vuse (if b = 0 then [a] else [a, b]) [] [d] [m] with pends := 1 } st)
    (hm : s.cur.masked = false) (hp : s.plainTag (s.rg a) 0 = true) (hk : (s.activeEls m (addrOf (s.rg a)) (s.ffRel b))[k]? = some f) (h0 : 0 < k)
    (hf : s.ffFaults s.agent f = true)
    (hhere : s.elsHere .read (elAlign (memWidth s.vt)) ((s.activeEls m (addrOf (s.rg a)) (s.ffRel b)).take k))
    (hrest : ∀ y ∈ (s.activeEls m (addrOf (s.rg a)) (s.ffRel b)).drop k, region y.va < 14 ∧ y.va % elAlign (memWidth s.vt) = 0)
    (hs : s.soundEls ((s.activeEls m (addrOf (s.rg a)) (s.ffRel b)).take k)) :
    Gives (execVldff st d a b m x 0 s)
      (((s.loadedEls d ((s.activeEls m (addrOf (s.rg a)) (s.ffRel b)).take k)).onSp fun q => { q with vl := f.j }).after4 st) := by
  have hd : s.cur.bankOf d = 0 := h.banks d (List.mem_append_left _ (by simp [vuse]))
  have hcut := loadFf_cut (d := d) (a := a) (m := m) (x := x) h.untraced hm hp (elems_ff _) (activeEls_ascend ..) hk h0 hf hhere hrest hs
  have hcutVl := onSp_fileWrite (fun q => { q with vl := f.j }) fun _ => rfl
  exact issue_atLike (t := (s.loadedEls d ((s.activeEls m (addrOf (s.rg a)) (s.ffRel b)).take k)).onSp fun q => { q with vl := f.j }) h hcut
    ((hcutVl.running _).trans loadedEls_running) ((hcutVl.exact _).trans loadedEls_exact) fun hcalm => hcutVl.calm _ (loadedEls_calm hd hcalm)

/-! ## What a tile load gives (R216) -/

/-- Performing accesses leaves the shape and FPCR, by which a tile load widens its elements. -/
theorem tileResults_of_core {o : State} (hc : o.core = s.core) (g : Agent) (t : TileAt) (base : Nat) (els : List VEl) :
    o.tileResults g t base els = els.map fun y =>
      (y.j, if blockElem t.fmt = some s.vt then (⟨o.readEl g t.e y, 0⟩ : Rounded)
        else dequantElem t.fmt s.vt (s.cur.sp.fpcr &&& ~~~0x10#64) (rmOf (s.cur.sp.fpcr &&& ~~~0x10#64)) (o.readEl g t.e y)
          (o.readEl g 8 (o.hdrEl base (t.hdr (y.j / s.vcols) (y.j % s.vcols / t.len)) 0 1)) (o.tileBand g t base)) := by
  simp only [State.tileResults, State.vt, State.vcols, State.cur, hc]
  exact List.map_congr_left fun y _ => congrArg _ (if_congr beq_iff_eq rfl rfl)

theorem tileWrites_of_core {o : State} (hc : o.core = s.core) {g : Agent} {t : TileAt} {base : Nat} {els : List VEl} {out : List (Nat × Rounded)}
    (hout : o.tileResults g t base els = out) :
    o.tileWrites g t base els = (o.writes s.vw (out.map fun q => (q.1, q.2.bits))).map fun w =>
      { w with band := if blockElem t.fmt = some s.vt then o.tileBand g t base else 0x3F80#16 } := by
  rw [State.tileWrites, hout, vw_of_core hc]
  simp only [State.vt, State.cur, hc]
  exact List.map_congr_left fun w _ => congrArg (VWrite.mk w.mask w.data w.rows) (if_congr beq_iff_eq rfl rfl)

/-- A tile load whose elements come to `out`, and its writes to `ws`. -/
theorem vld_tile_results {t : TileAt} {c : BitVec 3} (h : AtOnce s { vuse (s.unitSrc a b) [] [d] [m] with pends := 1 } st) (hm : s.cur.masked = false)
    (hp : blockTag (s.rg a) = true) (ha : addrOf (s.rg a) % 64 = 0)
    (hf : blockElem (ptrFmt (s.rg a)) = some s.vt ∨ s.vt = 0x10 ∨ s.vt = 0x11)
    (ht : s.tilePos (ptrFmt (s.rg a)) (tagBlk (ptrTag (s.rg a))) (if b = 0 then 0 else s.rg b) = some t) :
    let base := addrOf (s.rg a)
    let els := s.tileElems t base (s.active m)
    let hdrs := s.tileHdrs t base
    let o := s.openedEls .read (els ++ hdrs)
    ∀ out ws, o.tileResults s.agent t base els = out → o.tileWrites s.agent t base els = ws →
      s.elsHere .read 1 (els ++ hdrs) → (∀ y ∈ els ++ t.hdrBytes base hdrs, o.elBad s.agent y = none) →
      o.fpTrap (out.map fun q => o.raisedAt q.1 q.2.flags) = none →
      Gives (execVld st d a b m x c s)
        (((o.noteFlags (out.map fun q => o.raisedAt q.1 q.2.flags)).deferred (.v d ws (some (o.tileScales s.agent t base d c hdrs)))
          ((els.head?.map (·.va)).getD base) none).after4 st) := by
  rintro base els hdrs o _ _ rfl rfl hhere hs htrap
  exact vld_tile_gives h hm hp ha hf ht hhere hs htrap

theorem openedScales_bytes {t : TileAt} {els : List VEl} (ht : t.Fits s) (hc : 0 < s.vcols) (g : Agent) (base : Nat) (c : BitVec 3) :
    let o := s.openedEls .read (els ++ s.tileHdrs t base)
    let sc := o.tileScales g t base d c (s.tileHdrs t base)
    (∀ row < s.vrows, row / 32 < s.files.length → ∀ k < t.blocks,
      scaleByte (sc.mask[row / 32]?.getD 0) (scaleAt t.fmt t.blk d.toNat (row % 32) k) = 255 ∧
      scaleByte (sc.data[row / 32]?.getD 0) (scaleAt t.fmt t.blk d.toNat (row % 32) k) = o.tileScale g t base row k) ∧
    ∀ i n, scaleByte (sc.mask[i]?.getD 0) n ≠ 0 →
      ∃ row < s.vrows, row / 32 = i ∧ ∃ k < t.blocks, n = scaleAt t.fmt t.blk d.toNat (row % 32) k := by
  intro o
  have hcore : o.core = s.core := openedEls_core ..
  have hcols : o.vcols = s.vcols := by simp only [State.vcols, State.cur, hcore]
  have hrows : o.vrows = s.vrows := by simp only [State.vrows, State.cur, hcore]
  have hfits : t.Fits o := ⟨ht.whole, ht.pos, ht.le, hcols ▸ ht.cols, hrows ▸ ht.rows⟩
  have hhdrs : o.tileHdrs t base = s.tileHdrs t base := by simp only [State.tileHdrs, State.hdrEl, hcols, hrows]
  have hbytes := tileScales_bytes (d := d) hfits (hcols ▸ hc) g base c
  rwa [hhdrs, hrows, files_of_core hcore] at hbytes

/-! ## Stores -/

theorem vst_gives (h : AtOnce s { vuse [a] [d] [] [m] with c := s.unitScale a 0 } st) (hm : s.cur.masked = false)
    (hp : s.plainTag (s.rg a) 0 = true) (hb : blockTag (s.rg a) = false)
    (hhere : s.elsHere .write (elAlign (memWidth s.vt)) (s.activeEls m (addrOf (s.rg a)) s.flatRel))
    (hd : s.badElems d s.vw (s.active m) = []) :
    Gives (execVst st d a 0 m x 0 s) ((s.storedMode d false (s.activeEls m (addrOf (s.rg a)) s.flatRel)).after4 st) := by
  rw [← unitSrc_zero (s := s)] at h
  refine access_gives h ?_ (storedMode_core false)
  rw [hb, if_neg Bool.false_ne_true, if_neg (not_not_intro rfl)]
  exact storeMode_here h.untraced hm hp (List.forall_mem_nil _) (elems_unit ..) hhere hd

theorem vsts_gives (h : AtOnce s (vuse [a, b] [d] [] [m]) st) (hm : s.cur.masked = false) (hp : s.plainTag (s.rg a) 0 = true)
    (hhere : s.elsHere .write (elAlign (memWidth s.vt)) (s.activeEls m (addrOf (s.rg a)) (s.rowedRel b)))
    (hd : s.badElems d s.vw (s.active m) = []) :
    Gives (execVsts st d a b m x 0 s) ((s.storedMode d false (s.activeEls m (addrOf (s.rg a)) (s.rowedRel b))).after4 st) :=
  access_gives h (storeMode_here h.untraced hm hp (List.forall_mem_nil _) (elems_stride ..) hhere hd) (storedMode_core false)

theorem vstx_gives (h : AtOnce s (vuse [a] [d, b] [] [m]) st) (hm : s.cur.masked = false) (hp : s.plainTag (s.rg a) 0 = true)
    (hwide : 8 ≤ memWidth s.vt) (hcols : s.vcols ≤ 32) (hb : s.badElems b 32 (s.active m) = [])
    (hhere : s.elsHere .write (elAlign (memWidth s.vt)) (s.activeEls m (addrOf (s.rg a)) (s.indexedRel b)))
    (hd : s.badElems d s.vw (s.active m) = []) :
    Gives (execVstx st d a b m x 0 s) ((s.storedMode d true (s.activeEls m (addrOf (s.rg a)) (s.indexedRel b))).after4 st) := by
  refine access_gives h ?_ (storedMode_core true)
  rw [State.indexedOk, if_neg (Nat.not_lt.mpr hwide), if_neg (Nat.not_lt.mpr hcols)]
  exact storeMode_here h.untraced hm hp (by simpa using hb) (elems_index ..) hhere hd

end

/-- Settles O44: each word performs the accesses of its mode; the scale bytes of a tile load stand where R80 has them. -/
theorem vectorMemoryResults : Obligations.VectorMemoryResults := by
  unfold Obligations.VectorMemoryResults
  intro s st d a b m x hm
  refine ⟨fun h hp => ⟨?vld, ?vldff, ?cut⟩, fun h hp => ⟨?vlds, fun hb => ?vldffRows⟩, fun h hp hwide hcols hb => ?vldx, fun h hp => ?vst,
    fun h hp => ?vsts, fun h hp hwide hcols hb => ⟨?vstx, ?vstra⟩, fun cr t h hp ha hf ht => ?vldTile, fun cr t h hp ha hf htags ht hd => ?vstTile,
    ⟨fun hhere hs => ⟨?mld, ?cld⟩, fun hhere => ⟨?mst, ?cst⟩⟩⟩
  case vld => exact fun hhere hs => vld_gives h hm hp.1 hp.2 hhere hs
  case vldff => exact fun hhere hs => vldff_gives (b := 0) h hm hp.1 hhere hs
  case cut => exact fun k f hk h0 hf _ _ hhere hrest hs => vldff_cuts (b := 0) h hm hp.1 hk h0 hf hhere hrest hs
  case vlds => exact fun hhere hs => vlds_gives h hm hp hhere hs
  case vldffRows =>
    intro hhere r hs
    have hgives := vldff_gives (b := b) (d := d) (a := a) (m := m) (s := s) (st := st) (x := x)
    rw [State.ffRel, if_neg hb, if_neg hb] at hgives
    exact hgives h hm hp hhere hs
  case vldx => exact fun hhere hs => vldx_gives h hm hp hwide hcols hb hhere hs
  case vst => exact fun hhere hd => vst_gives h hm hp.1 hp.2 hhere hd
  case vsts => exact fun hhere hd => vsts_gives h hm hp hhere hd
  case vstx => exact fun hhere hd => vstx_gives h hm hp hwide hcols hb hhere hd
  case vstra => exact fun hty hhere hd => vstra_gives h hm hp hwide hcols hb hty (elems_index ..) hhere hd
  case vldTile =>
    obtain ⟨fmt, blk, row, col⟩ := t
    obtain ⟨rfl, rfl, hfits⟩ := tilePos_fits hp ht
    intro f len per l hdrs o hdr scale band packed fpcr out raised ws at_ hhere hc hs htrap
    obtain ⟨hbytes, hnone⟩ := openedScales_bytes (d := d) (els := l) hfits hc s.agent (addrOf (s.rg a)) cr
    refine ⟨_, rfl, rfl, hbytes, fun i n _ hn => hnone i n hn, ?_⟩
    have hcore : o.core = s.core := openedEls_core ..
    have hout := tileResults_of_core hcore s.agent ⟨ptrFmt (s.rg a), tagBlk (ptrTag (s.rg a)), row, col⟩ (addrOf (s.rg a)) l
    exact vld_tile_results h hm hp ha hf ht out ws hout (tileWrites_of_core hcore hout) hhere hs htrap
  case vstTile => exact fun hhere => vst_tile_gives h hm hp ha hf htags ht hd hhere
  case mld => exact fun h hp => mld_gives h hp hhere hs
  case cld => exact fun h hp => cld_gives h hp hhere hs
  case mst => exact fun h hp => mst_gives h hp hhere
  case cst => exact fun h hp => cst_gives h hp hhere

end Sys2Proof.Machine
end

section
/-! SUPPORT. Token cells (R151-R155): what a change of cells keeps, where a signal of a strand goes, and what it does at its cell. -/

namespace Sys2Proof.Machine

/-! ## What a change of cells keeps -/

/-- `d` is `c` with other token cells, other images of suspended strands and other counts of stale messages. -/
def CellChange (d c : Core) : Prop := ∃ cells images counts, d = { c with cells := cells, images := images, stalecnt := counts }

theorem CellChange.refl (c : Core) : CellChange c c := ⟨c.cells, c.images, c.stalecnt, rfl⟩

theorem CellChange.trans {a b c : Core} (h : CellChange a b) (k : CellChange b c) : CellChange a c := by
  obtain ⟨l, i, n, rfl⟩ := h
  obtain ⟨l', i', n', rfl⟩ := k
  exact ⟨l, i, n, rfl⟩

theorem setCell_change (c : Core) (i : Nat) (x : TokCell) : CellChange (c.setCell i x) c := ⟨_, c.images, c.stalecnt, rfl⟩
theorem wakeCells_change (c : Core) : CellChange c.wakeCells c := ⟨c.cells, _, c.stalecnt, rfl⟩
theorem countStale_change (c : Core) : CellChange c.countStale c := ⟨c.cells, c.images, _, rfl⟩
theorem countLate_change (c : Core) : CellChange c.countLate c := ⟨c.cells, c.images, _, rfl⟩

theorem freeCell_change (c : Core) (i : Nat) : CellChange (c.freeCell i) c := (wakeCells_change _).trans (setCell_change ..)
theorem rearm_change (c : Core) (h : Word) (n : Nat) : CellChange (c.rearm h n) c := (wakeCells_change _).trans (setCell_change ..)

theorem settleCell_change (c : Core) (i : Nat) (st : CellState) : CellChange (c.settleCell i st) c := by
  unfold Core.settleCell
  dsimp only
  split
  · exact freeCell_change c i
  · exact (wakeCells_change _).trans (setCell_change ..)

theorem signal_change (c : Core) (h : Word) : CellChange (c.signal h) c := by
  unfold Core.signal
  split
  · split
    · exact countStale_change c
    · split
      · exact settleCell_change ..
      · exact setCell_change ..
    · exact countLate_change c
  · exact countStale_change c

theorem fail_change (c : Core) (h : Word) (e : BitVec 8) : CellChange (c.fail h e) c := by
  unfold Core.fail
  split
  · split
    · exact countStale_change c
    · exact settleCell_change ..
    · exact countLate_change c
  · exact countStale_change c

theorem observe_change (c : Core) (h : Word) : CellChange (c.observe h) c := by
  unfold Core.observe
  split
  · exact .refl c
  · exact freeCell_change ..

theorem alloc_change {c d : Core} {node lo n count owner : Nat} {kind : BitVec 3} {h : Word}
    (ha : c.alloc node lo n kind count owner = some (h, d)) : CellChange d c := by
  unfold Core.alloc at ha
  split at ha
  · cases ha
  · cases ha
    exact setCell_change ..

theorem ChainKept.refl (s : State) : ChainKept s s := ⟨rfl, rfl, rfl, rfl, rfl, fun _ => rfl⟩

theorem ChainKept.trans {a b c : State} (h : ChainKept a b) (k : ChainKept b c) : ChainKept a c := by
  obtain ⟨h1, h2, h3, h4, h5, h6⟩ := h
  obtain ⟨k1, k2, k3, k4, k5, k6⟩ := k
  exact ⟨h1.trans k1, h2.trans k2, h3.trans k3, h4.trans k4, h5.trans k5, fun r => (h6 r).trans (k6 r)⟩

/-- A change of cells is no concern of the running strand's frame. -/
theorem CellChange.kept {s : State} {d : Core} (h : CellChange d s.core) : ChainKept { s with core := d } s := by
  obtain ⟨l, i, n, rfl⟩ := h
  exact .refl s

theorem allocCell_kept {s r : State} {kind : BitVec 3} {n : Nat} {h : Word} (ha : s.allocCell kind n = some (h, r)) : ChainKept r s := by
  unfold State.allocCell at ha
  split at ha
  · cases ha
  · rename_i hc
    cases ha
    exact (alloc_change hc).kept

theorem setStale_kept (s : State) : ChainKept s.setStale s := .refl s

/-! ## Messages of a strand (R155) -/

theorem sendTo_kept (s : State) (h : Word) (b : MsgBody) : ChainKept (s.sendTo h b) s := by
  have hstale : ChainKept (s.onFocus Core.countStale) s := (countStale_change s.core).kept
  unfold State.sendTo
  split
  · exact hstale
  · split
    · exact hstale
    · split
      · exact hstale
      · exact .refl s

theorem strandSend_kept (s : State) (h : Word) (b : MsgBody) : ChainKept (s.strandSend h b) s := by
  unfold State.strandSend
  split
  · exact (setStale_kept _).trans (countStale_change s.core).kept
  · exact sendTo_kept s h b

/-- A message to the own core is due 2 cycles later (DESIGN CHOICE, log 8). -/
theorem sendTo_own {s : State} {h : Word} (hn : hNode h = s.node) (hc : hCore h = some s.core.cid) (hp : s.node < s.nodes) (b : MsgBody) :
    s.sendTo h b = { s with flight := s.flight ++ [⟨s.core.cid, s.core.cid, some (s.core.cycle + 2), b⟩] } := by
  have harrival : s.arrival s.node s.core.cid = some (s.core.cycle + 2) := if_pos ⟨rfl, rfl⟩
  simp only [State.sendTo, hc, hn, harrival, if_neg (Nat.not_le.mpr hp), ne_eq, not_true_eq_false, false_and, if_false]
  rfl

/-! ## Cells (R151, R152, R158) -/

/-- A failed status is none of the others. -/
theorem failStatus_ne_two (e : BitVec 8) : 0x100 + e.setWidth 64 ≠ (2 : Word) := fun h => by
  have := congrArg BitVec.toNat h
  have := e.isLt
  simp [BitVec.toNat_add] at *
  omega

/-- A handle reads 2 when it does not match its cell, or the cell is FREE (R158). -/
theorem status_eq_two {c : Core} {h : Word} : c.status h = 2 ↔ c.hMatches h = false ∨ (c.cell (hCell h)).st = .free := by
  unfold Core.status
  cases hm : c.hMatches h with
  | false => simp
  | true =>
    cases hst : (c.cell (hCell h)).st with
    | free => simp
    | armed n => simp
    | signalled => simp
    | failed e => simpa using failStatus_ne_two e

@[simp] theorem cell_setCell (c : Core) (i : Nat) (x : TokCell) : (c.setCell i x).cell i = x := by
  simp [Core.cell, Core.setCell]

@[simp] theorem cell_wakeCells (c : Core) (i : Nat) : c.wakeCells.cell i = c.cell i := rfl

theorem cell_settleCell {c : Core} {i : Nat} (ho : (c.cell i).orphan = false) (st : CellState) :
    (c.settleCell i st).cell i = { c.cell i with st := st, sigTime := c.cycle } := by
  simp [Core.settleCell, ho]

section
variable {c : Core} {h : Word} {n : Nat} {e : BitVec 8} (hm : c.hMatches h = true)
include hm

theorem signal_counts (ha : (c.cell (hCell h)).st = .armed n) (hn : 1 < n) :
    (c.signal h).cell (hCell h) = { c.cell (hCell h) with st := .armed (n - 1) } := by
  simp [Core.signal, hm, ha, Nat.not_le.mpr hn]

theorem signal_settles (ha : (c.cell (hCell h)).st = .armed n) (hn : n ≤ 1) : c.signal h = c.settleCell (hCell h) .signalled := by
  simp [Core.signal, hm, ha, hn]

theorem fail_settles (ha : (c.cell (hCell h)).st = .armed n) : c.fail h e = c.settleCell (hCell h) (.failed e) := by
  simp [Core.fail, hm, ha]

theorem message_free (hf : (c.cell (hCell h)).st = .free) : c.signal h = c.countStale ∧ c.fail h e = c.countStale := by
  simp [Core.signal, Core.fail, hm, hf]

theorem message_late (hs : (c.cell (hCell h)).st = .signalled ∨ ∃ f, (c.cell (hCell h)).st = .failed f) :
    c.signal h = c.countLate ∧ c.fail h e = c.countLate := by
  rcases hs with hs | ⟨f, hs⟩ <;> simp [Core.signal, Core.fail, hm, hs]
end

/-- Settles O23: the status of a handle decides whether its message is sent, the state of the cell what it does there. -/
theorem tokenMessages : Obligations.TokenMessages := by
  refine ⟨fun s h b hn hc hp => ⟨fun hm hf => ?sent, fun hgone => ?stale⟩, fun c h e hm => ?cell⟩
  case sent =>
    have hlive : s.core.status h ≠ 2 := fun hs => (status_eq_two.mp hs).elim (by simp [hm]) hf
    rw [State.strandSend, if_neg fun hown => hlive hown.2.2, sendTo_own hn hc hp]
  case stale => exact if_pos ⟨hn, hc, status_eq_two.mpr hgone⟩
  case cell =>
    refine ⟨fun n => signal_counts hm, fun n ha hn ho => ?_, fun n ha ho => ?_, message_free hm, message_late hm⟩
    · rw [signal_settles hm ha hn, cell_settleCell ho]
    · rw [fail_settles hm ha, cell_settleCell ho]

end Sys2Proof.Machine
end

section
/-! SUPPORT. The token words (R157-R159). -/

namespace Sys2Proof.Machine

/-! ## The frame -/

/-- A word whose effect concerns neither its frame nor the strand's registers, results and banks. -/
theorem kept_gives {s t : State} {u : Use} {st : Bool} {body : State → Res} (h : AtOnce s u st) (hb : body s = .ok t) (hk : ChainKept t s) :
    Gives (issue st 4 u body s) (t.after4 st) :=
  have ⟨hrun, hexact, _⟩ := hk
  issue_at h hb (hrun.trans h.running) (hexact.trans h.untraced) fun hst => hk.calm (h.calm hst)

/-- The same with a result in a register. -/
theorem keptWrite_gives {s t : State} {u : Use} {st : Bool} {body : State → Res} {d : BitVec 5} {v : Word} (h : AtOnce s u st)
    (hb : body s = .ok (t.wg d v)) (hk : ChainKept t s) : Gives (issue st 4 u body s) ((t.wg d v).after4 st) :=
  have ⟨hrun, hexact, _⟩ := hk
  issue_at h hb (hrun.trans h.running) (hexact.trans h.untraced) fun hst => wg_calm (hk.calm (h.calm hst)) d v

/-! ## Own and foreign handles (R157) -/

theorem ownHandle_own {s : State} {h : Word} (ho : hGen h = 0 ∨ hPrefix h = hPrefix s.cur.sp.self) (k : Res) : s.ownHandle h k = k :=
  if_neg fun ⟨hg, hp⟩ => ho.elim hg hp

theorem ownHandle_foreign {s : State} {h : Word} (ho : ¬(hGen h = 0 ∨ hPrefix h = hPrefix s.cur.sp.self)) (k : Res) :
    s.ownHandle h k = s.raise 0x10 h :=
  if_pos (not_or.mp ho)

/-! ## Reading a token (R154, R160) -/

/-- Without messages in flight and matrix commands, nothing comes before a read. -/
theorem beforeRead_idle {s : State} (hf : s.flight = []) (hq : s.core.mx.queue = []) : s.beforeRead = s := by
  rw [State.beforeRead, hf, hq]
  rfl

theorem observeBatch_kept (s : State) (h : Word) : ChainKept (s.observeBatch h) s := by
  unfold State.observeBatch
  split
  · exact .refl s
  · exact .refl s

/-- Observing a token neither stops the strand nor starts the exact trace. -/
theorem observe_frame (s : State) (h : Word) :
    (s.observe h).core.running = s.core.running ∧ (s.observe h).core.exact = s.core.exact := by
  obtain ⟨hrun, hexact, -⟩ :=
    (observeBatch_kept (s.onFocus (·.observe h)) h).trans (observe_change s.core h).kept
  unfold State.observe
  dsimp only
  split <;> exact ⟨hrun, hexact⟩

/-- What `tokt` leaves beside its result: a token observed when its status is an observation, STALE set when it is stale. -/
theorem tokt_gives {s : State} {st : Bool} {d a : BitVec 5} (h : AtOnce s { g := [a] } st)
    (ho : hGen (s.rg a) = 0 ∨ hPrefix (s.rg a) = hPrefix s.cur.sp.self) (hf : s.flight = []) (hq : s.core.mx.queue = []) :
    let x := s.core.status (s.rg a)
    let r := if observes x then s.observe (s.rg a) else s
    (st = true → r.cur.Calm) → Gives (execTokt st d a s) (((if x = 2 then r.setStale else r).wg d x).after4 st) := by
  intro x r hcalm
  have hrun : r.core.running = true ∧ r.core.exact = false := by
    obtain ⟨hr, he⟩ := observe_frame s (s.rg a)
    unfold r
    split
    · exact ⟨hr.trans h.running, he.trans h.untraced⟩
    · exact ⟨h.running, h.untraced⟩
  have hk : ChainKept (if x = 2 then r.setStale else r) r := by
    split
    · exact setStale_kept r
    · exact .refl r
  obtain ⟨hr, he, -⟩ := id hk
  refine issue_at h ?_ (hr.trans hrun.1) (he.trans hrun.2) fun hst => wg_calm (hk.calm (hcalm hst)) d x
  rw [ownHandle_own ho, beforeRead_idle hf hq]

/-- Settles O22: the branches of each word are those of the handle's cell, and of the core that it names. -/
theorem tokenWords : Obligations.TokenWords := by
  intro s st d a b h own stale
  refine ⟨fun hi => ⟨?toka, ?tokaNone, ?tokf, ?tokfStale, ?tokt, ?foreign, ?toks⟩, fun hi => ⟨?tokr, ?tokrStale, ?toke⟩⟩
  case toka =>
    intro tok r hr
    exact keptWrite_gives hi (by simp only [h] at hr; simp only [hr]) (allocCell_kept hr)
  case tokaNone =>
    intro hr
    exact keptWrite_gives hi (by simp only [h] at hr; simp only [hr]) (.refl s)
  case tokf =>
    intro ho hl
    exact kept_gives hi ((ownHandle_own ho _).trans (if_pos hl)) (freeCell_change ..).kept
  case tokfStale =>
    intro ho hl
    exact kept_gives hi ((ownHandle_own ho _).trans (if_neg (by rw [hl]; decide))) (setStale_kept s)
  case tokt =>
    intro ho hf hq x r hcalm
    exact tokt_gives hi ho hf hq hcalm
  case foreign =>
    intro ho
    exact ⟨issue_raise hi (ownHandle_foreign ho _), issue_raise hi (ownHandle_foreign ho _)⟩
  case toks => exact kept_gives hi rfl (strandSend_kept ..)
  case tokr =>
    intro ho hl
    exact keptWrite_gives hi ((ownHandle_own ho _).trans (if_pos hl)) (rearm_change ..).kept
  case tokrStale =>
    intro ho hl
    exact keptWrite_gives hi ((ownHandle_own ho _).trans (if_neg (by rw [hl]; decide))) (setStale_kept s)
  case toke => exact kept_gives hi rfl (strandSend_kept ..)

end Sys2Proof.Machine
end

section
/-! SUPPORT. Live-set entries and the settle of a suspension (R81, R160), and the words that move and feed strands (R168-R170). -/

namespace Sys2Proof.Machine

/-! ## Opening an access without messages in flight -/

/-- What an access leaves beside memory, dies and cached translations. -/
structure AccessKept (t s : State) : Prop where
  core : t.core = s.core
  others : t.others = s.others
  pkg : t.pkg = s.pkg
  flight : t.flight = s.flight

theorem AccessKept.refl (s : State) : AccessKept s s := ⟨rfl, rfl, rfl, rfl⟩

theorem AccessKept.trans {a b c : State} (h : AccessKept a b) (k : AccessKept b c) : AccessKept a c :=
  ⟨h.core.trans k.core, h.others.trans k.others, h.pkg.trans k.pkg, h.flight.trans k.flight⟩

theorem drainDie_kept (s : State) (d : Nat) (p : Nat → Bool) : AccessKept (s.drainDie d p) s := ⟨rfl, rfl, rfl, rfl⟩

theorem touch_kept {s : State} (hf : s.flight = []) (k n : Nat) : AccessKept (s.touch k n) s := by
  have harrive : ∀ p, s.arriveReduces p = s := fun p => if_neg (by simp [hf])
  unfold State.touch State.drainLines
  simp only [harrive]
  split
  · exact .refl s
  · exact (drainDie_kept ..).trans ((drainDie_kept ..).trans ((drainDie_kept ..).trans (drainDie_kept ..)))

theorem touchEntry_kept {s : State} (hf : s.flight = []) (pa n : Nat) : AccessKept (s.touchEntry pa n) s := by
  unfold State.touchEntry
  split
  · exact touch_kept hf pa n
  · exact .refl s

theorem touchWalk_kept {s : State} (hf : s.flight = []) (p : Word) (va : Nat) : AccessKept (s.touchWalk p va) s := by
  have next : ∀ {t : State}, AccessKept t s → ∀ pa n, AccessKept (t.touchEntry pa n) s := fun ht pa n =>
    (touchEntry_kept (ht.flight.trans hf) pa n).trans ht
  have hroot := next (.refl s)
  unfold State.touchWalk
  dsimp only
  split
  · exact hroot _ _
  · split
    · exact hroot _ _
    · split
      · exact next (hroot _ _) _ _
      · split
        · exact next (next (hroot _ _) _ _) _ _
        · exact next (hroot _ _) _ _

theorem cacheFor_kept {s : State} (hf : s.flight = []) (a : Agent) (va : Nat) : AccessKept (s.cacheFor a va) s := by
  unfold State.cacheFor
  split
  · obtain ⟨hc, ho, hp, hm⟩ := touchWalk_kept hf a.ptroot va
    exact ⟨hc, ho, hp, hm⟩
  · exact .refl s

theorem opened_kept {s : State} (hf : s.flight = []) (va k n : Nat) : AccessKept (s.opened va k n) s :=
  have hc := cacheFor_kept hf s.agent va
  (touch_kept (hc.flight.trans hf) k n).trans hc

/-! ## Live-set entries (R81) -/

/-- Bytes that end within their line are one piece. -/
theorem pieces_inLine {va n : Nat} (hn : 0 < n) (hl : va % 64 + n ≤ 64) : pieces va n = [(va, n)] := by
  have hk : min n (64 - va % 64) = n := Nat.min_eq_left (by omega)
  simp [pieces, linePieces, hk, Nat.ne_of_gt hn]

/-- An instruction that names a live-set entry reads it and goes on. -/
theorem liveEntry_read {s : State} {ix key : Nat} {e : BitVec 128} (h : HasLiveSet s ix e key) (body : BitVec 128 → State → Res) :
    s.liveEntry ix body = body e (s.opened (liveAddr s ix) key 16) := by
  have hpieces : pieces (liveAddr s ix) 16 = [(liveAddr s ix, 16)] := pieces_inLine (by decide) (by have := h.inLine; omega)
  have hsound : (s.opened (liveAddr s ix) key 16).homeBad (.here key) 16 = none := by
    rw [State.homeBad, show (s.opened (liveAddr s ix) key 16).badAt key 16 = none from h.sound]
    rfl
  rw [State.liveEntry, if_neg (Nat.not_le.mpr h.below), State.readDesc, ← liveAddr, hpieces, State.readPieces]
  have hopened : (s.cacheFor s.agent (liveAddr s ix)).homeTouch (.here key) 16 = s.opened (liveAddr s ix) key 16 := rfl
  simp only [h.leads, hopened, hsound, State.readPieces, State.homeLoad, Nat.pow_zero, Nat.mul_one, Nat.zero_add, ← h.entry, h.legal, if_true]

/-! ## The settle of a suspension (R160, R183) -/

/-- With no result pending and nothing in flight, the settle of a suspension is accounting. -/
theorem settled_idle {s : State} (hr : s.core.running = true) (he : s.core.exact = false) (hp : s.cur.pend = []) (hf : s.flight = [])
    (hq : s.core.mx.queue = []) (body : State → Res) : ∃ x, s.settled body = body (s.counted x) := by
  obtain ⟨x, hx⟩ := quiesce_like hr he .settle
  refine ⟨x, ?_⟩
  have hsettle : (s.counted x).settle .settle = (s.counted x, none) := settle_noPend (s := s.counted x) hp .settle
  have hread : (s.counted x).beforeRead = s.counted x := beforeRead_idle hf hq
  rw [State.settled, hx, hsettle]
  simp only [hread]

/-- The same after an access. -/
theorem settled_access {o s : State} {u : Use} {st : Bool} (hk : AccessKept o s) (h : AtOnce s u st) (hp : s.cur.pend = []) (hf : s.flight = [])
    (hq : s.core.mx.queue = []) (body : State → Res) : ∃ x, o.settled body = body (o.counted x) :=
  settled_idle (by rw [hk.core]; exact h.running) (by rw [hk.core]; exact h.untraced) (by rw [State.cur, hk.core]; exact hp)
    (hk.flight.trans hf) (by rw [hk.core]; exact hq) body

theorem noBatch_closed {s : State} (h : s.cur.batch = none) (k : Res) : s.noBatch k = k := by simp [State.noBatch, h]

/-- Outside a handler, the words of R254 issue like any other. -/
theorem issueOut_plain {s : State} {st : Bool} {len : Nat} {u : Use} {body : State → Res} (h : s.cur.handler = none) :
    issueOut st len u body s = issue st len u body s := by simp [issueOut, h]

@[simp] theorem kill_num (t : Strand) (e : BitVec 128) : (t.kill e).num = t.num := by simp only [Strand.kill]
@[simp] theorem kill_pc (t : Strand) (e : BitVec 128) : (t.kill e).pc = t.pc := by simp only [Strand.kill]
@[simp] theorem kill_pend (t : Strand) (e : BitVec 128) : (t.kill e).pend = t.pend := by simp only [Strand.kill]
@[simp] theorem kill_sp (t : Strand) (e : BitVec 128) : (t.kill e).sp = t.sp := by simp only [Strand.kill]

theorem kill_calm {t : Strand} (h : t.Calm) (e : BitVec 128) : (t.kill e).Calm := calm_same h (kill_pend t e) (by rw [kill_sp])

/-- The registers that a live set keeps do not depend on accounting. -/
theorem kill_g_counted (s : State) (x : Accounting) (e : BitVec 128) : ((s.counted x).cur.kill e).g = (s.cur.kill e).g := by
  simp only [Strand.kill]
  rfl

theorem kill_like {t s : State} (h : Like t s) (e : BitVec 128) : Like (t.onCur (·.kill e)) (s.onCur (·.kill e)) := by
  obtain ⟨x, rfl⟩ := h
  exact ⟨((s.counted x).onCur (·.kill e)).accounting, rfl⟩

/-! ## `hop` (R168) -/

/-- What `HOP` cannot carry: more than sixteen `g` registers, or any vector, matrix or mask state. -/
abbrev HopTooBig (s : State) (e : BitVec 128) : Prop :=
  16 < popCount (liveG e) ∨ liveV e ≠ 0 ∨ liveM e ≠ 0 ∨ liveC e ≠ 0 ∨ liveAcc e ∨ s.cur.vf.xm ≠ 0 ∨ s.cur.vf.fltm ≠ 0

/-- The effect of `HOP` once its address has passed and its results have landed. -/
def State.hopGo (s : State) (d : BitVec 5) (va : Nat) (e : BitVec 128) : Res :=
  match s.hopStatus va with
  | .inl x => .ok ((s.onCur (·.kill e)).wg d (BitVec.ofNat 64 x))
  | .inr c => .left ((s.onCur (·.kill e)).hopLeave d c)

/-- The effect of `HOP` with its live set. -/
def State.hopLive (s : State) (d : BitVec 5) (va : Nat) (e : BitVec 128) : Res :=
  if HopTooBig s e then s.raise 0x11 0 else s.hopAddr va fun s => s.settled fun s => s.hopGo d va e

/-- A byte of the scratchpads that the strand may read passes the checks of `HOP`. -/
theorem hopAddr_scratch {s : State} {va k : Nat} (hr : region va = 13) (hk : s.scratchAt s.agent va 1 = some k) (hl : s.pkg.links = [])
    (body : State → Res) : s.hopAddr va body = body (s.touch k 1) := by
  have hlocal : isGlobal va = false := by simp [isGlobal, hr]
  have hlocate : s.locate s.agent .read va 1 = .at (.here k) := by simp [State.locate, hlocal, hr, hk, State.way, hl]
  have hcheck : s.checkAt s.agent .read 1 va = .go (.here k) := by
    have hpiece : pieces va 1 = [(va, 1)] := pieces_inLine Nat.one_pos (by have := Nat.mod_lt va (show 64 > 0 by decide); omega)
    have hpass : (Loc.at (.here k) == Loc.denied) = false := rfl
    simp [State.checkAt, hr, hpiece, hlocate, hpass, Nat.mod_one]
  have hcache : s.cacheFor s.agent va = s := by simp [State.cacheFor, hlocal]
  rw [State.hopAddr, if_neg (by omega), hcheck]
  simp only [State.withAcc, hcache]
  rfl

/-- Whether a core takes strands does not depend on the present cycle of a core that nothing has touched. -/
theorem coreOf_canTake {t s : State} {c : Nat} (ht : t.core.cid ≠ c) (hs : s.core.cid ≠ c) (ho : t.others = s.others) :
    (t.coreOf c).canTake = (s.coreOf c).canTake := by
  rw [State.coreOf, State.coreOf, if_neg ht, if_neg hs, ho]
  cases s.others.find? (·.cid == c) <;> rfl

/-- The scratchpad that `HOP` names decides where it leads, whatever else the access and the settle have changed. -/
theorem hopStatus_scratch {t s : State} {va : Nat} (hr : region va = 13) (h : AccessKept t s) (x : Accounting) :
    (t.counted x).hopStatus va = s.hopStatus va := by
  have hcid : (t.counted x).core.cid = s.core.cid := show t.core.cid = s.core.cid by rw [h.core]
  have hstays : (t.counted x).hopStays = s.hopStays :=
    show t.hopStays = s.hopStays by simp only [State.hopStays, State.cur, h.core]
  have htarget : (t.counted x).hopTarget va = s.hopTarget va := by simp only [State.hopTarget, hr, hcid, if_true]
  simp only [State.hopStatus, htarget, hstays, hcid]
  split
  · rfl
  · split
    · rename_i c _
      by_cases hc : c = s.core.cid
      · simp only [if_pos hc]
      · rw [coreOf_canTake (t := t.counted x) (by rw [hcid]; exact Ne.symm hc) (Ne.symm hc) h.others]
    · rfl

/-- An instruction's own slot moves the strand to the next PC. -/
theorem slot_moves {s : State} (hr : s.core.running = true) (he : s.core.exact = false) (pc : Word) :
    Like (s.slot pc) (s.onCur fun t => { t with pc := pc, attempts := 0, reissue := false, masked := false, firstRefusal := none }) := by
  obtain ⟨x, hx⟩ := charge_like hr he .issue s.cur.pc pc 1
  rw [State.slot, hx]
  exact ⟨x, rfl⟩

/-- A strand that hops leaves the core as a message, its registers as they are and its PC behind the `HOP`. -/
theorem hopLeave_leaves {s : State} (hr : s.core.running = true) (he : s.core.exact = false) (d : BitVec 5) (c : Nat) :
    (s.hopLeave d c).core.running = false ∧
    ∃ u, ⟨s.core.cid, s.core.cid, none, .hop u c d⟩ ∈ (s.hopLeave d c).flight ∧ u.num = s.cur.num ∧ u.pc = s.cur.pc + 4 ∧ u.g = s.cur.g := by
  have hslot := slot_moves hr he (s.cur.pc + 4)
  obtain ⟨x, hx⟩ := (charge_like (hslot.running.trans hr) (hslot.exact.trans he) .switch (s.slot (s.cur.pc + 4)).cur.pc
    (s.slot (s.cur.pc + 4)).cur.pc 3).trans hslot
  simp only [State.hopLeave, hx]
  exact ⟨rfl, _, List.mem_append_right _ (List.mem_singleton.mpr rfl), rfl, rfl, rfl⟩

section
variable {s : State} {st : Bool} {d a b : BitVec 5} {e : BitVec 128} {key : Nat}
  (hh : s.cur.handler = none) (hb : s.cur.batch = none) (hl : HasLiveSet s ((s.rg b).extractLsb' 0 10).toNat e key) (hsmall : ¬HopTooBig s e)

include hh hb hl hsmall

/-- `HOP` outside a handler and a batch, up to its address check. -/
theorem hop_opens : ∃ body, exec (.hop st d a b) s = issue st 4 { g := [a, b] } body s ∧
    body s = (s.opened (liveAddr s ((s.rg b).extractLsb' 0 10).toNat) key 16).hopAddr (addrOf (s.rg a)) fun t =>
      t.settled fun t => t.hopGo d (addrOf (s.rg a)) e := by
  refine ⟨fun s => let va := addrOf (s.rg a); s.noBatch <| s.liveEntry ((s.rg b).extractLsb' 0 10).toNat fun e s => s.hopLive d va e,
    issueOut_plain hh, ?_⟩
  have hopened : ¬HopTooBig (s.opened (liveAddr s ((s.rg b).extractLsb' 0 10).toNat) key 16) e := by
    simpa only [HopTooBig, State.cur, opened_core] using hsmall
  calc _ = s.liveEntry ((s.rg b).extractLsb' 0 10).toNat fun e t => t.hopLive d (addrOf (s.rg a)) e := noBatch_closed hb _
    _ = _ := (liveEntry_read hl _).trans (if_neg hopened)

variable (h : AtOnce s { g := [a, b] } st) (hp : s.cur.pend = []) (hf : s.flight = []) (hq : s.core.mx.queue = [])

include h hp hf hq

/-- `HOP` to a window that is no scratchpad stays with status 1 once its results have landed. -/
theorem hop_stays (hr : region (addrOf (s.rg a)) = 12 ∨ region (addrOf (s.rg a)) = 14 ∨ region (addrOf (s.rg a)) = 15) :
    Gives (exec (.hop st d a b) s)
      ((((s.opened (liveAddr s ((s.rg b).extractLsb' 0 10).toNat) key 16).onCur (·.kill e)).wg d 1).after4 st) := by
  obtain ⟨body, hexec, hbody⟩ := hop_opens (st := st) (d := d) (a := a) hh hb hl hsmall
  have hk := opened_kept hf (liveAddr s ((s.rg b).extractLsb' 0 10).toNat) key 16
  generalize s.opened (liveAddr s ((s.rg b).extractLsb' 0 10).toNat) key 16 = o at hbody hk ⊢
  obtain ⟨x, hx⟩ := settled_access hk h hp hf hq fun t => t.hopGo d (addrOf (s.rg a)) e
  have hgo : (o.counted x).hopGo d (addrOf (s.rg a)) e = .ok (((o.counted x).onCur (·.kill e)).wg d 1) := by
    rw [State.hopGo, State.hopStatus, if_pos hr]
    rfl
  have hcore : o.core = s.core := hk.core
  rw [hexec]
  refine issue_atLike h ⟨_, hbody.trans ((if_pos hr).trans (hx.trans hgo)), wg_like (kill_like ⟨x, rfl⟩ e) d 1⟩ ?_ ?_ fun hcalm => ?_
  · rw [wg_running, onCur_core_running, hcore]
  · rw [wg_exact, Core.exact, onCur_core_acctctl, hcore, Core.exact]
  · have hkill : (o.core.cur.kill e).Calm := kill_calm (by rw [hcore]; exact hcalm) e
    exact wg_calm (s := o.onCur (·.kill e)) hkill d 1

/-- `HOP` to the scratchpad of a core that can take the strand leaves as a message. -/
theorem hop_moves {c k : Nat} (hr : region (addrOf (s.rg a)) = 13) (hk : s.scratchAt s.agent (addrOf (s.rg a)) 1 = some k)
    (hlinks : s.pkg.links = [])
    (hc : (s.opened (liveAddr s ((s.rg b).extractLsb' 0 10).toNat) key 16).hopStatus (addrOf (s.rg a)) = .inr c) :
    ∃ t u, exec (.hop st d a b) s = .next t ∧ t.core.running = false ∧ ⟨s.core.cid, s.core.cid, none, .hop u c d⟩ ∈ t.flight ∧
      u.num = s.cur.num ∧ u.pc = s.cur.pc + 4 ∧ u.g = (s.cur.kill e).g := by
  obtain ⟨body, hexec, hbody⟩ := hop_opens (st := st) (d := d) (a := a) hh hb hl hsmall
  have hopen := opened_kept hf (liveAddr s ((s.rg b).extractLsb' 0 10).toNat) key 16
  generalize s.opened (liveAddr s ((s.rg b).extractLsb' 0 10).toNat) key 16 = o at hbody hopen hc
  have hscratch : o.scratchAt o.agent (addrOf (s.rg a)) 1 = some k := by
    simp only [State.scratchAt, State.scratchGrant, State.launchOf, State.agent, State.cur, hopen.core, hopen.pkg] at hk ⊢
    exact hk
  have hread := touch_kept (hopen.flight.trans hf) k 1
  rw [hopAddr_scratch hr hscratch (by rw [hopen.pkg]; exact hlinks)] at hbody
  have hgo : ∀ x, ((o.touch k 1).counted x).hopGo d (addrOf (s.rg a)) e =
      .left ((((o.touch k 1).counted x).onCur (·.kill e)).hopLeave d c) := fun x => by
    rw [State.hopGo, hopStatus_scratch hr hread, hc]
  obtain ⟨x, hx⟩ := settled_access (hread.trans hopen) h hp hf hq fun t => t.hopGo d (addrOf (s.rg a)) e
  have hcore : (o.touch k 1).core = s.core := hread.core.trans hopen.core
  generalize o.touch k 1 = r at hbody hgo hx hcore
  obtain ⟨hleft, u, hmsg, hnum, hpc, hg⟩ := hopLeave_leaves (s := (r.counted x).onCur (·.kill e))
    (show r.core.running = true by rw [hcore]; exact h.running) (show r.core.exact = false by rw [hcore]; exact h.untraced) d c
  rw [State.cur, onCur_cur, kill_num] at hnum
  rw [State.cur, onCur_cur, kill_pc] at hpc
  rw [State.cur, onCur_cur, kill_g_counted] at hg
  simp only [State.cur, ← hcore]
  exact ⟨_, u, by rw [hexec, issue, gate_atOnce h, hbody, hx, hgo]; rfl, hleft, hmsg, hnum, hpc, hg⟩

end

/-! ## The other words (R169, R170) -/

theorem onSp_kept (s : State) (f : Specials → Specials) (hf : ∀ p, (f p).vbank = p.vbank) : ChainKept (s.onSp f) s :=
  ⟨rfl, rfl, rfl, hf _, rfl, fun _ => rfl⟩

/-- Settles O26: a hop stays or leaves as its status says; the other words are what they send or write. -/
theorem hopDepositSelf : Obligations.HopDepositSelf := by
  intro s st d a b
  refine ⟨fun e key h hp hf hq hh hb hl hg hv hm hc hacc hxm hfltm => ?hop, fun h hd => ?deposit, fun h hd => ?illegal, fun h => ⟨?prio, ?self⟩⟩
  case hop =>
    have hsmall : ¬HopTooBig s e := by simp [Nat.not_lt.mpr hg, hv, hm, hc, hacc, hxm, hfltm]
    refine ⟨hop_stays hh hb hl hsmall h hp hf hq, fun c hr hk hlinks hto => ?_⟩
    obtain ⟨k, hk⟩ := Option.ne_none_iff_exists'.mp hk
    exact hop_moves hh hb hl hsmall h hp hf hq hr hk hlinks hto
  case deposit =>
    rw [show exec (.deposit st d a b) s = _ from if_pos hd]
    exact kept_gives h rfl (sendTo_kept ..)
  case illegal =>
    rw [show exec (.deposit st d a b) s = _ from if_neg (by rw [hd]; decide)]
    exact issue_raise h rfl
  case prio => exact kept_gives h rfl (onSp_kept s _ fun _ => rfl)
  case self => exact keptWrite_gives h rfl (.refl s)

end Sys2Proof.Machine
end

section
/-! SUPPORT. `spawn` and `exit` (R166, R167): the end of a strand writes no memory. -/

namespace Sys2Proof.Machine

/-! ## What the end of a strand leaves -/

/-- Memory, and whether the exact trace is written, stand. -/
structure EndKept (t s : State) : Prop where
  mem : t.mem = s.mem
  acctctl : t.core.acctctl = s.core.acctctl

theorem EndKept.refl (s : State) : EndKept s s := ⟨rfl, rfl⟩

theorem EndKept.trans {a b c : State} (h : EndKept a b) (k : EndKept b c) : EndKept a c := ⟨h.mem.trans k.mem, h.acctctl.trans k.acctctl⟩

theorem foldl_endKept {α : Type} {f : State → α → State} (hf : ∀ s a, EndKept (f s a) s) (l : List α) (s : State) : EndKept (l.foldl f s) s :=
  List.foldlRecOn (motive := fun t => EndKept t s) l f (.refl s) fun t ht a _ => (hf t a).trans ht

/-- A change of the focus core that leaves its accounting mode. -/
theorem onFocus_endKept (s : State) {f : Core → Core} (hf : (f s.core).acctctl = s.core.acctctl) : EndKept (s.onFocus f) s := ⟨rfl, hf⟩

/-- A core found by number has that number. -/
theorem coreOf_cid (s : State) (c : Nat) : (s.coreOf c).cid = c := by
  unfold State.coreOf
  split
  · assumption
  · cases h : s.others.find? (·.cid == c) with
    | none => rfl
    | some x => exact eq_of_beq (List.find?_some (p := fun x : Core => x.cid == c) h)

/-- A change of a core by number, the focus core included. -/
theorem onCore_endKept (s : State) (c : Nat) {f : Core → Core} (hf : ∀ x, (f x).acctctl = x.acctctl ∧ (f x).cid = x.cid) :
    EndKept (s.onCore c f) s := by
  obtain ⟨hacct, hcid⟩ := hf (s.coreOf c)
  unfold State.onCore State.setCore
  split
  · rename_i hfocus
    have hself : s.coreOf c = s.core := if_pos (hfocus.trans (hcid.trans (coreOf_cid s c)))
    exact ⟨rfl, by rw [hself] at hacct ⊢; exact hacct⟩
  · exact ⟨rfl, rfl⟩

/-! ## Changes of a core -/

theorem CellChange.acctctl {d c : Core} (h : CellChange d c) : d.acctctl = c.acctctl := by obtain ⟨_, _, _, rfl⟩ := h; rfl
theorem CellChange.cid {d c : Core} (h : CellChange d c) : d.cid = c.cid := by obtain ⟨_, _, _, rfl⟩ := h; rfl

theorem orphanCells_change (c : Core) (n : Nat) : CellChange (c.orphanCells n) c := by
  unfold Core.orphanCells
  refine List.foldlRecOn (motive := fun d => CellChange d c) _ _ (.refl c) fun d hd p _ => ?_
  dsimp only
  split
  · exact hd
  · exact (setCell_change ..).trans hd
  · exact (freeCell_change ..).trans hd

theorem endBatches_acctctl (c : Core) : c.endBatches.acctctl = c.acctctl := by
  unfold Core.endBatches
  refine List.foldlRecOn (motive := fun d : Core => d.acctctl = c.acctctl) _ _ rfl fun d hd b _ => ?_
  dsimp only
  split
  · exact (fail_change ..).acctctl.trans hd
  · exact (signal_change ..).acctctl.trans hd

theorem sweepKept_acctctl (c : Core) : c.sweepKept.acctctl = c.acctctl := rfl

/-! ## The parts of an end (R153, R166, R167, R408) -/

theorem onLaunch_endKept (s : State) (l : Nat) (f : Launch → Launch) : EndKept (s.onLaunch l f) s := ⟨rfl, rfl⟩
theorem onCluster_endKept (s : State) (c : Nat) (f : Cluster → Cluster) : EndKept (s.onCluster c f) s := ⟨rfl, rfl⟩
theorem post_endKept (s : State) (due : Option Nat) (b : MsgBody) : EndKept (s.post due b) s := ⟨rfl, rfl⟩

theorem sendTo_endKept (s : State) (h : Word) (b : MsgBody) : EndKept (s.sendTo h b) s := by
  have hstale : EndKept (s.onFocus Core.countStale) s := onFocus_endKept s rfl
  unfold State.sendTo
  split
  · exact hstale
  · split
    · exact hstale
    · split
      · exact hstale
      · exact ⟨rfl, rfl⟩

theorem publish_endKept (s : State) (l : Launch) (j : Nat) (r : BitVec 5) (x : Word) (early : Bool) : EndKept (s.publish l j r x early) s := by
  unfold State.publish
  split
  · exact .refl s
  · dsimp only
    exact (foldl_endKept (fun _ _ => post_endKept ..) _ _).trans (onLaunch_endKept ..)

theorem closeChain_endKept (s : State) (t : Strand) (l : Launch) (early : Bool) : EndKept (s.closeChain t l early) s := by
  unfold State.closeChain
  dsimp only
  exact (onLaunch_endKept ..).trans (foldl_endKept (fun _ _ => publish_endKept ..) _ s)

theorem finishItem_endKept (s : State) (t : Strand) (lost : Bool) : EndKept (s.finishItem t lost) s := by
  unfold State.finishItem
  split
  · split
    · exact .refl s
    · exact onLaunch_endKept ..
  · exact .refl s

theorem exitItem_endKept (s : State) (t : Strand) : EndKept (s.exitItem t) s := by
  unfold State.exitItem
  refine (finishItem_endKept ..).trans ?_
  split
  · exact .refl s
  · split
    · exact .refl s
    · split
      · exact .refl s
      · exact (onLaunch_endKept ..).trans (closeChain_endKept ..)

theorem freeGang_endKept (s : State) (t : Strand) : EndKept (s.freeGang t) s := by
  unfold State.freeGang
  split
  · exact .refl s
  · refine foldl_endKept (fun s i => ?_) _ s
    split
    · exact .refl s
    · exact onCore_endKept _ _ fun _ => ⟨rfl, rfl⟩

theorem endStrand_endKept (s : State) (t : Strand) (code : Option (BitVec 8)) : EndKept (s.endStrand t code) s := by
  unfold State.endStrand
  dsimp only
  generalize hsent : (if hGen t.spawnCell = 0 then s else _) = told
  have htold : EndKept told s := by
    rw [← hsent]
    split
    · exact .refl s
    · split <;> exact sendTo_endKept ..
  have hdropped : EndKept ((told.freeGang t).dropStreams t) s := (onFocus_endKept _ rfl).trans ((freeGang_endKept ..).trans htold)
  have hleft := (foldl_endKept (f := fun (s : State) (p : Nat × Nat) => s.onCore p.1 (·.orphanCells p.2))
    (fun s p => onCore_endKept s _ fun c => ⟨(orphanCells_change c p.2).acctctl, (orphanCells_change c p.2).cid⟩) t.left _).trans hdropped
  refine EndKept.trans (onFocus_endKept _ ?_) ((onCluster_endKept ..).trans hleft)
  rw [sweepKept_acctctl, apply_ite Core.acctctl]
  simp only [ite_self, (orphanCells_change ..).acctctl]
  split
  · rfl
  · exact endBatches_acctctl _

/-! ## The words -/

theorem slot_mem {s : State} (he : s.core.exact = false) (pc : Word) : (s.slot pc).mem = s.mem := by
  unfold State.slot State.charge
  rw [if_neg Nat.one_ne_zero, runSlots_untraced he]
  rfl

/-- An exit that nothing blocks takes the strand off the core and writes no memory. -/
theorem exit_leaves {s : State} {st : Bool} (hh : s.cur.handler = none) (h : AtOnce s { holds := fun s => s.exitBlocked s.cur } st)
    (hp : s.cur.pend = []) (hf : s.flight = []) (hq : s.core.mx.queue = []) :
    ∃ t, exec (.exit st) s = .next t ∧ t.core.running = false ∧ t.mem = s.mem := by
  have hopen : s.exitBlocked s.cur = false := (Bool.or_eq_false_iff.mp h.chain).1
  obtain ⟨x, hx⟩ := settled_idle (s := s.onCur Strand.dropLdq) h.running h.untraced
    (show s.core.cur.pend.filter _ = [] by rw [show s.core.cur.pend = [] from hp]; rfl) hf hq
    fun s => .left ((((s.exitItem s.cur).endStrand s.cur none).slot (s.cur.pc + 4)).vacate)
  generalize hw : (s.onCur Strand.dropLdq).counted x = w at hx
  have hend := (endStrand_endKept (w.exitItem w.cur) w.cur none).trans (exitItem_endKept w w.cur)
  have hexact : ((w.exitItem w.cur).endStrand w.cur none).core.exact = false :=
    (congrArg (·.getLsbD 63) (hend.acctctl.trans (by rw [← hw]; rfl))).trans h.untraced
  refine ⟨(((w.exitItem w.cur).endStrand w.cur none).slot (w.cur.pc + 4)).vacate, ?_, rfl, ?_⟩
  · rw [show exec (.exit st) s = _ from issueOut_plain hh, issue, gate_atOnce h]
    exact congrArg (fun r : Res => Host.Outcome.next (r.finish st 4)) ((if_neg (by rw [hopen]; decide)).trans hx)
  · calc _ = _ := slot_mem hexact _
      _ = w.mem := hend.mem
      _ = s.mem := by rw [← hw]; rfl

/-- Settles O25: a child takes the number and the cell that are free, and an exit ends with the strand off the core. -/
theorem spawnAndExit : Obligations.SpawnAndExit := by
  intro s st d a b hh
  have hexec := show exec (.spawn st d a b) s = _ from issueOut_plain hh
  refine ⟨fun h => ⟨fun hpc => ⟨fun n tok r hn hr => ?child, fun hn => ?none⟩, fun hpc => ?misaligned⟩, exit_leaves hh⟩
  case child =>
    rw [hexec]
    refine keptWrite_gives h ((if_neg (not_not.mpr hpc)).trans (by simp only [hn, hr])) (ChainKept.trans ?_ (allocCell_kept hr))
    exact .refl r
  case none =>
    rw [hexec]
    exact keptWrite_gives h ((if_neg (not_not.mpr hpc)).trans (by simp only [hn])) (.refl s)
  case misaligned =>
    rw [hexec]
    exact issue_raise h (if_pos hpc)

end Sys2Proof.Machine
end

section
/-! SUPPORT. Messages in flight that take effect (R152, R155, R164, R168, R170, R243, R285, R289, R317, R411). -/

namespace Sys2Proof.Machine

section
variable {s : State} {i : Nat} {m : Msg} (hm : s.flight[i]? = some m) (ha : s.arrived m = true)
  (hb : ∀ e ∈ s.flight.take i, e.before m = false) (hw : s.msgHeld m = false)


include hb in
theorem none_before : (s.flight.take i).any (·.before m) = false := by
  rw [List.any_eq_false]
  exact fun e he => by rw [hb e he]; exact Bool.false_ne_true

include hm ha hw

include hb in
/-- A message whose cycle has passed and whose way is open is delivered when its event picks it and nothing has to come first. -/
theorem evMsg_delivers (hl : s.comesLater m = false) {p : MsgBody → Bool} (hp : p m.body = true) :
    s.evMsg p i = ({ s with flight := s.flight.eraseIdx i } : State).deliverBody m := by
  simp only [State.evMsg, hm]
  rw [if_pos (by simp [hp, ha, hw, none_before hb, hl])]

include hb in
/-- A publication reaches the readers on its core (R411). -/
theorem evPublication_reaches {l j c : Nat} {g : BitVec 5} (hbody : m.body = .publication l j g c) :
    s.evPublication i = some (({ s with flight := s.flight.eraseIdx i } : State).onLaunch l fun x =>
      { x with pubs := x.pubs.map fun p => if p.item = j ∧ p.reg = g then { p with reached := c :: p.reached } else p }) := by
  simp only [State.evPublication, hm, hbody]
  rw [if_pos (by simp [ha, hw, none_before hb])]

/-- An arrival at a barrier cell takes effect there (R289). -/
theorem evBarrier_arrives {lv u b n : Nat} {h : Word} {l : Option Nat} (hbody : m.body = .barrier lv u b n h l) :
    s.evBarrier i = some (({ s with flight := s.flight.eraseIdx i } : State).barArrive lv u b n h l (m.due.getD 0)) := by
  simp only [State.evBarrier, hm, hbody]
  rw [if_pos (by simp [ha, hw])]

/-- A matrix command reaches its target core (R243). -/
theorem evRemoteMatrix_arrives {core : Nat} {e : BitVec 32} {cap : BitVec 128} {h : Word} {l : Option Nat} (hbody : m.body = .matrix core e cap h l) :
    s.evRemoteMatrix i = ({ s with flight := s.flight.eraseIdx i } : State).matrixArrives core e cap h l
      (min (s.arrivalCycle m core) (s.coreOf core).cycle) := by
  simp only [State.evRemoteMatrix, hm, hbody]
  rw [if_pos (by simp [ha, hw])]

end

/-- Settles O47: each event delivers the message that it picks. -/
theorem messageArrivals : Obligations.MessageArrivals := by
  intro s i m hm ha hb hw hl r
  have deliver : ∀ {p : MsgBody → Bool} {name : String} {t : State}, p m.body = true → r.deliverBody m = some t →
      evOut name (s.evMsg p i) = .next t := fun hp ht => by
    rw [evMsg_delivers hm ha hb hw hl hp, show ({ s with flight := s.flight.eraseIdx i } : State).deliverBody m = _ from ht]
    rfl
  refine ⟨?signal, ?fail, ?deposit, ?store, ?reply, ?wake, ?hop, ?publication, ?reduce, ?matrix, ?barrier⟩
  case signal =>
    intro h c hbody hn hc
    exact deliver (by simp [hbody, State.isLocal, hn]) (by simp only [State.deliverBody, hbody, hc, Option.map_some])
  case fail =>
    intro h e c hbody hn hc
    exact deliver (by simp [hbody, State.isLocal, hn]) (by simp only [State.deliverBody, hbody, hc, Option.map_some])
  case deposit =>
    intro t g x n c hbody hn hc
    exact deliver (by simp [hbody, State.isLocal, hn]) (by simp only [State.deliverBody, hbody, hc, Option.map_some])
  case store =>
    intro c h k x l hbody hheld hcut hgone
    rw [hbody] at hheld
    refine deliver (by simp [hbody, hheld]) ?_
    simp only [State.deliverBody, hbody, State.storeArrives, hcut, hgone, Bool.false_eq_true, if_false]
  case reply =>
    intro c g h k l hbody hheld hgone hcut home o hsound
    rw [hbody] at hheld
    refine deliver (by simp [hbody, hheld]) ?_
    have hsound : (r.homeTouch (r.targetHome k) 8).homeBad (r.targetHome k) 8 = none := hsound
    simp only [State.deliverBody, hbody, State.replyAt, hcut, hgone, hsound, Bool.or_self, Bool.false_eq_true, if_false, Option.map_none]
    rfl
  case wake =>
    intro c n k hbody
    exact deliver (by simp [hbody]) (by simp only [State.deliverBody, hbody])
  case hop =>
    intro st c d n hbody hn u
    refine deliver (by simp [hbody]) ?_
    have hn : (r.coreOf c).freeNum = some n := hn
    simp only [State.deliverBody, hbody, State.hopArrives, hn]
    rfl
  case publication =>
    intro l j g c hbody
    rw [show exec (.couloirPublicationDelivery i) s = _ from congrArg (evOut _) (evPublication_reaches hm ha hb hw hbody)]
    rfl
  case reduce =>
    intro a b items hbody
    show evOut _ (s.evReduce i) = _
    simp only [State.evReduce, hm, hbody, hw, Bool.false_eq_true, if_false]
    rfl
  case matrix =>
    intro core e cap h l o hbody c host hin hhost hcap hstrand ho hrefuse hroom now
    have hc : ({ s with flight := s.flight.eraseIdx i } : State).coreOf core = c := rfl
    have hcap : (cap != c.mxcaph ++ c.mxcapl) = false := bne_eq_false_iff_eq.mpr hcap
    have hstrand : c.hasStrand (c.mxhost.extractLsb' 0 8).toNat = true := hstrand
    have hrefuse : c.mx.refuses (c.mxhost.extractLsb' 0 8).toNat o = false := hrefuse
    have harrives := congrArg (evOut "REMOTE_MATRIX_COMMAND") (evRemoteMatrix_arrives hm ha hw hbody)
    simp only [State.matrixArrives, hc, hin, hhost, hcap, hstrand, ho, hrefuse, if_neg (Nat.not_le.mpr hroom), Bool.not_true, Bool.or_self,
      Bool.false_eq_true, if_false] at harrives
    exact harrives
  case barrier =>
    intro lv u b n h l hbody c t arr
    have harrive : exec (.barrierArrival i) s = .next (r.barArrive lv u b n h l t) := by
      rw [show exec (.barrierArrival i) s = _ from congrArg (evOut _) (evBarrier_arrives hm ha hw hbody)]
      rfl
    have hopen : c.n = 0 ∨ c.n = n → ¬(c.n ≠ 0 ∧ c.n ≠ n) := fun ho hc => ho.elim hc.1 hc.2
    rw [harrive]
    refine ⟨fun h0 hn => ?_, fun ho hlen => ?_, fun ho hlen => ?_⟩
    · exact congrArg Host.Outcome.next (if_pos ⟨h0, hn⟩)
    · exact congrArg Host.Outcome.next ((if_neg (hopen ho)).trans (if_neg hlen))
    · exact congrArg Host.Outcome.next ((if_neg (hopen ho)).trans (if_pos hlen))

end Sys2Proof.Machine
end

section
/-! SUPPORT. `await` (R160): the settle before the observation takes slots, so that what the observation wakes gets a later signal time. -/

namespace Sys2Proof.Machine

/-- The token in g5 of `awaitedLate`: cell 0 of core 0, kind 1. -/
def lateToken : Word := mkHandle 0 0 0 1 1

/-- A strand whose g5 holds a token that is SIGNALLED, with a live-set entry in its own scratchpad, while a multiplication writes its result
in cycle 4. The image of another strand still waits for the token: its condition is met, and no change of a cell has woken it yet. -/
def awaitedLate : State :=
  { State.reset with
    core := { State.reset.core with
      running := true
      mulDone := 4
      cells := [(0, { TokCell.reset with st := .signalled, kind := 1 })]
      images := [{ Strand.reset with num := 1 }.image 1024 (.cell lateToken) .go 0]
      cur := { Strand.reset with
        g := Strand.reset.g.set 5 lateToken
        gdead := 0
        sp := { Strand.reset.sp with lstb := BitVec.ofNat 64 (0xD * 2 ^ 52 + 0x1FF * 2 ^ 41), lstn := 1 } } } }

theorem awaitedLate_atOnce : AtOnce awaitedLate { g := [5] } false where
  running := rfl
  untraced := rfl
  noRun := rfl
  priv := nofun
  full := rfl
  live := rfl
  banks := nofun
  powered := le_rfl
  streams := rfl
  room := by decide
  chain := rfl
  ready := rfl
  queue := rfl
  going := rfl
  calm := nofun
  idle := rfl

theorem awaitedLate_liveSet : HasLiveSet awaitedLate 0 0 (2 ^ 52) where
  below := by decide
  inLine := by decide +kernel
  leads := by decide +kernel
  sound := show (awaitedLate.opened (liveAddr awaitedLate 0) (2 ^ 52) 16).badAt (2 ^ 52) 16 = none by decide +kernel
  entry := by decide +kernel
  legal := by decide

/-- The state before the observation, with the registers outside the live set killed. -/
def awaitedLate.killed : State := (awaitedLate.opened (liveAddr awaitedLate 0) (2 ^ 52) 16).onCur (·.kill 0)

/-- The state that the statement has after the `await`. -/
def awaitedLate.stated : State :=
  let x := awaitedLate.killed.core.status (awaitedLate.rg 5)
  ((if observes x then awaitedLate.killed.observe (awaitedLate.rg 5) else awaitedLate.killed).wg 6 x).after4 false

/-- There the other strand is woken in the cycle in which the `await` issues. -/
theorem awaitedLate_wakesNow : awaitedLate.stated.core.images.map Image.sigTime = [0] := by decide +kernel

/-- `await` wakes it 4 slots later, once the multiplication has written its result (R106, R160). -/
theorem awaitedLate_wakesLater : ∃ t, exec (.await false 6 5 0) awaitedLate = .next t ∧ t.core.images.map Image.sigTime = [4] :=
  ⟨_, rfl, by decide +kernel⟩

/-- Refutes O24: the observation of the `await` frees the token's cell, which makes runnable the strand whose condition it finds met (R162). Its
signal time is the cycle after the settle, not that of the state before it. The hypotheses of the statement do not exclude an image whose condition
is met and which nothing has woken yet. -/
theorem not_awaitAndYield : ¬ Obligations.AwaitAndYield := by
  intro h
  obtain ⟨hawait, -⟩ := h awaitedLate false 6 5 0 0 (2 ^ 52) rfl rfl rfl rfl rfl awaitedLate_liveSet
  obtain ⟨hgoes, -⟩ := hawait awaitedLate_atOnce (.inr (by decide +kernel))
  have hgives : Gives (exec (.await false 6 5 0) awaitedLate) awaitedLate.stated := hgoes (by decide +kernel)
  obtain ⟨x, hx⟩ := hgives
  obtain ⟨t, ht, hlater⟩ := awaitedLate_wakesLater
  obtain rfl : t = awaitedLate.stated.counted x := Host.Outcome.next.inj (ht.symm.trans hx)
  exact absurd (hlater.symm.trans awaitedLate_wakesNow) (by decide)

end Sys2Proof.Machine
end

section
/-! SUPPORT. The accounting words (R184-R188): what `acctrd` selects, the completion that ends a run, and the write of ACCTCTL that opens
the first run of the exact trace. -/

namespace Sys2Proof.Machine

/-! ## The counters that `acctrd` reads (R185) -/

theorem sumCounters_eq_sum {w : Nat} (v : Vector (BitVec w) 16) : sumCounters v = (v.toList.map BitVec.toNat).sum := by
  rw [List.sum_eq_foldl, List.foldl_map]
  rfl

/-- A selector of a single counter: no bit of the reserved ones and of the sum, the file, and the cause. -/
theorem counterSelector_fields : ∀ (core : Bool) (c : Fin 16), let x := BitVec.ofNat 64 (if core then 256 + c.val else c.val)
    (x.extractLsb' 9 55 = 0 ∧ x.extractLsb' 5 3 = 0) ∧ x.getLsbD 4 = false ∧ x.getLsbD 8 = core ∧ (x.extractLsb' 0 4).toNat = c.val := by
  decide

theorem acctValue_counter (s : State) (core : Bool) (c : Fin 16) :
    s.acctValue (BitVec.ofNat 64 (if core then 256 + c.val else c.val)) =
      if core then s.core.acct[c] else s.cur.counters[c].setWidth 64 := by
  obtain ⟨⟨hhigh, hmid⟩, hsum, hcore, hcause⟩ := counterSelector_fields core c
  simp only [State.acctValue, hhigh, hmid, hsum, hcore, hcause, ne_eq, not_true_eq_false, or_self, Bool.false_eq_true, if_false,
    Vector.getElem?_eq_getElem c.isLt, Option.getD_some, BitVec.ofNat_toNat, Nat.mod_eq_of_lt (BitVec.isLt _), Fin.getElem_fin]
  cases core with
  | false => rfl
  | true => exact BitVec.setWidth_eq _

theorem acctValue_strandSum (s : State) : s.acctValue 16 = BitVec.ofNat 64 ((s.cur.counters.toList.map BitVec.toNat).sum % 2 ^ 48) := by
  rw [← sumCounters_eq_sum]
  rfl

theorem acctValue_coreSum (s : State) : s.acctValue 272 = BitVec.ofNat 64 (s.core.acct.toList.map BitVec.toNat).sum := by
  rw [← sumCounters_eq_sum]
  rfl

theorem acctrd_gives {s : State} {st : Bool} {d a : BitVec 5} {v : Word} (h : AtOnce s { g := [a] } st) (hv : s.acctValue (s.rg a) = v) :
    Gives (exec (.acctrd st d a) s) ((s.wg d v).after4 st) :=
  keptWrite_gives h (t := s) (congrArg (fun v => Res.ok (s.wg d v)) hv) (.refl s)

/-! ## `mark` and `acctclr` (R184) -/

theorem exactRecord_untraced {s : State} (he : s.core.exact = false) (type val : Nat) : s.exactRecord type val = s :=
  if_neg (by simp [he])

theorem mark_eq {s : State} {st : Bool} {a : BitVec 5} (h : AtOnce s { g := [a] } st) :
    exec (.mark st a) s = .next ((s.endRun st).finish st 4) := by
  show issue st 4 _ _ s = _
  rw [issue, gate_atOnce h, exactRecord_untraced h.untraced]

/-- The counters that a mask names are cleared, and the run is still open: where `acctclr` stands before its own slot (R184). -/
def State.acctCleared (s : State) (x : Word) : State := s.onCur (·.clearCounters x)

theorem acctCleared_like (s : State) (x : Word) : Like (s.acctCleared x) s :=
  ⟨{ s.accounting with counters := (s.cur.clearCounters x).counters }, rfl⟩

theorem acctclr_eq {s : State} {st : Bool} {a : BitVec 5} (h : AtOnce s { g := [a] } st) :
    exec (.acctclr st a) s = .next (((s.acctCleared (s.rg a)).endRun st).finish st 4) := by
  have hexact : (s.acctCleared (s.rg a)).core.exact = false := (acctCleared_like ..).exact.trans h.untraced
  show issue st 4 _ _ s = _
  rw [issue, gate_atOnce h]
  exact congrArg (fun t : State => Host.Outcome.next ((t.endRun st).finish st 4)) (exactRecord_untraced hexact ..)

/-- Without an exact trace, the end of a run leaves the instruction's own slot. -/
theorem endRun_gives {s t : State} {u : Use} {st : Bool} (h : Issues s u st) (ht : Like t s) :
    Gives (.next ((t.endRun st).finish st 4)) (s.after4 st) := by
  obtain ⟨x, rfl⟩ := ht
  obtain ⟨y, hy⟩ := slot_like (s := s.counted x) h.running h.untraced (s.cur.pc + 4)
  have hslot : Like (((s.counted x).goOn (s.cur.pc + 4)).counted y) (s.goOn (s.cur.pc + 4)) := ⟨y, rfl⟩
  obtain ⟨z, hz⟩ := settled_like h.running h.untraced h.calm hslot
  refine ⟨z, ?_⟩
  rw [State.endRun, show (s.counted x).cur.pc = s.cur.pc from rfl, hy, closeRun_none (s := ((s.counted x).goOn _).counted y) h.noRun, hz]
  rfl

theorem getElem_bump {w : Nat} (v : Vector (BitVec w) 16) (k n : Nat) (i : Fin 16) :
    (bump v k n)[i] = v[i] + if i.val = k then BitVec.ofNat w n else 0 := by
  simp only [bump, Fin.getElem_fin, Vector.getElem_setIfInBounds, eq_comm (a := k)]
  split
  · next hk => simp [← hk]
  · simp

/-- An instruction's own slot counts as an ISSUE slot of its strand (R182). -/
theorem slot_counters {s : State} (hr : s.core.running = true) (he : s.core.exact = false) (pc : Word) (i : Fin 16) :
    (s.slot pc).cur.counters[i] = s.cur.counters[i] + if i.val = 0 then 1 else 0 := by
  have hcharge : (s.slot pc).cur.counters = bump s.cur.counters 0 1 := by
    simp only [State.slot, State.charge, Nat.one_ne_zero, if_false, runSlots_untraced he, State.onFocus, hr, true_and, if_true]
    rfl
  rw [hcharge, getElem_bump]
  rfl

/-- Where `acctclr` does not settle, its own slot alone is in the counters that its mask names. -/
theorem acctclr_counters {s : State} {a : BitVec 5} (h : AtOnce s { g := [a] } false) :
    ∃ t, exec (.acctclr false a) s = .next t ∧
      ∀ i : Fin 16, t.cur.counters[i] = (if (s.rg a).getLsbD i.val then 0 else s.cur.counters[i]) + if i.val = 0 then 1 else 0 := by
  obtain ⟨x, hx⟩ := acctCleared_like s (s.rg a)
  obtain ⟨y, hy⟩ := slot_like (s := s.counted x) h.running h.untraced (s.cur.pc + 4)
  have hend : ((s.counted x).unwait.slot (s.cur.pc + 4)).closeRun = (s.counted x).unwait.slot (s.cur.pc + 4) :=
    closeRun_none (by rw [hy]; exact h.noRun)
  refine ⟨(s.counted x).unwait.slot (s.cur.pc + 4), ?_, fun i => ?_⟩
  · rw [acctclr_eq h, hx]
    exact congrArg Host.Outcome.next hend
  · rw [slot_counters (s := (s.counted x).unwait) h.running h.untraced]
    have hcounters : (s.counted x).cur.counters = (s.cur.clearCounters (s.rg a)).counters := by rw [← hx]; rfl
    refine congrArg (· + _) ?_
    show (s.counted x).cur.counters[i] = _
    rw [hcounters]
    exact Vector.getElem_ofFn _

/-! ## The switch to the exact trace (R186-R188) -/

theorem putLost_none {s : State} (h : s.core.lost = Vector.replicate 16 0) (n : Nat) : s.putLost n = s := by
  induction n with
  | zero => rfl
  | succ n ih =>
    have hzero : s.core.lost[n]?.getD 0 = 0 := by
      rw [h, Vector.getElem?_replicate]
      split <;> rfl
    simp only [State.putLost, ih, hzero, true_or, if_true]

/-- With nothing lost and room in the ring, a record is written. -/
theorem trace_puts {s : State} (hl : s.core.lost = Vector.replicate 16 0) (hf : s.core.ringFull = false) (type cause ctx pc val : Nat) :
    s.trace type cause ctx pc val = s.putRecord (traceRecord type cause ctx pc val) := by
  simp only [State.trace, putLost_none hl, hf, Bool.false_eq_true, if_false]

/-- A record in the ring moves WR on, and nothing else of the core. -/
theorem putRecord_core (s : State) (r : Nat) :
    (s.putRecord r).core = { s.core with trptr := s.core.trptr.extractLsb' 32 32 ++ (s.core.trptr.extractLsb' 0 32 + 1) } := by
  simp only [State.putRecord, State.onFocus, State.storePa, homeStore_core]

theorem exact_acctctlAfter (old v : Word) : (acctctlAfter old v).getLsbD 63 = v.getLsbD 63 := by
  have hwritten : (bits 63 61 ||| bits 4 0).getLsbD 63 = true := by decide
  have hkept : (bits 60 59).getLsbD 63 = false := by decide
  rw [acctctlAfter, BitVec.getLsbD_or, BitVec.getLsbD_and, BitVec.getLsbD_and, BitVec.getLsbD_and, hwritten, hkept]
  simp only [Bool.and_true, Bool.and_false, Bool.false_and, Bool.or_false]

/-- In the exact trace, the slot of an instruction opens a run where none is open (R188). -/
theorem slot_opensRun {s : State} (he : s.core.exact = true) (hn : s.core.run = none) (pc : Word) :
    (s.slot pc).core.run = some ⟨.issue, s.cur.num, s.cur.pc, pc, 1⟩ ∧ (s.slot pc).core.acctctl = s.core.acctctl ∧
      (s.slot pc).core.trptr = s.core.trptr ∧ (s.slot pc).cur.pc = pc := by
  have hopen : s.runSlots .issue s.cur.num s.cur.pc pc 1 = s.onFocus fun c => { c with run := some ⟨.issue, s.cur.num, s.cur.pc, pc, 1⟩ } := by
    rw [State.runSlots, if_pos he, hn]
  simp only [State.slot, State.charge, Nat.one_ne_zero, if_false, Option.getD_some, Option.isSome_some, if_true, hopen, State.onFocus]
  split <;> exact ⟨rfl, rfl, rfl, rfl⟩

/-- The state behind the write that sets EXACT: ACCTCTL as written, and the time record in the ring. -/
def State.exactOn (s : State) (v : Word) : State :=
  ((s.onFocus fun c => { c with acctctl := acctctlAfter c.acctctl v }).putRecord (traceRecord 4 0 0 0 s.core.cycle)).unwait

theorem exactOn_fields (s : State) (v : Word) :
    (s.exactOn v).cur = s.cur ∧ (s.exactOn v).core.acctctl = acctctlAfter s.core.acctctl v ∧ (s.exactOn v).core.run = s.core.run ∧
      (s.exactOn v).core.trptr.extractLsb' 0 32 = s.core.trptr.extractLsb' 0 32 + 1 := by
  simp only [State.exactOn, State.unwait, State.cur, onFocus_core, putRecord_core, true_and]
  exact BitVec.extractLsb'_append_eq_right

/-- A special's write whose value passes the checks of R76 and whose effect completes. -/
theorem wrsWith_completes {s t : State} {st : Bool} {a : BitVec 5} {x : BitVec 12} {body : Word → State → Res}
    (h : AtOnce s { priv := decide (0x800 ≤ x.toNat), g := [a] } st) (hok : s.fieldsOk x (s.rg a) = true)
    (hval : reservedValue x.toNat (s.rg a) = false) (hb : body (s.rg a) s = .ok t) :
    wrsWith st a x body s = .next (t.unwait.complete st 4) := by
  rw [wrsWith, issueSpecial, gate_atOnce h]
  simp only [hok, hval, Bool.not_false, Bool.and_self, if_true, hb]
  rfl

theorem wrsAcctctl_exactOn {s : State} {a : BitVec 5} (h : AtOnce s { priv := true, g := [a] } false) (hok : s.fieldsOk 0x813 (s.rg a) = true)
    (hmin : 10 ≤ ((s.rg a).extractLsb' 0 5).toNat) (hmax : ((s.rg a).extractLsb' 0 5).toNat ≤ 24) (hset : (s.rg a).getLsbD 63 = true)
    (hlost : s.core.lost = Vector.replicate 16 0)
    (hroom : ({ s.core with acctctl := acctctlAfter s.core.acctctl (s.rg a) } : Core).ringFull = false) :
    exec (.wrsAcctctl false a) s = .next ((s.exactOn (s.rg a)).slot ((s.exactOn (s.rg a)).cur.pc + 4)) := by
  have hsize : ¬(((s.rg a).extractLsb' 0 5).toNat < 10 ∨ 24 < ((s.rg a).extractLsb' 0 5).toNat) := by omega
  have htime := trace_puts (s := s.onFocus fun c => { c with acctctl := acctctlAfter c.acctctl (s.rg a) }) hlost hroom 4 0 0 0 s.core.cycle
  show execWrsAcctctl _ _ _ = _
  refine wrsWith_completes (x := 0x813) h hok rfl ?_
  simp only [hsize, h.untraced, hset, Bool.not_false, Bool.and_self, Bool.false_and, Bool.false_eq_true, if_true, if_false]
  exact congrArg Res.ok htime

/-- Settles O28: `acctrd` by its selectors; `mark` and `acctclr` by their common end; the switch by the record that it writes and the run
that its own slot opens. -/
theorem accountingWords : Obligations.AccountingWords := by
  refine ⟨fun s st d a h => ⟨fun c => ⟨fun hx => ?_, fun hx => ?_⟩, fun hx => ?_, fun hx => ?_, ?_, ?_, ?_⟩,
    fun s a h hok hmin hmax hset hlost hroom => ?_⟩
  · exact acctrd_gives h (hx ▸ acctValue_counter s false c)
  · exact acctrd_gives h (hx ▸ acctValue_counter s true c)
  · exact acctrd_gives h (hx ▸ acctValue_strandSum s)
  · exact acctrd_gives h (hx ▸ acctValue_coreSum s)
  · rw [mark_eq h]
    exact endRun_gives h.toIssues (.refl s)
  · rw [acctclr_eq h]
    exact endRun_gives h.toIssues (acctCleared_like ..)
  · rintro rfl
    exact acctclr_counters h
  · obtain ⟨hcur, hctl, hrun, hptr⟩ := exactOn_fields s (s.rg a)
    have hexact : (s.exactOn (s.rg a)).core.exact = true := by
      rw [Core.exact, hctl, exact_acctctlAfter, hset]
    obtain ⟨hopen, hctl', hptr', hpc⟩ := slot_opensRun hexact (hrun.trans h.noRun) ((s.exactOn (s.rg a)).cur.pc + 4)
    rw [hcur] at hopen hpc
    exact ⟨_, wrsAcctctl_exactOn h hok hmin hmax hset hlost hroom, hctl'.trans hctl, by rw [hcur, hpc], by rw [hptr', hptr], by rw [hcur, hopen]⟩

end Sys2Proof.Machine
end

section
/-! SUPPORT. Scalar stores (R207): what a store at a key leaves in memory (R346), and the frame of a store that reaches its key. -/

namespace Sys2Proof.Machine

/-! ## A store without reduce-adds under way -/

theorem reducesTo_any {m : Msg} {p : Nat → Bool} (h : m.reducesTo p = true) : m.reducesTo (fun _ => true) = true := by
  unfold Msg.reducesTo at h ⊢
  split at h
  · obtain ⟨c, hc, -⟩ := List.any_eq_true.mp h
    exact List.any_eq_true.mpr ⟨c, hc, rfl⟩
  · cases h

/-- Without a packet in flight and a buffered contribution, an access adds nothing first (R319). -/
theorem touch_quiet {s : State} (hd : s.dies.toList.all (fun d => d.detred.isEmpty) = true)
    (hf : (s.flight.all fun m => !m.reducesTo fun _ => true) = true) (k n : Nat) : s.touch k n = s := by
  have hp : ∀ p, s.flight.any (·.reducesTo p) = false := fun p => List.any_eq_false.mpr fun m hm hr => by
    have := List.all_eq_true.mp hf m hm
    rw [reducesTo_any hr] at this
    cases this
  simp only [State.touch, State.drainLines, State.arriveReduces, hp, Bool.false_eq_true, if_false, hd, if_true]

theorem cleanLines_fullWords (s : State) (k n : Nat) : (s.cleanLines k n).fullWords = s.fullWords := by
  unfold State.cleanLines
  split <;> rfl

/-- Settles O7: with nothing to add first, a store is a write of its bytes into the list. -/
theorem storedBytes : Obligations.StoredBytes := by
  intro s key n v hm hd hf t
  have hq := touch_quiet hd hf key n
  have ht : t.mem = Memory.putN s.mem key n v := by simp only [t, State.homeStore, hq]
  refine ⟨fun i hi => ?stored, fun k hk => ?others, homeStore_core .., ?full, ?form⟩
  case stored => rw [ht, get_putN n hm, if_pos (by omega), Nat.add_sub_cancel_left]
  case others => rw [ht, get_putN n hm, if_neg (by omega)]
  case full =>
    show ((s.touch key n).cleanLines key n).fullWords = _
    rw [cleanLines_fullWords, hq]
  case form =>
    show Memory.wf t.mem = true
    rw [ht]
    exact putN_wf n key v hm

/-! ## The frame of a store -/

/-- A store that reaches its key writes the low bytes there. -/
theorem storePtr_reaches {s : State} {n : Nat} {ea : Word} {key : Nat} (h : Reaches s .write n false ea key) (hn : 0 < n) (hd : n ∣ 64) (x : Word) :
    s.storePtr x n ea = .ok ((s.opened (addrOf ea) key n).homeStore (.here key) n (x.toNat % 2 ^ (8 * n))) := by
  have hr : ¬(region (addrOf ea) = 14 ∧ n = 8) := fun hc => by have := h.region; omega
  rw [State.storePtr, h.tag, Bool.not_true, if_neg Bool.false_ne_true, if_neg hr, State.storeAt, checkAt_reaches h hn hd]
  rfl

/-- A change that leaves the core leaves the frame of the strand's word. -/
theorem ChainKept.of_core {t s : State} (h : t.core = s.core) : ChainKept t s := by
  refine ⟨?_, ?_, ?_, ?_, ?_, fun _ => ?_⟩ <;> simp only [State.rg, State.cur, h]

/-- What a store word gives. -/
theorem storeWord_gives {s : State} {st : Bool} {d a : BitVec 5} {o : BitVec 13} {n key : Nat} (h : AtOnce s { g := [d, a] } st)
    (hn : 0 < n) (hd : n ∣ 64) :
    let ea := adda (s.rg a) (o.signExtend 64 * BitVec.ofNat 64 n)
    Reaches s .write n false ea key →
      Gives (storeWord st d a o n s) (((s.opened (addrOf ea) key n).homeStore (.here key) n ((s.rg d).toNat % 2 ^ (8 * n))).after4 st) :=
  fun hr => kept_gives h (storePtr_reaches hr hn hd _) (.of_core ((homeStore_core ..).trans (opened_core ..)))

/-- Settles O6: each store is the shape of its size. -/
theorem storeResults : Obligations.StoreResults := by
  intro s st d a o key h ea store
  refine ⟨fun hr => ?_, fun hr => ?_, fun hr => ?_, fun hr => ?_⟩
  · exact storeWord_gives h (by decide) (by decide) hr
  · exact storeWord_gives h (by decide) (by decide) hr
  · exact storeWord_gives h (by decide) (by decide) hr
  · exact storeWord_gives h (by decide) (by decide) hr

end Sys2Proof.Machine
end

section
/-! SUPPORT. The checks of scalar loads and stores (R195, R199, R223): which trap an access that is refused takes. -/

namespace Sys2Proof.Machine

/-! ## What the checks of an access answer -/

section
variable {s : State} {ag : Agent} {k : AccKind} {n va : Nat}

theorem checkAt_barred (h : 14 ≤ region va) : s.checkAt ag k n va = .trap 0x07 (infoAt va) := by
  simp only [State.checkAt, if_pos h]

theorem checkAt_denied (h : region va < 14) {p : Nat × Nat} (hp : ((pieces va n).find? fun p => s.locate ag k p.1 p.2 == .denied) = some p) :
    s.checkAt ag k n va = .trap 0x07 (infoAt p.1) := by
  simp only [State.checkAt, if_neg (Nat.not_le.mpr h), hp]

theorem checkAt_misaligned (h : region va < 14) (hp : ((pieces va n).find? fun p => s.locate ag k p.1 p.2 == .denied) = none) (ha : va % n ≠ 0) :
    s.checkAt ag k n va = .trap 0x04 (infoAt va) := by
  simp only [State.checkAt, if_neg (Nat.not_le.mpr h), hp, if_pos ha]

/-- An aligned access lies in one line, which is refused as a whole (R199). -/
theorem checkAt_bounds (h : region va < 14) (hn : 0 < n) (hd : n ∣ 64) (ha : va % n = 0) (hl : s.locate ag k va n = .bounds) :
    s.checkAt ag k n va = .trap 0x06 (infoAt (s.firstBound ag k va n)) := by
  have hne : (Loc.bounds == Loc.denied) = false := rfl
  simp only [State.checkAt, if_neg (Nat.not_le.mpr h), pieces_one hn hd ha, List.find?_cons, List.find?_nil, hl, hne, ha, ne_eq,
    not_true_eq_false, if_false]

end

/-! ## The words -/

/-- A word `i` whose access of `n` bytes through `ea` takes the traps that its checks find, but in the windows of region 0xE. -/
def TakesTraps (i : Instr) (s : State) (k : AccKind) (n : Nat) (ea : Word) : Prop :=
  ∀ c v, s.scalarAcc k n false ea = .trap c v → (scalarTagOk n false ea = true → ¬(region (addrOf ea) = 14 ∧ n = 8)) →
    exec i s = .next (s.unwait.takeTrap (mkTrap c v))

/-- The checks in their order, each with its trap (R223). -/
theorem TakesTraps.ordered {i : Instr} {s : State} {k : AccKind} {n : Nat} {ea : Word} (h : TakesTraps i s k n ea) (hn : 0 < n) (hd : n ∣ 64) :
    let va := addrOf ea
    let takes := fun (c : BitVec 8) (info : Nat) => exec i s = .next (s.unwait.takeTrap (mkTrap c (BitVec.ofNat 64 info)))
    let refused := (pieces va n).find? fun p => s.locate s.agent k p.1 p.2 == .denied
    (scalarTagOk n false ea = false → takes 0x05 va) ∧
      (scalarTagOk n false ea = true →
        (region va = 15 ∨ (region va = 14 ∧ n ≠ 8) → takes 0x07 va) ∧
        (region va < 14 →
          (∀ p, refused = some p → takes 0x07 p.1) ∧
          (refused = none → va % n ≠ 0 → takes 0x04 va) ∧
          (va % n = 0 → s.locate s.agent k va n = .bounds → takes 0x06 (s.firstBound s.agent k va n)))) := by
  intro va takes refused
  refine ⟨fun ht => ?format, fun ht => ?tagged⟩
  case format =>
    exact h _ _ (by rw [State.scalarAcc, ht]; rfl) fun ht' => by rw [ht] at ht'; cases ht'
  case tagged =>
    have hacc : s.scalarAcc k n false ea = s.checkAt s.agent k n va := by rw [State.scalarAcc, ht]; rfl
    refine ⟨fun hr => ?barred, fun hr => ⟨fun p hp => ?denied, fun hp ha => ?misaligned, fun ha hl => ?bounds⟩⟩
    case barred =>
      have hge : 14 ≤ region va := by omega
      exact h _ _ (hacc.trans (checkAt_barred hge)) fun _ hw =>
        hr.elim (fun h15 => absurd (h15.symm.trans hw.1) (by decide)) fun h14 => h14.2 hw.2
    case denied => exact h _ _ (hacc.trans (checkAt_denied hr hp)) fun _ hw => Nat.ne_of_lt hr hw.1
    case misaligned => exact h _ _ (hacc.trans (checkAt_misaligned hr hp ha)) fun _ hw => Nat.ne_of_lt hr hw.1
    case bounds => exact h _ _ (hacc.trans (checkAt_bounds hr hn hd ha hl)) fun _ hw => Nat.ne_of_lt hr hw.1

/-- A load that its checks refuse raises their trap. -/
theorem loadPtr_refused {s : State} {n : Nat} {ea : Word} {c : BitVec 8} {v : Word} (h : s.scalarAcc .read n false ea = .trap c v)
    (hw : scalarTagOk n false ea = true → ¬(region (addrOf ea) = 14 ∧ n = 8)) (d : BitVec 5) (signed : Bool) :
    s.loadPtr d n signed ea = s.raise c v := by
  unfold State.scalarAcc at h
  unfold State.loadPtr
  cases ht : scalarTagOk n false ea
  · rw [ht] at h
    cases h
    rfl
  · rw [ht, Bool.not_true, if_neg Bool.false_ne_true] at h
    rw [Bool.not_true, if_neg Bool.false_ne_true, if_neg (hw ht), State.loadAt, h]
    rfl

/-- A store that its checks refuse raises their trap. -/
theorem storePtr_refused {s : State} {n : Nat} {ea : Word} {c : BitVec 8} {v : Word} (h : s.scalarAcc .write n false ea = .trap c v)
    (hw : scalarTagOk n false ea = true → ¬(region (addrOf ea) = 14 ∧ n = 8)) (x : Word) : s.storePtr x n ea = s.raise c v := by
  unfold State.scalarAcc at h
  unfold State.storePtr
  cases ht : scalarTagOk n false ea
  · rw [ht] at h
    cases h
    rfl
  · rw [ht, Bool.not_true, if_neg Bool.false_ne_true] at h
    rw [Bool.not_true, if_neg Bool.false_ne_true, if_neg (hw ht), State.storeAt, h]
    rfl

theorem loadWord_takesTraps {i : Instr} {s : State} {st : Bool} {d a : BitVec 5} {o : BitVec 12} {n : Nat} {signed : Bool}
    (hi : exec i s = loadWord st d a o n signed s) (h : AtOnce s { g := [a], pends := 1 } st) :
    TakesTraps i s .read n (adda (s.rg a) (o.signExtend 64 * BitVec.ofNat 64 n)) :=
  fun _ _ hc hw => hi.trans (issue_raise h (loadPtr_refused hc hw d signed))

theorem storeWord_takesTraps {i : Instr} {s : State} {st : Bool} {d a : BitVec 5} {o : BitVec 13} {n : Nat}
    (hi : exec i s = storeWord st d a o n s) (h : AtOnce s { g := [d, a] } st) :
    TakesTraps i s .write n (adda (s.rg a) (o.signExtend 64 * BitVec.ofNat 64 n)) :=
  fun _ _ hc hw => hi.trans (issue_raise h (storePtr_refused hc hw _))

/-- Settles O8: each word takes the traps of its checks, and they come in their order. -/
theorem accessChecks : Obligations.AccessChecks := by
  intro s st d a o q traps
  refine ⟨fun h => ⟨?_, ?_, ?_, ?_, ?_, ?_, ?_⟩, fun h => ⟨?_, ?_, ?_, ?_⟩⟩
  · exact (loadWord_takesTraps (signed := true) rfl h).ordered (by decide) (by decide)
  · exact (loadWord_takesTraps (signed := false) rfl h).ordered (by decide) (by decide)
  · exact (loadWord_takesTraps (signed := true) rfl h).ordered (by decide) (by decide)
  · exact (loadWord_takesTraps (signed := false) rfl h).ordered (by decide) (by decide)
  · exact (loadWord_takesTraps (signed := true) rfl h).ordered (by decide) (by decide)
  · exact (loadWord_takesTraps (signed := false) rfl h).ordered (by decide) (by decide)
  · exact (loadWord_takesTraps (signed := true) rfl h).ordered (by decide) (by decide)
  · exact (storeWord_takesTraps rfl h).ordered (by decide) (by decide)
  · exact (storeWord_takesTraps rfl h).ordered (by decide) (by decide)
  · exact (storeWord_takesTraps rfl h).ordered (by decide) (by decide)
  · exact (storeWord_takesTraps rfl h).ordered (by decide) (by decide)

end Sys2Proof.Machine
end

section
/-! SUPPORT. Remote accesses with tokens (R208) and atomics (R209-R211): the cell that a token takes, and a store after the wait of a
release order. -/

namespace Sys2Proof.Machine

/-! ## Tokens (R208) -/

/-- The state in which an access has opened its address and taken a cell has the strand and the frame of before. -/
theorem openedCell_core {s r : State} {va key n count : Nat} {kind : BitVec 3} {tok : Word}
    (ha : (s.opened va key n).allocCell kind count = some (tok, r)) :
    r.cur = s.cur ∧ r.core.cid = s.core.cid ∧ r.core.ir = s.core.ir ∧ r.core.running = s.core.running ∧ r.core.exact = s.core.exact := by
  unfold State.allocCell at ha
  split at ha
  · cases ha
  · rename_i hc
    cases ha
    obtain ⟨_, _, _, hcore⟩ := alloc_change hc
    rw [opened_core] at hcore
    subst hcore
    exact ⟨rfl, rfl, rfl, rfl, rfl⟩

/-- A result that no settle takes yet leaves calm results calm. -/
theorem defer_undue_calm {s : State} (h : s.cur.Calm) {e : Pending} (hu : e.due = false) : (s.defer e).cur.Calm := by
  intro f hf hd
  obtain ⟨g, hg, hp⟩ := defer_pend s e
  rw [hp] at hf
  rcases List.mem_append.mp hf with hold | hnew
  · have hcalm : ({ s.cur with pend := s.cur.pend.map g } : Strand).Calm := calm_lessened h hg rfl rfl
    exact hcalm f hold hd
  · obtain rfl := List.mem_singleton.mp hnew
    rw [hu] at hd
    cases hd

/-- Settles O9: past its checks each word takes its cell, and goes on at once. -/
theorem tokenAccesses : Obligations.TokenAccesses := by
  intro s r st d a b key tok ea va
  refine ⟨fun h hbd hr ha htok => ?ldq, fun h hr ha => ?stq⟩
  case ldq =>
    intro e
    obtain ⟨hcur, hcid, hir, hrun, hexact⟩ := openedCell_core ha
    have hcell : ((s.cacheFor s.agent (addrOf (adda (s.rg a) 0))).homeTouch (.here key) 8).allocCell 3 1 = some (tok, r) := ha
    have hgo : s.scalarAcc .read 8 false (adda (s.rg a) 0) = .go (.here key) := scalarAcc_reaches hr (by decide) (by decide)
    have hne : ¬((b == d && d != 0) = true) := by
      rcases hbd with hbd | hbd <;> simp [hbd]
    have hcalm : st = true → (r.wg b tok).cur.Calm := fun hst => wg_calm (hcur ▸ h.calm hst) b tok
    show Gives (execLdq st d a b s) _
    rw [execLdq, if_neg hne]
    refine issue_at h ?_ (hrun.trans h.running) (hexact.trans h.untraced) fun hst => ?_
    · simp only [hgo, State.withAcc, hcell, e, hcur, hcid, hir]
      rfl
    · refine defer_undue_calm (hcalm hst) (e := e) ?_
      simp only [e, Pending.due, beq_eq_false_iff_ne.mpr htok, Bool.or_false]
  case stq =>
    obtain ⟨hcur, hcid, hir, hrun, hexact⟩ := openedCell_core ha
    have hcell : ((s.cacheFor s.agent (addrOf (adda (s.rg a) 0))).homeTouch (.here key) 8).allocCell 3 1 = some (tok, r) := ha
    have hgo : s.scalarAcc .write 8 false (adda (s.rg a) 0) = .go (.here key) := scalarAcc_reaches hr (by decide) (by decide)
    show Gives (execStq st d a b s) _
    refine issue_at h ?_ (hrun.trans h.running) (hexact.trans h.untraced) fun hst => wg_calm (hcur ▸ h.calm hst) b tok
    have hvalue : r.rg d = s.rg d := congrArg (·.readG d) hcur
    simp only [hgo, State.withAcc, hcell, hvalue, hcur, hcid]
    rfl

/-! ## Packets in flight (R317-R319) -/

theorem addContribution_flight (s : State) (c : Contribution) : (s.addContribution c).flight = s.flight := by
  unfold State.addContribution
  dsimp only
  split
  · split <;> rfl
  · rfl

theorem addPackets_flight (s : State) (l : List Contribution) : (s.addPackets l).flight = s.flight := by
  unfold State.addPackets
  generalize s.onTheWay l = l
  induction l generalizing s with
  | nil => rfl
  | cons c l ih => rw [List.foldl_cons, ih, addContribution_flight]

theorem arrivals_flight (l : List Msg) (s : State) : (l.foldl (fun s m => s.addPackets m.contributions) s).flight = s.flight := by
  induction l generalizing s with
  | nil => rfl
  | cons m l ih => rw [List.foldl_cons, ih, addPackets_flight]

/-- No packet in flight has a contribution to the lines of `n` bytes from a key. -/
def State.NoPackets (s : State) (k n : Nat) : Prop :=
  (s.flight.any (·.reducesTo fun l => decide (k / 64 ≤ l) && decide (l ≤ (k + n - 1) / 64))) = false

theorem arriveReduces_noPackets (s : State) (p : Nat → Bool) : ((s.arriveReduces p).flight.any (·.reducesTo p)) = false := by
  unfold State.arriveReduces
  split
  · rw [arrivals_flight, List.any_filter]
    exact List.any_eq_false.mpr fun m _ hm => by cases hr : m.reducesTo p <;> simp [hr] at hm
  · exact Bool.eq_false_iff.mpr ‹_›

theorem drainDie_flight (s : State) (d : Nat) (p : Nat → Bool) : (s.drainDie d p).flight = s.flight := rfl

theorem touch_noPackets (s : State) (k n : Nat) : (s.touch k n).NoPackets k n := by
  unfold State.NoPackets State.touch State.drainLines
  dsimp only
  split
  · exact arriveReduces_noPackets _ _
  · simp only [drainDie_flight]
    exact arriveReduces_noPackets _ _

theorem performReduces_noPackets {s : State} {k n : Nat} (h : s.NoPackets k n) : s.performReduces.NoPackets k n := by
  have hf : s.performReduces.flight = s.flight.filter fun m => !m.reduceOf s.core.cid := arrivals_flight _ _
  rw [State.NoPackets, hf]
  exact List.any_eq_false.mpr fun m hm hr => List.any_eq_false.mp h m (List.mem_filter.mp hm).1 hr

theorem released_noPackets (s : State) (o : BitVec 3) (va key n : Nat) : (s.released o va key n).NoPackets key n := by
  unfold State.released
  split
  · exact performReduces_noPackets (touch_noPackets _ _ _)
  · exact touch_noPackets _ _ _

theorem released_core (s : State) (o : BitVec 3) (va key n : Nat) : (s.released o va key n).core = s.core := by
  unfold State.released
  split
  · exact (performReduces_core _).trans (opened_core ..)
  · exact opened_core ..

/-- Without packets on their way, a store does not look at the accounting. -/
theorem homeStore_counted {s : State} {k n : Nat} (h : s.NoPackets k n) (x : Accounting) (v : Nat) :
    (s.counted x).homeStore (.here k) n v = (s.homeStore (.here k) n v).counted x := by
  have hr : s.arriveReduces (fun l => decide (k / 64 ≤ l) && decide (l ≤ (k + n - 1) / 64)) = s := if_neg (Bool.eq_false_iff.mp h)
  have hrc : (s.counted x).arriveReduces (fun l => decide (k / 64 ≤ l) && decide (l ≤ (k + n - 1) / 64)) = s.counted x :=
    if_neg (Bool.eq_false_iff.mp h)
  have ht : (s.counted x).touch k n = (s.touch k n).counted x := by
    simp only [State.touch, State.drainLines, hr, hrc]
    by_cases hd : (s.dies.toList.all fun d => d.detred.isEmpty) = true
    · exact (if_pos hd).trans (congrArg (State.counted · x) (if_pos hd).symm)
    · rw [if_neg hd]
      exact if_neg hd
  have hc : ∀ t : State, (t.counted x).cleanLines k n = (t.cleanLines k n).counted x := fun t => by
    by_cases hp : (t.poison.isEmpty && t.ue.isEmpty) = true
    · exact (if_pos hp).trans (congrArg (State.counted · x) (if_pos hp).symm)
    · rw [State.cleanLines, State.cleanLines, if_neg hp]
      exact if_neg hp
  simp only [State.homeStore, ht, hc]
  rfl

/-! ## Atomics (R209-R211) -/

/-- The state behind the wait of a release order (R211). -/
theorem releaseWait_like {s : State} (hr : s.core.running = true) (he : s.core.exact = false) (o : BitVec 3) (va key n : Nat) :
    Like ((s.opened va key n).releaseWait o) (s.released o va key n) := by
  unfold State.releaseWait State.released
  split
  · refine freeStall_like ?_ ?_ _
    · rw [performReduces_core, opened_core]; exact hr
    · rw [performReduces_core, opened_core]; exact he
  · exact Like.refl _

theorem acquireWait_like {s : State} (hr : s.core.running = true) (he : s.core.exact = false) (o : BitVec 3) : Like (s.acquireWait o) s := by
  unfold State.acquireWait
  split
  · exact freeStall_like hr he _
  · exact Like.refl s

/-- What an atomic leaves at its key (R209): the value of its function, where it has one. -/
def State.exchanged (s : State) (key n : Nat) (f : Nat → Option Nat) : State :=
  match f (Memory.getN s.mem key n) with
  | some x => s.homeStore (.here key) n (x % 2 ^ (8 * n))
  | none => s

theorem exchanged_some {s : State} {key n x : Nat} {f : Nat → Option Nat} (h : f (Memory.getN s.mem key n) = some x) :
    s.exchanged key n f = s.homeStore (.here key) n (x % 2 ^ (8 * n)) := by
  rw [State.exchanged, h]

theorem exchanged_none {s : State} {key n : Nat} {f : Nat → Option Nat} (h : f (Memory.getN s.mem key n) = none) : s.exchanged key n f = s := by
  rw [State.exchanged, h]

theorem exchanged_core (s : State) (key n : Nat) (f : Nat → Option Nat) : (s.exchanged key n f).core = s.core := by
  unfold State.exchanged
  split
  · exact homeStore_core ..
  · rfl

/-- An atomic that reaches its key defers the old value there and exchanges it. -/
theorem atomic_reaches {s : State} {d a : BitVec 5} {o : BitVec 3} {n key : Nat} {fp : Bool} (hr : s.core.running = true)
    (he : s.core.exact = false) (hn : 0 < n) (hd : n ∣ 64) (f : Nat → Option Nat) :
    let ea := adda (s.rg a) 0
    let r := s.released o (addrOf ea) key n
    Reaches s .atomic n fp ea key → r.badAt key n = none →
      ∃ t, s.atomic d a o n fp f = .ok t ∧
        Like t ((r.exchanged key n f).deferred (.g d (BitVec.ofNat 64 (Memory.getN r.mem key n))) (addrOf ea) none) := by
  intro ea r hreach hgood
  obtain ⟨x, hx⟩ := releaseWait_like hr he o (addrOf ea) key n
  have hcore : (r.exchanged key n f).core = s.core := (exchanged_core ..).trans (released_core ..)
  have herr : (r.counted x).scalarErr (.here key) n (addrOf ea) = none := by
    simp only [State.scalarErr, State.homeBad, show (r.counted x).badAt key n = none from hgood, Option.map_none]
  have hgo : s.scalarAcc .atomic n fp (adda (s.rg a) 0) = .go (.here key) := scalarAcc_reaches hreach hn hd
  have hopen : (s.cacheFor s.agent (addrOf (adda (s.rg a) 0))).homeTouch (.here key) n = s.opened (addrOf ea) key n := rfl
  have hquiet : r.NoPackets key n := released_noPackets ..
  refine ⟨(((r.exchanged key n f).counted x).deferred (.g d (BitVec.ofNat 64 (Memory.getN r.mem key n))) (addrOf ea) none).acquireWait o, ?_,
    (acquireWait_like ?_ ?_ o).trans ⟨x, rfl⟩⟩
  · simp only [State.atomic, hgo, State.withAcc, hopen, hx]
    rw [show (s.released o (addrOf ea) key n).counted x = r.counted x from rfl]
    rw [show (r.counted x).scalarErr (.here key) n (addrOf (adda (s.rg a) 0)) = none from herr]
    rw [show (r.counted x).homeLoad (.here key) n = Memory.getN r.mem key n from rfl]
    cases hf : f (Memory.getN r.mem key n) with
    | none => rw [exchanged_none hf]
    | some y =>
      dsimp only
      rw [exchanged_some hf, homeStore_counted hquiet]
  · show (r.exchanged key n f).core.running = true
    rw [hcore]; exact hr
  · show (r.exchanged key n f).core.exact = false
    rw [hcore]; exact he

/-- What a word gives whose effect is an atomic. -/
theorem atomic_gives {i : Instr} {s : State} {u : Use} {st : Bool} {body : State → Res} (hi : exec i s = issue st 4 u body s) (h : AtOnce s u st)
    {d a : BitVec 5} {o : BitVec 3} {n key : Nat} {fp : Bool} (hn : 0 < n) (hd : n ∣ 64) (f : Nat → Option Nat)
    (hb : body s = s.atomic d a o n fp f) :
    let ea := adda (s.rg a) 0
    let r := s.released o (addrOf ea) key n
    Reaches s .atomic n fp ea key → r.badAt key n = none →
      Gives (exec i s)
        (((r.exchanged key n f).deferred (.g d (BitVec.ofNat 64 (Memory.getN r.mem key n))) (addrOf ea) none).after4 st) := by
  intro ea r hreach hgood
  have hcore : (r.exchanged key n f).core = s.core := (exchanged_core ..).trans (released_core ..)
  rw [hi]
  refine issue_atLike h (hb ▸ atomic_reaches h.running h.untraced hn hd f hreach hgood) ?_ ?_ fun hc => deferred_calm ?_ d _ _
  · rw [State.deferred, defer_running, hcore]
  · rw [State.deferred, defer_exact, hcore]
  · rw [State.cur, hcore]; exact hc

/-- What `cas` writes over an old value (R210). -/
def casValue (c y old : Nat) : Option Nat := if old = c then some y else none

theorem casValue_same {c y old : Nat} (h : old = c) : casValue c y old = some y := if_pos h

theorem casValue_other {c y old : Nat} (h : ¬old = c) : casValue c y old = none := if_neg h

/-- Settles O10: each word is an atomic with the function of its rule. -/
theorem atomicResults : Obligations.AtomicResults := by
  intro s st d a b p o key ea va amo y word
  refine ⟨fun h => ⟨?add, ?and, ?or, ?xor, ?min, ?max, ?minn, ?maxn, ?swap, ?fadd, ?fmax⟩, fun h => ?cas⟩
  case add => exact atomic_gives rfl h (by decide) (by decide) (word fun x => x + y) rfl
  case and => exact atomic_gives rfl h (by decide) (by decide) (word fun x => x &&& y) rfl
  case or => exact atomic_gives rfl h (by decide) (by decide) (word fun x => x ||| y) rfl
  case xor => exact atomic_gives rfl h (by decide) (by decide) (word fun x => x ^^^ y) rfl
  case min =>
    refine atomic_gives rfl h (by decide) (by decide) (word fun x => if y.toInt < x.toInt then y else x) ?_
    simp only [amoWordOf, BitVec.slt, decide_eq_true_eq, word, y]
  case max =>
    refine atomic_gives rfl h (by decide) (by decide) (word fun x => if x.toInt < y.toInt then y else x) ?_
    simp only [amoWordOf, BitVec.slt, decide_eq_true_eq, word, y]
  case minn =>
    refine atomic_gives rfl h (by decide) (by decide) (word fun x => if y.toNat < x.toNat then y else x) ?_
    simp only [amoWordOf, BitVec.ult, decide_eq_true_eq, word, y]
  case maxn =>
    refine atomic_gives rfl h (by decide) (by decide) (word fun x => if x.toNat < y.toNat then y else x) ?_
    simp only [amoWordOf, BitVec.ult, decide_eq_true_eq, word, y]
  case swap => exact atomic_gives rfl h (by decide) (by decide) (word fun _ => y) rfl
  case fadd => exact atomic_gives rfl h (by decide) (by decide) (fun old => some (addElem 0x10 old (y.toNat % 2 ^ 32))) rfl
  case fmax => exact atomic_gives rfl h (by decide) (by decide) (fun old => some (fp32.minmax true old (y.toNat % 2 ^ 32)).bits) rfl
  case cas =>
    intro hreach hgood
    have hgives := atomic_gives (i := .cas st d a b p o) rfl h (by decide) (by decide) (casValue (s.rg d).toNat y.toNat) rfl hreach hgood
    by_cases hc : Memory.getN (s.released o (addrOf (adda (s.rg a) 0)) key 8).mem key 8 = (s.rg d).toNat
    · rw [exchanged_some (casValue_same hc)] at hgives
      simp only [va, ea, if_pos hc]
      exact hgives
    · rw [exchanged_none (casValue_other hc)] at hgives
      simp only [va, ea, if_neg hc]
      exact hgives

end Sys2Proof.Machine
end

section
/-! SUPPORT. The turns of the engines (R220-R222, R279, R294-R299, R334, R342, R345): what each answers when nothing stands in its way. -/

namespace Sys2Proof.Machine

/-! ## Streams (R220-R222) -/

theorem exec_streamFillArrival {s : State} {core num reg : Nat} {t : Strand} {b : Binding} (hreg : reg < 32)
    (ht : (s.coreOf core).findStrand num (fun t => t.bound (BitVec.ofNat 5 reg)) = some t) (hb : t.binding (BitVec.ofNat 5 reg) = some b)
    (hout : b.out = false) (har : b.arrived = false) (hstop : s.engineStop = false) (hs : s.serviced (.fill core num (BitVec.ofNat 5 reg)) = .clear)
    (ha : s.fillAbsent (t.agentOn core) b = []) (hh : s.fillHeld (t.agentOn core) b = false) :
    exec (.streamFillArrival core num reg) s = .next (s.fillNow core num t b false) := by
  have hfill : s.evFill core num (BitVec.ofNat 5 reg) = some (s.fillNow core num t b false) := by
    simp only [State.evFill, ht, hb, hout, har, hstop, hs, ha, hh]
    rfl
  show execStreamFillArrival core num reg s = _
  rw [execStreamFillArrival, if_pos hreg, hfill]
  rfl

/-- A granule stored, where nothing holds the drain's run of bytes back (R221). -/
theorem exec_streamDrainComplete {s : State} {core i : Nat} {d : Drain} (hd : (s.coreOf core).drains[i]? = some d) (hstop : s.engineStop = false)
    (hs : s.serviced (.drain core d.strand d.reg) = .clear) (ha : s.drainAbsent core d = []) {t : State} (hn : s.drainNow core i d = some t) :
    exec (.streamDrainComplete core i) s = .next t := by
  show evOut _ (s.evDrain core i) = _
  simp only [State.evDrain, hd, hs, ha, hstop, hn]
  rfl

/-- What a granule stored leaves of its drain (R221). -/
theorem drainNow_stores {s : State} {core i : Nat} {d : Drain} (hheld : s.runHeld (d.agent core) .write (addrOf d.addr) d.data.length = false)
    (hfar : s.runUnreachable (d.agent core) .write (addrOf d.addr) d.data.length = false)
    (hdenied : s.runDenied (d.agent core) .write (addrOf d.addr) d.data.length = false) :
    let p := s.drainPart (d.agent core) d
    let at_ := (addrOf d.addr + p.1) % 2 ^ 56
    let r := s.engineRead (d.agent core) at_ p.2 .write
    let u : State := { r.1.engineWrite (d.agent core) at_ (mergeBytes r.2.1 ((d.data.drop p.1).take p.2) ((d.mask.drop p.1).take p.2)) d.poisoned with
      free := s.free + 1 }
    let e := { d with mask := d.mask.zipIdx.map fun q => if p.1 ≤ q.2 ∧ q.2 < p.1 + p.2 then 0 else q.1 }
    s.drainNow core i d = some (if e.rest = [] then u.drainDone core i d (if d.poisoned then 3 else 0)
      else u.onCore core fun c => { c with drains := c.drains.set i e }) := by
  intro p at_ r u e
  unfold State.drainNow
  simp only [hheld, hfar, hdenied, Bool.or_self, Bool.false_eq_true, if_false, List.isEmpty_iff, ← apply_ite some]
  rfl

/-! ## Copies (R294-R299) -/

theorem copyCode_eq (far bad room : Bool) : copyCode far bad room = if far then 4 else if room = false then 0x34 else if bad then 3 else 0 := by
  cases room <;> rfl

theorem exec_gondolaCopyComplete {s : State} {cl i : Nat} {c : Copy} (he : (s.clusterAt cl).engines ≠ 0) (hstop : s.engineStop = false)
    (hc : (s.clusterAt cl).copies[i]? = some c) (hs : s.serviced (.copy c.token) = .clear) (ha : s.copyAbsent c = [])
    (hd : ∀ j < c.rows, s.rowDenied c j = false) (hh : ∀ r ∈ c.runs, s.runHeld c.agent r.1 r.2 c.bytes = false) :
    let p := s.copyRest c
    let q := p.1.ringCommit c
    exec (.gondolaCopyComplete cl i) s =
      .next (q.1.endCopy c
        (if c.runs.any fun r => s.runUnreachable c.agent r.1 r.2 c.bytes then 4 else if q.2 = false then 0x34 else if p.2.mv.bad then 3 else 0)) := by
  intro p q
  have hrows : (List.range c.rows).any (s.rowDenied c) = false :=
    List.any_eq_false.mpr fun j hj => Bool.eq_false_iff.mp (hd j (List.mem_range.mp hj))
  have hheld : (c.runs.any fun r => s.runHeld c.agent r.1 r.2 c.bytes) = false :=
    List.any_eq_false.mpr fun r hr => Bool.eq_false_iff.mp (hh r hr)
  show evOut _ (s.evCopy cl i) = _
  simp only [State.evCopy, he, hstop, hc, hs, ha, State.copyNow, hrows, hheld, copyCode_eq]
  rfl

theorem exec_gondolaEngineFailure {s : State} {cl e : Nat} (he : e < (s.clusterAt cl).engines) (hc : cl < 96) :
    let lost := (((s.clusterAt cl).copies.zipIdx.filter fun p => Config.freeBool (s.free * 2 ^ 64 + p.2)).map (·.1))
    exec (.gondolaEngineFailure cl e) s =
      .next ((lost.foldl (fun s c => s.failCopy c 0x33) ((s.fresh).onCluster cl fun k => { k with engines := k.engines - 1 })).reHealth) :=
  evOut_neg (by omega)

/-! ## The Moraine unit (R334, R342, R345) -/

section
variable {s : State} {die : Nat} {r : SsRequest} {rest : List SsRequest}

/-! The request whose strand waits is served. -/

variable (hq : (s.dieAt die).ssQueue = r :: rest) (hroom : (s.dieAt die).ssOps.length < 1024)
  (hrun : (s.coreOf r.core).running = true) (hwait : (s.coreOf r.core).waiting = true) (hpost : (s.coreOf r.core).posted = true)
  (hnum : (s.coreOf r.core).cur.num = r.strand)
include hq hroom hrun hwait hpost hnum

theorem exec_moraineRequest_reply {x : Word} {t : State}
    (hserve : (s.onDie die fun d => { d with ssQueue := rest }).serveSs die r = (.reply x, t)) :
    exec (.moraineRequest die) s = .next (t.onCore r.core fun c => { c with reply := .moraine x 0 }) := by
  show evOut _ (s.evMoraine die) = _
  simp only [State.evMoraine, hq, hrun, hwait, hpost, hnum, hserve, beq_self_eq_true, if_neg (Nat.not_le.mpr hroom)]
  rfl

theorem exec_moraineRequest_trap {e : BitVec 8} {x : Word} {t : State}
    (hserve : (s.onDie die fun d => { d with ssQueue := rest }).serveSs die r = (.trap e x, t)) :
    exec (.moraineRequest die) s =
      .next ((s.onDie die fun d => { d with ssQueue := rest }).onCore r.core fun c => { c with reply := .moraine x e }) := by
  show evOut _ (s.evMoraine die) = _
  simp only [State.evMoraine, hq, hrun, hwait, hpost, hnum, hserve, beq_self_eq_true, if_neg (Nat.not_le.mpr hroom)]
  rfl

end

theorem none_after {l : List MoraineOp} {o : MoraineOp} (h : ∀ p ∈ l, o.after p = false) : l.any o.after = false :=
  List.any_eq_false.mpr fun p hp => Bool.eq_false_iff.mp (h p hp)

section
variable {s : State} {die i : Nat} {o : MoraineOp} (ho : (s.dieAt die).ssOps[i]? = some o) (hstop : s.engineStop = false)
  (hfirst : ∀ p ∈ (s.dieAt die).ssOps.take i, o.after p = false)
include ho hstop hfirst

theorem exec_moraineMovement_close (hc : o.close = true) :
    exec (.moraineMovementComplete die i) s = .next ((s.ssDone die i o 0).ssFreed die o.slot) := by
  show evOut _ (s.evMovement die i) = _
  simp only [State.evMovement, ho, hstop, none_after hfirst, hc]
  rfl

theorem exec_moraineMovement_aborted (hc : o.close = false) (ha : o.aborted = true) :
    exec (.moraineMovementComplete die i) s = .next (s.ssDone die i o 0x3A) := by
  show evOut _ (s.evMovement die i) = _
  simp only [State.evMovement, ho, hstop, none_after hfirst, hc, ha]
  rfl

theorem exec_moraineMovement_moves (hc : o.close = false) (ha : o.aborted = false) (hs : s.serviced (.moraine o.token) = .clear)
    (habs : s.copyAbsent (s.ssCopy die o) = []) {t : State} (hm : s.ssMove die i o (s.ssCopy die o) = some t) :
    exec (.moraineMovementComplete die i) s = .next t := by
  show evOut _ (s.evMovement die i) = _
  simp only [State.evMovement, ho, hstop, none_after hfirst, hc, ha, hs, habs, hm]
  rfl

end

theorem ssMove_performs {s : State} {die i : Nat} {o : MoraineOp} {c : Copy} (hd : s.rowDenied c 0 = false)
    (hr : ∀ r ∈ c.runs, s.runHeld c.agent r.1 r.2 c.bytes = false ∧ s.runUnreachable c.agent r.1 r.2 c.bytes = false) :
    s.ssMove die i o c = some ((s.copyRest c).1.ssDone die i o (if (s.copyRest c).2.mv.bad then 3 else 0)) := by
  have hheld : (c.runs.any fun r => s.runHeld c.agent r.1 r.2 c.bytes) = false :=
    List.any_eq_false.mpr fun r h => Bool.eq_false_iff.mp (hr r h).1
  have hfar : (c.runs.any fun r => s.runUnreachable c.agent r.1 r.2 c.bytes) = false :=
    List.any_eq_false.mpr fun r h => Bool.eq_false_iff.mp (hr r h).2
  simp only [State.ssMove, hd, hheld, hfar, copyCode_eq, Bool.false_eq_true, if_false]
  rfl

theorem exec_moraineMetadataError {s : State} {die slot : Nat} (hs : slot < 8192) (hd : die < 4) (hin : slot ∉ (s.dieAt die).slotsOut) :
    exec (.moraineMetadataError die slot) s =
      .next (((s.loseSlot die slot).onDie die fun d => { d with slotsOut := slot :: d.slotsOut }).reHealth) := by
  have hout : (s.dieAt die).slotsOut.contains slot = false := Bool.eq_false_iff.mpr fun hc => hin (List.contains_iff_mem.mp hc)
  have hok : ¬(moraineSlots ≤ slot ∨ 4 ≤ die ∨ (s.dieAt die).slotsOut.contains slot = true) := by
    rw [hout, not_or, not_or]
    exact ⟨Nat.not_le.mpr hs, Nat.not_le.mpr hd, Bool.false_ne_true⟩
  exact evOut_neg hok

/-! ## Banks and barrier cells (R279, R299) -/

theorem exec_bankModeChange {s : State} {cl : Nat} {r : BankReq} {rest : List BankReq} (hq : (s.clusterAt cl).bankReqs = r :: rest)
    (hrun : (s.coreOf r.core).running = true) (hwait : (s.coreOf r.core).waiting = true) (hpost : (s.coreOf r.core).posted = true)
    (hnum : (s.coreOf r.core).cur.num = r.strand) (hbusy : s.sramBusy = false) :
    let q := s.onCluster cl fun c => { c with bankReqs := rest }
    exec (.bankModeChange cl) s =
      .next (((((q.serveBank cl r).2.onCore r.core fun c => { c with reply := .word (BitVec.ofNat 64 (q.serveBank cl r).1) }).focusOn
        r.core).bankcfgAgain).focusOn s.core.cid) := by
  intro q
  show evOut _ (s.evBankMode cl) = _
  simp only [State.evBankMode, hq, hrun, hwait, hpost, hnum, hbusy, beq_self_eq_true, Bool.and_self, Bool.false_eq_true, if_false, if_true]
  rfl

theorem exec_barrierCellError {s : State} {lv u cell : Nat}
    (h : (lv = 0 ∧ u < 96 ∧ cell < 64) ∨ (lv = 1 ∧ u < 4 ∧ cell < 256) ∨ (lv = 2 ∧ u = 0 ∧ cell < 64)) :
    let c := s.bar lv u cell
    exec (.barrierCellError lv u cell) s = .next (if c.n = 0 then s
      else c.arrivals.foldl (fun s p => s.barAnswer 1 0 p.1 (.fail p.1 0x31)) (s.setBar lv u cell { c with n := 0, arrivals := [] })) := by
  intro c
  have hok : ((decide (lv = 0) && decide (u < 96) && decide (cell < 64)) || (decide (lv = 1) && decide (u < 4) && decide (cell < 256)) ||
      (decide (lv = 2) && decide (u = 0) && decide (cell < 64))) = true := by
    simpa only [Bool.or_eq_true, Bool.and_eq_true, decide_eq_true_eq, and_assoc, or_assoc] using h
  show evOut _ (s.evBarError lv u cell) = _
  simp only [State.evBarError, hok, Bool.not_true, Bool.false_eq_true, if_false, ← apply_ite some]
  rfl

/-- Settles O49: each turn is enabled, and answers as the lemmas above say. -/
theorem engineEvents : Obligations.EngineEvents := by
  intro s core num i die slot
  refine ⟨?fill, ?drain, ?copy, ?engine, ?request, ?movement, ?metadata, ?banks, ?cell⟩
  case fill =>
    intro reg t b hreg ht hb hout har hstop hs ha hh
    exact exec_streamFillArrival hreg ht hb hout har hstop hs ha hh
  case drain =>
    intro d hd hstop hs ha ag va n hheld hfar hdenied p at_ r u e
    refine ⟨fun he => exec_streamDrainComplete hd hstop hs ha ?_, fun he => exec_streamDrainComplete hd hstop hs ha ?_⟩
    · rw [drainNow_stores hheld hfar hdenied, if_pos he]
    · rw [drainNow_stores hheld hfar hdenied, if_neg he]
  case copy =>
    intro cl c he hstop hc hs ha hd hh
    exact exec_gondolaCopyComplete he hstop hc hs ha hd hh
  case engine => exact fun cl e he hc => exec_gondolaEngineFailure he hc
  case request =>
    intro r rest hq hroom c q hrun hwait hpost hnum
    exact ⟨fun x t => exec_moraineRequest_reply hq hroom hrun hwait hpost hnum, fun e x t => exec_moraineRequest_trap hq hroom hrun hwait hpost hnum⟩
  case movement =>
    intro o ho hstop hfirst
    refine ⟨exec_moraineMovement_close ho hstop hfirst, exec_moraineMovement_aborted ho hstop hfirst, fun hc ha => ?_⟩
    intro c hs habs hd hr
    exact exec_moraineMovement_moves ho hstop hfirst hc ha hs habs (ssMove_performs hd hr)
  case metadata => exact exec_moraineMetadataError
  case banks =>
    intro cl r rest hq c q hrun hwait hpost hnum hbusy
    exact exec_bankModeChange hq hrun hwait hpost hnum hbusy
  case cell =>
    intro lv u cell h c
    have hexec := exec_barrierCellError (s := s) h
    exact ⟨fun hn => hexec.trans (congrArg _ (if_pos hn)), fun hn => hexec.trans (congrArg _ (if_neg hn))⟩

end Sys2Proof.Machine
end

section
/-! SUPPORT. The words of streams (R219-R221): what a new binding and the block that fills its register leave of the strand's frame. -/

namespace Sys2Proof.Machine

/-! ## Bindings and the frame -/

/-- A change that leaves the strand's results, banks, registers and PC. -/
theorem kept_of_strand {t s : State} (hr : t.core.running = s.core.running) (he : t.core.exact = s.core.exact) (hp : t.cur.pend = s.cur.pend)
    (hb : t.cur.sp = s.cur.sp) (hpc : t.cur.pc = s.cur.pc) (hg : t.cur.g = s.cur.g) : ChainKept t s :=
  ⟨hr, he, hp, congrArg Specials.vbank hb, hpc, fun r => by simp only [State.rg, Strand.readG, hg]⟩

/-- A block placed in a register whose bank is ON (R85, R220) leaves results, banks, registers and PC. -/
theorem fill_frame {t : Strand} {b : Binding} (h : t.bankOf b.reg = 0) (own : Nat) (data : List (Nat × Nat × Bool)) :
    (t.fill own b data).pend = t.pend ∧ (t.fill own b data).sp = t.sp ∧ (t.fill own b data).pc = t.pc ∧ (t.fill own b data).g = t.g := by
  have hw : t.wake [b.reg] = (0, t) := wake_on fun r hr => by rw [List.mem_singleton.mp hr]; exact h
  simp only [Strand.fill, hw, Strand.onBinding, Strand.setFiles]
  trivial

/-- The binding that `sbind` adds, with its first block (R220, R221). -/
def State.firstBinding (s : State) (d : BitVec 5) (x y : Word) : Binding :=
  let n := (y.extractLsb' 0 32).toNat
  { reg := d, out := y.getLsbD 63, etype := s.vt, cols := s.vcols, cursor := x, bit := 0, remaining := n
    blockLen := if y.getLsbD 63 then 0 else min s.vl n, arrived := y.getLsbD 63 || decide (min s.vl n = 0), drains := 0, failed := 0
    faults := 0, written := [], taken := [] }

/-- A strand with a new binding, whose empty first block is there at once. -/
def Strand.bind (t : Strand) (own : Nat) (b : Binding) : Strand :=
  let t := { t with bindings := t.bindings ++ [b] }
  if b.out = false ∧ b.blockLen = 0 then t.fill own b [] else t

theorem bind_frame {t : Strand} {b : Binding} (h : t.bankOf b.reg = 0) (own : Nat) :
    (t.bind own b).pend = t.pend ∧ (t.bind own b).sp = t.sp ∧ (t.bind own b).pc = t.pc ∧ (t.bind own b).g = t.g := by
  unfold Strand.bind
  split
  · exact fill_frame (t := { t with bindings := t.bindings ++ [b] }) h own []
  · exact ⟨rfl, rfl, rfl, rfl⟩

theorem endToken_kept (s : State) (h : Word) (e : BitVec 8) : ChainKept (s.endToken h e) s := by
  unfold State.endToken
  split
  · exact sendTo_kept ..
  · exact sendTo_kept ..

/-- A cell taken is no concern of the running strand. -/
theorem allocCell_cur {s r : State} {kind : BitVec 3} {n : Nat} {h : Word} (ha : s.allocCell kind n = some (h, r)) : r.cur = s.cur := by
  unfold State.allocCell at ha
  split at ha
  · cases ha
  · rename_i hc
    cases ha
    obtain ⟨_, _, _, hcore⟩ := alloc_change hc
    have hcur := congrArg Core.cur hcore
    exact hcur

/-! ## The words -/

section
variable {s : State} {st : Bool} {d a b : BitVec 5}

/-- The checks of `sbind` that come before its operands' (R223) pass. -/
structure BindPasses (s : State) (x y : Word) : Prop where
  tag : s.plainTag x 0 = true
  bytes : s.bindCheck (if y.getLsbD 63 then .write else .read) (addrOf x) (elAlign (memWidth s.vt))
    (ceilDiv ((y.extractLsb' 0 32).toNat * memWidth s.vt) 8) = none

theorem sbind_refused (h : AtOnce s { g := [a, b], vnew := [d] } st) (hc : BindPasses s (s.rg a) (s.rg b))
    (hbad : s.cur.bound d = true ∨ 4 ≤ s.cur.bindings.length ∨ ((s.rg b).extractLsb' 0 32).toNat = 0 ∨ (s.rg b).extractLsb' 32 31 ≠ 0) :
    exec (.sbind st d a b) s = .next (s.unwait.takeTrap (mkTrap 0x14 0)) := by
  obtain ⟨ht, hb⟩ := hc
  refine issue_raise h ?_
  simp only [ht, hb, Bool.not_true, Bool.false_eq_true, if_false, if_pos hbad]

theorem sbind_binds (h : AtOnce s { g := [a, b], vnew := [d] } st) (hc : BindPasses s (s.rg a) (s.rg b))
    (hok : ¬(s.cur.bound d = true ∨ 4 ≤ s.cur.bindings.length ∨ ((s.rg b).extractLsb' 0 32).toNat = 0 ∨ (s.rg b).extractLsb' 32 31 ≠ 0))
    (hch : s.core.channels < 8) :
    Gives (exec (.sbind st d a b) s)
      (((s.onCur (·.bind s.own (s.firstBinding d (s.rg a) (s.rg b)))).onFocus fun c => { c with channels := c.channels + 1 }).after4 st) := by
  obtain ⟨ht, hb⟩ := hc
  have hbank : s.cur.bankOf d = 0 := h.banks d (by simp [Use.banks])
  obtain ⟨hp, hsp, hpc, hg⟩ := bind_frame (b := s.firstBinding d (s.rg a) (s.rg b)) hbank s.own
  refine kept_gives h ?_ (kept_of_strand rfl rfl hp hsp hpc hg)
  simp only [ht, hb, Bool.not_true, Bool.false_eq_true, if_false, if_neg hok, if_neg (Nat.not_le.mpr hch)]
  unfold Strand.bind State.firstBinding
  cases (s.rg b).getLsbD 63
  · simp only [Binding.block, Bool.not_false, Bool.true_and, Bool.false_or, Bool.false_eq_true, if_false, beq_iff_eq, true_and]
    rfl
  · rfl

theorem sq_unbound (h : AtOnce s { vref := [a] } st) (hb : s.cur.binding a = none) : Gives (exec (.sq st d a) s) ((s.wg d 0).after4 st) :=
  keptWrite_gives h (by simp only [hb]) (.refl s)

theorem sq_bound (h : AtOnce s { vref := [a] } st) {x : Binding} (hb : s.cur.binding a = some x) :
    Gives (exec (.sq st d a) s) ((s.wg d (BitVec.ofNat 64 (2 ^ 63 + (if x.out then 2 ^ 62 else 0) + x.remaining))).after4 st) :=
  keptWrite_gives h (by simp only [hb]) (.refl s)

theorem sunb_unbound (h : AtOnce s { vref := [a] } st) (hb : s.cur.binding a = none) : Gives (exec (.sunb st d a) s) ((s.wg d 0).after4 st) :=
  keptWrite_gives h (by simp only [hb]) (.refl s)

/-- The strand whose binding has ended, with its token. -/
def State.unbound (r : State) (d a : BitVec 5) (h : Word) : State :=
  (r.onCur fun t => { t with bindings := t.bindings.filter (·.reg != a) }).wg d h

theorem unbound_calm {r : State} (hc : r.cur.Calm) (d a : BitVec 5) (h : Word) : (r.unbound d a h).cur.Calm :=
  wg_calm (s := r.onCur fun t => { t with bindings := t.bindings.filter (·.reg != a) }) (calm_same hc rfl rfl) d h

theorem sunb_idle (h : AtOnce s { vref := [a] } st) {x : Binding} (hb : s.cur.binding a = some x) {tok : Word} {r : State}
    (ha : s.allocCell 1 1 = some (tok, r)) (hx : x.drains = 0) :
    Gives (exec (.sunb st d a) s)
      ((((r.unbound d a tok).onFocus fun c => { c with channels := c.channels - 1 }).endToken tok x.failed).after4 st) := by
  have hk := allocCell_kept ha
  have he := endToken_kept ((r.unbound d a tok).onFocus fun c => { c with channels := c.channels - 1 }) tok x.failed
  refine issue_at h ?_ (he.1.trans (hk.1.trans h.running)) (he.2.1.trans (hk.2.1.trans h.untraced)) fun hst =>
    he.calm (unbound_calm (hk.calm (h.calm hst)) d a tok)
  simp only [hb, ha, if_pos hx]
  rfl

theorem sunb_draining (h : AtOnce s { vref := [a] } st) {x : Binding} (hb : s.cur.binding a = some x) {tok : Word} {r : State}
    (ha : s.allocCell 1 1 = some (tok, r)) (hx : x.drains ≠ 0) :
    Gives (exec (.sunb st d a) s)
      (((r.unbound d a tok).onFocus fun c => { c with drains := endDrains s.cur.num s.cur.handler.isSome a tok x.failed c.drains }).after4 st) := by
  have hk := allocCell_kept ha
  have hcur : r.cur = s.cur := allocCell_cur ha
  refine issue_at h ?_ (hk.1.trans h.running) (hk.2.1.trans h.untraced) fun hst => unbound_calm (hk.calm (h.calm hst)) d a tok
  have hn : (r.unbound d a tok).cur.num = s.cur.num := by rw [← hcur]; exact wg_cur_num ..
  have hh : (r.unbound d a tok).cur.handler = s.cur.handler := by rw [← hcur]; exact wg_cur_handler ..
  simp only [hb, ha, if_neg hx]
  rw [← hn, ← hh]
  rfl

end

/-- Settles O29: `sbind`, `sunb` and `sq` bind, unbind and query a stream, and STREAM_STATE otherwise (R219-R221). -/
theorem streamWords : Obligations.StreamWords := by
  intro s st d a b x y n bd begun
  refine ⟨fun h ht hc => ⟨fun hd hl hn hy hch => ?_, sbind_refused h ⟨ht, hc⟩⟩,
    fun h => ⟨fun hb => ⟨sunb_unbound h hb, sq_unbound h hb⟩, fun x hb => ⟨sq_bound h hb, ?_⟩⟩⟩
  · refine sbind_binds h ⟨ht, hc⟩ ?_ hch
    rintro (hd' | hl' | hn' | hy')
    · exact Bool.false_ne_true (hd.symm.trans hd')
    · omega
    · exact hn hn'
    · exact hy' hy
  · intro tok r ha u free
    exact ⟨sunb_idle h hb ha, sunb_draining h hb ha⟩

end Sys2Proof.Machine
end

section
/-! SUPPORT. The canonical form of memory (DESIGN CHOICE, log 3) in what an operation answers: a state, a state or nothing, the
answer of an instruction's body, of a fetch, of the page service, of a step. -/

namespace Sys2Proof.Machine

@[simp] theorem mem_wf_iff (s : State) : Memory.wf s.mem = true ↔ s.memOk := Iff.rfl

/-- A state given by its fields is canonical by its memory alone: what writes another field keeps the form. -/
@[simp] theorem memOk_mk (c : Core) (o cl d p m fw po u tl fl tu fr) :
    State.memOk ⟨c, o, cl, d, p, m, fw, po, u, tl, fl, tu, fr⟩ ↔ Memory.wf m = true := Iff.rfl

/-! ## What answers a state -/

/-- What an event leaves is canonical when the event can happen. -/
def OptOk (o : Option State) : Prop := ∀ t, o = some t → t.memOk

@[simp] theorem optOk_none : OptOk none := fun _ h => by cases h
@[simp] theorem optOk_some (t : State) : OptOk (some t) ↔ t.memOk := by simp [OptOk]

/-- What a step leaves is canonical when the step gives a next state. -/
def OutOk (o : Out) : Prop := ∀ t, o = .next t → t.memOk

@[simp] theorem outOk_next (t : State) : OutOk (.next t) ↔ t.memOk := by simp [OutOk]
@[simp] theorem outOk_refused (t) : OutOk (.refused t) := fun _ h => by cases h
@[simp] theorem outOk_fault (t) : OutOk (.fault t) := fun _ h => by cases h

/-- The state that an instruction's body answers. -/
abbrev Res.state : Res → State
  | .ok s | .jump s _ | .trap s _ | .wait s _ | .left s => s

abbrev Res.memOk (r : Res) : Prop := r.state.memOk

@[simp] theorem memOk_wait (s : State) (p) : (Res.wait s p).memOk ↔ s.memOk := Iff.rfl
@[simp] theorem memOk_left (s : State) : (Res.left s).memOk ↔ s.memOk := Iff.rfl

/-- A fetch answers the state of a wait or a trap, or the state that goes on. -/
def SumOk (x : State ⊕ State) : Prop := (x.elim id id).memOk

@[simp] theorem sumOk_inl (s : State) : SumOk (.inl s) ↔ s.memOk := Iff.rfl
@[simp] theorem sumOk_inr (s : State) : SumOk (.inr s) ↔ s.memOk := Iff.rfl

/-- The state that a fetch of one word leaves. -/
abbrev Fetched.state : Fetched → State
  | .word s _ | .trap s _ | .absent s _ | .hold s | .miss s => s

abbrev Fetched.memOk (f : Fetched) : Prop := f.state.memOk

/-- What the page service has answered is canonical where it answers a state. -/
def Serviced.memOk : Serviced → Prop
  | .clear | .waiting => True
  | .retry s _ | .failed s => s.memOk

/-! ## How answers are put together -/

theorem fst_memOk {β : Type} {p : State × β} {t : State} {b : β} (e : p = (t, b)) (h : p.1.memOk) : t.memOk := by
  subst e
  exact h

theorem snd_memOk {α : Type} {p : α × State} {t : State} {a : α} (e : p = (a, t)) (h : p.2.memOk) : t.memOk := by
  subst e
  exact h

theorem ite_memOk {c : Prop} [Decidable c] {a b : State} (ha : a.memOk) (hb : b.memOk) : (if c then a else b).memOk := by
  split <;> assumption

theorem optOk_ite {c : Prop} [Decidable c] {a b : Option State} (ha : OptOk a) (hb : OptOk b) : OptOk (if c then a else b) := by
  split <;> assumption

theorem resOk_ite {c : Prop} [Decidable c] {a b : Res} (ha : a.memOk) (hb : b.memOk) : (if c then a else b).memOk := by
  split <;> assumption

@[simp] theorem ite_memOk_iff {c : Prop} [Decidable c] {a b : State} : (if c then a else b).memOk ↔ if c then a.memOk else b.memOk := by
  split <;> rfl

@[simp] theorem ite_optOk_iff {c : Prop} [Decidable c] {a b : Option State} :
    OptOk (if c then a else b) ↔ if c then OptOk a else OptOk b := by
  split <;> rfl

@[simp] theorem ite_resOk_iff {c : Prop} [Decidable c] {a b : Res} : (if c then a else b).memOk ↔ if c then a.memOk else b.memOk := by
  split <;> rfl

@[simp] theorem ite_outOk_iff {c : Prop} [Decidable c] {a b : Out} : OutOk (if c then a else b) ↔ if c then OutOk a else OutOk b := by
  split <;> rfl

@[simp] theorem optOk_map {α : Type} {f : α → State} {o : Option α} (h : ∀ a, o = some a → (f a).memOk) : OptOk (o.map f) := by
  cases o <;> simp_all

@[simp] theorem optOk_bind {α : Type} {f : α → Option State} {o : Option α} (h : ∀ a, o = some a → OptOk (f a)) : OptOk (o.bind f) := by
  cases o <;> simp_all

theorem optOk_findSome {α : Type} {l : List α} {f : α → Option State} (h : ∀ a ∈ l, OptOk (f a)) : OptOk (l.findSome? f) := by
  intro t e
  obtain ⟨a, ha, hf⟩ := List.exists_of_findSome?_eq_some e
  exact h a ha t hf

theorem getD_memOk {o : Option State} {s : State} (ho : OptOk o) (hs : s.memOk) : (o.getD s).memOk := by
  cases o with
  | none => exact hs
  | some t => exact ho t rfl

@[simp] theorem foldl_memOk {α : Type} {f : State → α → State} {l : List α} {s : State}
    (hf : ∀ s a, s.memOk → (f s a).memOk) (h : s.memOk) : (l.foldl f s).memOk := by
  induction l generalizing s with
  | nil => exact h
  | cons a l ih => exact ih (hf s a h)

end Sys2Proof.Machine
end

section
/-! SUPPORT. The canonical form through storage, accounting, addresses, tokens and the operations that all instructions share: what
writes no byte keeps it both ways, what writes bytes keeps it. -/

namespace Sys2Proof.Machine

variable {s : State}

/-! ## Storage -/

@[simp] theorem setCore_memOk {x : Core} : (s.setCore x).memOk ↔ s.memOk := by
  unfold State.setCore
  split <;> rfl

@[simp] theorem onCore_memOk {c : Nat} {f : Core → Core} : (s.onCore c f).memOk ↔ s.memOk := by simp [State.onCore]

@[simp] theorem focusOn_memOk {c : Nat} : (s.focusOn c).memOk ↔ s.memOk := by
  unfold State.focusOn
  split <;> rfl

@[simp] theorem onCluster_memOk {c : Nat} {f : Cluster → Cluster} : (s.onCluster c f).memOk ↔ s.memOk := Iff.rfl
@[simp] theorem onDie_memOk {d : Nat} {f : Die → Die} : (s.onDie d f).memOk ↔ s.memOk := Iff.rfl
@[simp] theorem onPkg_memOk {f : Package → Package} : (s.onPkg f).memOk ↔ s.memOk := Iff.rfl
theorem apply_wf (c : Contribution) {m : List Host.Cell} (h : Memory.wf m = true) : Memory.wf (c.apply m) = true := putN_wf _ _ _ h

/-- Buffered contributions are added one by one (R319). -/
@[simp] theorem drainDie_memOk {d : Nat} {p : Nat → Bool} (hs : s.memOk) : (s.drainDie d p).memOk :=
  List.foldlRecOn (motive := fun m => Memory.wf m = true) _ _ hs fun _ h c _ => apply_wf c h

@[simp] theorem addContribution_memOk {c : Contribution} (hs : s.memOk) : (s.addContribution c).memOk := by
  unfold State.addContribution
  extract_lets d die held s'
  split
  · exact onDie_memOk.2 (ite_memOk hs (onDie_memOk.2 (drainDie_memOk hs)))
  · exact apply_wf c hs

@[simp] theorem addPackets_memOk {l : List Contribution} (hs : s.memOk) : (s.addPackets l).memOk := by
  simp +contextual [State.addPackets, hs]

@[simp] theorem arriveReduces_memOk {p : Nat → Bool} (hs : s.memOk) : (s.arriveReduces p).memOk := by
  simp +contextual [State.arriveReduces, hs]

@[simp] theorem drainLines_memOk {a b : Nat} (hs : s.memOk) : (s.drainLines a b).memOk :=
  have h := arriveReduces_memOk hs
  ite_memOk h (drainDie_memOk (drainDie_memOk (drainDie_memOk (drainDie_memOk h))))

@[simp] theorem touch_memOk {k n : Nat} (hs : s.memOk) : (s.touch k n).memOk := by simp [State.touch, hs]

@[simp] theorem cleanLines_memOk {k n : Nat} : (s.cleanLines k n).memOk ↔ s.memOk := by
  unfold State.cleanLines
  split <;> rfl

@[simp] theorem markPoison_memOk {k n : Nat} : (s.markPoison k n).memOk ↔ s.memOk := Iff.rfl

@[simp] theorem homeStore_memOk {h : Home} {n v : Nat} (hs : s.memOk) : (s.homeStore h n v).memOk := by
  unfold State.homeStore
  split <;> simp [hs, putN_wf]

@[simp] theorem homeTouch_memOk {h : Home} {n : Nat} (hs : s.memOk) : (s.homeTouch h n).memOk := by
  unfold State.homeTouch
  split <;> simp [hs]

@[simp] theorem storePa_memOk {pa n v : Nat} (hs : s.memOk) : (s.storePa pa n v).memOk := by simp [State.storePa, hs]
@[simp] theorem storeBytes_memOk {k : Nat} {bs : List Byte} (hs : s.memOk) : (s.storeBytes k bs).memOk :=
  putBytes_wf bs k (touch_memOk hs)

@[simp] theorem setFull_memOk {k : Nat} {b : Bool} : (s.setFull k b).memOk ↔ s.memOk := Iff.rfl

/-! ## Notifications -/

@[simp] theorem notify_memOk {v : Nat} : (s.notify v).memOk ↔ s.memOk := by
  unfold State.notify
  split <;> simp

@[simp] theorem reHealth_memOk {badLink : Bool} : (s.reHealth badLink).memOk ↔ s.memOk := by simp [State.reHealth]

/-! ## Accounting -/

@[simp] theorem onFocus_memOk {f : Core → Core} : (s.onFocus f).memOk ↔ s.memOk := Iff.rfl
@[simp] theorem onCur_memOk {f : Strand → Strand} : (s.onCur f).memOk ↔ s.memOk := Iff.rfl
@[simp] theorem onSp_memOk {f : Specials → Specials} : (s.onSp f).memOk ↔ s.memOk := Iff.rfl
@[simp] theorem putRecord_memOk {r : Nat} (hs : s.memOk) : (s.putRecord r).memOk := by simp [State.putRecord, hs]

@[simp] theorem putLost_memOk {n : Nat} (hs : s.memOk) : (s.putLost n).memOk := by
  induction n with
  | zero => exact hs
  | succ n ih => exact ite_memOk ih (onFocus_memOk.2 (putRecord_memOk ih))

@[simp] theorem trace_memOk {type cause ctx pc val : Nat} (hs : s.memOk) : (s.trace type cause ctx pc val).memOk := by
  simp [State.trace, hs]

@[simp] theorem closeRun_memOk (hs : s.memOk) : s.closeRun.memOk := by
  unfold State.closeRun
  split <;> simp [hs]

@[simp] theorem runSlots_memOk {cause : Cause} {ctx : Nat} {pc next : Word} {n : Nat} (hs : s.memOk) :
    (s.runSlots cause ctx pc next n).memOk := by
  unfold State.runSlots
  repeat' split
  all_goals simp [hs]

@[simp] theorem charge_memOk {cause : Cause} {ctx : Option Nat} {pc next : Word} {n : Nat} (hs : s.memOk) :
    (s.charge cause ctx pc next n).memOk := by simp [State.charge, hs]

@[simp] theorem stall_memOk {cause : Cause} {n : Nat} (hs : s.memOk) : (s.stall cause n).memOk := by simp [State.stall, hs]
@[simp] theorem freeStall_memOk {cause : Cause} (hs : s.memOk) : (s.freeStall cause).memOk := by simp [State.freeStall, hs]
@[simp] theorem performReduces_memOk (hs : s.memOk) : s.performReduces.memOk := by simp +contextual [State.performReduces, hs]
@[simp] theorem orderWait_memOk (hs : s.memOk) : s.orderWait.memOk := by simp [State.orderWait, hs]
@[simp] theorem waitSlots_memOk {cause : Cause} (hs : s.memOk) : (s.waitSlots cause).memOk := by simp [State.waitSlots, hs]

@[simp] theorem closeConvoy_memOk (hs : s.memOk) : s.closeConvoy.memOk := by
  unfold State.closeConvoy
  split <;> simp [hs]

@[simp] theorem vqNow_memOk : s.vqNow.memOk ↔ s.memOk := Iff.rfl
@[simp] theorem vqWait_memOk {cause : Cause} {p : VQEntry → Bool} (hs : s.memOk) : (s.vqWait cause p).memOk := by simp [State.vqWait, hs]
@[simp] theorem vqDrain_memOk {cause : Cause} (hs : s.memOk) : (s.vqDrain cause).memOk := by simp [State.vqDrain, hs]
@[simp] theorem vqPush_memOk {v : VIssue} (hs : s.memOk) : (s.vqPush v).memOk := by simp [State.vqPush, hs]

/-! ## Addresses -/

@[simp] theorem touchEntry_memOk {pa n : Nat} (hs : s.memOk) : (s.touchEntry pa n).memOk := by simp [State.touchEntry, hs]

@[simp] theorem touchWalk_memOk {ptroot : Word} {va : Nat} (hs : s.memOk) : (s.touchWalk ptroot va).memOk := by
  have h := touchEntry_memOk (pa := rootTable ptroot + 8 * (va / 2 ^ 44 % 2 ^ 12)) (n := 8) hs
  unfold State.touchWalk
  extract_lets s1
  split
  · exact h
  · refine ite_memOk h ?_
    extract_lets s2
    have h2 : s2.memOk := touchEntry_memOk h
    split
    · exact h2
    · exact ite_memOk (touchEntry_memOk h2) h2

@[simp] theorem cachePage_memOk {ptroot : Word} {va : Nat} (hs : s.memOk) : (s.cachePage ptroot va).memOk := by simp [State.cachePage, hs]
@[simp] theorem dropPage_memOk {asid : BitVec 12} {va : Nat} : (s.dropPage asid va).memOk ↔ s.memOk := Iff.rfl
@[simp] theorem want_memOk {a : Agent} {va n : Nat} (hs : s.memOk) : (s.want a va n).memOk := by simp [State.want, hs]
@[simp] theorem cacheFor_memOk {a : Agent} {va : Nat} (hs : s.memOk) : (s.cacheFor a va).memOk := by simp [State.cacheFor, hs]

/-! ## Tokens and messages -/

@[simp] theorem allocCell_memOk {kind : BitVec 3} {count : Nat} (hs : s.memOk) : ∀ r, s.allocCell kind count = some r → r.2.memOk := by
  unfold State.allocCell
  split <;> simp [hs]

@[simp] theorem renameSender_memOk {was now : Nat} : (s.renameSender was now).memOk ↔ s.memOk := Iff.rfl
@[simp] theorem post_memOk {due : Option Nat} {body : MsgBody} : (s.post due body).memOk ↔ s.memOk := Iff.rfl
@[simp] theorem postAt_memOk {dst : Nat} {due : Option Nat} {body : MsgBody} : (s.postAt dst due body).memOk ↔ s.memOk := Iff.rfl

@[simp] theorem sendTo_memOk {h : Word} {body : MsgBody} : (s.sendTo h body).memOk ↔ s.memOk := by
  unfold State.sendTo
  split <;> simp

@[simp] theorem signalTo_memOk {h : Word} : (s.signalTo h).memOk ↔ s.memOk := by simp [State.signalTo]
@[simp] theorem failTo_memOk {h : Word} {e : BitVec 8} : (s.failTo h e).memOk ↔ s.memOk := by simp [State.failTo]
@[simp] theorem strandSend_memOk {h : Word} {body : MsgBody} : (s.strandSend h body).memOk ↔ s.memOk := by simp [State.strandSend]
@[simp] theorem setStale_memOk : s.setStale.memOk ↔ s.memOk := Iff.rfl

/-! ## The matrix unit -/

@[simp] theorem answerRemote_memOk {h : Word} {t : Nat} {body : MsgBody} : (s.answerRemote h t body).memOk ↔ s.memOk := by
  unfold State.answerRemote
  split <;> rfl

@[simp] theorem matrixHead_memOk (hs : s.memOk) : OptOk s.matrixHead := by
  unfold State.matrixHead
  repeat' split
  all_goals simp [hs]

@[simp] theorem matrixNow_memOk {n : Nat} (hs : s.memOk) : (s.matrixNow n).memOk := by
  induction n generalizing s with
  | zero => exact hs
  | succ n ih =>
    have h := matrixHead_memOk hs
    unfold State.matrixNow
    split
    · refine ite_memOk ?_ hs
      split
      · rename_i s' e
        exact ih (h s' e)
      · exact hs
    · exact hs

@[simp] theorem commitRing_memOk {q : BitVec 3} {c : Nat} (hs : s.memOk) : (s.commitRing q c).memOk := onFocus_memOk.2 (matrixNow_memOk hs)

@[simp] theorem matrixDrain_memOk {p : MCommand → Bool} {n : Nat} (hs : s.memOk) : (s.matrixDrain p n).1.memOk := by
  induction n generalizing s with
  | zero => exact hs
  | succ n ih =>
    have h := matrixHead_memOk hs
    unfold State.matrixDrain
    split
    · split
      · rename_i s' e
        exact ih (h s' e)
      · exact hs
    · exact hs

@[simp] theorem matrixWait_memOk {cause : Cause} {p : MCommand → Bool} (hs : s.memOk) : OptOk (s.matrixWait cause p) := by
  simp [State.matrixWait, hs]

@[simp] theorem observeBatch_memOk {h : Word} : (s.observeBatch h).memOk ↔ s.memOk := by
  unfold State.observeBatch
  split <;> rfl

/-! ## Context images -/

@[simp] theorem basinCharge_memOk {fixed n num : Nat} {pc : Word} (hs : s.memOk) : (s.basinCharge fixed n num pc).memOk := by
  simp [State.basinCharge, hs]

@[simp] theorem fillHome_memOk {h n : Nat} (hs : s.memOk) : (s.fillHome h n).memOk := by simp [State.fillHome, hs]
@[simp] theorem evict_memOk {i : Image} (hs : s.memOk) : (s.evict i).memOk := by simp [State.evict, hs]
@[simp] theorem endRowCopy_memOk {i : Image} (hs : s.memOk) : (s.endRowCopy i).memOk := by simp [State.endRowCopy, hs]

@[simp] theorem makeRoom_memOk {body : Nat} {self : Option Image} {n : Nat} (hs : s.memOk) : (s.makeRoom body self n).1.memOk := by
  induction n generalizing s with
  | zero => exact hs
  | succ n ih =>
    have hcopy := fun i => ih (endRowCopy_memOk (i := i) hs)
    have hevict := fun v => ih (evict_memOk (i := v) hs)
    unfold State.makeRoom
    repeat' split
    all_goals simp [hs, hcopy, hevict]

@[simp] theorem trim_memOk {own n : Nat} (hs : s.memOk) : (s.trim own n).memOk := by
  induction n generalizing s with
  | zero => exact hs
  | succ n ih =>
    have hcopy := fun i => ih (endRowCopy_memOk (i := i) hs)
    have hevict := fun v => ih (evict_memOk (i := v) hs)
    unfold State.trim
    repeat' split
    all_goals simp [hs, hcopy, hevict]

@[simp] theorem leave_memOk {i : Image} : (s.leave i).memOk ↔ s.memOk := Iff.rfl

@[simp] theorem save_memOk {written bytes : Nat} {cond : Cond} {resume : Resume} {accSaved : BitVec 16} (hs : s.memOk) :
    (s.save written bytes cond resume accSaved).memOk := by
  unfold State.save
  extract_lets probe
  split
  rename_i t ok e
  have h := fst_memOk e (makeRoom_memOk hs)
  exact leave_memOk.2 (ite_memOk (charge_memOk h) (fillHome_memOk (basinCharge_memOk (trim_memOk h))))

@[simp] theorem saveFull_memOk {cond : Cond} {resume : Resume} (hs : s.memOk) : (s.saveFull cond resume).memOk := by
  simp [State.saveFull, hs]

@[simp] theorem saveTagged_memOk {cond : Cond} {resume : Resume} (hs : s.memOk) : (s.saveTagged cond resume).memOk := by
  simp [State.saveTagged, hs]

@[simp] theorem trimSaving_memOk (hs : s.memOk) : s.trimSaving.memOk := by simp [State.trimSaving, hs]

@[simp] theorem saveBasin_memOk {cause : Cause} {cond : Cond} {resume : Resume} {preempted : Bool} (hs : s.memOk) :
    (s.saveBasin cause cond resume preempted).memOk := by
  unfold State.saveBasin
  extract_lets now s1 s2
  have h : s2.memOk := stall_memOk (trimSaving_memOk hs)
  exact leave_memOk.2 (fillHome_memOk (ite_memOk h (freeStall_memOk h)))

@[simp] theorem restore_memOk {i : Image} (hs : s.memOk) : (s.restore i).memOk := by
  unfold State.restore
  extract_lets t body fromEntry
  have ht : t.memOk := onFocus_memOk.2 hs
  have hroom : (t.makeRoom body none makeRoomFuel).1.memOk := makeRoom_memOk ht
  split
  · exact onFocus_memOk.2 (charge_memOk (trim_memOk ht))
  · exact onFocus_memOk.2 (charge_memOk hroom)
  · split
    rename_i u ok e
    have hu := fst_memOk e hroom
    exact onFocus_memOk.2 (ite_memOk (charge_memOk (basinCharge_memOk hu)) (basinCharge_memOk (makeRoom_memOk hu)))

@[simp] theorem logResume_memOk {i : Image} (hs : s.memOk) : (s.logResume i).memOk := by simp [State.logResume, hs]

@[simp] theorem decideNow_memOk (hs : s.memOk) : s.decideNow.1.memOk := by
  unfold State.decideNow
  split <;> exact hs

@[simp] theorem replayTo_memOk {rd : Option Nat} : (s.replayTo rd).memOk ↔ s.memOk := by
  unfold State.replayTo
  split <;> rfl

/-! ## Ordered items -/

@[simp] theorem onLaunch_memOk {l : Nat} {f : Launch → Launch} : (s.onLaunch l f).memOk ↔ s.memOk := Iff.rfl

@[simp] theorem publish_memOk {l : Launch} {j : Nat} {r : BitVec 5} {x : Word} {early : Bool} (hs : s.memOk) :
    (s.publish l j r x early).memOk := by simp [State.publish, hs]

@[simp] theorem closeChain_memOk {t : Strand} {l : Launch} {early : Bool} (hs : s.memOk) : (s.closeChain t l early).memOk := by
  simp +contextual [State.closeChain, hs]

@[simp] theorem finishItem_memOk {t : Strand} {lost : Bool} : (s.finishItem t lost).memOk ↔ s.memOk := by
  unfold State.finishItem
  repeat' split
  all_goals simp

@[simp] theorem exitItem_memOk {t : Strand} (hs : s.memOk) : (s.exitItem t).memOk := by
  unfold State.exitItem
  repeat' split
  all_goals simp [hs]

/-! ## Leaves and copies -/

@[simp] theorem setLeafBit_memOk {l : LeafAt} {k : Nat} {v : Bool} (hs : s.memOk) : (s.setLeafBit l k v).memOk := by
  simp [State.setLeafBit, hs]

@[simp] theorem copyPa_memOk {src dst n : Nat} (hs : s.memOk) : (s.copyPa src dst n).1.memOk := by
  refine List.foldlRecOn (motive := fun r : State × PaCopy => r.1.memOk) _ _ hs fun r h p _ => ?_
  have ht := homeTouch_memOk (h := r.1.homeOf p.1) (n := p.2) h
  dsimp only
  split
  · exact ite_memOk (markPoison_memOk.2 (storeBytes_memOk ht)) (storeBytes_memOk ht)
  · exact markPoison_memOk.2 ht
  · exact ht

@[simp] theorem setBitmap_memOk {pa i : Nat} {v : Bool} (hs : s.memOk) : (s.setBitmap pa i v).memOk := by simp [State.setBitmap, hs]

@[simp] theorem dumpPiece_memOk {asid : BitVec 12} {va : Nat} (hs : s.memOk) : (s.dumpPiece asid va).memOk := by
  unfold State.dumpPiece
  extract_lets p
  split
  · exact hs
  · refine ite_memOk hs ?_
    extract_lets rest upd
    split
    · exact onPkg_memOk.2 hs
    · split
      rename_i u r e
      extract_lets s1
      have h : s1.memOk := setBitmap_memOk (fst_memOk e (copyPa_memOk hs))
      exact onPkg_memOk.2 (ite_memOk (dropPage_memOk.2 (setLeafBit_memOk h)) h)

/-! ## The shared operations of a strand -/

@[simp] theorem storeVa_memOk {a : Agent} {va : Nat} {bs : List Byte} (hs : s.memOk) : (s.storeVa a va bs).memOk := by
  refine foldl_memOk (fun s p h => ?_) hs
  split
  extract_lets t
  have ht : t.memOk := ite_memOk (dumpPiece_memOk h) h
  split
  · exact storeBytes_memOk ht
  · exact markPoison_memOk.2 ht
  · exact ht

@[simp] theorem arriveAt_memOk {m : Msg} {core : Nat} {f : Core → Core} : (s.arriveAt m core f).memOk ↔ s.memOk := by simp [State.arriveAt]

@[simp] theorem replyAt_memOk {m : Msg} {core : Nat} {h : Word} {k : Nat} (hs : s.memOk) : (s.replyAt m core h k).memOk := by
  simp [State.replyAt, hs]

@[simp] theorem storeArrives_memOk {m : Msg} {core : Nat} {h : Word} {k : Nat} {x : Word} (hs : s.memOk) :
    (s.storeArrives m core h k x).memOk := by simp [State.storeArrives, hs]

@[simp] theorem awaitReply_memOk {cause : Cause} {h : Word} (hs : s.memOk) : (s.awaitReply cause h).memOk := by
  unfold State.awaitReply
  repeat' split
  all_goals simp [hs]

@[simp] theorem awaitReplies_memOk {cause : Cause} (hs : s.memOk) : (s.awaitReplies cause).memOk := by
  simp +contextual [State.awaitReplies, hs]

@[simp] theorem settle_memOk {cause : Cause} (hs : s.memOk) : (s.settle cause).1.memOk := by
  have h := awaitReplies_memOk (cause := cause) hs
  unfold State.settle
  extract_lets s1 due s2 bad good
  split
  exact onCur_memOk.2 (stall_memOk (onCur_memOk.2 (ite_memOk (freeStall_memOk h) h)))

@[simp] theorem observe_memOk {h : Word} : (s.observe h).memOk ↔ s.memOk := by simp [State.observe]
@[simp] theorem quiesce_memOk {cause : Cause} (hs : s.memOk) : (s.quiesce cause).memOk := by simp [State.quiesce, hs]

@[simp] theorem drainSettle_memOk {cause : Cause} (hs : s.memOk) : (s.drainSettle cause).1.memOk := by
  unfold State.drainSettle
  split <;> simp [hs]

@[simp] theorem freeGang_memOk {t : Strand} (hs : s.memOk) : (s.freeGang t).memOk := by simp [State.freeGang, hs]
@[simp] theorem dropStreams_memOk {t : Strand} : (s.dropStreams t).memOk ↔ s.memOk := Iff.rfl

@[simp] theorem endStrand_memOk {t : Strand} {code : Option (BitVec 8)} (hs : s.memOk) : (s.endStrand t code).memOk := by
  unfold State.endStrand
  dsimp only
  repeat' split
  all_goals simp +contextual [*]

@[simp] theorem vacate_memOk : s.vacate.memOk ↔ s.memOk := Iff.rfl

@[simp] theorem cancelLaunch_memOk {l : Option Nat} {code : BitVec 8} {record : List Byte} :
    (s.cancelLaunch l code record).memOk ↔ s.memOk := by
  unfold State.cancelLaunch
  split <;> rfl

@[simp] theorem atPc_memOk {pc : Word} {f : State → State} (hs : s.memOk) (hf : ∀ t, t.memOk → (f t).memOk) : (s.atPc pc f).memOk := by
  simp +contextual [State.atPc, *]

@[simp] theorem deliver_memOk {t : TrapInfo} {slot bytes : Nat} (hs : s.memOk) : (s.deliver t slot bytes).memOk := by
  unfold State.deliver
  extract_lets st s1 base s2 img
  have h1 : s1.memOk := atPc_memOk hs fun _ h => stall_memOk h
  have h2 : s2.memOk := trimSaving_memOk (storeVa_memOk h1)
  exact charge_memOk (onFocus_memOk.2 h2)

@[simp] theorem unhandled_memOk {t : TrapInfo} (hs : s.memOk) : (s.unhandled t).memOk := by simp [State.unhandled, hs]

@[simp] theorem doubleTrapOf_memOk {st : Strand} {t : TrapInfo} {h : HandlerCtx} (hs : s.memOk) : (s.doubleTrapOf st t h).memOk := by
  unfold State.doubleTrapOf
  extract_lets base a second s1 report trapped s2 s3 who
  have h3 : s3.memOk := dropStreams_memOk.2 (freeGang_memOk (onFocus_memOk.2 (storeVa_memOk hs)))
  exact cancelLaunch_memOk.2 (finishItem_memOk.2 (endStrand_memOk h3))

@[simp] theorem doubleTrap_memOk {t : TrapInfo} {h : HandlerCtx} (hs : s.memOk) : (s.doubleTrap t h).memOk := by simp [State.doubleTrap, hs]

@[simp] theorem takeTrap_memOk {t : TrapInfo} (hs : s.memOk) : (s.takeTrap t).memOk := by
  unfold State.takeTrap
  extract_lets t s1 r
  have h1 : s1.memOk := atPc_memOk hs fun _ h => quiesce_memOk h
  have hr : r.1.memOk := settle_memOk (onCur_memOk.2 h1)
  split
  rename_i s2 bad e
  have h2 : s2.memOk := by
    refine fst_memOk e ?_
    split
    · exact h1
    · dsimp only
      exact onCur_memOk.2 hr
  extract_lets t s3
  have h3 : s3.memOk := onCur_memOk.2 h2
  split
  · exact doubleTrap_memOk h3
  · refine ite_memOk (unhandled_memOk h3) ?_
    split
    · exact deliver_memOk h3
    · exact onFocus_memOk.2 (saveBasin_memOk h3)

@[simp] theorem lostHandler_memOk {st : Strand} {t : TrapInfo} {slot found : Nat} {preempted : Bool} (hs : s.memOk) :
    (s.lostHandler st t slot found preempted).memOk := by simp [State.lostHandler, hs]

@[simp] theorem deliverWaiting_memOk {i : Image} {t : TrapInfo} {tagged slot : Nat} (hs : s.memOk) :
    (s.deliverWaiting i t tagged slot).memOk := by simp [State.deliverWaiting, hs]

@[simp] theorem resumeTrapped_memOk {i : Image} {t : Strand} {slot : Nat} (hs : s.memOk) : (s.resumeTrapped i t slot).memOk := by
  simp [State.resumeTrapped, hs]

@[simp] theorem raise_memOk {cause : BitVec 8} {info : Word} (hs : s.memOk) : (s.raise cause info).memOk := hs
@[simp] theorem illegal_memOk (hs : s.memOk) : s.illegal.memOk := hs
@[simp] theorem slot_memOk {next : Word} (hs : s.memOk) : (s.slot next).memOk := by simp [State.slot, hs]

@[simp] theorem settleAfter_memOk {st : Bool} (hs : s.memOk) : (s.settleAfter st).memOk := by
  unfold State.settleAfter
  refine ite_memOk ?_ hs
  extract_lets t
  have h := settle_memOk (cause := .settle) (vqWait_memOk (cause := .settle) (p := fun _ => true) hs)
  split
  · rename_i e
    exact fst_memOk e h
  · rename_i e
    exact takeTrap_memOk (fst_memOk e h)

@[simp] theorem complete_memOk {st : Bool} {len : Nat} (hs : s.memOk) : (s.complete st len).memOk := by simp [State.complete, hs]

@[simp] theorem completeJump_memOk {st : Bool} {pc : Word} (hs : s.memOk) : (s.completeJump st pc).memOk := by
  unfold State.completeJump
  exact settleAfter_memOk (charge_memOk (closeRun_memOk (slot_memOk hs)))

@[simp] theorem retry_memOk {c : Cause} (hs : s.memOk) : (s.retry c).memOk := by simp [State.retry, hs]
@[simp] theorem unwait_memOk : s.unwait.memOk ↔ s.memOk := Iff.rfl

@[simp] theorem finish_memOk {r : Res} {st : Bool} {len : Nat} (hr : r.memOk) : (r.finish st len).memOk := by
  unfold Res.finish
  split
  · exact complete_memOk (unwait_memOk.2 hr)
  · exact completeJump_memOk (unwait_memOk.2 hr)
  · exact takeTrap_memOk (unwait_memOk.2 hr)
  · exact retry_memOk hr
  · exact hr

@[simp] theorem replyWait_memOk {st : Bool} {cause : Cause} (hs : s.memOk) : (s.replyWait st cause).memOk := by
  unfold State.replyWait
  exact settleAfter_memOk (freeStall_memOk (slot_memOk (unwait_memOk.2 hs)))

@[simp] theorem settleToSave_memOk {bytes : Strand → Nat} {cond : Cond} {resume : Resume} (hs : s.memOk) :
    (s.settleToSave bytes cond resume).1.memOk := by
  unfold State.settleToSave
  dsimp only
  repeat' split
  all_goals simp +contextual [*]

@[simp] theorem suspendFull_memOk {cond : State → Cond} {resume : Resume} (hs : s.memOk) : (s.suspendFull cond resume).memOk := by
  have h := settleToSave_memOk (bytes := Strand.fullBytes) (cond := cond s) (resume := resume) hs
  unfold State.suspendFull
  split
  · rename_i e
    exact takeTrap_memOk (fst_memOk e h)
  · rename_i e
    exact saveFull_memOk (fst_memOk e h)

@[simp] theorem suspendDeposit_memOk {regs : BitVec 4} (hs : s.memOk) : (s.suspendDeposit regs).memOk := by simp [State.suspendDeposit, hs]

@[simp] theorem faultPath_memOk {pages : List (Nat × Nat)} {acc : BitVec 3} {first : Word} (hs : s.memOk) :
    (s.faultPath pages acc first).memOk := by
  unfold State.faultPath
  extract_lets s1
  have h1 : s1.memOk := onCur_memOk.2 hs
  refine ite_memOk (takeTrap_memOk h1) ?_
  extract_lets
  have h := settleToSave_memOk (bytes := Strand.taggedWhole) (cond := .faultCell pages acc first) (resume := .go) h1
  split
  · rename_i e
    exact takeTrap_memOk (fst_memOk e h)
  · rename_i e
    have h2 := fst_memOk e h
    extract_lets s2
    have h3 : s2.memOk := onCur_memOk.2 h2
    split
    · exact saveTagged_memOk h3
    · exact saveTagged_memOk (onPkg_memOk.2 h3)

@[simp] theorem grantFaultCells_memOk {n : Nat} (hs : s.memOk) : (s.grantFaultCells n).memOk := by
  induction n generalizing s with
  | zero => exact hs
  | succ n ih =>
    unfold State.grantFaultCells
    split
    · exact hs
    · split
      · split
        · exact hs
        · exact ih (onPkg_memOk.2 hs)
      · exact hs

@[simp] theorem whenReady_memOk {u : Use} {body : State → Res} (hs : s.memOk) (hbody : ∀ t, t.memOk → (body t).memOk) :
    (s.whenReady u body).memOk := by
  have h : s.vqNow.memOk := vqNow_memOk.2 hs
  unfold State.whenReady
  simp only [ite_resOk_iff, stall_memOk h, vqDrain_memOk h, h, hbody _ h, ite_self]

@[simp] theorem withRoom_memOk {u : Use} {body : State → Res} (hs : s.memOk) (hbody : ∀ t, t.memOk → (body t).memOk) :
    (s.withRoom u body).memOk := by
  have h := settle_memOk (cause := .settle) hs
  unfold State.withRoom
  split
  · exact hbody s hs
  · split
    · rename_i e
      exact fst_memOk e h
    · rename_i e
      have ht := fst_memOk e h
      split
      · exact ht
      · exact ht

@[simp] theorem powered_memOk {regs : List (BitVec 5)} (hs : s.memOk) : OptOk (s.powered regs) := by simp [State.powered, hs]

@[simp] theorem gate_memOk {u : Use} {body : State → Res} (hs : s.memOk) (hbody : ∀ t, t.memOk → (body t).memOk) :
    (s.gate u body).memOk := by
  unfold State.gate
  split
  · exact hs
  · extract_lets e
    split
    · exact suspendDeposit_memOk hs
    · split
      · rename_i h
        exact powered_memOk hs _ h
      · split
        · exact hs
        · split
          · exact hs
          · exact withRoom_memOk hs fun t ht => whenReady_memOk ht hbody

@[simp] theorem issue_memOk {st : Bool} {len : Nat} {u : Use} {body : State → Res} (hs : s.memOk) (hbody : ∀ t, t.memOk → (body t).memOk) :
    OutOk (issue st len u body s) :=
  (outOk_next _).2 (finish_memOk (gate_memOk hs hbody))

@[simp] theorem naming_memOk {r : Res} {x : BitVec 12} (hr : r.memOk) : (r.naming x).memOk := by
  unfold Res.naming
  split
  · split
    · exact hr
    · exact hr
  · exact hr

@[simp] theorem issueSpecial_memOk {st : Bool} {u : Use} {x : BitVec 12} {body : State → Res} (hs : s.memOk)
    (hbody : ∀ t, t.memOk → (body t).memOk) : OutOk (issueSpecial st u x body s) :=
  (outOk_next _).2 (finish_memOk (naming_memOk (gate_memOk hs hbody)))

@[simp] theorem wg_memOk {r : BitVec 5} {x : Word} : (s.wg r x).memOk ↔ s.memOk := Iff.rfl
@[simp] theorem defer_memOk {e : Pending} : (s.defer e).memOk ↔ s.memOk := Iff.rfl

/-! ## Flags -/

@[simp] theorem orFlags_memOk {flags : Nat} : (s.orFlags flags).memOk ↔ s.memOk := Iff.rfl

@[simp] theorem captureXm_memOk {bits : List (Nat × Nat)} : (s.captureXm bits).memOk ↔ s.memOk := by
  unfold State.captureXm
  split <;> rfl

@[simp] theorem noteFlags_memOk {l : List Raised} : (s.noteFlags l).memOk ↔ s.memOk := by simp [State.noteFlags]
@[simp] theorem setSflags_memOk {x : Word} : (s.setSflags x).memOk ↔ s.memOk := Iff.rfl

/-! ## Operand forms -/

@[simp] theorem chainTake_memOk {r : BitVec 5} {k : Nat} {n early : Bool} (hs : s.memOk) : (s.chainTake r k n early).memOk := by
  unfold State.chainTake
  dsimp only
  repeat' split
  all_goals simp +contextual [*]

@[simp] theorem withA_memOk {a : BitVec 5} {k : BitVec 2} {n : Bool} {body : Word → State → Res} (hs : s.memOk)
    (hbody : ∀ x t, t.memOk → (body x t).memOk) : (s.withA a k n body).memOk := by
  unfold State.withA
  split
  · exact hbody _ s hs
  · split
    · exact hbody _ _ (chainTake_memOk hs)
    · exact hs
    · exact hs

@[simp] theorem withAcc_memOk {k : AccKind} {n va : Nat} {acc : Acc} {body : Home → State → Res} (hs : s.memOk)
    (hbody : ∀ h t, t.memOk → (body h t).memOk) : (s.withAcc k n va acc body).memOk := by
  unfold State.withAcc
  split
  · exact hbody _ _ (homeTouch_memOk (cacheFor_memOk hs))
  · exact hs
  · exact faultPath_memOk hs
  · exact ite_memOk hs (want_memOk hs)

@[simp] theorem deferred_memOk {wr : PendWrite} {va : Nat} {err : Option DataError} : (s.deferred wr va err).memOk ↔ s.memOk := Iff.rfl

@[simp] theorem readPieces_memOk {a : Agent} {l : List (Nat × Nat)} {sh acc : Nat} {body : Nat → State → Res} (hs : s.memOk)
    (hbody : ∀ x t, t.memOk → (body x t).memOk) : (s.readPieces a l sh acc body).memOk := by
  induction l generalizing s sh acc with
  | nil => exact hbody acc s hs
  | cons p l ih =>
    unfold State.readPieces
    split
    · rename_i h _
      have ht : ((s.cacheFor a p.1).homeTouch h p.2).memOk := homeTouch_memOk (cacheFor_memOk hs)
      extract_lets t
      split
      · exact ht
      · exact ih ht
    · exact hs
    · exact faultPath_memOk hs
    · exact hs
    · exact hs

@[simp] theorem readDesc_memOk {va n : Nat} {body : Nat → State → Res} (hs : s.memOk) (hbody : ∀ x t, t.memOk → (body x t).memOk) :
    (s.readDesc va n body).memOk := readPieces_memOk hs hbody

@[simp] theorem liveEntry_memOk {ix : Nat} {body : BitVec 128 → State → Res} (hs : s.memOk) (hbody : ∀ y t, t.memOk → (body y t).memOk) :
    (s.liveEntry ix body).memOk := by simp +contextual [State.liveEntry, *]

@[simp] theorem putElems_memOk {d : BitVec 5} {w : Nat} {es : List (Nat × Nat)} : (s.putElems d w es).memOk ↔ s.memOk := Iff.rfl
@[simp] theorem putMask_memOk {d : BitVec 4} {xs : List (BitVec 8192)} : (s.putMask d xs).memOk ↔ s.memOk := Iff.rfl
@[simp] theorem enqueue_memOk {q : VQ} (hs : s.memOk) : (s.enqueue q).memOk := by simp [State.enqueue, hs]

/-! ## Region 0xE -/

@[simp] theorem onQueue_memOk {q : Nat} {f : LaunchQueue → LaunchQueue} : (s.onQueue q f).memOk ↔ s.memOk := Iff.rfl

@[simp] theorem portWrite_memOk {q off size : Nat} {data : BitVec 512} (hs : s.memOk) : (s.portWrite q off size data).memOk := by
  simp [State.portWrite, hs]

@[simp] theorem qstatWrite_memOk {q : Nat} {v : Word} : (s.qstatWrite q v).memOk ↔ s.memOk := Iff.rfl
@[simp] theorem ringMailbox_memOk : s.ringMailbox.memOk ↔ s.memOk := by simp [State.ringMailbox]

@[simp] theorem winWrite_memOk {kind off : Nat} {v : Word} (hs : s.memOk) : (s.winWrite kind off v).memOk := by
  unfold State.winWrite
  split <;> simp [hs]

@[simp] theorem onWaiters_memOk {k : Nat} {f : List Waiter → List Waiter} : (s.onWaiters k f).memOk ↔ s.memOk := by simp [State.onWaiters]
@[simp] theorem wakeWaiters_memOk {k : Nat} {toRead : Bool} : (s.wakeWaiters k toRead).memOk ↔ s.memOk := by simp [State.wakeWaiters]
@[simp] theorem fillWord_memOk {k : Nat} : (s.fillWord k).memOk ↔ s.memOk := by simp [State.fillWord]
@[simp] theorem emptyWord_memOk {k : Nat} : (s.emptyWord k).memOk ↔ s.memOk := by simp [State.emptyWord]
@[simp] theorem refuse_memOk {k : Nat} {toRead : Bool} (hs : s.memOk) : (s.refuse k toRead).memOk := by simp [State.refuse, hs]
@[simp] theorem bankWait_memOk {k : Nat} (hs : s.memOk) : (s.bankWait k).memOk := by simp [State.bankWait, hs]

@[simp] theorem atBank_memOk {k : Nat} {toRead : Bool} {ready : State → Bool} {perform : State → Res} (hs : s.memOk)
    (hperform : ∀ t, t.memOk → (perform t).memOk) :
    (s.atBank k toRead ready perform).memOk := by simp +contextual [State.atBank, *]

@[simp] theorem atBankNow_memOk {k : Nat} {perform : State → Res} (hs : s.memOk) (hperform : ∀ t, t.memOk → (perform t).memOk) :
    (s.atBankNow k perform).memOk := by simp +contextual [State.atBankNow, *]

@[simp] theorem deferredNow_memOk {wr : PendWrite} {va : Nat} {err : Option DataError} : (s.deferredNow wr va err).memOk ↔ s.memOk :=
  Iff.rfl

@[simp] theorem portPop_memOk {p : Port} {d : BitVec 5} {va : Nat} (hs : s.memOk) : (s.portPop p d va).memOk := by
  refine atBank_memOk hs fun t ht => ?_
  split
  · exact ht
  · simp [ht]

@[simp] theorem portPush_memOk {p : Port} {x : Word} (hs : s.memOk) : (s.portPush p x).memOk := by simp [State.portPush, hs]

end Sys2Proof.Machine
end

section
/-! SUPPORT. The canonical form through scalar and vector accesses, arrivals, special registers and caches. -/

namespace Sys2Proof.Machine

variable {s : State}

/-! ## Scalar loads and stores -/

@[simp] theorem loadAt_memOk {d : BitVec 5} {n : Nat} {signed : Bool} {va : Nat} (hs : s.memOk) : (s.loadAt d n signed va).memOk := by
  simp [State.loadAt, hs]

@[simp] theorem loadWindow_memOk {d : BitVec 5} {va : Nat} (hs : s.memOk) : (s.loadWindow d va).memOk := by
  unfold State.loadWindow
  repeat' split
  all_goals simp [hs]

@[simp] theorem loadPtr_memOk {d : BitVec 5} {n : Nat} {signed : Bool} {ea : Word} (hs : s.memOk) : (s.loadPtr d n signed ea).memOk := by
  simp [State.loadPtr, hs]

@[simp] theorem loadWord_memOk {st : Bool} {d a : BitVec 5} {o : BitVec 12} {n : Nat} {signed : Bool} (hs : s.memOk) :
    OutOk (loadWord st d a o n signed s) := by simp +contextual [loadWord, hs]

@[simp] theorem execLdI64_memOk {st : Bool} {d a : BitVec 5} {o : BitVec 12} (hs : s.memOk) : OutOk (execLdI64 st d a o s) := by
  simp [execLdI64, hs]

@[simp] theorem storeAt_memOk {x : Word} {n va : Nat} (hs : s.memOk) : (s.storeAt x n va).memOk := by simp +contextual [State.storeAt, hs]

@[simp] theorem storeWindow_memOk {x : Word} {va : Nat} (hs : s.memOk) : (s.storeWindow x va).memOk := by
  unfold State.storeWindow
  repeat' split
  all_goals simp [hs]

@[simp] theorem storePtr_memOk {x : Word} {n : Nat} {ea : Word} (hs : s.memOk) : (s.storePtr x n ea).memOk := by simp [State.storePtr, hs]

@[simp] theorem storeWord_memOk {st : Bool} {d a : BitVec 5} {o : BitVec 13} {n : Nat} (hs : s.memOk) : OutOk (storeWord st d a o n s) := by
  simp +contextual [storeWord, hs]

@[simp] theorem execSt64_memOk {st : Bool} {d a : BitVec 5} {o : BitVec 13} (hs : s.memOk) : OutOk (execSt64 st d a o s) := by
  simp [execSt64, hs]

@[simp] theorem execLdq_memOk {st : Bool} {d a b : BitVec 5} (hs : s.memOk) : OutOk (execLdq st d a b s) := by
  unfold execLdq
  split
  · exact issue_memOk hs fun _ h => h
  · refine issue_memOk hs fun t ht => withAcc_memOk ht fun h u hu => ?_
    split
    · exact hu
    · rename_i tok v e
      exact post_memOk.2 (defer_memOk.2 (wg_memOk.2 (allocCell_memOk hu _ e)))

@[simp] theorem execStq_memOk {st : Bool} {d a b : BitVec 5} (hs : s.memOk) : OutOk (execStq st d a b s) := by
  refine issue_memOk hs fun t ht => withAcc_memOk ht fun h u hu => ?_
  split
  · exact hu
  · rename_i tok v e
    exact post_memOk.2 (wg_memOk.2 (allocCell_memOk hu _ e))

@[simp] theorem releaseWait_memOk {p : BitVec 3} (hs : s.memOk) : (s.releaseWait p).memOk := by simp [State.releaseWait, hs]
@[simp] theorem acquireWait_memOk {p : BitVec 3} (hs : s.memOk) : (s.acquireWait p).memOk := by simp [State.acquireWait, hs]

@[simp] theorem atomic_memOk {d a : BitVec 5} {p : BitVec 3} {n : Nat} {fp : Bool} {f : Nat → Option Nat} (hs : s.memOk) :
    (s.atomic d a p n fp f).memOk := by
  unfold State.atomic
  extract_lets ea va
  refine withAcc_memOk hs fun h t ht => ?_
  have hr : (t.releaseWait p).memOk := releaseWait_memOk ht
  extract_lets u old err v
  refine acquireWait_memOk (deferred_memOk.2 ?_)
  show State.memOk (match f old with | some x => u.homeStore h n (x % 2 ^ (8 * n)) | none => u)
  split
  · exact homeStore_memOk hr
  · exact hr

@[simp] theorem amoWord_memOk {st : Bool} {d a b : BitVec 5} {p : BitVec 3} {f : Word → Word → Word} (hs : s.memOk) :
    OutOk (amoWord st d a b p f s) := by simp +contextual [amoWord, hs]

@[simp] theorem amoFp_memOk {st : Bool} {d a b : BitVec 5} {p : BitVec 3} {f : Nat → Nat → Nat} (hs : s.memOk) :
    OutOk (amoFp st d a b p f s) := by simp +contextual [amoFp, hs]

/-! ## What arrives at a core -/

@[simp] theorem evTableTimeout_memOk {core num : Nat} (hs : s.memOk) : OptOk (s.evTableTimeout core num) := by
  unfold State.evTableTimeout
  dsimp only
  repeat' split
  all_goals simp +contextual [*]

@[simp] theorem evWaitLimit_memOk {core num : Nat} (hs : s.memOk) : OptOk (s.evWaitLimit core num) := by
  unfold State.evWaitLimit
  dsimp only
  repeat' split
  all_goals simp +contextual [*]

@[simp] theorem setDetred_memOk {d : Nat} : (s.setDetred d).memOk ↔ s.memOk := Iff.rfl

@[simp] theorem detredAt_memOk {t : Strand} {d : Nat} : (s.detredAt t d).memOk ↔ s.memOk := by
  unfold State.detredAt
  split <;> rfl

@[simp] theorem pubsFollow_memOk {launch : Option Nat} {core : Nat} (hs : s.memOk) : (s.pubsFollow launch core).memOk := by
  unfold State.pubsFollow
  split
  · exact hs
  · refine foldl_memOk (fun t p ht => ite_memOk ht ?_) hs
    split
    · exact ht
    · exact onLaunch_memOk.2 ht

@[simp] theorem hopArrives_memOk {st : Strand} {core : Nat} {d : BitVec 5} (hs : s.memOk) : OptOk (s.hopArrives st core d) := by
  unfold State.hopArrives
  dsimp only
  repeat' split
  all_goals simp +contextual [*]

@[simp] theorem deliverBody_memOk {m : Msg} (hs : s.memOk) : OptOk (s.deliverBody m) := by
  unfold State.deliverBody
  split <;> simp [hs]

@[simp] theorem evMsg_memOk {p : MsgBody → Bool} {i : Nat} (hs : s.memOk) : OptOk (s.evMsg p i) := by
  unfold State.evMsg
  split <;> simp [hs]

@[simp] theorem evSignal_memOk {i : Nat} (hs : s.memOk) : OptOk (s.evSignal i) := by simp [State.evSignal, hs]
@[simp] theorem evFail_memOk {i : Nat} (hs : s.memOk) : OptOk (s.evFail i) := by simp [State.evFail, hs]
@[simp] theorem evDeposit_memOk {i : Nat} (hs : s.memOk) : OptOk (s.evDeposit i) := by simp [State.evDeposit, hs]
@[simp] theorem evReply_memOk {i : Nat} (hs : s.memOk) : OptOk (s.evReply i) := by simp [State.evReply, hs]
@[simp] theorem evWake_memOk {i : Nat} (hs : s.memOk) : OptOk (s.evWake i) := by simp [State.evWake, hs]
@[simp] theorem evHop_memOk {i : Nat} (hs : s.memOk) : OptOk (s.evHop i) := by simp [State.evHop, hs]

@[simp] theorem dueNext_memOk (hs : s.memOk) : OptOk s.dueNext := by
  unfold State.dueNext
  split <;> simp [hs]

@[simp] theorem deliverDue_memOk {n : Nat} (hs : s.memOk) : (s.deliverDue n).memOk := by
  induction n generalizing s with
  | zero => exact hs
  | succ n ih =>
    unfold State.deliverDue
    split
    · exact hs
    · rename_i e
      exact ih (dueNext_memOk hs _ e)

@[simp] theorem evPending_memOk {core i : Nat} (hs : s.memOk) : OptOk (s.evPending core i) := by
  unfold State.evPending
  dsimp only
  repeat' split
  all_goals simp +contextual [*]

@[simp] theorem evOut_memOk {name : String} {o : Option State} (ho : OptOk o) : OutOk (evOut name o) := by
  cases o with
  | none => exact outOk_refused _
  | some t => exact (outOk_next t).2 ((optOk_some t).1 ho)

/-! ## Special registers -/

@[simp] theorem clearRead_memOk {x : BitVec 12} : (s.clearRead x).memOk ↔ s.memOk := by
  unfold State.clearRead
  split <;> rfl

@[simp] theorem execRds_memOk {st : Bool} {d : BitVec 5} {x : BitVec 12} (hs : s.memOk) : OutOk (execRds st d x s) := by
  refine issueSpecial_memOk hs fun t ht => ?_
  split
  · exact ht
  · exact wg_memOk.2 (clearRead_memOk.2 (vqNow_memOk.2 ht))

@[simp] theorem putSpecial_memOk {x : BitVec 12} {v : Word} : (s.putSpecial x v).memOk ↔ s.memOk := by simp [State.putSpecial]

@[simp] theorem wrsWith_memOk {st : Bool} {a : BitVec 5} {x : BitVec 12} {body : Word → State → Res} (hs : s.memOk)
    (hbody : ∀ y t, t.memOk → (body y t).memOk) :
    OutOk (wrsWith st a x body s) := by simp +contextual [wrsWith, *]

@[simp] theorem execWrsVbank_memOk {st : Bool} {a : BitVec 5} (hs : s.memOk) : OutOk (execWrsVbank st a s) := by
  refine wrsWith_memOk hs fun v t ht => ?_
  split
  · exact ht
  · extract_lets old lowered raised lost u
    split
    · rename_i e
      exact powered_memOk ht _ e
    · have hu : u.memOk := vqNow_memOk.2 ht
      split
      · exact stall_memOk hu
      · exact onSp_memOk.2 (onCur_memOk.2 hu)

@[simp] theorem execWrsAcctctl_memOk {st : Bool} {a : BitVec 5} (hs : s.memOk) : OutOk (execWrsAcctctl st a s) := by
  refine wrsWith_memOk hs fun v t ht => ?_
  extract_lets n was u w
  split
  · exact ht
  · have hw : w.memOk := onFocus_memOk.2 (ite_memOk (putLost_memOk (closeRun_memOk ht)) ht)
    exact ite_memOk (trace_memOk hw) hw

/-! ## The cluster cache and the home banks -/

@[simp] theorem request_memOk {r : MemRequest} : (s.request r).memOk ↔ s.memOk := Iff.rfl

@[simp] theorem execPin_memOk {st : Bool} {d a : BitVec 5} (hs : s.memOk) : OutOk (execPin st d a s) := by
  refine issue_memOk hs fun t ht => ?_
  extract_lets va u x v
  have hu : u.memOk := freeStall_memOk ht
  have hv : v.memOk := by
    unfold v
    split
    · exact onCluster_memOk.2 hu
    · exact hu
  exact wg_memOk.2 hv

@[simp] theorem execUnpin_memOk {st : Bool} {d a : BitVec 5} (hs : s.memOk) : OutOk (execUnpin st d a s) := by
  refine issue_memOk hs fun t ht => ?_
  extract_lets va u
  have hu : u.memOk := freeStall_memOk ht
  split
  · exact wg_memOk.2 hu
  · split
    · exact wg_memOk.2 (onCluster_memOk.2 hu)
    · exact wg_memOk.2 hu

/-! ## The frames of the vector instructions -/

@[simp] theorem vecFinish_memOk {raised : List Raised} {q : VQ} {write : State → State} (hs : s.memOk) (hwrite : (write s).memOk) :
    (s.vecFinish raised q write).memOk := by
  unfold State.vecFinish
  split
  · exact hs
  · exact enqueue_memOk (noteFlags_memOk.2 hwrite)

@[simp] theorem vecCheck_memOk {typeOk shapeOk : Bool} {reads : List (BitVec 5 × Nat × List Nat)} {k : State → Res} (hs : s.memOk)
    (hk : (k s).memOk) : (s.vecCheck typeOk shapeOk reads k).memOk := by
  unfold State.vecCheck
  split
  · exact hs
  · split
    · exact hs
    · split
      · exact hs
      · exact hk

@[simp] theorem vecElem_memOk {o : VOp} {d a : BitVec 5} {b : VSrc} {m : BitVec 4} {x : Bool} {fn : Nat → Nat → Nat → Rounded} (hs : s.memOk) :
    (s.vecElem o d a b m x fn).memOk := by simp +contextual [State.vecElem, hs]

@[simp] theorem vecWord_memOk {st : Bool} {o : VOp} {d a : BitVec 5} {b : VSrc} {m : BitVec 4} {x : Bool}
    {fn : State → Nat → Nat → Nat → Rounded} (hs : s.memOk) :
    OutOk (vecWord st o d a b m x fn s) := by simp +contextual [vecWord, hs]

@[simp] theorem vecDot_memOk {p w : Nat} {d a : BitVec 5} {b : VSrc} {m : BitVec 4} {x : Bool} (hs : s.memOk) :
    (s.vecDot p w d a b m x).memOk := by
  unfold State.vecDot
  extract_lets t js c groups
  refine vecCheck_memOk hs ?_
  split
  · exact hs
  · exact vecFinish_memOk hs (onCur_memOk.2 hs)

@[simp] theorem dotWord_memOk {st : Bool} {p w : Nat} {d a : BitVec 5} {b : VSrc} {m : BitVec 4} {x : Bool} (hs : s.memOk) :
    OutOk (dotWord st p w d a b m x s) := by simp +contextual [dotWord, hs]

@[simp] theorem vecCmp_memOk {types : BitVec 5 → Bool} {d : BitVec 4} {a : BitVec 5} {b : VSrc} {m : BitVec 4} {x : Bool}
    {fn : Nat → Nat → Bool × Nat} (hs : s.memOk) :
    (s.vecCmp types d a b m x fn).memOk := by simp +contextual [State.vecCmp, hs]

@[simp] theorem cmpWord_memOk {st : Bool} {types : BitVec 5 → Bool} {d a b : BitVec 5} {m : BitVec 4} {x g : Bool}
    {fn : State → Nat → Nat → Bool × Nat} (hs : s.memOk) :
    OutOk (cmpWord st types d a b m x g fn s) := by simp +contextual [cmpWord, hs]

@[simp] theorem unitBand_memOk {d : BitVec 5} : (s.unitBand d).memOk ↔ s.memOk := Iff.rfl

@[simp] theorem vecCvt_memOk {src : BitVec 5} {sr : Bool} {c : Option (BitVec 3)} {d a : BitVec 5} {m : BitVec 4} {x : Bool} (hs : s.memOk) :
    (s.vecCvt src sr c d a m x).memOk := by
  unfold State.vecCvt
  extract_lets w w' js
  refine vecCheck_memOk hs ?_
  split
  · exact hs
  · split
    · exact hs
    · extract_lets srs rs
      refine vecFinish_memOk hs ?_
      extract_lets u v
      have hv : v.memOk := ite_memOk (unitBand_memOk.2 (putElems_memOk.2 hs)) (putElems_memOk.2 hs)
      split
      · exact onSp_memOk.2 hv
      · exact hv

/-! ## Vector loads and stores -/

@[simp] theorem writeHomes_memOk {l : List (Home × Nat)} {v : Nat} (hs : s.memOk) : (s.writeHomes l v).memOk := by
  induction l generalizing s v with
  | nil => exact hs
  | cons p l ih => exact ih (homeStore_memOk hs)

@[simp] theorem touchHomes_memOk {l : List (Home × Nat)} (hs : s.memOk) : (s.touchHomes l).memOk := by
  simp +contextual [State.touchHomes, hs]

@[simp] theorem writeEl_memOk {a : Agent} {e : Nat} {x : VEl} {v : Nat} (hs : s.memOk) : (s.writeEl a e x v).memOk :=
  ite_memOk (writeHomes_memOk hs) (writeHomes_memOk (touchHomes_memOk hs))

@[simp] theorem faultLanes_memOk {js : List Nat} : (s.faultLanes js).memOk ↔ s.memOk := Iff.rfl

@[simp] theorem doneFltm_memOk : s.doneFltm.memOk ↔ s.memOk := by
  unfold State.doneFltm
  split <;> rfl

@[simp] theorem cacheEls_memOk {a : Agent} {xs : List VEl} (hs : s.memOk) : (s.cacheEls a xs).memOk := by
  simp +contextual [State.cacheEls, hs]

@[simp] theorem wantEls_memOk {a : Agent} {xs : List VEl} (hs : s.memOk) : (s.wantEls a xs).memOk := by simp +contextual [State.wantEls, hs]
@[simp] theorem openedEls_memOk {k : AccKind} {els : List VEl} (hs : s.memOk) : (s.openedEls k els).memOk := by simp [State.openedEls, hs]

@[simp] theorem enqueueMem_memOk {v vd : List (BitVec 5)} {m : List (BitVec 4)} {c cd : List (BitVec 3)} {t : Nat} {js : List Nat}
    {els : List VEl} (hs : s.memOk) :
    (s.enqueueMem v vd m c cd t js els).memOk := by simp [State.enqueueMem, hs]

@[simp] theorem vLoadRun_memOk {a : Agent} {align : Nat} {els hdrs : List VEl} {perform : List VEl → List VEl → State → Res}
    (hs : s.memOk) (hp : ∀ els hdrs t, t.memOk → (perform els hdrs t).memOk) : (s.vLoadRun a align els hdrs perform).memOk := by
  unfold State.vLoadRun
  split
  · exact hs
  · exact hs
  · exact hp _ _ _ (cacheEls_memOk hs)
  · extract_lets bad
    split
    rename_i ok miss _
    have h := hp ok (hdrs.filter fun x => !bad x) s hs
    split
    · rename_i t e
      rw [e] at h
      exact faultPath_memOk (faultLanes_memOk.2 h)
    · exact h

@[simp] theorem vLoadPlain_memOk {a : Agent} {d : BitVec 5} {m : BitVec 4} {b : List (BitVec 5)} {x indexed : Bool} {e : Nat}
    {els : List VEl} (hs : s.memOk) :
    (s.vLoadPlain a d m b x indexed e els).memOk := by simp [State.vLoadPlain, hs]

@[simp] theorem vLoadTile_memOk {a : Agent} {t : TileAt} {base : Nat} {d : BitVec 5} {m : BitVec 4} {x : Bool} {c : BitVec 3}
    {els hdrs : List VEl} (hs : s.memOk) :
    (s.vLoadTile a t base d m x c els hdrs).memOk := by
  unfold State.vLoadTile
  dsimp only
  repeat' split
  all_goals simp +contextual [*]

@[simp] theorem vStoreRun_memOk {a : Agent} {k : AccKind} {align : Nat} {els hdrs : List VEl}
    {write : List VEl → List VEl → State → State} {finish : State → State} (hs : s.memOk)
    (hw : ∀ els hdrs t, t.memOk → (write els hdrs t).memOk)
    (hf : ∀ t, t.memOk → (finish t).memOk) : (s.vStoreRun a k align els hdrs write finish).memOk := by
  unfold State.vStoreRun
  split
  · exact hs
  · exact wantEls_memOk hs
  · exact doneFltm_memOk.2 (hf _ (hw _ _ _ (cacheEls_memOk hs)))
  · exact faultPath_memOk (faultLanes_memOk.2 (hw _ _ _ hs))

@[simp] theorem cleanRowLines_memOk {a : Agent} {e : Nat} {els : List VEl} (hs : s.memOk) : (s.cleanRowLines a e els).memOk := by
  refine ite_memOk hs (foldl_memOk (fun t l ht => ?_) hs)
  split
  · exact cleanLines_memOk.2 ht
  · exact ht

@[simp] theorem putEls_memOk {a : Agent} {d : BitVec 5} {e : Nat} {els : List VEl} (hs : s.memOk) : (s.putEls a d e els).memOk := by
  simp +contextual [State.putEls, hs]

@[simp] theorem writeEls_memOk {a : Agent} {d : BitVec 5} {e : Nat} {els : List VEl} (hs : s.memOk) : (s.writeEls a d e els).memOk := by
  simp [State.writeEls, hs]

@[simp] theorem writeHdrs_memOk {a : Agent} {t : TileAt} {base : Nat} {d : BitVec 5} {c : BitVec 3} {blocks : List (Nat × Nat)}
    {hdrs : List VEl} (hs : s.memOk) : (s.writeHdrs a t base d c blocks hdrs).memOk := by
  unfold State.writeHdrs
  extract_lets fs keep u b
  have hu : u.memOk := foldl_memOk (fun t p ht => ite_memOk (writeEl_memOk ht) ht) hs
  exact ite_memOk (writeEl_memOk hu) hu

@[simp] theorem unpoisoned_memOk {reads : List (BitVec 5 × Nat × List Nat)} {k : Res} (hs : s.memOk) (hk : k.memOk) :
    (s.unpoisoned reads k).memOk := by
  unfold State.unpoisoned
  split
  · exact hs
  · exact hk

@[simp] theorem badFormat_memOk {x : Word} (hs : s.memOk) : (s.badFormat x).memOk := hs

@[simp] theorem loadMode_memOk {mode : VMode} {d a : BitVec 5} {b : List (BitVec 5)} {m : BitVec 4} {x : Bool} {c : BitVec 3}
    (hs : s.memOk) : (s.loadMode mode d a b m x c).memOk := by
  unfold State.loadMode
  extract_lets p e
  split
  · exact hs
  · exact unpoisoned_memOk hs (vLoadRun_memOk hs fun els _ t ht => vLoadPlain_memOk ht)

@[simp] theorem loadTile_memOk {d a b : BitVec 5} {m : BitVec 4} {x : Bool} {c : BitVec 3} (hs : s.memOk) :
    (s.loadTile d a b m x c).memOk := by
  unfold State.loadTile
  dsimp only
  repeat' split
  all_goals simp +contextual [*]

@[simp] theorem indexedOk_memOk {k : Res} (hs : s.memOk) (hk : k.memOk) : (s.indexedOk k).memOk := by
  simp +contextual [State.indexedOk, *]

@[simp] theorem execVldx_memOk {st : Bool} {d a b : BitVec 5} {m : BitVec 4} {x : Bool} {c : BitVec 3} (hs : s.memOk) :
    OutOk (execVldx st d a b m x c s) :=
  issue_memOk hs fun _ ht => indexedOk_memOk ht (loadMode_memOk ht)

@[simp] theorem loadFf_memOk {mode : VMode} {d a : BitVec 5} {m : BitVec 4} {x : Bool} {c : BitVec 3} (hs : s.memOk) :
    (s.loadFf mode d a m x c).memOk := by
  unfold State.loadFf
  extract_lets p e ag els
  split
  · exact hs
  · split
    · exact hs
    · split
      · exact vLoadRun_memOk hs fun _ _ _ ht => vLoadPlain_memOk ht
      · split
        · exact vLoadRun_memOk hs fun _ _ _ ht => vLoadPlain_memOk ht
        · split
          · exact hs
          · extract_lets below
            split
            · exact hs
            · have h := vLoadPlain_memOk (a := ag) (d := d) (m := m) (b := []) (x := x) (indexed := false) (e := e) (els := below)
                (cacheEls_memOk (a := ag) (xs := below) hs)
              split
              · rename_i t e
                rw [e] at h
                exact onSp_memOk.2 h
              · exact h

@[simp] theorem storeMode_memOk {mode : VMode} {d a : BitVec 5} {b : List (BitVec 5)} {m : BitVec 4} {x : Bool} {c : BitVec 3}
    (hs : s.memOk) : (s.storeMode mode d a b m x c).memOk := by
  unfold State.storeMode
  extract_lets p e
  split
  · exact hs
  · exact unpoisoned_memOk hs (vStoreRun_memOk hs (fun _ _ _ ht => ite_memOk (writeEls_memOk ht) (putEls_memOk ht)) fun _ ht => enqueueMem_memOk ht)

@[simp] theorem storeTile_memOk {d a b : BitVec 5} {m : BitVec 4} {x : Bool} {c : BitVec 3} (hs : s.memOk) :
    (s.storeTile d a b m x c).memOk := by
  unfold State.storeTile
  extract_lets p base f y
  split
  · exact hs
  · split
    · exact hs
    · exact unpoisoned_memOk hs (vStoreRun_memOk hs (fun _ _ _ ht => writeHdrs_memOk (writeEls_memOk ht)) fun _ ht => enqueueMem_memOk ht)

@[simp] theorem execVstx_memOk {st : Bool} {d a b : BitVec 5} {m : BitVec 4} {x : Bool} {c : BitVec 3} (hs : s.memOk) :
    OutOk (execVstx st d a b m x c s) :=
  issue_memOk hs fun _ ht => indexedOk_memOk ht (storeMode_memOk ht)

@[simp] theorem sendReduces_memOk {n : Nat} {cs : List Contribution} (hs : s.memOk) : (s.sendReduces n cs).memOk := by
  simp [State.sendReduces, hs]

@[simp] theorem poisonDead_memOk {a : Agent} {els : List VEl} (hs : s.memOk) : (s.poisonDead a els).memOk := by
  refine foldl_memOk (fun t x ht => foldl_memOk (fun u h hu => ?_) ht) hs
  split
  · exact markPoison_memOk.2 hu
  · exact hu

@[simp] theorem execVstra_memOk {st : Bool} {d a b : BitVec 5} {m : BitVec 4} {x : Bool} {c : BitVec 3} (hs : s.memOk) :
    OutOk (execVstra st d a b m x c s) := by
  refine issue_memOk hs fun t ht => ?_
  split
  · exact ht
  · refine indexedOk_memOk ht ?_
    extract_lets p
    split
    · exact ht
    · exact unpoisoned_memOk ht (vStoreRun_memOk ht (fun _ _ _ hu => poisonDead_memOk (sendReduces_memOk hu)) fun _ hu =>
        enqueueMem_memOk (onCur_memOk.2 hu))

@[simp] theorem regMove_memOk {k : AccKind} {base : Nat} {body : List VEl → State → Res} (hs : s.memOk)
    (hbody : ∀ y t, t.memOk → (body y t).memOk) : (s.regMove k base body).memOk := by
  unfold State.regMove
  dsimp only
  repeat' split
  all_goals simp +contextual [*]

@[simp] theorem regMoveWrite_memOk {base : Nat} {xs : List (BitVec 8192)} (hs : s.memOk) : (s.regMoveWrite base xs).memOk :=
  foldl_memOk (fun _ _ ht => foldl_memOk (fun _ _ hu => writeEl_memOk hu) ht) hs

@[simp] theorem enqueueMove_memOk {m : List (BitVec 4)} {c : List (BitVec 3)} (hs : s.memOk) : (s.enqueueMove m c).memOk := by
  simp [State.enqueueMove, hs]

@[simp] theorem execMst_memOk {st : Bool} {d a : BitVec 5} (hs : s.memOk) : OutOk (execMst st d a s) := by
  refine issue_memOk hs fun t ht => ?_
  extract_lets p
  split
  · exact ht
  · exact regMove_memOk ht fun _ _ hu => enqueueMove_memOk (regMoveWrite_memOk hu)

@[simp] theorem execCst_memOk {st : Bool} {d a : BitVec 5} (hs : s.memOk) : OutOk (execCst st d a s) := by
  refine issue_memOk hs fun t ht => ?_
  extract_lets p
  split
  · exact ht
  · exact regMove_memOk ht fun _ _ hu => enqueueMove_memOk (regMoveWrite_memOk hu)

/-! ## What the engines share -/

@[simp] theorem engineRead_memOk {a : Agent} {va n : Nat} {k : AccKind} (hs : s.memOk) : (s.engineRead a va n k).1.memOk := by
  refine List.foldlRecOn (motive := fun r : State × List Byte × Bool => r.1.memOk) _ _ hs fun r hr p _ => ?_
  dsimp only
  split
  · exact homeTouch_memOk hr
  · exact hr

@[simp] theorem engineWrite_memOk {a : Agent} {va : Nat} {bs : List Byte} {poisoned : Bool} (hs : s.memOk) :
    (s.engineWrite a va bs poisoned).memOk := by
  refine foldl_memOk (fun t p ht => ?_) hs
  split
  · exact ite_memOk (markPoison_memOk.2 (storeBytes_memOk ht)) (storeBytes_memOk ht)
  · exact ht

@[simp] theorem serviced_memOk {op : EngineId} (hs : s.memOk) : (s.serviced op).memOk := by
  unfold State.serviced
  split
  · trivial
  · extract_lets x t u
    have ht : t.memOk := onPkg_memOk.2 hs
    have hu : u.memOk := onCore_memOk.2 ht
    repeat' split
    · trivial
    · exact ht
    · exact hu
    · exact hu

@[simp] theorem endFault_memOk {op : EngineId} : (s.endFault op).memOk ↔ s.memOk := by
  unfold State.endFault
  split <;> simp

@[simp] theorem engineFault_memOk {core : Nat} {op : EngineId} {a : Agent} {pages : List (Nat × Nat)} {acc : BitVec 3} (hs : s.memOk) :
    OptOk (s.engineFault core op a pages acc) := by
  unfold State.engineFault
  split <;> simp [hs]

end Sys2Proof.Machine
end

section
/-! SUPPORT. The canonical form through streams, barriers, items, the matrix unit, copies, the Moraine store and the page engines. -/

namespace Sys2Proof.Machine

variable {s : State}

/-! ## Streams -/

@[simp] theorem execSbind_memOk {st : Bool} {d a b : BitVec 5} (hs : s.memOk) : OutOk (execSbind st d a b s) := by
  refine issue_memOk hs fun t ht => ?_
  extract_lets x y n e out
  split
  · exact ht
  · split
    · exact ht
    · split
      · exact ht
      · split
        · exact ht
        · exact onFocus_memOk.2 (onCur_memOk.2 ht)

@[simp] theorem endToken_memOk {h : Word} {failed : BitVec 8} : (s.endToken h failed).memOk ↔ s.memOk := by simp [State.endToken]

@[simp] theorem execSunb_memOk {st : Bool} {d a : BitVec 5} (hs : s.memOk) : OutOk (execSunb st d a s) := by
  refine issue_memOk hs fun t ht => ?_
  split
  · exact wg_memOk.2 ht
  · split
    · exact ht
    · rename_i h u e
      have hu : u.memOk := allocCell_memOk ht _ e
      extract_lets v
      have hv : v.memOk := wg_memOk.2 (onCur_memOk.2 hu)
      split
      · exact endToken_memOk.2 (onFocus_memOk.2 hv)
      · exact onFocus_memOk.2 hv

@[simp] theorem hint_memOk {p : Word} (hs : s.memOk) : (s.hint p).memOk := by
  unfold State.hint
  split <;> simp [hs]

@[simp] theorem advance_memOk {t : Nat} {r : BitVec 5} (hs : s.memOk) : (s.advance t r).memOk := by simp [State.advance, hs]

@[simp] theorem advanceBinding_memOk {t vl : Nat} {b : Binding} : (s.advanceBinding t vl b).memOk ↔ s.memOk := by
  simp [State.advanceBinding]

@[simp] theorem execStrip_memOk {st : Bool} {d a : BitVec 5} {e f g h n : BitVec 3} (hs : s.memOk) :
    OutOk (execStrip st d a e f g h n s) := by
  unfold execStrip
  extract_lets rs
  refine issue_memOk hs fun t ht => ?_
  split
  · exact ht
  · extract_lets x n rest vl u v
    have hu : u.memOk := foldl_memOk (fun _ _ h => advance_memOk h) ht
    have hv : v.memOk := foldl_memOk (fun _ _ h => advanceBinding_memOk.2 h) hu
    exact wg_memOk.2 (onSp_memOk.2 hv)

@[simp] theorem fillNow_memOk {core num : Nat} {t : Strand} {b : Binding} {failed : Bool} (hs : s.memOk) :
    (s.fillNow core num t b failed).memOk := by simp [State.fillNow, hs]

@[simp] theorem evFill_memOk {core num : Nat} {r : BitVec 5} (hs : s.memOk) : OptOk (s.evFill core num r) := by
  have hv := serviced_memOk (op := .fill core num r) hs
  unfold State.evFill
  split
  · exact optOk_none
  · split
    · exact optOk_none
    · split
      · exact optOk_none
      · extract_lets absent
        split
        · exact optOk_none
        · rename_i e
          rw [e] at hv
          exact (optOk_some _).2 (fillNow_memOk hv)
        · exact optOk_ite ((optOk_some _).2 (fillNow_memOk hs)) optOk_none
        · rename_i e
          rw [e] at hv
          exact optOk_ite ((optOk_some _).2 (fillNow_memOk hv)) ((optOk_some _).2 (onCore_memOk.2 hv))

@[simp] theorem drainDone_memOk {core i : Nat} {d : Drain} {code : BitVec 8} : (s.drainDone core i d code).memOk ↔ s.memOk := by
  simp [State.drainDone]

@[simp] theorem drainNow_memOk {core i : Nat} {d : Drain} (hs : s.memOk) : OptOk (s.drainNow core i d) := by simp [State.drainNow, hs]

@[simp] theorem evDrain_memOk {core i : Nat} (hs : s.memOk) : OptOk (s.evDrain core i) := by
  unfold State.evDrain
  split
  · exact optOk_none
  · rename_i d _
    have hv := serviced_memOk (op := .drain core d.strand d.reg) hs
    extract_lets absent
    split
    · exact optOk_none
    · rename_i e
      rw [e] at hv
      exact (optOk_some _).2 (drainDone_memOk.2 hv)
    · exact optOk_ite (drainNow_memOk hs) optOk_none
    · rename_i e
      rw [e] at hv
      exact optOk_ite (drainNow_memOk hv) ((optOk_some _).2 (onCore_memOk.2 hv))

/-! ## Barrier cells and gangs -/

@[simp] theorem setBar_memOk {level unit i : Nat} {c : BarCell} : (s.setBar level unit i c).memOk ↔ s.memOk := by
  unfold State.setBar
  split <;> rfl

@[simp] theorem withBar_memOk {x : Word} {body : Nat → Nat → Nat → Res} (hs : s.memOk) (hbody : ∀ l u i, (body l u i).memOk) :
    (s.withBar x body).memOk := by
  unfold State.withBar
  split
  · exact hs
  · split
    · exact hbody ..
    · exact hs

@[simp] theorem execBara_memOk {st : Bool} {d a b : BitVec 5} (hs : s.memOk) : OutOk (execBara st d a b s) := by
  refine issue_memOk hs fun t ht => withBar_memOk ht fun l u i => ?_
  split
  · exact ht
  · split
    · exact ht
    · rename_i e
      exact wg_memOk.2 (post_memOk.2 (allocCell_memOk ht _ e))

@[simp] theorem execBarq_memOk {st : Bool} {d a : BitVec 5} (hs : s.memOk) : OutOk (execBarq st d a s) :=
  issue_memOk hs fun _ ht => withBar_memOk ht fun _ _ _ => wg_memOk.2 (freeStall_memOk ht)

@[simp] theorem barAnswer_memOk {level at_ : Nat} {h : Word} {body : MsgBody} : (s.barAnswer level at_ h body).memOk ↔ s.memOk := by
  unfold State.barAnswer
  split <;> rfl

@[simp] theorem barArrive_memOk {level unit i n : Nat} {h : Word} {launch : Option Nat} {at_ : Nat} (hs : s.memOk) :
    (s.barArrive level unit i n h launch at_).memOk := by simp [State.barArrive, hs]

@[simp] theorem evBarrier_memOk {i : Nat} (hs : s.memOk) : OptOk (s.evBarrier i) := by
  unfold State.evBarrier
  repeat' split
  all_goals simp [hs]

@[simp] theorem evBarError_memOk {level unit cell : Nat} (hs : s.memOk) : OptOk (s.evBarError level unit cell) := by
  simp [State.evBarError, hs]

@[simp] theorem dropArrivals_memOk {l : Nat} (hs : s.memOk) : (s.dropArrivals l).memOk :=
  foldl_memOk (fun _ _ h => barAnswer_memOk.2 h) hs

@[simp] theorem joinGang_memOk {g : Nat} (hs : s.memOk) : (s.joinGang g).memOk := by simp [State.joinGang, hs]

@[simp] theorem execGang_memOk {st : Bool} {d a : BitVec 5} (hs : s.memOk) : OutOk (execGang st d a s) := by
  refine issue_memOk hs fun t ht => ?_
  extract_lets x g
  split
  · exact ht
  · split
    · exact wg_memOk.2 ht
    · exact wg_memOk.2 (joinGang_memOk (stall_memOk ht))

/-! ## Ordered items and accounting -/

@[simp] theorem asItem_memOk {k : Launch → ItemState → Res} (hs : s.memOk) (hk : ∀ l i, (k l i).memOk) : (s.asItem k).memOk := by
  unfold State.asItem
  split
  · exact hs
  · split
    · exact hs
    · exact hk ..

@[simp] theorem execPub_memOk {st : Bool} {d a : BitVec 5} (hs : s.memOk) : OutOk (execPub st d a s) := by
  unfold execPub
  split
  · exact issue_memOk hs fun _ h => h
  · refine issue_memOk hs fun t ht => asItem_memOk ht fun l i => ?_
    simp [ht]

@[simp] theorem execCadv_memOk {st : Bool} (hs : s.memOk) : OutOk (execCadv st s) := by
  refine issue_memOk hs fun t ht => asItem_memOk ht fun l i => ?_
  simp [ht]

@[simp] theorem execCxq_memOk {st : Bool} {d a : BitVec 5} (hs : s.memOk) : OutOk (execCxq st d a s) := by
  refine issue_memOk hs fun t ht => asItem_memOk ht fun l i => ?_
  simp [ht]

@[simp] theorem evPublication_memOk {i : Nat} (hs : s.memOk) : OptOk (s.evPublication i) := by
  unfold State.evPublication
  repeat' split
  all_goals simp [hs]

@[simp] theorem endRun_memOk {st : Bool} (hs : s.memOk) : (s.endRun st).memOk := by
  unfold State.endRun
  exact settleAfter_memOk (closeRun_memOk (slot_memOk (unwait_memOk.2 hs)))

@[simp] theorem exactRecord_memOk {type val : Nat} (hs : s.memOk) : (s.exactRecord type val).memOk := by simp [State.exactRecord, hs]

@[simp] theorem execMark_memOk {st : Bool} {a : BitVec 5} (hs : s.memOk) : OutOk (execMark st a s) :=
  issue_memOk hs fun _ ht => endRun_memOk (exactRecord_memOk ht)

@[simp] theorem execAcctclr_memOk {st : Bool} {a : BitVec 5} (hs : s.memOk) : OutOk (execAcctclr st a s) :=
  issue_memOk hs fun _ ht => endRun_memOk (exactRecord_memOk (onCur_memOk.2 ht))

/-! ## The frames of the scalar instructions -/

@[simp] theorem scalarRR_memOk {st : Bool} {d a b : BitVec 5} {k : BitVec 2} {n : Bool} {f : Word → Word → Word} (hs : s.memOk) :
    OutOk (scalarRR st d a b k n f s) := by simp +contextual [scalarRR, hs]

@[simp] theorem scalarR_memOk {st : Bool} {d a : BitVec 5} {k : BitVec 2} {n : Bool} {f : Word → Word} (hs : s.memOk) :
    OutOk (scalarR st d a k n f s) := by simp +contextual [scalarR, hs]

@[simp] theorem scalarI_memOk {st : Bool} {d a : BitVec 5} {f : Word → Word} (hs : s.memOk) : OutOk (scalarI st d a f s) := by
  simp [scalarI, hs]

@[simp] theorem wgLate_memOk {d : BitVec 5} {x : Word} {lat : Nat} : (s.wgLate d x lat).memOk ↔ s.memOk := Iff.rfl
@[simp] theorem takeMultiplier_memOk : s.takeMultiplier.memOk ↔ s.memOk := Iff.rfl

@[simp] theorem scalarMul_memOk {st : Bool} {d a b : BitVec 5} {k : BitVec 2} {n : Bool} {f : Word → Word → Word} (hs : s.memOk) :
    OutOk (scalarMul st d a b k n f s) := by simp +contextual [scalarMul, hs]

@[simp] theorem takeDivider_memOk : s.takeDivider.memOk ↔ s.memOk := Iff.rfl

@[simp] theorem scalarDiv_memOk {st : Bool} {d a b : BitVec 5} {k : BitVec 2} {n : Bool} {f : Word → Word → Word} (hs : s.memOk) :
    OutOk (scalarDiv st d a b k n f s) := by simp +contextual [scalarDiv, hs]

/-! ## Branches and jumps -/

@[simp] theorem branch_memOk {n : Nat} {taken : Bool} {o : BitVec n} (hs : s.memOk) : (s.branch taken o).memOk := by
  unfold State.branch
  split <;> exact hs

@[simp] theorem branchZ_memOk {st : Bool} {a : BitVec 5} {o : BitVec 16} {f : Word → Bool} (hs : s.memOk) : OutOk (branchZ st a o f s) := by
  simp +contextual [branchZ, hs]

@[simp] theorem branchR_memOk {st : Bool} {a b : BitVec 5} {o : BitVec 11} {f : Word → Word → Bool} (hs : s.memOk) :
    OutOk (branchR st a b o f s) := by simp +contextual [branchR, hs]

@[simp] theorem jumpReg_memOk {st : Bool} {d a : BitVec 5} (hs : s.memOk) : OutOk (jumpReg st d a s) := by simp +contextual [jumpReg, hs]

/-! ## Matrix instructions -/

@[simp] theorem onMx_memOk {f : Matrix → Matrix} : (s.onMx f).memOk ↔ s.memOk := Iff.rfl

@[simp] theorem owned_memOk {other : Bool} {k : Res} (hs : s.memOk) (hk : k.memOk) : (s.owned other k).memOk := by
  simp +contextual [State.owned, *]

@[simp] theorem cfgOk_memOk {ok : Bool} {k : Res} (hs : s.memOk) (hk : k.memOk) : (s.cfgOk ok k).memOk := by
  simp +contextual [State.cfgOk, *]

@[simp] theorem ringOk_memOk {ok : Bool} {k : Res} (hs : s.memOk) (hk : k.memOk) : (s.ringOk ok k).memOk := by
  simp +contextual [State.ringOk, *]

@[simp] theorem take_memOk {t : BitVec 3} : (s.take t).memOk ↔ s.memOk := Iff.rfl
@[simp] theorem setupRing_memOk {q : BitVec 3} {x : BitVec 128} : (s.setupRing q x).memOk ↔ s.memOk := Iff.rfl

@[simp] theorem ringWait_memOk {q : BitVec 3} {body : State → State} (hs : s.memOk) (hbody : ∀ t, t.memOk → (body t).memOk) :
    (s.ringWait q body).memOk := by
  unfold State.ringWait
  split
  · exact hs
  · rename_i e
    exact hbody _ (matrixWait_memOk hs _ e)

@[simp] theorem execMring_memOk {st : Bool} {d a : BitVec 5} (hs : s.memOk) : OutOk (execMring st d a s) := by
  refine issue_memOk hs fun t ht => owned_memOk ht ?_
  split
  · exact ringWait_memOk ht fun _ h => onMx_memOk.2 h
  · extract_lets va
    refine withAcc_memOk ht fun h u hu => ?_
    split
    · exact hu
    · extract_lets x v
      have hv : v.memOk := freeStall_memOk hu
      refine cfgOk_memOk hv ?_
      split
      · exact hv
      · exact ringWait_memOk hv fun _ h => setupRing_memOk.2 h

@[simp] theorem execMrcommit_memOk {st : Bool} {d a : BitVec 5} (hs : s.memOk) : OutOk (execMrcommit st d a s) := by
  refine issue_memOk hs fun t ht => ?_
  extract_lets c u r
  have hu : u.memOk := matrixNow_memOk ht
  exact owned_memOk hu (ringOk_memOk hu (commitRing_memOk (freeStall_memOk hu)))

@[simp] theorem execMbeg_memOk {st : Bool} {d : BitVec 5} (hs : s.memOk) : OutOk (execMbeg st d s) := by
  refine issue_memOk hs fun t ht => ?_
  split
  · exact ht
  · refine owned_memOk ht ?_
    split
    · exact ht
    · rename_i e
      exact wg_memOk.2 (onCur_memOk.2 (onMx_memOk.2 (allocCell_memOk ht _ e)))

@[simp] theorem closeBatch_memOk {h : Word} : (s.closeBatch h).memOk ↔ s.memOk := Iff.rfl

@[simp] theorem execMend_memOk {st : Bool} (hs : s.memOk) : OutOk (execMend st s) := by
  refine issue_memOk hs fun t ht => ?_
  split
  · exact ht
  · exact owned_memOk ht (onCur_memOk.2 (closeBatch_memOk.2 ht))

@[simp] theorem pushCommand_memOk {h : Word} {op : MOp} {operand : Word} (hs : s.memOk) : (s.pushCommand h op operand).memOk := by
  simp [State.pushCommand, hs]

@[simp] theorem inBatch_memOk {k : Word → Res} (hs : s.memOk) (hk : ∀ h, (k h).memOk) : (s.inBatch k).memOk := by
  unfold State.inBatch
  split
  · exact hs
  · exact hk _

@[simp] theorem execMzero_memOk {st : Bool} {d : BitVec 5} (hs : s.memOk) : OutOk (execMzero st d s) :=
  issue_memOk hs fun _ ht => inBatch_memOk ht fun _ => owned_memOk ht (pushCommand_memOk ht)

@[simp] theorem execMma_memOk {st : Bool} {d a : BitVec 5} (hs : s.memOk) : OutOk (execMma st d a s) :=
  issue_memOk hs fun _ ht => inBatch_memOk ht fun _ => owned_memOk ht (cfgOk_memOk ht (ringOk_memOk ht (pushCommand_memOk ht)))

@[simp] theorem execMmas_memOk {st : Bool} {d a b : BitVec 5} (hs : s.memOk) : OutOk (execMmas st d a b s) := by
  refine issue_memOk hs fun t ht => ?_
  extract_lets x qa qb mask
  refine inBatch_memOk ht fun h => owned_memOk ht ?_
  split
  · exact ht
  · exact cfgOk_memOk ht (ringOk_memOk ht (pushCommand_memOk ht))

@[simp] theorem execMrpop_memOk {st : Bool} {d a : BitVec 5} (hs : s.memOk) : OutOk (execMrpop st d a s) :=
  issue_memOk hs fun _ ht => inBatch_memOk ht fun _ => owned_memOk ht (cfgOk_memOk ht (ringOk_memOk ht (pushCommand_memOk ht)))

@[simp] theorem tileWait_memOk {t : BitVec 3} {body : State → Res} (hs : s.memOk) (hbody : ∀ t, t.memOk → (body t).memOk) :
    (s.tileWait t body).memOk := by
  unfold State.tileWait
  split
  · exact hs
  · rename_i e
    exact hbody _ (matrixWait_memOk hs _ e)

@[simp] theorem putOwn_memOk {d : BitVec 5} {x : BitVec 32768} : (s.putOwn d x).memOk ↔ s.memOk := Iff.rfl

@[simp] theorem execMrd_memOk {st : Bool} {d a b : BitVec 5} (hs : s.memOk) : OutOk (execMrd st d a b s) := by
  refine issue_memOk hs fun t ht => owned_memOk ht (cfgOk_memOk ht (tileWait_memOk ht fun u hu => ?_))
  split
  · exact hu
  · extract_lets v x w
    have hw : w.memOk := putOwn_memOk.2 (enqueue_memOk (take_memOk.2 hu))
    exact ite_memOk (onMx_memOk.2 hw) hw

@[simp] theorem execMwr_memOk {st : Bool} {d a b : BitVec 5} (hs : s.memOk) : OutOk (execMwr st d a b s) := by
  refine issue_memOk hs fun t ht => owned_memOk ht (cfgOk_memOk ht (tileWait_memOk ht fun u hu => ?_))
  extract_lets v
  split
  · exact hu
  · exact onMx_memOk.2 (enqueue_memOk (take_memOk.2 hu))

@[simp] theorem sendMatrix_memOk {d b : BitVec 5} {e : BitVec 32} {kind : BitVec 3} {ok : Bool} {cores : List Nat} (hs : s.memOk) :
    (s.sendMatrix d b e kind ok cores).memOk := by
  refine owned_memOk hs (cfgOk_memOk hs ?_)
  split
  · exact hs
  · rename_i e
    exact wg_memOk.2 (foldl_memOk (fun _ _ h => post_memOk.2 h) (allocCell_memOk hs _ e))

@[simp] theorem matrixArrives_memOk {core : Nat} {e : BitVec 32} {cap : BitVec 128} {h : Word} {launch : Option Nat} {now : Nat} (hs : s.memOk) :
    OptOk (s.matrixArrives core e cap h launch now) := by
  unfold State.matrixArrives
  split <;> simp [hs]

@[simp] theorem evRemoteMatrix_memOk {i : Nat} (hs : s.memOk) : OptOk (s.evRemoteMatrix i) := by
  unfold State.evRemoteMatrix
  repeat' split
  all_goals simp [hs]

@[simp] theorem evMatrix_memOk {core : Nat} (hs : s.memOk) : OptOk (s.evMatrix core) := by
  unfold State.evMatrix
  split
  · exact optOk_none
  · split
    · exact optOk_map fun t e => focusOn_memOk.2 (matrixHead_memOk (focusOn_memOk.2 hs) t e)
    · exact optOk_none

@[simp] theorem withRun_memOk {k : AccKind} {align : Nat} {ea : Word} {n : Nat} {body : State → Res} (hs : s.memOk)
    (hbody : (body s).memOk) : (s.withRun k align ea n body).memOk := by
  unfold State.withRun
  split
  · exact hbody
  · exact hs
  · exact ite_memOk hs (want_memOk hs)
  · exact faultPath_memOk hs

@[simp] theorem onHandler_memOk {f : HandlerCtx → HandlerCtx} : (s.onHandler f).memOk ↔ s.memOk := Iff.rfl

@[simp] theorem mxFrame_memOk {st : Bool} {a : BitVec 5} {body : Word → State → Res} (hs : s.memOk)
    (hbody : ∀ y t, t.memOk → (body y t).memOk) : OutOk (mxFrame st a body s) := by simp +contextual [mxFrame, *]

@[simp] theorem finishRunning_memOk {n : Nat} (hs : s.memOk) : (s.finishRunning n).memOk := by
  unfold State.finishRunning
  extract_lets t
  have ht : t.memOk := matrixNow_memOk hs
  split
  · refine ite_memOk ?_ ht
    split
    · rename_i e
      exact stall_memOk (matrixHead_memOk ht _ e)
    · exact ht
  · exact ht

@[simp] theorem execMxsave_memOk {st : Bool} {a : BitVec 5} (hs : s.memOk) : OutOk (execMxsave st a s) :=
  mxFrame_memOk hs fun _ _ ht => withRun_memOk ht (onHandler_memOk.2 (onMx_memOk.2
    (foldl_memOk (fun _ _ h => engineWrite_memOk h) (finishRunning_memOk ht))))

@[simp] theorem stateOk_memOk {ea : Word} {lifted : Nat} {k : Res} (hs : s.memOk) (hk : k.memOk) : (s.stateOk ea lifted k).memOk := by
  unfold State.stateOk
  dsimp only
  repeat' split
  all_goals simp +contextual [*]

@[simp] theorem execMxrst_memOk {st : Bool} {a : BitVec 5} (hs : s.memOk) : OutOk (execMxrst st a s) := by
  refine mxFrame_memOk hs fun ea t ht => resOk_ite ht ?_
  refine stateOk_memOk ht (withRun_memOk ht (readDesc_memOk ht fun x u hu => ?_))
  extract_lets now cmds w v
  exact onHandler_memOk.2 (onMx_memOk.2 hu)

@[simp] theorem accSave_memOk {cause : Cause} (hs : s.memOk) : ∀ r, s.accSave cause = some r → r.1.memOk := by
  intro r h
  unfold State.accSave at h
  extract_lets n at h
  split at h
  · cases h
  · rename_i e
    cases h
    exact onMx_memOk.2 (foldl_memOk (fun _ _ hu => storeBytes_memOk hu) (matrixWait_memOk hs _ e))

@[simp] theorem accRestore_memOk {i : Image} : (s.accRestore i).memOk ↔ s.memOk := by
  unfold State.accRestore
  split <;> rfl

/-! ## Gondola copies -/

@[simp] theorem copyRows_memOk {c : Copy} {k : Res} (hs : s.memOk) (hk : k.memOk) : (s.copyRows c k).memOk := by
  unfold State.copyRows
  split
  · exact hs
  · split
    · exact hs
    · exact hk

@[simp] theorem startCopy_memOk {d : BitVec 5} {c : Copy} {after : State → State} (hs : s.memOk)
    (hafter : ∀ t, t.memOk → (after t).memOk) : (s.startCopy d c after).memOk := by
  unfold State.startCopy
  split
  · exact hs
  · split
    · exact hs
    · rename_i e
      exact wg_memOk.2 (hafter _ (onFocus_memOk.2 (onCluster_memOk.2 (allocCell_memOk hs _ e))))

@[simp] theorem plainCopy_memOk {d : BitVec 5} {ok : Bool} {c : Copy} (hs : s.memOk) : (s.plainCopy d ok c).memOk := by
  simp [State.plainCopy, hs]

@[simp] theorem execGred_memOk {st : Bool} {d a b : BitVec 5} (hs : s.memOk) : OutOk (execGred st d a b s) := by
  refine issue_memOk hs fun t ht => ?_
  extract_lets x y c
  have hc : (t.copyRows c (t.startCopy d c fun s => s.onCur fun t => { t with redCount := t.redCount + 1 })).memOk :=
    copyRows_memOk ht (startCopy_memOk ht fun _ h => onCur_memOk.2 h)
  simp [ht, hc]

@[simp] theorem execGcpr_memOk {st : Bool} {d a b : BitVec 5} (hs : s.memOk) : OutOk (execGcpr st d a b s) := by
  refine issue_memOk hs fun t ht => ?_
  split
  · exact ht
  · extract_lets q n r c late
    have hl : late.memOk := by
      refine owned_memOk ht ?_
      split
      · exact ht
      · exact cfgOk_memOk ht (ringOk_memOk ht (startCopy_memOk ht fun _ h => h))
    split
    · exact hl
    · exact copyRows_memOk ht hl

@[simp] theorem fresh_memOk : s.fresh.memOk ↔ s.memOk := Iff.rfl
@[simp] theorem copyRead_memOk {c : Copy} {r : Run} (hs : s.memOk) : (s.copyRead c r).1.memOk := by simp [State.copyRead, hs]

@[simp] theorem copyWrite_memOk {c : Copy} {p : Piece} (hs : s.memOk) : (s.copyWrite c p).1.memOk := by
  unfold State.copyWrite
  split <;> simp [hs]

@[simp] theorem copyAdds_memOk {c : Copy} {fmt : BitVec 5} {ps : List Piece} (hs : s.memOk) : (s.copyAdds c fmt ps).1.memOk := by
  simp +contextual [State.copyAdds, hs]

@[simp] theorem copyReads_memOk {x : State × Copy} {p : Piece} (hx : x.1.memOk) : (State.copyReads x p).1.memOk :=
  List.foldlRecOn (motive := fun r : State × Copy => r.1.memOk) _ _ hx fun _ h _ _ => copyRead_memOk h

@[simp] theorem performPieces_memOk {c : Copy} {ps : List Piece} (hs : s.memOk) : (s.performPieces c ps).1.memOk := by
  unfold State.performPieces
  split
  · have h := List.foldlRecOn (motive := fun r : State × Copy => r.1.memOk) ps State.copyReads (b := (s, c)) hs fun _ h _ _ => copyReads_memOk h
    exact copyAdds_memOk h
  · exact List.foldlRecOn (motive := fun r : State × Copy => r.1.memOk) _ _ (fresh_memOk.2 hs) fun _ h _ _ => copyWrite_memOk (copyReads_memOk h)

@[simp] theorem copyRest_memOk {c : Copy} (hs : s.memOk) : (s.copyRest c).1.memOk := by simp [State.copyRest, hs]

@[simp] theorem copyMoves_memOk {c : Copy} (hs : s.memOk) : (s.copyMoves c).1.memOk := by
  unfold State.copyMoves
  split
  rename_i t d e
  have ht : t.memOk := fst_memOk e
    (List.foldlRecOn (motive := fun r : State × Copy => r.1.memOk) _ _ (fresh_memOk.2 hs) fun _ h _ _ => copyRead_memOk h)
  exact performPieces_memOk (fresh_memOk.2 ht)

@[simp] theorem driftCluster_memOk {cl : Cluster} (hs : s.memOk) : (s.driftCluster cl).memOk := by simp +contextual [State.driftCluster, hs]
@[simp] theorem endCopy_memOk {c : Copy} {code : BitVec 8} : (s.endCopy c code).memOk ↔ s.memOk := by simp [State.endCopy]
@[simp] theorem failCopy_memOk {c : Copy} {code : BitVec 8} (hs : s.memOk) : (s.failCopy c code).memOk := by simp [State.failCopy, hs]

@[simp] theorem ringCommit_memOk {c : Copy} (hs : s.memOk) : (s.ringCommit c).1.memOk := by
  unfold State.ringCommit
  dsimp only
  repeat' split
  all_goals simp +contextual [*]

@[simp] theorem copyNow_memOk {c : Copy} (hs : s.memOk) : OptOk (s.copyNow c) := by simp [State.copyNow, hs]

@[simp] theorem evCopy_memOk {cluster i : Nat} (hs : s.memOk) : OptOk (s.evCopy cluster i) := by
  unfold State.evCopy
  extract_lets cl
  split
  · exact optOk_none
  · split
    · exact optOk_none
    · rename_i c _
      have hv := serviced_memOk (op := .copy c.token) hs
      extract_lets absent
      split
      · exact optOk_none
      · rename_i e
        rw [e] at hv
        exact (optOk_some _).2 (failCopy_memOk hv)
      · exact optOk_ite (copyNow_memOk hs) optOk_none
      · rename_i e
        rw [e] at hv
        exact optOk_ite (copyNow_memOk hv) ((optOk_some _).2 (onCluster_memOk.2 hv))

@[simp] theorem evEngineLost_memOk {cluster engine : Nat} (hs : s.memOk) : OptOk (s.evEngineLost cluster engine) := by
  simp +contextual [State.evEngineLost, hs]

@[simp] theorem cancelCopies_memOk {l : Nat} (hs : s.memOk) : (s.cancelCopies l).memOk := by simp +contextual [State.cancelCopies, hs]

/-! ## The Moraine store -/

@[simp] theorem onSlot_memOk {die n : Nat} {f : MSlot → MSlot} : (s.onSlot die n f).memOk ↔ s.memOk := Iff.rfl
@[simp] theorem onForks_memOk {die n b : Nat} {f : Nat → Nat} : (s.onForks die n b f).memOk ↔ s.memOk := Iff.rfl
@[simp] theorem onReads_memOk {die n b : Nat} {f : Nat → Nat} : (s.onReads die n b f).memOk ↔ s.memOk := Iff.rfl

@[simp] theorem returnBases_memOk {die : Nat} {gone : List Snapshot} (hs : s.memOk) : (s.returnBases die gone).memOk := by
  refine foldl_memOk (fun t x ht => ?_) hs
  split
  · exact onForks_memOk.2 ht
  · exact ht

@[simp] theorem ssAccept_memOk {die : Nat} {r : SsRequest} {op : MoraineOp} {f : Word → State → State} (hs : s.memOk)
    (hf : ∀ h t, t.memOk → (f h t).memOk) : (s.ssAccept die r op f).2.memOk := by
  unfold State.ssAccept
  split
  · exact hs
  · exact hf _ _ (onDie_memOk.2 (setCore_memOk.2 hs))

@[simp] theorem ssOpen_memOk {die : Nat} {r : SsRequest} (hs : s.memOk) : (s.ssOpen die r).2.memOk := by
  unfold State.ssOpen
  repeat' split
  all_goals simp [hs]

@[simp] theorem ssLoad_memOk {die slot : Nat} {m : MSlot} {r : SsRequest} (hs : s.memOk) : (s.ssLoad die slot m r).2.memOk := by
  unfold State.ssLoad
  repeat' split
  all_goals simp [hs]

@[simp] theorem ssCommit_memOk {die slot : Nat} {m : MSlot} {r : SsRequest} (hs : s.memOk) : (s.ssCommit die slot m r).2.memOk := by
  unfold State.ssCommit
  repeat' split
  all_goals simp +contextual [hs]

@[simp] theorem ssRoll_memOk {die slot : Nat} {m : MSlot} {r : SsRequest} (hs : s.memOk) : (s.ssRoll die slot m r).2.memOk := by
  unfold State.ssRoll
  dsimp only
  repeat' split
  all_goals simp +contextual [*]

@[simp] theorem ssFork_memOk {die slot : Nat} {m : MSlot} {r : SsRequest} (hs : s.memOk) : (s.ssFork die slot m r).2.memOk := by
  unfold State.ssFork
  dsimp only
  repeat' split
  all_goals simp +contextual [*]

@[simp] theorem onPins_memOk {die slot pos : Nat} {f : Nat → Nat} : (s.onPins die slot pos f).memOk ↔ s.memOk := Iff.rfl

@[simp] theorem ssPin_memOk {die slot : Nat} {m : MSlot} {r : SsRequest} (hs : s.memOk) : (s.ssPin die slot m r).2.memOk := by
  unfold State.ssPin
  repeat' split
  all_goals simp [hs]

@[simp] theorem ssUnpin_memOk {die slot : Nat} {m : MSlot} {r : SsRequest} (hs : s.memOk) : (s.ssUnpin die slot m r).2.memOk := by
  unfold State.ssUnpin
  repeat' split
  all_goals simp [hs]

@[simp] theorem ssClose_memOk {die slot : Nat} {m : MSlot} {r : SsRequest} (hs : s.memOk) : (s.ssClose die slot m r).2.memOk := by
  unfold State.ssClose
  split <;> simp +contextual [hs]

@[simp] theorem serveSs_memOk {die : Nat} {r : SsRequest} (hs : s.memOk) : (s.serveSs die r).2.memOk := by
  unfold State.serveSs
  repeat' split
  all_goals simp [hs]

@[simp] theorem ssSend_memOk {st : Bool} {d : BitVec 5} {die : Nat} {cell : Bool} {r : SsRequest} (hs : s.memOk) :
    (s.ssSend st d die cell r).memOk := by
  have h := serveSs_memOk (die := die) (r := r) hs
  unfold State.ssSend
  split
  · exact hs
  · split
    · exact hs
    · split
      · split
        · rename_i e
          exact replyWait_memOk (wg_memOk.2 (snd_memOk e h))
        · exact freeStall_memOk hs
        · exact hs
      · exact onFocus_memOk.2 (onDie_memOk.2 hs)

@[simp] theorem ssFrame_memOk {d : BitVec 5} {k : State → Res} (hs : s.memOk) (hk : (k s).memOk) : (s.ssFrame d k).memOk := by
  unfold State.ssFrame
  split
  · split
    · exact wg_memOk.2 hs
    · exact hs
  · exact hk

@[simp] theorem execSsopen_memOk {st : Bool} {d a : BitVec 5} (hs : s.memOk) : OutOk (execSsopen st d a s) := by
  refine issue_memOk hs fun t ht => ssFrame_memOk ht ?_
  split
  · exact ht
  · refine withAcc_memOk ht fun h u hu => ?_
    split
    · exact hu
    · exact ssSend_memOk hu

@[simp] theorem execSsld_memOk {st : Bool} {d a b : BitVec 5} (hs : s.memOk) : OutOk (execSsld st d a b s) :=
  issue_memOk hs fun _ ht => ssFrame_memOk ht (ssSend_memOk ht)

@[simp] theorem execSscm_memOk {st : Bool} {d a b : BitVec 5} (hs : s.memOk) : OutOk (execSscm st d a b s) :=
  issue_memOk hs fun _ ht => ssFrame_memOk ht (ssSend_memOk ht)

@[simp] theorem execSsroll_memOk {st : Bool} {d a b : BitVec 5} (hs : s.memOk) : OutOk (execSsroll st d a b s) :=
  issue_memOk hs fun _ ht => ssFrame_memOk ht (ssSend_memOk ht)

@[simp] theorem execSsfork_memOk {st : Bool} {d a b : BitVec 5} (hs : s.memOk) : OutOk (execSsfork st d a b s) :=
  issue_memOk hs fun _ ht => ssFrame_memOk ht (ssSend_memOk ht)

@[simp] theorem execSspin_memOk {st : Bool} {d a b : BitVec 5} (hs : s.memOk) : OutOk (execSspin st d a b s) :=
  issue_memOk hs fun _ ht => ssFrame_memOk ht (ssSend_memOk ht)

@[simp] theorem execSsunpin_memOk {st : Bool} {d a b : BitVec 5} (hs : s.memOk) : OutOk (execSsunpin st d a b s) :=
  issue_memOk hs fun _ ht => ssFrame_memOk ht (ssSend_memOk ht)

@[simp] theorem execSsq_memOk {st : Bool} {d a b : BitVec 5} (hs : s.memOk) : OutOk (execSsq st d a b s) :=
  issue_memOk hs fun _ ht => ssFrame_memOk ht (ssSend_memOk ht)

@[simp] theorem execSsclose_memOk {st : Bool} {d a : BitVec 5} (hs : s.memOk) : OutOk (execSsclose st d a s) :=
  issue_memOk hs fun _ ht => ssFrame_memOk ht (ssSend_memOk ht)

@[simp] theorem evMoraine_memOk {die : Nat} (hs : s.memOk) : OptOk (s.evMoraine die) := by
  unfold State.evMoraine
  split
  · exact optOk_none
  · rename_i r rest _
    extract_lets s1 c answer
    have h1 : s1.memOk := onDie_memOk.2 hs
    have h := serveSs_memOk (die := die) (r := r) h1
    split
    · exact (optOk_some _).2 h1
    · split
      · exact optOk_none
      · split
        · rename_i e
          exact (optOk_some _).2 (onCore_memOk.2 (snd_memOk e h))
        · exact (optOk_some _).2 (onCore_memOk.2 h1)
        · exact optOk_none

@[simp] theorem failCommit_memOk {die : Nat} {o : MoraineOp} : (s.failCommit die o).memOk ↔ s.memOk := Iff.rfl

@[simp] theorem ssDone_memOk {die i : Nat} {o : MoraineOp} {code : BitVec 8} : (s.ssDone die i o code).memOk ↔ s.memOk := by
  simp [State.ssDone]

@[simp] theorem ssMove_memOk {die i : Nat} {o : MoraineOp} {c : Copy} (hs : s.memOk) : OptOk (s.ssMove die i o c) := by
  simp [State.ssMove, hs]

@[simp] theorem driftDie_memOk {die : Nat} (hs : s.memOk) : (s.driftDie die).memOk := by
  refine foldl_memOk (fun t i ht => ?_) hs
  split
  · exact ht
  · refine ite_memOk ht ?_
    split
    rename_i e
    exact onDie_memOk.2 (fst_memOk e (copyMoves_memOk ht))

@[simp] theorem ssFreed_memOk {die slot : Nat} : (s.ssFreed die slot).memOk ↔ s.memOk := Iff.rfl

@[simp] theorem evMovement_memOk {die i : Nat} (hs : s.memOk) : OptOk (s.evMovement die i) := by
  unfold State.evMovement
  extract_lets ops
  split
  · exact optOk_none
  · rename_i o _
    refine optOk_ite optOk_none (optOk_ite ((optOk_some _).2 (ssFreed_memOk.2 (ssDone_memOk.2 hs)))
      (optOk_ite ((optOk_some _).2 (ssDone_memOk.2 hs)) ?_))
    have hv := serviced_memOk (op := .moraine o.token) hs
    extract_lets c absent
    split
    · exact optOk_none
    · rename_i e
      rw [e] at hv
      exact (optOk_some _).2 (ssDone_memOk.2 hv)
    · exact optOk_ite (ssMove_memOk hs) optOk_none
    · rename_i e
      rw [e] at hv
      exact optOk_ite (ssMove_memOk hv) ((optOk_some _).2 (onDie_memOk.2 hv))

@[simp] theorem loseSlot_memOk {die n : Nat} (hs : s.memOk) : (s.loseSlot die n).memOk := by simp [State.loseSlot, hs]
@[simp] theorem evMetaError_memOk {die slot : Nat} (hs : s.memOk) : OptOk (s.evMetaError die slot) := by simp [State.evMetaError, hs]
@[simp] theorem loseSlots_memOk {die : Nat} (hs : s.memOk) : (s.loseSlots die).memOk := by simp +contextual [State.loseSlots, hs]

/-! ## Page faults, migration and dumps -/

@[simp] theorem answerToken_memOk {h : Word} {code : BitVec 8} : (s.answerToken h code).memOk ↔ s.memOk := by
  unfold State.answerToken
  repeat' split
  all_goals simp

@[simp] theorem putFault_memOk {n : Nat} {bs : List Byte} (hs : s.memOk) : (s.putFault n bs).memOk := by simp [State.putFault, hs]

@[simp] theorem putBatch_memOk {b : FaultBatch} {n : Nat} {l : List (List (Nat × Nat))} (hs : s.memOk) : (s.putBatch b n l).memOk := by
  induction l generalizing s n with
  | nil => exact hs
  | cons ps l ih => exact ih (putFault_memOk hs)

@[simp] theorem evBatch_memOk (hs : s.memOk) : OptOk s.evBatch := by
  unfold State.evBatch
  split
  · exact optOk_none
  · extract_lets s1 recs wr rd s2
    have h1 : s1.memOk := onPkg_memOk.2 hs
    refine optOk_ite ((optOk_some _).2 (answerToken_memOk.2 h1)) ?_
    refine optOk_ite optOk_none ?_
    have h2 : s2.memOk := onPkg_memOk.2 (putBatch_memOk h1)
    exact (optOk_some _).2 (ite_memOk (notify_memOk.2 h2) h2)

@[simp] theorem reportFault_memOk {core : Nat} {op : EngineId} {a : Agent} {pages : List (Nat × Nat)} {acc : BitVec 3} {faults : Nat}
    {fail count : State → State} (hs : s.memOk) (hfail : (fail s).memOk) (hcount : ∀ t, t.memOk → (count t).memOk) :
    OptOk (s.reportFault core op a pages acc faults fail count) :=
  optOk_ite optOk_none (optOk_ite ((optOk_some _).2 hfail) (optOk_map fun t e => hcount t (engineFault_memOk hs t e)))

@[simp] theorem reportFill_memOk {core num : Nat} {r : BitVec 5} (hs : s.memOk) : OptOk (s.reportFill core num r) := by
  unfold State.reportFill
  repeat' split
  all_goals simp +contextual [hs]

@[simp] theorem reportDrain_memOk {core num : Nat} {r : BitVec 5} (hs : s.memOk) : OptOk (s.reportDrain core num r) := by
  unfold State.reportDrain
  dsimp only
  repeat' split
  all_goals simp +contextual [*]

@[simp] theorem reportCopy_memOk {h : Word} (hs : s.memOk) : OptOk (s.reportCopy h) := by
  unfold State.reportCopy
  split <;> simp +contextual [hs]

@[simp] theorem reportMove_memOk {h : Word} {die : Nat} (hs : s.memOk) : OptOk (s.reportMove h die) := by
  unfold State.reportMove
  repeat' split
  all_goals simp [hs]

@[simp] theorem evEngineFault_memOk {i : Nat} (hs : s.memOk) : OptOk (s.evEngineFault i) := by
  unfold State.evEngineFault
  split
  · exact optOk_none
  · exact reportFill_memOk hs
  · exact reportDrain_memOk hs
  · exact reportCopy_memOk hs
  · exact optOk_findSome fun _ _ => reportMove_memOk hs

@[simp] theorem dropAsid_memOk {asid : BitVec 12} : (s.dropAsid asid).memOk ↔ s.memOk := Iff.rfl

@[simp] theorem evMigStart_memOk (hs : s.memOk) : OptOk s.evMigStart := by
  unfold State.evMigStart
  dsimp only
  repeat' split
  all_goals simp +contextual [*]

@[simp] theorem evMigStep_memOk {i : Nat} (hs : s.memOk) : OptOk (s.evMigStep i) := by
  unfold State.evMigStep
  split <;> simp [hs]

@[simp] theorem evMigFinish_memOk {i : Nat} (hs : s.memOk) : OptOk (s.evMigFinish i) := by
  unfold State.evMigFinish
  split <;> simp [hs]

@[simp] theorem dumpPoint_memOk {root : Word} {asid : BitVec 12} {va n d b : Nat} {tok : Word} (hs : s.memOk) :
    OptOk (s.dumpPoint root asid va n d b tok) := by
  refine optOk_ite optOk_none ?_
  extract_lets ps u v
  have hu : u.memOk := by
    refine foldl_memOk (fun t p ht => ?_) hs
    split
    · exact setLeafBit_memOk ht
    · exact ht
  have hv : v.memOk := foldl_memOk (fun _ _ h => setBitmap_memOk h) hu
  exact (optOk_some _).2 (onPkg_memOk.2 (dropAsid_memOk.2 hv))

@[simp] theorem evDumpStart_memOk (hs : s.memOk) : OptOk s.evDumpStart := by
  unfold State.evDumpStart
  repeat' split
  all_goals simp [hs]

@[simp] theorem evDumpPage_memOk (hs : s.memOk) : OptOk s.evDumpPage := by
  unfold State.evDumpPage
  split <;> simp [hs]

@[simp] theorem evDumpDone_memOk (hs : s.memOk) : OptOk s.evDumpDone := by
  unfold State.evDumpDone
  split <;> simp [hs]

end Sys2Proof.Machine
end

section
/-! SUPPORT. The canonical form through full/empty words, tokens, strands, traps and launches. -/

namespace Sys2Proof.Machine

variable {s : State}

/-! ## Full/empty words and bank modes -/

@[simp] theorem feAt_memOk {ea : Word} {word : Nat → State → Res} {gone : Home → State → Res} {port : Port → State → Res} (hs : s.memOk)
    (hword : ∀ y t, t.memOk → (word y t).memOk) (hgone : ∀ y t, t.memOk → (gone y t).memOk) (hport : ∀ y t, t.memOk → (port y t).memOk) :
    (s.feAt ea word gone port).memOk := by
  unfold State.feAt
  dsimp only
  repeat' split
  all_goals simp +contextual [*]

@[simp] theorem dataOnly_memOk {p : Port} {va : Nat} {k : Res} (hs : s.memOk) (hk : k.memOk) : (Port.dataOnly p va s k).memOk := by
  simp +contextual [Port.dataOnly, *]

@[simp] theorem execLdfe_memOk {st : Bool} {d a : BitVec 5} (hs : s.memOk) : OutOk (execLdfe st d a s) :=
  issue_memOk hs fun _ ht => feAt_memOk ht (fun _ _ hu => atBank_memOk hu fun _ hv => deferredNow_memOk.2 (emptyWord_memOk.2 hv))
    (fun _ _ hu => deferredNow_memOk.2 hu) fun _ _ hu => dataOnly_memOk hu (portPop_memOk hu)

@[simp] theorem execStfe_memOk {st : Bool} {d a : BitVec 5} (hs : s.memOk) : OutOk (execStfe st d a s) :=
  issue_memOk hs fun _ ht => feAt_memOk ht (fun _ _ hu => atBank_memOk hu fun _ hv => fillWord_memOk.2 (homeStore_memOk hv))
    (fun _ _ hu => homeStore_memOk hu) fun _ _ hu => dataOnly_memOk hu (portPush_memOk hu)

@[simp] theorem execFefill_memOk {st : Bool} {d a : BitVec 5} (hs : s.memOk) : OutOk (execFefill st d a s) :=
  issue_memOk hs fun _ ht => feAt_memOk ht (fun _ _ hu => atBankNow_memOk hu fun _ hv => fillWord_memOk.2 (homeStore_memOk hv))
    (fun _ _ hu => homeStore_memOk hu) fun _ _ hu => hu

@[simp] theorem execFeq_memOk {st : Bool} {d a : BitVec 5} (hs : s.memOk) : OutOk (execFeq st d a s) :=
  issue_memOk hs fun _ ht => feAt_memOk ht (fun _ _ hu => atBankNow_memOk hu fun _ hv => wg_memOk.2 hv)
    (fun _ _ hu => wg_memOk.2 hu) fun _ _ hu => atBankNow_memOk hu fun _ hv => wg_memOk.2 hv

@[simp] theorem feinitWords_memOk {va c : Nat} (hs : s.memOk) : (s.feinitWords va c).memOk := by
  unfold State.feinitWords
  repeat' split
  all_goals simp +contextual [hs]

@[simp] theorem execFeinit_memOk {st : Bool} {a b : BitVec 5} (hs : s.memOk) : OutOk (execFeinit st a b s) := by
  refine issue_memOk hs fun t ht => ?_
  extract_lets ea va c port
  refine resOk_ite ht (resOk_ite ?_ (resOk_ite ht (feinitWords_memOk ht)))
  exact feAt_memOk ht (fun _ _ hu => hu) (fun _ _ hu => hu) fun _ _ hu => atBankNow_memOk hu fun _ hv => wakeWaiters_memOk.2 (onCluster_memOk.2 hv)

/-- The word that a strand at a bank waits with, issued again, keeps the canonical form (R276). -/
theorem feReissue_memOk {o : Out} (hs : s.memOk) (h : s.feReissue = some o) : OutOk o := by
  unfold State.feReissue at h
  extract_lets w st d a b at h
  split at h
  · exact Option.some.inj h ▸ execLdfe_memOk hs
  · exact Option.some.inj h ▸ execStfe_memOk hs
  · exact Option.some.inj h ▸ execFeinit_memOk hs
  · exact Option.some.inj h ▸ execFefill_memOk hs
  · exact Option.some.inj h ▸ execFeq_memOk hs
  · split at h
    · exact Option.some.inj h ▸ execLdI64_memOk hs
    · cases h
  · split at h
    · exact Option.some.inj h ▸ execSt64_memOk hs
    · cases h
  · cases h

@[simp] theorem evBankAnswer_memOk (hs : s.memOk) : OptOk s.evBankAnswer := by
  refine optOk_ite ?_ optOk_none
  split
  · rename_i t e
    exact optOk_ite optOk_none ((optOk_some _).2 (feReissue_memOk hs e t rfl))
  · exact optOk_none

@[simp] theorem clearBanks_memOk {cl : Nat} {mask : BitVec 64} (hs : s.memOk) : (s.clearBanks cl mask).memOk := filter_wf _ hs

@[simp] theorem wakeBanks_memOk {cl : Nat} {mask : BitVec 64} : (s.wakeBanks cl mask).memOk ↔ s.memOk := Iff.rfl

@[simp] theorem changeBanks_memOk {cl : Nat} {mask : BitVec 64} {mode : Nat} (hs : s.memOk) : (s.changeBanks cl mask mode).memOk := by
  simp [State.changeBanks, hs]

@[simp] theorem serveBank_memOk {cl : Nat} {r : BankReq} (hs : s.memOk) : (s.serveBank cl r).2.memOk := by simp [State.serveBank, hs]

@[simp] theorem execBankcfg_memOk {st : Bool} {d a b : BitVec 5} (hs : s.memOk) : OutOk (execBankcfg st d a b s) := by
  refine issue_memOk hs fun t ht => ?_
  extract_lets y
  refine resOk_ite ht ?_
  extract_lets
  split
  · exact wg_memOk.2 ht
  · refine resOk_ite ht (resOk_ite ?_ (onFocus_memOk.2 (onCluster_memOk.2 ht)))
    split
    rename_i x u e
    have hu : (u.stall .bank 10).memOk := stall_memOk (snd_memOk e (serveBank_memOk ht))
    exact wg_memOk.2 (ite_memOk (freeStall_memOk hu) hu)

@[simp] theorem bankcfgAgain_memOk (hs : s.memOk) : s.bankcfgAgain.memOk := by
  unfold State.bankcfgAgain
  extract_lets w
  split
  · rename_i t e
    exact execBankcfg_memOk hs t e
  · exact hs

@[simp] theorem evBankMode_memOk {cl : Nat} (hs : s.memOk) : OptOk (s.evBankMode cl) := by
  unfold State.evBankMode
  split <;> simp [hs]

/-! ## Tokens and strands -/

@[simp] theorem issueOut_memOk {st : Bool} {len : Nat} {u : Use} {body : State → Res} (hs : s.memOk) (hbody : ∀ t, t.memOk → (body t).memOk) :
    OutOk (issueOut st len u body s) := by simp +contextual [issueOut, *]

@[simp] theorem ownHandle_memOk {h : Word} {k : Res} (hs : s.memOk) (hk : k.memOk) : (s.ownHandle h k).memOk := by
  simp +contextual [State.ownHandle, *]

@[simp] theorem execToka_memOk {st : Bool} {d a : BitVec 5} (hs : s.memOk) : OutOk (execToka st d a s) := by
  refine issue_memOk hs fun t ht => ?_
  split
  · exact wg_memOk.2 ht
  · rename_i e
    exact wg_memOk.2 (allocCell_memOk ht _ e)

@[simp] theorem beforeRead_memOk (hs : s.memOk) : s.beforeRead.memOk := by simp [State.beforeRead, hs]

@[simp] theorem execTokt_memOk {st : Bool} {d a : BitVec 5} (hs : s.memOk) : OutOk (execTokt st d a s) := by
  refine issue_memOk hs fun t ht => ownHandle_memOk ht ?_
  extract_lets u x v w
  have hu : u.memOk := beforeRead_memOk ht
  have hv : v.memOk := ite_memOk (observe_memOk.2 hu) hu
  exact wg_memOk.2 (ite_memOk (setStale_memOk.2 hv) hv)

@[simp] theorem settled_memOk {body : State → Res} (hs : s.memOk) (hbody : ∀ t, t.memOk → (body t).memOk) : (s.settled body).memOk := by
  have h := settle_memOk (cause := .settle) (quiesce_memOk (cause := .settle) hs)
  unfold State.settled
  split
  · rename_i e
    exact fst_memOk e h
  · rename_i e
    exact hbody _ (beforeRead_memOk (fst_memOk e h))

@[simp] theorem noBatch_memOk {k : Res} (hs : s.memOk) (hk : k.memOk) : (s.noBatch k).memOk := by simp +contextual [State.noBatch, *]

@[simp] theorem saveLive_memOk {e : BitVec 128} {cond : Cond} {resume : Resume} (hs : s.memOk) : (s.saveLive e cond resume).memOk := by
  unfold State.saveLive
  extract_lets written bytes cause t
  have ht : t.memOk := slot_memOk (onCur_memOk.2 hs)
  refine resOk_ite (resOk_ite hs ?_) (save_memOk ht)
  split
  · exact hs
  · rename_i e
    exact save_memOk (accSave_memOk ht _ e)

@[simp] theorem awaited_memOk {d : BitVec 5} {h pc : Word} (hs : s.memOk) : (s.awaited d h pc).1.memOk := by
  unfold State.awaited
  extract_lets x t
  have ht : (t.settle .settle).1.memOk := settle_memOk (wg_memOk.2 (ite_memOk (observe_memOk.2 hs) hs))
  split
  · rename_i e
    exact fst_memOk e ht
  · rename_i e
    exact fst_memOk e ht

@[simp] theorem execAwait_memOk {st : Bool} {d a : BitVec 5} {l : BitVec 10} (hs : s.memOk) : OutOk (execAwait st d a l s) := by
  refine issueOut_memOk hs fun t ht => ownHandle_memOk ht (noBatch_memOk ht (liveEntry_memOk ht fun e u hu => settled_memOk hu fun v hv => ?_))
  refine resOk_ite (saveLive_memOk hv) ?_
  have h := awaited_memOk (d := d) (h := t.rg a) (pc := v.cur.pc) (onCur_memOk (f := (·.kill e)).2 hv)
  split
  · rename_i e
    exact fst_memOk e h
  · rename_i e
    exact fst_memOk e h

@[simp] theorem yieldStays_memOk (hs : s.memOk) : s.yieldStays.1.memOk := by
  unfold State.yieldStays
  dsimp only
  repeat' split
  all_goals simp +contextual [*]

@[simp] theorem execYield_memOk {st : Bool} {l : BitVec 10} (hs : s.memOk) : OutOk (execYield st l s) := by
  refine issueOut_memOk hs fun t ht => noBatch_memOk ht (liveEntry_memOk ht fun e u hu => settled_memOk hu fun v hv => ?_)
  extract_lets w now num
  have hw : w.yieldStays.1.memOk := yieldStays_memOk (beforeRead_memOk (slot_memOk (onCur_memOk.2 hv)))
  refine resOk_ite (charge_memOk hv) ?_
  split
  · rename_i e
    exact settleAfter_memOk (unwait_memOk.2 (fst_memOk e hw))
  · extract_lets x
    have h := saveLive_memOk (e := e) (cond := .ready) (resume := .go) (s := x) (onFocus_memOk.2 hv)
    split
    · rename_i e
      rw [e] at h
      exact onFocus_memOk.2 h
    · exact h

@[simp] theorem execSpawn_memOk {st : Bool} {d a b : BitVec 5} (hs : s.memOk) : OutOk (execSpawn st d a b s) := by
  refine issueOut_memOk hs fun t ht => resOk_ite ht ?_
  split
  · rename_i e
    exact wg_memOk.2 (onFocus_memOk.2 (allocCell_memOk ht _ e))
  · exact wg_memOk.2 ht

@[simp] theorem execExit_memOk {st : Bool} (hs : s.memOk) : OutOk (execExit st s) :=
  issueOut_memOk hs fun _ ht => resOk_ite ht (settled_memOk (onCur_memOk.2 ht) fun _ hu =>
    vacate_memOk.2 (slot_memOk (endStrand_memOk (exitItem_memOk hu))))

@[simp] theorem hopLeave_memOk {d : BitVec 5} {c : Nat} (hs : s.memOk) : (s.hopLeave d c).memOk := by simp [State.hopLeave, hs]

@[simp] theorem hopAddr_memOk {va : Nat} {body : State → Res} (hs : s.memOk) (hbody : ∀ t, t.memOk → (body t).memOk) :
    (s.hopAddr va body).memOk := by simp +contextual [State.hopAddr, *]

@[simp] theorem execHop_memOk {st : Bool} {d a b : BitVec 5} (hs : s.memOk) : OutOk (execHop st d a b s) := by
  refine issueOut_memOk hs fun t ht => noBatch_memOk ht (liveEntry_memOk ht fun e u hu => resOk_ite hu (hopAddr_memOk hu fun v hv =>
    settled_memOk hv fun w hw => ?_))
  extract_lets x y
  have hy : y.memOk := onCur_memOk.2 hw
  clear_value x
  split
  · exact wg_memOk.2 hy
  · exact hopLeave_memOk hy

/-! ## The trap path -/

@[simp] theorem handlerEnds_memOk (hs : s.memOk) : s.handlerEnds.memOk := by simp [State.handlerEnds, hs]

@[simp] theorem endTrapped_memOk {t : Strand} {slot : Nat} (hs : s.memOk) : (s.endTrapped t slot).memOk := by
  unfold State.endTrapped
  exact vacate_memOk.2 (onFocus_memOk.2 (handlerEnds_memOk (endStrand_memOk (exitItem_memOk hs))))

@[simp] theorem rettNow_memOk {x : Word} {h : HandlerCtx} (hs : s.memOk) : (s.rettNow x h).memOk := by
  unfold State.rettNow
  refine resOk_ite hs ?_
  split
  · exact vacate_memOk.2 (onFocus_memOk.2 (endStrand_memOk (slot_memOk hs)))
  · extract_lets t b
    refine resOk_ite (resOk_ite hs (endTrapped_memOk hs)) (resOk_ite hs ?_)
    exact stall_memOk (resumeTrapped_memOk (handlerEnds_memOk hs))

@[simp] theorem execRett_memOk {st : Bool} {a : BitVec 5} (hs : s.memOk) : OutOk (execRett st a s) := by
  refine issue_memOk hs fun t ht => ?_
  split
  · exact ht
  · exact resOk_ite ht (settled_memOk (orderWait_memOk ht) fun _ hu => rettNow_memOk hu)

@[simp] theorem markFixed_memOk {slot : Nat} (hs : s.memOk) : (s.markFixed slot).memOk := by simp [State.markFixed, hs]

@[simp] theorem uefix_memOk {h : HandlerCtx} {i : Image} {t : TrapInfo} {a : BitVec 5} (hs : s.memOk) : (s.uefix h i t a).memOk := by
  simp [State.uefix, hs]

@[simp] theorem execUefix_memOk {st : Bool} {a : BitVec 5} (hs : s.memOk) : OutOk (execUefix st a s) := by
  unfold execUefix
  split <;> simp +contextual [hs]

@[simp] theorem execPark_memOk {st : Bool} {a : BitVec 5} (hs : s.memOk) : OutOk (execPark st a s) := by
  refine issueOut_memOk hs fun t ht => ?_
  have h := drainSettle_memOk (cause := .basin) ht
  extract_lets c
  split
  · rename_i e
    exact fst_memOk e h
  · rename_i e
    exact onFocus_memOk.2 (saveBasin_memOk (slot_memOk (fst_memOk e h)))

@[simp] theorem evParkTimeout_memOk {core : Nat} (hs : s.memOk) : OptOk (s.evParkTimeout core) := by
  unfold State.evParkTimeout
  split <;> simp [hs]

@[simp] theorem evUnpark_memOk {core : Nat} (hs : s.memOk) : OptOk (s.evUnpark core) := by simp [State.evUnpark, hs]
@[simp] theorem preemptHandler_memOk {num : Nat} (hs : s.memOk) : (s.preemptHandler num).memOk := by simp [State.preemptHandler, hs]

@[simp] theorem preemptRunning_memOk (hs : s.memOk) : s.preemptRunning.memOk := by
  have h := drainSettle_memOk (cause := .basin) (unwait_memOk.2 hs)
  unfold State.preemptRunning
  split
  · rename_i e
    exact saveBasin_memOk (fst_memOk e h)
  · rename_i e
    exact preemptHandler_memOk (takeTrap_memOk (fst_memOk e h))

@[simp] theorem takeDue_memOk {t : TrapInfo} (hs : s.memOk) : (s.takeDue t).memOk := by simp [State.takeDue, hs]

@[simp] theorem evPreempt_memOk {core num : Nat} (hs : s.memOk) : OptOk (s.evPreempt core num) := by
  unfold State.evPreempt
  dsimp only
  repeat' split
  all_goals simp +contextual [*]

@[simp] theorem moveToBasin_memOk {i : Image} (hs : s.memOk) : (s.moveToBasin i).memOk := by simp [State.moveToBasin, hs]
@[simp] theorem allToBasin_memOk (hs : s.memOk) : s.allToBasin.memOk := by simp +contextual [State.allToBasin, hs]

@[simp] theorem evImageMove_memOk {core num : Nat} (hs : s.memOk) : OptOk (s.evImageMove core num) := by
  unfold State.evImageMove
  split <;> simp [hs]

@[simp] theorem evCleanRows_memOk {core num : Nat} (hs : s.memOk) : OptOk (s.evCleanRows core num) := by simp [State.evCleanRows, hs]
@[simp] theorem liftStrand_memOk {core num : Nat} : (s.liftStrand core num).memOk ↔ s.memOk := by simp [State.liftStrand]

@[simp] theorem evLift_memOk {core num : Nat} (hs : s.memOk) : OptOk (s.evLift core num) := by
  unfold State.evLift
  split <;> simp [hs]

@[simp] theorem evTrap_memOk {core : Nat} (hs : s.memOk) : OptOk (s.evTrap core) := by
  unfold State.evTrap
  dsimp only
  repeat' split
  all_goals simp +contextual [*]

@[simp] theorem evSlotFreed_memOk {core : Nat} (hs : s.memOk) : OptOk (s.evSlotFreed core) := by
  unfold State.evSlotFreed
  dsimp only
  repeat' split
  all_goals simp +contextual [*]

@[simp] theorem loseStrand_memOk {t : Strand} (hs : s.memOk) : (s.loseStrand t).memOk := by
  unfold State.loseStrand
  dsimp only
  repeat' split
  all_goals simp +contextual [*]

@[simp] theorem loseImage_memOk {i : Image} (hs : s.memOk) : (s.loseImage i).memOk := by
  unfold State.loseImage
  split <;> simp [hs]

@[simp] theorem evImageError_memOk {core num : Nat} (hs : s.memOk) : OptOk (s.evImageError core num) := by
  unfold State.evImageError
  dsimp only
  repeat' split
  all_goals simp +contextual [*]

@[simp] theorem evCellError_memOk {core cell : Nat} (hs : s.memOk) : OptOk (s.evCellError core cell) := by
  unfold State.evCellError
  split <;> simp [hs]

@[simp] theorem evVector_memOk {core : Nat} (hs : s.memOk) : OptOk (s.evVector core) := by
  unfold State.evVector
  split <;> simp [hs]

@[simp] theorem evDebugStop_memOk {core : Nat} (hs : s.memOk) : OptOk (s.evDebugStop core) := by simp [State.evDebugStop, hs]

@[simp] theorem execFeBankAnswer_memOk {core : Nat} (hs : s.memOk) : OutOk (execFeBankAnswer core s) :=
  evOut_memOk (optOk_map fun t e => focusOn_memOk.2 (evBankAnswer_memOk (focusOn_memOk.2 hs) t e))

/-! ## Launches -/

@[simp] theorem execLaunch_memOk {st : Bool} {d a b : BitVec 5} (hs : s.memOk) : OutOk (execLaunch st d a b s) := by
  refine issueOut_memOk hs fun t ht => ?_
  extract_lets x va q
  refine withAcc_memOk ht fun h u hu => ?_
  split
  · exact hu
  · exact replyWait_memOk (wg_memOk.2 (ite_memOk (onQueue_memOk.2 hu) hu))

@[simp] theorem evPortWrite_memOk {q off size : Nat} {data : BitVec 512} (hs : s.memOk) : OptOk (s.evPortWrite q off size data) := by
  simp [State.evPortWrite, hs]

@[simp] theorem completionWord_memOk {l : Launch} {code : BitVec 8} (hs : s.memOk) : (s.completionWord l code).memOk := by
  simp [State.completionWord, hs]

@[simp] theorem completeLaunch_memOk {l : Launch} {code : BitVec 8} (hs : s.memOk) : (s.completeLaunch l code).memOk := by
  simp [State.completeLaunch, hs]

@[simp] theorem refuseRecord_memOk {q : Nat} {ptroot : Word} {r : BitVec 512} (hs : s.memOk) : (s.refuseRecord q ptroot r).memOk := by
  simp [State.refuseRecord, hs]

@[simp] theorem evAdmit_memOk (hs : s.memOk) : OptOk s.evAdmit := by
  unfold State.evAdmit
  dsimp only
  repeat' split
  all_goals simp +contextual [*]

@[simp] theorem watchLaunch_memOk {l : Launch} (hs : s.memOk) : (s.watchLaunch l).memOk := by simp [State.watchLaunch, hs]
@[simp] theorem watchDeps_memOk (hs : s.memOk) : s.watchDeps.memOk := by simp +contextual [State.watchDeps, hs]

@[simp] theorem evDependency_memOk {launch k : Nat} (hs : s.memOk) : OptOk (s.evDependency launch k) := by
  unfold State.evDependency
  repeat' split
  all_goals simp [hs]

@[simp] theorem askFor_memOk {l : Launch} {core : Nat} {ts : List Strand} (hs : s.memOk) : OptOk (s.askFor l core ts) := by
  induction ts generalizing s with
  | nil => exact (optOk_some _).2 hs
  | cons t ts ih =>
    unfold State.askFor
    refine optOk_ite (ih (onLaunch_memOk.2 hs)) ?_
    split
    · rename_i e
      exact ih (onLaunch_memOk.2 (evPreempt_memOk hs _ e))
    · exact optOk_none

@[simp] theorem startItem_memOk {id item rank : Nat} : (s.startItem id item rank).memOk ↔ s.memOk := by
  unfold State.startItem
  repeat' split
  all_goals simp

@[simp] theorem acctOn_memOk {l : Launch} {core : Nat} (hs : s.memOk) : (s.acctOn l core).memOk := by simp [State.acctOn, hs]
@[simp] theorem acctOff_memOk {core : Nat} (hs : s.memOk) : (s.acctOff core).memOk := by simp [State.acctOff, hs]
@[simp] theorem detredOff_memOk {d : Nat} (hs : s.memOk) : (s.detredOff d).memOk := by simp [State.detredOff, hs]

@[simp] theorem endModes_memOk (hs : s.memOk) : s.endModes.memOk := by
  unfold State.endModes
  extract_lets t
  have ht : t.memOk := ite_memOk hs (foldl_memOk (fun _ _ h => acctOff_memOk h) hs)
  exact ite_memOk ht (foldl_memOk (fun _ _ h => detredOff_memOk h) ht)

@[simp] theorem firstWave_memOk {l : Launch} {positions : Nat} (hs : s.memOk) : (s.firstWave l positions).memOk := by
  simp [State.firstWave, hs]

@[simp] theorem place_memOk {l : Launch} {cores : List Nat} {percore : Nat} {shape : Word} (hs : s.memOk) :
    (s.place l cores percore shape).memOk := by
  unfold State.place
  extract_lets s1 s2 s3
  have h2 : s2.memOk := foldl_memOk (fun _ _ h => acctOn_memOk h) (onLaunch_memOk.2 hs)
  exact firstWave_memOk (ite_memOk (foldl_memOk (fun _ _ h => setDetred_memOk.2 h) h2) h2)

@[simp] theorem unpin_memOk {l : Launch} : (s.unpin l).memOk ↔ s.memOk := Iff.rfl
@[simp] theorem dropLaunch_memOk {l : Launch} : (s.dropLaunch l).memOk ↔ s.memOk := Iff.rfl

@[simp] theorem evPlace_memOk {launch : Nat} {cores : List Nat} {percore : Nat} (hs : s.memOk) :
    OptOk (s.evPlace launch cores percore) := by
  unfold State.evPlace
  split
  · exact optOk_none
  · refine optOk_ite optOk_none (optOk_ite (optOk_ite optOk_none ((optOk_some _).2 (dropLaunch_memOk.2 (completeLaunch_memOk hs)))) ?_)
    split
    · exact optOk_none
    · refine optOk_ite optOk_none (optOk_ite (optOk_ite ((optOk_some _).2 (place_memOk hs)) optOk_none) (optOk_ite optOk_none ?_))
      exact List.foldlRecOn (motive := OptOk) _ _ ((optOk_some s).2 hs) fun _ h _ _ => optOk_bind fun u e => askFor_memOk (h u e)

@[simp] theorem newRound_memOk {l : Launch} : (s.newRound l).memOk ↔ s.memOk := by
  unfold State.newRound
  split <;> rfl

@[simp] theorem evItem_memOk {launch : Nat} (hs : s.memOk) : OptOk (s.evItem launch) := by
  unfold State.evItem
  repeat' split
  all_goals simp [hs]

@[simp] theorem evFinish_memOk {launch : Nat} (hs : s.memOk) : OptOk (s.evFinish launch) := by
  unfold State.evFinish
  split <;> simp [hs]

@[simp] theorem cancelOne_memOk {l : Launch} (hs : s.memOk) : (s.cancelOne l).memOk := by
  unfold State.cancelOne
  split
  · rename_i e
    exact evFinish_memOk hs _ e
  · exact ite_memOk (dropLaunch_memOk.2 (completeLaunch_memOk hs)) (cancelLaunch_memOk.2 hs)

@[simp] theorem execWrsLcancel_memOk {st : Bool} {a : BitVec 5} (hs : s.memOk) : OutOk (execWrsLcancel st a s) :=
  wrsWith_memOk hs fun _ _ ht => foldl_memOk (fun _ _ h => cancelOne_memOk h) ht

@[simp] theorem stopStrands_memOk {l : Nat} (hs : s.memOk) : (s.stopStrands l).memOk := by
  unfold State.stopStrands
  extract_lets ours nums t u v gone w
  have hv : v.memOk := ite_memOk (vacate_memOk.2 (endStrand_memOk (freeGang_memOk (quiesce_memOk hs)))) hs
  exact foldl_memOk (fun _ _ h => endStrand_memOk h) (onFocus_memOk.2 hv)

@[simp] theorem cancelMatrix_memOk {l : Nat} (hs : s.memOk) : (s.cancelMatrix l).memOk := by simp [State.cancelMatrix, hs]

@[simp] theorem cancelDrains_memOk {l n : Nat} (hs : s.memOk) : (s.cancelDrains l n).memOk := by
  induction n generalizing s with
  | zero => exact hs
  | succ n ih =>
    unfold State.cancelDrains
    split
    · exact hs
    · extract_lets c u
      have hu : u.memOk := endFault_memOk.2 hs
      exact ih (getD_memOk (optOk_ite (drainNow_memOk hu) optOk_none) (drainDone_memOk.2 hu))

@[simp] theorem cancelOnCore_memOk {l core : Nat} (hs : s.memOk) : (s.cancelOnCore l core).memOk := by
  unfold State.cancelOnCore
  exact focusOn_memOk.2 (onFocus_memOk.2 (cancelDrains_memOk (cancelMatrix_memOk (stopStrands_memOk (focusOn_memOk.2 hs)))))

@[simp] theorem dropHops_memOk {l : Nat} (hs : s.memOk) : (s.dropHops l).memOk := by
  refine foldl_memOk (fun t m ht => ?_) hs
  split
  · exact ite_memOk (foldl_memOk (fun _ _ h => onCore_memOk.2 h) (ite_memOk ht (failTo_memOk.2 ht))) ht
  · exact ht

@[simp] theorem stopLaunch_memOk {l : Launch} (hs : s.memOk) : (s.stopLaunch l).memOk := by
  unfold State.stopLaunch
  extract_lets s1 toks s2 s3 s4 s5 s6
  have h2 : s2.memOk := (memOk_mk ..).2 (dropHops_memOk hs)
  have h3 : s3.memOk := foldl_memOk (fun _ _ h => answerToken_memOk.2 h) h2
  have h4 : s4.memOk := foldl_memOk (fun _ _ h => cancelOnCore_memOk h) h3
  have h5 : s5.memOk := (memOk_mk ..).2 h4
  have h6 : s6.memOk := unpin_memOk.2 (dropArrivals_memOk (cancelCopies_memOk h5))
  exact (memOk_mk ..).2 h6

@[simp] theorem evCancel_memOk {launch : Nat} (hs : s.memOk) : OptOk (s.evCancel launch) := by
  unfold State.evCancel
  split
  · exact optOk_none
  · rename_i l _
    have h : (s.stopLaunch l).memOk := stopLaunch_memOk hs
    split
    · refine optOk_ite optOk_none (optOk_ite (optOk_ite ((optOk_some _).2 h) optOk_none) ?_)
      exact (optOk_some _).2 (dropLaunch_memOk.2 (completeLaunch_memOk (ite_memOk h (storeVa_memOk h))))
    · exact optOk_none

@[simp] theorem tearDown_memOk {asid : BitVec 12} (hs : s.memOk) : (s.tearDown asid).memOk :=
  ite_memOk hs (foldl_memOk (fun _ _ h => foldl_memOk (fun _ _ h => loseSlot_memOk h) h) hs)

end Sys2Proof.Machine
end

section
/-! SUPPORT. The canonical form through the fabric, the dies, power, the host and reset. -/

namespace Sys2Proof.Machine

variable {s : State}

/-! ## The fabric -/

@[simp] theorem putHomes_memOk {l : List (Home × Nat)} {bs : List Byte} (hs : s.memOk) : (s.putHomes l bs).memOk := by
  induction l generalizing s bs with
  | nil => exact hs
  | cons p l ih =>
    refine ih ?_
    split
    · exact storeBytes_memOk hs
    · exact markPoison_memOk.2 hs
    · exact hs

@[simp] theorem podAtomic_memOk {h : Home} {n : Nat} {f : Nat → Option Nat} (hs : s.memOk) : (s.podAtomic h n f).memOk := by
  unfold State.podAtomic
  dsimp only
  repeat' split
  all_goals simp +contextual [*]

@[simp] theorem podAdds_memOk {h : Home} {fmt : BitVec 5} {item : Word} {n first : Nat} {xs : List Word} (hs : s.memOk) :
    (s.podAdds h fmt item n first xs).memOk := by
  unfold State.podAdds
  split <;> simp [hs]

@[simp] theorem podPerform_memOk {off : Nat} {l : List (Home × Nat)} {op : PodOp} (hs : s.memOk) : OptOk (s.podPerform off l op) := by
  cases op with
  | read n => exact (optOk_some _).2 (foldl_memOk (fun _ _ h => homeTouch_memOk h) hs)
  | write bs => exact (optOk_some _).2 (putHomes_memOk hs)
  | amo op x => exact optOk_ite (optOk_map fun _ _ => podAtomic_memOk hs) optOk_none
  | cas c x => exact optOk_ite (optOk_map fun _ _ => podAtomic_memOk hs) optOk_none
  | adds fmt item n first xs =>
    unfold State.podPerform
    dsimp only
    split
    · exact optOk_ite ((optOk_some _).2 (podAdds_memOk hs)) optOk_none
    · exact optOk_none

@[simp] theorem evPod_memOk {a : PodAccess} (hs : s.memOk) : OptOk (s.evPod a) := by
  refine optOk_ite optOk_none ?_
  split
  · exact (optOk_some _).2 hs
  · exact podPerform_memOk hs

@[simp] theorem messageIn_memOk {b : MsgBody} (hs : s.memOk) : OptOk (s.messageIn b) :=
  optOk_ite ((optOk_some _).2 (getD_memOk (deliverBody_memOk hs) hs)) optOk_none

@[simp] theorem evControl_memOk {a : ControlMsg} (hs : s.memOk) : OptOk (s.evControl a) := by
  unfold State.evControl
  repeat' split
  all_goals simp [hs]

@[simp] theorem dropUnreachable_memOk (hs : s.memOk) : s.dropUnreachable.memOk := by simp [State.dropUnreachable, hs]
@[simp] theorem evPathDown_memOk {node : Nat} (hs : s.memOk) : OptOk (s.evPathDown node) := by simp [State.evPathDown, hs]
@[simp] theorem setQp_memOk {q : QueuePair} : (s.setQp q).memOk ↔ s.memOk := Iff.rfl

@[simp] theorem failSent_memOk {l : List SentRequest} {code : BitVec 8} (hs : s.memOk) : (s.failSent l code).memOk := by
  simp [State.failSent, hs]

@[simp] theorem qpError_memOk {q : QueuePair} {n : Nat} {code : BitVec 8} (hs : s.memOk) : (s.qpError q n code).memOk := by
  simp [State.qpError, hs]

@[simp] theorem netReload_memOk {n : Nat} (hs : s.memOk) : (s.netReload n).memOk := by simp [State.netReload, hs]

@[simp] theorem putNetWord_memOk {a : Agent} {va i : Nat} {x : Word} (hs : s.memOk) : (s.putNetWord a va i x).memOk := by
  simp [State.putNetWord, hs]

@[simp] theorem sendWqe_memOk {q : QueuePair} {a : Agent} {w : Nat → Word} (hs : s.memOk) : (s.sendWqe q a w).1.memOk := by
  unfold State.sendWqe
  dsimp only
  repeat' split
  all_goals simp +contextual [*]

@[simp] theorem takeWqes_memOk {a : Agent} {n : Nat} {q : QueuePair} (hs : s.memOk) : (s.takeWqes a n q).1.memOk := by
  induction n generalizing s q with
  | zero => exact hs
  | succ n ih =>
    unfold State.takeWqes
    extract_lets va w q'
    split
    · exact ih (answerToken_memOk.2 hs)
    · split
      · exact hs
      · split
        rename_i e
        exact ih (fst_memOk e (sendWqe_memOk hs))

@[simp] theorem evDoorbell_memOk {n : Nat} (hs : s.memOk) : OptOk (s.evDoorbell n) := by
  unfold State.evDoorbell
  split
  · exact optOk_none
  · split
    · exact optOk_none
    · refine optOk_ite optOk_none ?_
      extract_lets sp rp
      split
      rename_i e
      have h := fst_memOk e (takeWqes_memOk hs)
      exact (optOk_some _).2 (setQp_memOk.2 (putNetWord_memOk (putNetWord_memOk h)))

@[simp] theorem completeAcked_memOk {q : QueuePair} {psn : BitVec 24} (hs : s.memOk) : (s.completeAcked q psn).1.memOk := by
  simp [State.completeAcked, hs]

@[simp] theorem placeResponse_memOk {q : QueuePair} {a : Agent} {r : SentRequest} {rest : List SentRequest} {bs : List Byte} (hs : s.memOk) :
    OptOk (s.placeResponse q a r rest bs) := by
  unfold State.placeResponse
  dsimp only
  repeat' split
  all_goals simp +contextual [*]

@[simp] theorem netResponse_memOk {q : QueuePair} {a : Agent} {psn : BitVec 24} {bs : List Byte} (hs : s.memOk) :
    OptOk (s.netResponse q a psn bs) := by
  unfold State.netResponse
  dsimp only
  repeat' split
  all_goals simp +contextual [*]

@[simp] theorem netRefused_memOk {q : QueuePair} {psn : BitVec 24} (hs : s.memOk) : (s.netRefused q psn).memOk := by
  simp [State.netRefused, hs]

@[simp] theorem receiveDone_memOk {q : QueuePair} {a : Agent} {e : Nat} {tok : Word} {n : Nat} {imm : Option (BitVec 32)} (hs : s.memOk) :
    (s.receiveDone q a e tok n imm).memOk := by
  unfold State.receiveDone
  exact setQp_memOk.2 (answerToken_memOk.2 (putNetWord_memOk (putNetWord_memOk (putNetWord_memOk hs))))

@[simp] theorem receiveFails_memOk {q : QueuePair} {a : Agent} {tok : Word} {code : BitVec 8} (hs : s.memOk) :
    (s.receiveFails q a tok code).memOk := by simp [State.receiveFails, hs]

@[simp] theorem netSend_memOk {q : QueuePair} {a : Agent} {bs : List Byte} {last : Bool} {imm : Option (BitVec 32)} (hs : s.memOk) :
    OptOk (s.netSend q a bs last imm) := by
  unfold State.netSend
  dsimp only
  repeat' split
  all_goals simp +contextual [*]

@[simp] theorem netWrite_memOk {q : QueuePair} {own : Agent} {va : Nat} {rkey : BitVec 32} {bs : List Byte} {last : Bool}
    {imm : Option (BitVec 32)} (hs : s.memOk) :
    OptOk (s.netWrite q own va rkey bs last imm) := by
  unfold State.netWrite
  repeat' split
  all_goals simp [hs]

@[simp] theorem netRead_memOk {q : QueuePair} {va : Nat} {rkey : BitVec 32} {n : Nat} (hs : s.memOk) : OptOk (s.netRead q va rkey n) := by
  unfold State.netRead
  split <;> simp [hs]

@[simp] theorem netAtomic_memOk {q : QueuePair} {va : Nat} {rkey : BitVec 32} {f : Nat → Option Nat} (hs : s.memOk) :
    OptOk (s.netAtomic q va rkey f) := by
  unfold State.netAtomic
  repeat' split
  all_goals simp [hs]

@[simp] theorem netRequest_memOk {q : QueuePair} {a : Agent} {p : NetPacket} (hs : s.memOk) : OptOk (s.netRequest q a p) := by
  unfold State.netRequest
  split
  · exact netSend_memOk hs
  · exact netWrite_memOk hs
  · exact netRead_memOk hs
  · exact netAtomic_memOk hs
  · exact netAtomic_memOk hs
  · exact (optOk_some _).2 hs

@[simp] theorem netAnswer_memOk {q : QueuePair} {a : Agent} {p : NetPacket} (hs : s.memOk) : OptOk (s.netAnswer q a p) := by
  unfold State.netAnswer
  split
  · exact (optOk_some _).2 (setQp_memOk.2 (completeAcked_memOk hs))
  · exact (optOk_some _).2 (setQp_memOk.2 (completeAcked_memOk hs))
  · exact netResponse_memOk hs
  · exact (optOk_some _).2 (netRefused_memOk hs)
  · exact optOk_none

@[simp] theorem evPacket_memOk {n : Nat} {p : NetPacket} (hs : s.memOk) : OptOk (s.evPacket n p) := by
  have hsome : OptOk (some s) := (optOk_some _).2 hs
  unfold State.evPacket
  split
  · exact optOk_none
  · split
    · exact optOk_none
    · exact optOk_ite optOk_none (optOk_ite (optOk_ite (netAnswer_memOk hs) hsome) (optOk_ite hsome (optOk_ite (netRequest_memOk hs)
        (optOk_ite ((optOk_some _).2 (setQp_memOk.2 hs)) hsome))))

@[simp] theorem evRetransmit_memOk {n : Nat} (hs : s.memOk) : OptOk (s.evRetransmit n) := by
  unfold State.evRetransmit
  split <;> simp [hs]

@[simp] theorem applyUpdate_memOk {p : PlaceDesc} {u : PlaceUpdate} (hs : s.memOk) : (s.applyUpdate p u).memOk := by
  unfold State.applyUpdate
  split
  · exact hs
  · exact putNetWord_memOk (putNetWord_memOk (putNetWord_memOk (putNetWord_memOk hs)))
  · exact putNetWord_memOk (foldl_memOk (fun _ _ h => ite_memOk (putNetWord_memOk (putNetWord_memOk h)) h) hs)

@[simp] theorem sequence_memOk {p : PlaceDesc} {r : PlaceRequest} (hs : s.memOk) : (s.sequence p r).memOk := by
  unfold State.sequence
  split <;> simp [hs]

@[simp] theorem takeOwn_memOk {p : PlaceDesc} {r : PlaceRequest} (hs : s.memOk) : (s.takeOwn p r).memOk := by simp [State.takeOwn, hs]

@[simp] theorem evPlaceRequest_memOk {r : PlaceRequest} (hs : s.memOk) : OptOk (s.evPlaceRequest r) := by
  unfold State.evPlaceRequest
  split <;> simp [hs]

@[simp] theorem ownResult_memOk {p : PlaceDesc} {u : PlaceUpdate} (hs : s.memOk) : (s.ownResult p u).memOk := by
  unfold State.ownResult
  repeat' split
  all_goals simp [hs]

@[simp] theorem allApplied_memOk {p : PlaceDesc} {seq : Nat} (hs : s.memOk) : OptOk (s.allApplied p seq) := by simp [State.allApplied, hs]

@[simp] theorem evPlaceUpdate_memOk {u : PlaceUpdate} (hs : s.memOk) : OptOk (s.evPlaceUpdate u) := by
  unfold State.evPlaceUpdate
  repeat' split
  all_goals simp [hs]

/-! ## The steps of a die -/

@[simp] theorem evSwap_memOk {die : Nat} (hs : s.memOk) : OptOk (s.evSwap die) := by simp [State.evSwap, hs]

@[simp] theorem evPacketPart_memOk {id total off : Nat} {bs : List Byte} {_last : Bool} (hs : s.memOk) :
    OptOk (s.evPacketPart id total off bs _last) := by simp [State.evPacketPart, hs]

@[simp] theorem evRefresh_memOk {die bank : Nat} (hs : s.memOk) : OptOk (s.evRefresh die bank) := by simp [State.evRefresh, hs]

@[simp] theorem evHint_memOk {i : Nat} (hs : s.memOk) : OptOk (s.evHint i) := by
  unfold State.evHint
  split <;> simp [hs]

@[simp] theorem performRequest_memOk {r : MemRequest} (hs : s.memOk) : (s.performRequest r).memOk := by
  unfold State.performRequest
  repeat' split
  all_goals simp [hs]

@[simp] theorem evRequest_memOk {i : Nat} (hs : s.memOk) : OptOk (s.evRequest i) := by
  unfold State.evRequest
  dsimp only
  repeat' split
  all_goals simp +contextual [*]

@[simp] theorem evResponse_memOk {i : Nat} (hs : s.memOk) : OptOk (s.evResponse i) := by
  unfold State.evResponse
  split <;> simp [hs]

@[simp] theorem evReduce_memOk {i : Nat} (hs : s.memOk) : OptOk (s.evReduce i) := by
  unfold State.evReduce
  repeat' split
  all_goals simp [hs]

@[simp] theorem poisonLines_memOk {l : List Nat} (hs : s.memOk) : (s.poisonLines l).memOk := by simp [State.poisonLines, hs]
@[simp] theorem retireDie_memOk {die : Nat} (hs : s.memOk) : (s.retireDie die).memOk := by simp [State.retireDie, hs]

@[simp] theorem dropBank_memOk {die bank : Nat} {lost : List Nat} (hs : s.memOk) : (s.dropBank die bank lost).memOk := by
  unfold State.dropBank
  extract_lets s1 s2 s3
  have h3 : s3.memOk := onDie_memOk.2 (poisonLines_memOk (drainDie_memOk hs))
  exact ite_memOk (retireDie_memOk h3) h3

@[simp] theorem evBankFailure_memOk {die bank : Nat} {lost : List Nat} (hs : s.memOk) : OptOk (s.evBankFailure die bank lost) := by
  simp [State.evBankFailure, hs]

@[simp] theorem sramError_memOk {line : Nat} (hs : s.memOk) : (s.sramError line).memOk := by
  unfold State.sramError
  dsimp only
  repeat' split
  all_goals simp +contextual [*]

@[simp] theorem evScrub_memOk {line : Nat} {e : EccOutcome} (hs : s.memOk) : OptOk (s.evScrub line e) := by
  unfold State.evScrub
  repeat' split
  all_goals simp [hs]

@[simp] theorem evSramFault_memOk {cluster bank : Nat} (hs : s.memOk) : OptOk (s.evSramFault cluster bank) := by
  simp [State.evSramFault, hs]

@[simp] theorem evCxlFailure_memOk {port : Nat} (hs : s.memOk) : OptOk (s.evCxlFailure port) := by simp [State.evCxlFailure, hs]
@[simp] theorem loseGangOf_memOk {head : Nat} (hs : s.memOk) : (s.loseGangOf head).memOk := by simp +contextual [State.loseGangOf, hs]

@[simp] theorem evCoreFailure_memOk {core : Nat} (hs : s.memOk) : OptOk (s.evCoreFailure core) := by
  unfold State.evCoreFailure
  dsimp only
  repeat' split
  all_goals simp +contextual [*]

@[simp] theorem thaw_memOk : s.thaw.memOk ↔ s.memOk := by
  unfold State.thaw
  split <;> simp

@[simp] theorem evRetrain_memOk {link : Nat} (hs : s.memOk) : OptOk (s.evRetrain link) := by simp [State.evRetrain, hs]
@[simp] theorem evRetrained_memOk {link : Nat} (hs : s.memOk) : OptOk (s.evRetrained link) := by simp [State.evRetrained, hs]
@[simp] theorem evLinkDown_memOk {link : Nat} (hs : s.memOk) : OptOk (s.evLinkDown link) := by simp [State.evLinkDown, hs]

/-! ## Profiles, supply and temperature -/

@[simp] theorem evProfile_memOk (hs : s.memOk) : OptOk s.evProfile := by
  unfold State.evProfile
  split <;> simp [hs]

@[simp] theorem evBurst_memOk {fast : Bool} (hs : s.memOk) : OptOk (s.evBurst fast) := by simp [State.evBurst, hs]
@[simp] theorem setPwr_memOk {n : Nat} {f : Package → Package} : (s.setPwr n f).memOk ↔ s.memOk := by simp [State.setPwr]
@[simp] theorem evDroop_memOk (hs : s.memOk) : OptOk s.evDroop := by simp [State.evDroop, hs]
@[simp] theorem evStretchEnd_memOk (hs : s.memOk) : OptOk s.evStretchEnd := by simp [State.evStretchEnd, hs]
@[simp] theorem evRide_memOk (hs : s.memOk) : OptOk s.evRide := by simp [State.evRide, hs]
@[simp] theorem evRideEnd_memOk (hs : s.memOk) : OptOk s.evRideEnd := by simp [State.evRideEnd, hs]

@[simp] theorem quiesceCore_memOk {core : Nat} (hs : s.memOk) : (s.quiesceCore core).memOk := by
  unfold State.quiesceCore
  extract_lets back t u
  have ht : t.memOk := focusOn_memOk.2 hs
  have hu : u.memOk := by
    refine ite_memOk ?_ ht
    split
    · exact preemptHandler_memOk (takeDue_memOk ht)
    · exact preemptRunning_memOk ht
  exact focusOn_memOk.2 (allToBasin_memOk hu)

@[simp] theorem quiesceStrands_memOk (hs : s.memOk) : s.quiesceStrands.memOk := by simp +contextual [State.quiesceStrands, hs]
@[simp] theorem enterQuiesce_memOk (hs : s.memOk) : s.enterQuiesce.memOk := by simp [State.enterQuiesce, hs]
@[simp] theorem evQuiesce_memOk (hs : s.memOk) : OptOk s.evQuiesce := by simp [State.evQuiesce, hs]
@[simp] theorem evThermalQuiesce_memOk (hs : s.memOk) : OptOk s.evThermalQuiesce := by simp [State.evThermalQuiesce, hs]

@[simp] theorem evQuiesced_memOk (hs : s.memOk) : OptOk s.evQuiesced := by
  have ht := foldl_memOk (l := [0, 1, 2, 3]) (f := fun s d => s.drainDie d fun _ => true) (fun _ _ h => drainDie_memOk h)
    (arriveReduces_memOk (p := fun _ => true) (quiesceStrands_memOk hs))
  unfold State.evQuiesced
  extract_lets t
  split
  · exact optOk_none
  · exact (optOk_some _).2 (setPwr_memOk.2 (onPkg_memOk.2 ((memOk_mk ..).2 ht)))

@[simp] theorem liftCore_memOk {core : Nat} (hs : s.memOk) : (s.liftCore core).memOk := by
  refine foldl_memOk (fun t n ht => ?_) hs
  exact ite_memOk (getD_memOk (evLift_memOk ht) ht) (liftStrand_memOk.2 ht)

@[simp] theorem evRestart_memOk (hs : s.memOk) : OptOk s.evRestart := by simp +contextual [State.evRestart, hs]
@[simp] theorem evThermalRide_memOk (hs : s.memOk) : OptOk s.evThermalRide := by simp [State.evThermalRide, hs]
@[simp] theorem evThermalReturn_memOk (hs : s.memOk) : OptOk s.evThermalReturn := by simp [State.evThermalReturn, hs]

/-! ## The host, the mailbox and reset -/

@[simp] theorem hostMailboxWrite_memOk {off : Nat} {bs : List Byte} : (s.hostMailboxWrite off bs).memOk ↔ s.memOk := by
  simp [State.hostMailboxWrite]

@[simp] theorem hostLaunchWrite_memOk {off : Nat} {bs : List Byte} (hs : s.memOk) : (s.hostLaunchWrite off bs).memOk := by
  simp [State.hostLaunchWrite, hs]

@[simp] theorem hostMemWrite_memOk {pa : Nat} {bs : List Byte} (hs : s.memOk) : (s.hostMemWrite pa bs).memOk := by
  refine foldl_memOk (fun t p ht => ?_) hs
  refine ite_memOk ?_ ht
  split
  · exact storeBytes_memOk ht
  · exact markPoison_memOk.2 ht
  · exact ht

@[simp] theorem hostMemRead_memOk {pa n : Nat} (hs : s.memOk) : (s.hostMemRead pa n).1.memOk := by
  refine List.foldlRecOn (motive := fun r : State × List Byte => r.1.memOk) _ _ hs fun r hr p _ => ?_
  split
  · split
    · exact homeTouch_memOk hr
    · exact hr
  · exact hr

@[simp] theorem hostAnswer_memOk {bs : List Byte} : (s.hostAnswer bs).memOk ↔ s.memOk := Iff.rfl

@[simp] theorem evHost_memOk {write : Bool} {off len : Nat} {data : BitVec 512} (hs : s.memOk) : OptOk (s.evHost write off len data) := by
  simp [State.evHost, hs]

@[simp] theorem respond_memOk {status : Nat} : (s.respond status).memOk ↔ s.memOk := by simp [State.respond]

@[simp] theorem command_memOk {code : Nat} {f : State → State × Nat} (hs : s.memOk) (hf : ∀ t, t.memOk → (f t).1.memOk) :
    OptOk (s.command code f) := by simp +contextual [State.command, *]

@[simp] theorem evAttest_memOk {addr : Nat} {nonce : BitVec 256} (hs : s.memOk) : OptOk (s.evAttest addr nonce) := by
  refine command_memOk hs fun t ht => ?_
  dsimp only
  split
  · exact hostMemWrite_memOk ht
  · exact ht

@[simp] theorem evExtentAdd_memOk {off size : Nat} (hs : s.memOk) : OptOk (s.evExtentAdd off size) := by
  refine command_memOk hs fun t ht => ?_
  split
  · exact ht
  · split
    · exact ht
    · exact onPkg_memOk.2 ht

@[simp] theorem evExtentRel_memOk {off : Nat} (hs : s.memOk) : OptOk (s.evExtentRel off) := by
  unfold State.evExtentRel
  split
  · exact optOk_none
  · refine command_memOk hs fun t ht => ?_
    split
    · exact ht
    · refine onPkg_memOk.2 ((memOk_mk ..).2 ?_)
      exact foldl_memOk (fun u d hu => onDie_memOk.2 (drainDie_memOk hu)) ht

@[simp] theorem evSetvec_memOk {vec : Nat} {addr : Word} {data : BitVec 32} (hs : s.memOk) : OptOk (s.evSetvec vec addr data) := by
  unfold State.evSetvec
  split <;> simp [hs]

@[simp] theorem evMbxProfile_memOk {sel : BitVec 2} (hs : s.memOk) : OptOk (s.evMbxProfile sel) := by
  unfold State.evMbxProfile
  split <;> simp [hs]

@[simp] theorem evDebug_memOk {core : Nat} {stop : Bool} (hs : s.memOk) : OptOk (s.evDebug core stop) := by
  refine command_memOk hs fun t ht => ?_
  split
  · exact ht
  · exact onCore_memOk.2 ht

@[simp] theorem testBanks_memOk {l : List (Nat × Nat)} (hs : s.memOk) : (s.testBanks l).memOk :=
  foldl_memOk (fun _ _ h => getD_memOk (evSramFault_memOk h) h) hs

@[simp] theorem testPorts_memOk {t : SelfTestResult} : (s.testPorts t).memOk ↔ s.memOk := Iff.rfl
@[simp] theorem testLinks_memOk {l : List Nat} (hs : s.memOk) : (s.testLinks l).memOk := by simp [State.testLinks, hs]

@[simp] theorem selfTest_memOk {t : SelfTestResult} (hs : s.memOk) : (s.selfTest t).memOk := by
  have h1 := foldl_memOk (l := t.failedCores) (f := fun s c => (s.evCoreFailure c).getD s)
    (fun _ _ h => getD_memOk (evCoreFailure_memOk h) h) hs
  have h2 := testBanks_memOk (l := t.failedBanks) h1
  have h3 := foldl_memOk (l := t.failedL2) (f := fun s b => (s.evBankFailure b.1 b.2 []).getD s)
    (fun _ _ h => getD_memOk (evBankFailure_memOk h) h) h2
  have h4 := foldl_memOk (l := t.failedEngines) (f := fun s e => (s.evEngineLost e.1 e.2).getD s)
    (fun _ _ h => getD_memOk (evEngineLost_memOk h) h) h3
  have h5 := foldl_memOk (l := t.failedStacks)
    (f := fun s k => s.onDie k.1 fun d => { d with hbmStacks := d.hbmStacks - 1 }) (fun _ _ h => onDie_memOk.2 h) h4
  exact reHealth_memOk.2 (onPkg_memOk.2 (testLinks_memOk (testPorts_memOk.2 h5)))

@[simp] theorem evSelftest_memOk {t : SelfTestResult} (hs : s.memOk) : OptOk (s.evSelftest t) := by simp +contextual [State.evSelftest, hs]
@[simp] theorem evShock_memOk {milliG : Nat} : (s.evShock milliG).memOk ↔ s.memOk := by simp [State.evShock]
@[simp] theorem afterReset_memOk : s.afterReset.memOk := (memOk_mk ..).2 rfl
@[simp] theorem evLoss_memOk : s.evLoss.memOk := by simp [State.evLoss]

@[simp] theorem evPowerUp_memOk {images : List StageImage} {t : SelfTestResult} (hs : s.memOk) : OptOk (s.evPowerUp images t) := by
  simp [State.evPowerUp, hs]

@[simp] theorem evFuse_memOk {version : Nat} (hs : s.memOk) : OptOk (s.evFuse version) := by simp [State.evFuse, hs]

end Sys2Proof.Machine
end

section
/-! SUPPORT. The canonical form through every instruction and every step of the machine, and the statement about it. -/

namespace Sys2Proof.Machine

variable {s : State}

/-! ## What moves next -/

@[simp] theorem resumeFault_memOk {h first : Word} : (s.resumeFault h first).memOk ↔ s.memOk := by simp [State.resumeFault]

@[simp] theorem resumeAwait_memOk {d : BitVec 5} {h : Word} {st : Bool} (hs : s.memOk) : (s.resumeAwait d h st).memOk := by
  unfold State.resumeAwait
  split
  · next t i e => exact takeTrap_memOk (fst_memOk e (awaited_memOk hs))
  · next t e => exact settleAfter_memOk (fst_memOk e (awaited_memOk hs))

@[simp] theorem resumed_memOk {a : Resume} (hs : s.memOk) : (s.resumed a).memOk := by
  unfold State.resumed
  split <;> simp [hs]

@[simp] theorem bring_memOk {i : Image} (hs : s.memOk) : (s.bring i).memOk := by simp [State.bring, hs]

@[simp] theorem decide1_memOk (hs : s.memOk) : OptOk s.decide1 := by
  unfold State.decide1
  split
  · exact optOk_none
  · split
    · exact optOk_none
    · next t i rd e =>
      have ht : t.memOk := fst_memOk e (decideNow_memOk hs)
      refine optOk_ite ((optOk_some _).2 (charge_memOk hs)) ((optOk_some _).2 ?_)
      exact bring_memOk (replayTo_memOk.2 (logResume_memOk ht))

@[simp] theorem evResume_memOk {core : Nat} (hs : s.memOk) : OptOk (s.evResume core) :=
  optOk_map fun t e => focusOn_memOk.2 (decide1_memOk (focusOn_memOk.2 hs) t e)

@[simp] theorem evFlight_memOk {i : Nat} (hs : s.memOk) : OptOk (s.evFlight i) := by
  unfold State.evFlight
  repeat' split
  all_goals simp [hs]

theorem firstOf_memOk {n : Nat} {f : Nat → Option State} (hf : ∀ i, OptOk (f i)) : OptOk (firstOf n f) :=
  optOk_findSome fun i _ => hf i

theorem mem_of_earliestOf {α : Type} {l : List (α × Nat)} {x : α × Nat} (h : earliestOf l = some x) : x ∈ l := by
  induction l generalizing x with
  | nil => cases h
  | cons y ys ih =>
    unfold earliestOf at h
    split at h
    · next z hz =>
      split at h
      · cases h
        exact List.mem_cons_of_mem _ (ih hz)
      · cases h
        exact List.mem_cons_self
    · cases h
      exact List.mem_cons_self

theorem deliverable_memOk (hs : s.memOk) {p : State × Nat} (hp : p ∈ s.deliverable) : p.1.memOk := by
  obtain ⟨i, -, e⟩ := List.mem_filterMap.1 hp
  split at e
  · obtain ⟨u, hu, rfl⟩ := Option.map_eq_some_iff.1 e
    exact evFlight_memOk hs u hu
  · cases e

theorem matrixEnds_memOk (hs : s.memOk) {p : State × Nat} (hp : p ∈ s.matrixEnds) : p.1.memOk := by
  obtain ⟨c, -, e⟩ := List.mem_filterMap.1 hp
  split at e
  · obtain ⟨u, hu, rfl⟩ := Option.map_eq_some_iff.1 e
    exact evMatrix_memOk hs u hu
  · cases e

@[simp] theorem evDue_memOk (hs : s.memOk) : OptOk s.evDue := by
  refine optOk_map fun p hp => ?_
  obtain h | h := List.mem_append.1 (mem_of_earliestOf hp)
  · exact deliverable_memOk hs h
  · exact matrixEnds_memOk hs h

@[simp] theorem evExpired_memOk {c : Core} (hs : s.memOk) : OptOk (s.evExpired c) := by
  refine optOk_findSome fun i _ => ?_
  split
  · next t e => exact (optOk_some t).2 (evTableTimeout_memOk hs t e)
  · exact evWaitLimit_memOk hs

@[simp] theorem evCore_memOk {c : Core} (hs : s.memOk) : OptOk (s.evCore c) := by
  unfold State.evCore
  split
  · next t e => exact (optOk_some t).2 (evParkTimeout_memOk hs t e)
  · exact evExpired_memOk hs

@[simp] theorem evClock_memOk (hs : s.memOk) : OptOk s.evClock := by
  unfold State.evClock
  split
  · next t e => exact (optOk_some t).2 (evDue_memOk hs t e)
  · exact optOk_findSome fun c _ => evCore_memOk hs

@[simp] theorem evStreams_memOk {c : Core} (hs : s.memOk) : OptOk (s.evStreams c) := by
  unfold State.evStreams
  split
  · next t e => exact (optOk_some t).2 (firstOf_memOk (fun _ => evDrain_memOk hs) t e)
  · exact optOk_findSome fun t _ => optOk_findSome fun b _ => evFill_memOk hs

/-- The copies and the banks of a cluster. -/
theorem evCopies_memOk (hs : s.memOk) : OptOk (s.clusters.findSome? fun c => match firstOf c.copies.length (s.evCopy c.id) with
    | some t => some t
    | none => s.evBankMode c.id) := by
  refine optOk_findSome fun c _ => ?_
  split
  · next t e => exact (optOk_some t).2 (firstOf_memOk (fun _ => evCopy_memOk hs) t e)
  · exact evBankMode_memOk hs

/-- The Moraine units of the dies. -/
theorem evMoraines_memOk (hs : s.memOk) : OptOk (firstOf 4 fun d => match s.evMoraine d with
    | some t => some t
    | none => firstOf (s.dieAt d).ssOps.length (s.evMovement d)) := by
  refine firstOf_memOk fun d => ?_
  split
  · next t e => exact (optOk_some t).2 (evMoraine_memOk hs t e)
  · exact firstOf_memOk fun _ => evMovement_memOk hs

@[simp] theorem evUnits_memOk (hs : s.memOk) : OptOk s.evUnits := by
  unfold State.evUnits
  split
  · next t e => exact (optOk_some t).2 (evCopies_memOk hs t e)
  split
  · next t e => exact (optOk_some t).2 (evMoraines_memOk hs t e)
  split
  · next t e => exact (optOk_some t).2 (evRequest_memOk hs t e)
  split
  · next t e => exact (optOk_some t).2 (evResponse_memOk hs t e)
  · exact evHint_memOk hs

@[simp] theorem evLaunches_memOk (hs : s.memOk) : OptOk s.evLaunches := by
  unfold State.evLaunches
  split
  · next t e => exact (optOk_some t).2 (evAdmit_memOk hs t e)
  refine optOk_findSome fun l _ => ?_
  split
  · next t e => exact (optOk_some t).2 (evItem_memOk hs t e)
  split
  · next t e => exact (optOk_some t).2 (evFinish_memOk hs t e)
  · exact evCancel_memOk hs

/-- The steps of the migrations. -/
theorem evMigrations_memOk (hs : s.memOk) : OptOk (firstOf s.pkg.migrations.length fun i => match s.evMigStep i with
    | some t => some t
    | none => s.evMigFinish i) := by
  refine firstOf_memOk fun i => ?_
  split
  · next t e => exact (optOk_some t).2 (evMigStep_memOk hs t e)
  · exact evMigFinish_memOk hs

@[simp] theorem evPages_memOk (hs : s.memOk) : OptOk s.evPages := by
  unfold State.evPages
  split
  · next t e => exact (optOk_some t).2 (evBatch_memOk hs t e)
  split
  · next t e => exact (optOk_some t).2 (evMigrations_memOk hs t e)
  split
  · next t e => exact (optOk_some t).2 (evMigStart_memOk hs t e)
  split
  · next t e => exact (optOk_some t).2 (evDumpPage_memOk hs t e)
  split
  · next t e => exact (optOk_some t).2 (evDumpDone_memOk hs t e)
  · exact evDumpStart_memOk hs

@[simp] theorem internal_memOk (hs : s.memOk) : OptOk s.internal := by
  unfold State.internal
  split
  · next t e => exact (optOk_some t).2 (firstOf_memOk (fun _ => evFlight_memOk hs) t e)
  split
  · next t e => exact (optOk_some t).2 (optOk_findSome (fun c _ => evStreams_memOk hs) t e)
  split
  · next t e => exact (optOk_some t).2 (evUnits_memOk hs t e)
  split
  · next t e => exact (optOk_some t).2 (evLaunches_memOk hs t e)
  split
  · next t e => exact (optOk_some t).2 (evPages_memOk hs t e)
  · exact firstOf_memOk fun _ => evEngineFault_memOk hs

@[simp] theorem idleSlot_memOk (hs : s.memOk) : s.idleSlot.memOk := by simp [State.idleSlot, hs]
@[simp] theorem stolenSlot_memOk (hs : s.memOk) : s.stolenSlot.memOk := by simp [State.stolenSlot, hs]

@[simp] theorem vacant_memOk (hs : s.memOk) : s.vacant.memOk := by
  unfold State.vacant
  split
  · next t e => exact evSlotFreed_memOk hs t e
  split
  · next t e => exact decide1_memOk hs t e
  split
  · next t e => exact internal_memOk hs t e
  · exact idleSlot_memOk ((memOk_mk ..).2 hs)

@[simp] theorem between_memOk (hs : s.memOk) : OutOk s.between := by
  unfold State.between
  split
  · exact outOk_fault _
  split
  · exact outOk_fault _
  refine (outOk_next _).2 ?_
  split
  · next t e => exact evClock_memOk hs t e
  refine ite_memOk (getD_memOk (evDebugStop_memOk hs) hs) (ite_memOk (stolenSlot_memOk hs) (ite_memOk (vacant_memOk hs) ?_))
  split
  · next t e => exact evTrap_memOk hs t e
  · exact getD_memOk (internal_memOk hs) (idleSlot_memOk hs)

@[simp] theorem grantAll_memOk (hs : s.memOk) : s.grantAll.memOk := by simp +contextual [State.grantAll, hs]

@[simp] theorem drift_memOk (hs : s.memOk) : s.drift.memOk :=
  ite_memOk hs (foldl_memOk (fun _ _ h => driftDie_memOk h) (foldl_memOk (fun _ _ h => driftCluster_memOk h) hs))

@[simp] theorem afterStep_memOk {o : Out} (ho : OutOk o) : OutOk (afterStep o) := by
  cases o with
  | next s => exact (outOk_next _).2 (endModes_memOk (drift_memOk (watchDeps_memOk (grantAll_memOk ((outOk_next s).1 ho)))))
  | refused r => exact outOk_refused r
  | fault f => exact outOk_fault f

/-! ## Shapes, masks, moves and permutations -/

@[simp] theorem maskWord_memOk {st : Bool} {d a b : BitVec 5} {f : BitVec 8192 → BitVec 8192 → BitVec 8192} (hs : s.memOk) :
    OutOk (maskWord st d a b f s) := by simp +contextual [maskWord, hs]

@[simp] theorem maskToG_memOk {st : Bool} {d a : BitVec 5} {f : List Nat → Word} (hs : s.memOk) : OutOk (maskToG st d a f s) := by
  simp +contextual [maskToG, hs]

@[simp] theorem maskPrefix_memOk {st : Bool} {d a : BitVec 5} {f : Nat → Nat → Bool} (hs : s.memOk) : OutOk (maskPrefix st d a f s) := by
  simp +contextual [maskPrefix, hs]

@[simp] theorem execMscan_memOk {st : Bool} {d a : BitVec 5} (hs : s.memOk) : OutOk (execMscan st d a s) :=
  issue_memOk hs fun _ ht => vecCheck_memOk ht (enqueue_memOk (putElems_memOk.2 ht))

@[simp] theorem putScaleReg_memOk {d : BitVec 3} {f : VFile → CReg} : (s.putScaleReg d f).memOk ↔ s.memOk := Iff.rfl

@[simp] theorem vecMove_memOk {typeOk shapeOk : Bool} {reads : List (BitVec 5 × List Nat)} {d : BitVec 5} {q : VQ}
    {es : State → List (Nat × Nat)} (hs : s.memOk) :
    (s.vecMove typeOk shapeOk reads d q es).memOk := by simp [State.vecMove, hs]

@[simp] theorem execVext_memOk {st : Bool} {d a b : BitVec 5} (hs : s.memOk) : OutOk (execVext st d a b s) :=
  issue_memOk hs fun _ ht => vecCheck_memOk ht (enqueue_memOk (wg_memOk.2 ht))

@[simp] theorem gatherWord_memOk {st : Bool} {g v : List (BitVec 5)} {shapeOk : State → Bool} {lam k extra : Nat} {d a : BitVec 5}
    {m : BitVec 4} {x : Bool} {src : State → Nat → Option Nat} {fill : State → Nat} {all : Bool} (hs : s.memOk) :
    OutOk (gatherWord st g v shapeOk lam k extra d a m x src fill s all) := by simp +contextual [gatherWord, hs]

@[simp] theorem execVtrn_memOk {st : Bool} {d a : BitVec 5} {m : BitVec 4} (hs : s.memOk) : OutOk (execVtrn st d a m s) :=
  issue_memOk hs fun _ ht => vecCheck_memOk ht (onSp_memOk.2 (enqueue_memOk (onCur_memOk.2 ht)))

/-! ## Reductions and the online softmax -/

@[simp] theorem putCells_memOk {d : BitVec 5} {w : Nat} {es : List (Nat × Nat × Nat)} : (s.putCells d w es).memOk ↔ s.memOk := Iff.rfl

@[simp] theorem vecRed_memOk {o : RedOp} {d a : BitVec 5} {m : BitVec 4} {x row : Bool} (hs : s.memOk) : (s.vecRed o d a m x row).memOk := by
  simp [State.vecRed, hs]

@[simp] theorem redWord_memOk {st : Bool} {o : RedOp} {d a : BitVec 5} {m : BitVec 4} {x r : Bool} (hs : s.memOk) :
    OutOk (redWord st o d a m x r s) := by simp +contextual [redWord, hs]

@[simp] theorem execVsmx_memOk {st : Bool} {d a b : BitVec 5} {m : BitVec 4} {x : Bool} (hs : s.memOk) :
    OutOk (execVsmx st d a b m x s) := by
  refine issue_memOk hs fun t ht => ?_
  dsimp only
  split
  · exact raise_memOk ht
  split
  · exact ht
  · exact vecFinish_memOk ht (putCells_memOk.2 (putCells_memOk.2 ht))

@[simp] theorem execVsmg_memOk {st : Bool} {d a : BitVec 5} (hs : s.memOk) : OutOk (execVsmg st d a s) := by
  refine issue_memOk hs fun t ht => ?_
  split
  · exact raise_memOk ht
  split
  · exact ht
  · exact vecFinish_memOk ht (putCells_memOk.2 (putCells_memOk.2 ht))

@[simp] theorem execVsmf_memOk {st : Bool} {d a : BitVec 5} (hs : s.memOk) : OutOk (execVsmf st d a s) := by
  refine issue_memOk hs fun t ht => ?_
  split
  · exact raise_memOk ht
  split
  · exact ht
  · have hw (u v) : ((t.putCells d 32 u).putCells a 32 v).memOk := putCells_memOk.2 (putCells_memOk.2 ht)
    exact vecFinish_memOk ht (ite_memOk (captureXm_memOk.2 (hw _ _)) (hw _ _))

/-! ## The dispatch -/

@[simp] theorem execDeviceReset_memOk : OutOk (execDeviceReset s) := by simp [execDeviceReset]
@[simp] theorem execSupplyLoss_memOk : OutOk (execSupplyLoss s) := by simp [execSupplyLoss]

section Instructions
/-! The instructions that are one frame, one event or one short body. -/

variable {st x r g n : Bool} {k : BitVec 2} {o p c : BitVec 3} {m : BitVec 4} {d a b : BitVec 5} {h : BitVec 6} {e : BitVec 32}
  {core i strand cluster die off launch : Nat} (hs : s.memOk)

include hs

@[simp] theorem execLdI8_memOk {o : BitVec 12} : OutOk (execLdI8 st d a o s) := loadWord_memOk hs
@[simp] theorem execLdN8_memOk {o : BitVec 12} : OutOk (execLdN8 st d a o s) := loadWord_memOk hs
@[simp] theorem execLdI16_memOk {o : BitVec 12} : OutOk (execLdI16 st d a o s) := loadWord_memOk hs
@[simp] theorem execLdN16_memOk {o : BitVec 12} : OutOk (execLdN16 st d a o s) := loadWord_memOk hs
@[simp] theorem execLdI32_memOk {o : BitVec 12} : OutOk (execLdI32 st d a o s) := loadWord_memOk hs
@[simp] theorem execLdN32_memOk {o : BitVec 12} : OutOk (execLdN32 st d a o s) := loadWord_memOk hs
@[simp] theorem execLdp_memOk {w : BitVec 2} {o : BitVec 13} : OutOk (execLdp st d w o s) := by simp +contextual [execLdp, hs]
@[simp] theorem execSt8_memOk {o : BitVec 13} : OutOk (execSt8 st d a o s) := storeWord_memOk hs
@[simp] theorem execSt16_memOk {o : BitVec 13} : OutOk (execSt16 st d a o s) := storeWord_memOk hs
@[simp] theorem execSt32_memOk {o : BitVec 13} : OutOk (execSt32 st d a o s) := storeWord_memOk hs
@[simp] theorem execAmoadd_memOk : OutOk (execAmoadd st d a b p o s) := amoWord_memOk hs
@[simp] theorem execAmoand_memOk : OutOk (execAmoand st d a b p o s) := amoWord_memOk hs
@[simp] theorem execAmoor_memOk : OutOk (execAmoor st d a b p o s) := amoWord_memOk hs
@[simp] theorem execAmoxor_memOk : OutOk (execAmoxor st d a b p o s) := amoWord_memOk hs
@[simp] theorem execAmomin_memOk : OutOk (execAmomin st d a b p o s) := amoWord_memOk hs
@[simp] theorem execAmomax_memOk : OutOk (execAmomax st d a b p o s) := amoWord_memOk hs
@[simp] theorem execAmominn_memOk : OutOk (execAmominn st d a b p o s) := amoWord_memOk hs
@[simp] theorem execAmomaxn_memOk : OutOk (execAmomaxn st d a b p o s) := amoWord_memOk hs
@[simp] theorem execAmoswap_memOk : OutOk (execAmoswap st d a b p o s) := amoWord_memOk hs
@[simp] theorem execAmofadd32_memOk : OutOk (execAmofadd32 st d a b p o s) := amoFp_memOk hs
@[simp] theorem execAmofmax32_memOk : OutOk (execAmofmax32 st d a b p o s) := amoFp_memOk hs
@[simp] theorem execCas_memOk : OutOk (execCas st d a b p o s) := by simp +contextual [execCas, hs]
@[simp] theorem execFence_memOk {c : BitVec 3} {k : BitVec 4} : OutOk (execFence st c k s) := by simp +contextual [execFence, hs]
@[simp] theorem execPendingResultReturn_memOk : OutOk (execPendingResultReturn core i s) := evOut_memOk (evPending_memOk hs)
@[simp] theorem execLdqReply_memOk : OutOk (execLdqReply i s) := evOut_memOk (evReply_memOk hs)
@[simp] theorem execTokenSignalArrival_memOk : OutOk (execTokenSignalArrival i s) := evOut_memOk (evSignal_memOk hs)
@[simp] theorem execTokenFailArrival_memOk : OutOk (execTokenFailArrival i s) := evOut_memOk (evFail_memOk hs)
@[simp] theorem execDepositArrival_memOk : OutOk (execDepositArrival i s) := evOut_memOk (evDeposit_memOk hs)
@[simp] theorem execWaiterWake_memOk : OutOk (execWaiterWake i s) := evOut_memOk (evWake_memOk hs)
@[simp] theorem execWaiterTableTimeout_memOk : OutOk (execWaiterTableTimeout core strand s) := evOut_memOk (evTableTimeout_memOk hs)
@[simp] theorem execWaitLimitExpiry_memOk : OutOk (execWaitLimitExpiry core strand s) := evOut_memOk (evWaitLimit_memOk hs)
@[simp] theorem execHopArrival_memOk : OutOk (execHopArrival i s) := evOut_memOk (evHop_memOk hs)
@[simp] theorem execWrs_memOk {x : BitVec 12} : OutOk (execWrs st a x s) := by simp +contextual [execWrs, hs]
@[simp] theorem execWrsVtype_memOk : OutOk (execWrsVtype st a s) := by simp +contextual [execWrsVtype, hs]
@[simp] theorem execWrsCclimit_memOk : OutOk (execWrsCclimit st a s) := by simp +contextual [execWrsCclimit, hs]
@[simp] theorem execWrsSlotpol_memOk : OutOk (execWrsSlotpol st a s) := by simp +contextual [execWrsSlotpol, hs]
@[simp] theorem execWrsRedcfg_memOk : OutOk (execWrsRedcfg st a s) := by simp +contextual [execWrsRedcfg, hs]
@[simp] theorem execWrsProfile_memOk : OutOk (execWrsProfile st a s) := by simp +contextual [execWrsProfile, hs]
@[simp] theorem execWrsTrptr_memOk : OutOk (execWrsTrptr st a s) := by simp +contextual [execWrsTrptr, hs]
@[simp] theorem execWrsMigdoor_memOk : OutOk (execWrsMigdoor st a s) := by simp [execWrsMigdoor, hs]
@[simp] theorem execWrsDumpdoor_memOk : OutOk (execWrsDumpdoor st a s) := by simp [execWrsDumpdoor, hs]
@[simp] theorem execCflush_memOk : OutOk (execCflush st a b s) := by simp +contextual [execCflush, hs]
@[simp] theorem execCinv_memOk : OutOk (execCinv st a b s) := by simp +contextual [execCinv, hs]
@[simp] theorem execPref_memOk : OutOk (execPref st a b s) := by simp +contextual [execPref, hs]
@[simp] theorem execVadd_memOk : OutOk (execVadd st d a b m x s) := vecWord_memOk hs
@[simp] theorem execVaddG_memOk : OutOk (execVaddG st d a b m x s) := vecWord_memOk hs
@[simp] theorem execVsub_memOk : OutOk (execVsub st d a b m x s) := vecWord_memOk hs
@[simp] theorem execVsubG_memOk : OutOk (execVsubG st d a b m x s) := vecWord_memOk hs
@[simp] theorem execVmul_memOk : OutOk (execVmul st d a b m x s) := vecWord_memOk hs
@[simp] theorem execVmulG_memOk : OutOk (execVmulG st d a b m x s) := vecWord_memOk hs
@[simp] theorem execVmulh_memOk : OutOk (execVmulh st d a b m x s) := vecWord_memOk hs
@[simp] theorem execVmulhG_memOk : OutOk (execVmulhG st d a b m x s) := vecWord_memOk hs
@[simp] theorem execVmulhn_memOk : OutOk (execVmulhn st d a b m x s) := vecWord_memOk hs
@[simp] theorem execVmulhnG_memOk : OutOk (execVmulhnG st d a b m x s) := vecWord_memOk hs
@[simp] theorem execVmin_memOk : OutOk (execVmin st d a b m x s) := vecWord_memOk hs
@[simp] theorem execVminG_memOk : OutOk (execVminG st d a b m x s) := vecWord_memOk hs
@[simp] theorem execVmax_memOk : OutOk (execVmax st d a b m x s) := vecWord_memOk hs
@[simp] theorem execVmaxG_memOk : OutOk (execVmaxG st d a b m x s) := vecWord_memOk hs
@[simp] theorem execVminn_memOk : OutOk (execVminn st d a b m x s) := vecWord_memOk hs
@[simp] theorem execVminnG_memOk : OutOk (execVminnG st d a b m x s) := vecWord_memOk hs
@[simp] theorem execVmaxn_memOk : OutOk (execVmaxn st d a b m x s) := vecWord_memOk hs
@[simp] theorem execVmaxnG_memOk : OutOk (execVmaxnG st d a b m x s) := vecWord_memOk hs
@[simp] theorem execVand_memOk : OutOk (execVand st d a b m x s) := vecWord_memOk hs
@[simp] theorem execVandG_memOk : OutOk (execVandG st d a b m x s) := vecWord_memOk hs
@[simp] theorem execVor_memOk : OutOk (execVor st d a b m x s) := vecWord_memOk hs
@[simp] theorem execVorG_memOk : OutOk (execVorG st d a b m x s) := vecWord_memOk hs
@[simp] theorem execVxor_memOk : OutOk (execVxor st d a b m x s) := vecWord_memOk hs
@[simp] theorem execVxorG_memOk : OutOk (execVxorG st d a b m x s) := vecWord_memOk hs
@[simp] theorem execVshl_memOk : OutOk (execVshl st d a b m x s) := vecWord_memOk hs
@[simp] theorem execVshlG_memOk : OutOk (execVshlG st d a b m x s) := vecWord_memOk hs
@[simp] theorem execVshr_memOk : OutOk (execVshr st d a b m x s) := vecWord_memOk hs
@[simp] theorem execVshrG_memOk : OutOk (execVshrG st d a b m x s) := vecWord_memOk hs
@[simp] theorem execVsra_memOk : OutOk (execVsra st d a b m x s) := vecWord_memOk hs
@[simp] theorem execVsraG_memOk : OutOk (execVsraG st d a b m x s) := vecWord_memOk hs
@[simp] theorem execVrshr_memOk : OutOk (execVrshr st d a b m x s) := vecWord_memOk hs
@[simp] theorem execVrshrG_memOk : OutOk (execVrshrG st d a b m x s) := vecWord_memOk hs
@[simp] theorem execVrnshr_memOk : OutOk (execVrnshr st d a b m x s) := vecWord_memOk hs
@[simp] theorem execVrnshrG_memOk : OutOk (execVrnshrG st d a b m x s) := vecWord_memOk hs
@[simp] theorem execVadds_memOk : OutOk (execVadds st d a b m x s) := vecWord_memOk hs
@[simp] theorem execVaddsG_memOk : OutOk (execVaddsG st d a b m x s) := vecWord_memOk hs
@[simp] theorem execVsubs_memOk : OutOk (execVsubs st d a b m x s) := vecWord_memOk hs
@[simp] theorem execVsubsG_memOk : OutOk (execVsubsG st d a b m x s) := vecWord_memOk hs
@[simp] theorem execVmac_memOk : OutOk (execVmac st d a b m x s) := vecWord_memOk hs
@[simp] theorem execVmacG_memOk : OutOk (execVmacG st d a b m x s) := vecWord_memOk hs
@[simp] theorem execVdot2_memOk : OutOk (execVdot2 st d a b m x s) := dotWord_memOk hs
@[simp] theorem execVdot2G_memOk : OutOk (execVdot2G st d a b m x s) := dotWord_memOk hs
@[simp] theorem execVdot4_memOk : OutOk (execVdot4 st d a b m x s) := dotWord_memOk hs
@[simp] theorem execVdot4G_memOk : OutOk (execVdot4G st d a b m x s) := dotWord_memOk hs
@[simp] theorem execVabs_memOk : OutOk (execVabs st d a m x s) := vecWord_memOk hs
@[simp] theorem execVavg_memOk : OutOk (execVavg st d a b m x s) := vecWord_memOk hs
@[simp] theorem execVavgG_memOk : OutOk (execVavgG st d a b m x s) := vecWord_memOk hs
@[simp] theorem execVwmul_memOk : OutOk (execVwmul st d a b m x s) := vecWord_memOk hs
@[simp] theorem execVwmulG_memOk : OutOk (execVwmulG st d a b m x s) := vecWord_memOk hs
@[simp] theorem execVwadd_memOk : OutOk (execVwadd st d a b m x s) := vecWord_memOk hs
@[simp] theorem execVwaddG_memOk : OutOk (execVwaddG st d a b m x s) := vecWord_memOk hs
@[simp] theorem execVcvt_memOk {t : BitVec 5} {u : Bool} : OutOk (execVcvt st d a t m x r u c s) := by simp +contextual [execVcvt, hs]
@[simp] theorem execVfadd_memOk : OutOk (execVfadd st d a b m x s) := vecWord_memOk hs
@[simp] theorem execVfaddG_memOk : OutOk (execVfaddG st d a b m x s) := vecWord_memOk hs
@[simp] theorem execVfsub_memOk : OutOk (execVfsub st d a b m x s) := vecWord_memOk hs
@[simp] theorem execVfsubG_memOk : OutOk (execVfsubG st d a b m x s) := vecWord_memOk hs
@[simp] theorem execVfmul_memOk : OutOk (execVfmul st d a b m x s) := vecWord_memOk hs
@[simp] theorem execVfmulG_memOk : OutOk (execVfmulG st d a b m x s) := vecWord_memOk hs
@[simp] theorem execVfma_memOk : OutOk (execVfma st d a b m x s) := vecWord_memOk hs
@[simp] theorem execVfmaG_memOk : OutOk (execVfmaG st d a b m x s) := vecWord_memOk hs
@[simp] theorem execVfms_memOk : OutOk (execVfms st d a b m x s) := vecWord_memOk hs
@[simp] theorem execVfmsG_memOk : OutOk (execVfmsG st d a b m x s) := vecWord_memOk hs
@[simp] theorem execVfdiv_memOk : OutOk (execVfdiv st d a b m x s) := vecWord_memOk hs
@[simp] theorem execVfdivG_memOk : OutOk (execVfdivG st d a b m x s) := vecWord_memOk hs
@[simp] theorem execVfmin_memOk : OutOk (execVfmin st d a b m x s) := vecWord_memOk hs
@[simp] theorem execVfminG_memOk : OutOk (execVfminG st d a b m x s) := vecWord_memOk hs
@[simp] theorem execVfmax_memOk : OutOk (execVfmax st d a b m x s) := vecWord_memOk hs
@[simp] theorem execVfmaxG_memOk : OutOk (execVfmaxG st d a b m x s) := vecWord_memOk hs
@[simp] theorem execVfsgnj_memOk : OutOk (execVfsgnj st d a b m x s) := vecWord_memOk hs
@[simp] theorem execVfsgnjG_memOk : OutOk (execVfsgnjG st d a b m x s) := vecWord_memOk hs
@[simp] theorem execVfsqrt_memOk : OutOk (execVfsqrt st d a m x s) := vecWord_memOk hs
@[simp] theorem execVfabs_memOk : OutOk (execVfabs st d a m x s) := vecWord_memOk hs
@[simp] theorem execVfneg_memOk : OutOk (execVfneg st d a m x s) := vecWord_memOk hs
@[simp] theorem execVfexp2_memOk : OutOk (execVfexp2 st d a m x s) := vecWord_memOk hs
@[simp] theorem execVflog2_memOk : OutOk (execVflog2 st d a m x s) := vecWord_memOk hs
@[simp] theorem execVfrcp_memOk : OutOk (execVfrcp st d a m x s) := vecWord_memOk hs
@[simp] theorem execVfrsq_memOk : OutOk (execVfrsq st d a m x s) := vecWord_memOk hs
@[simp] theorem execVfclass_memOk : OutOk (execVfclass st d a m x s) := vecWord_memOk hs
@[simp] theorem execVcmpeq_memOk : OutOk (execVcmpeq st d a b m x g s) := cmpWord_memOk hs
@[simp] theorem execVcmpne_memOk : OutOk (execVcmpne st d a b m x g s) := cmpWord_memOk hs
@[simp] theorem execVcmplt_memOk : OutOk (execVcmplt st d a b m x g s) := cmpWord_memOk hs
@[simp] theorem execVcmpge_memOk : OutOk (execVcmpge st d a b m x g s) := cmpWord_memOk hs
@[simp] theorem execVcmpltn_memOk : OutOk (execVcmpltn st d a b m x g s) := cmpWord_memOk hs
@[simp] theorem execVcmpgen_memOk : OutOk (execVcmpgen st d a b m x g s) := cmpWord_memOk hs
@[simp] theorem execVcmpfeq_memOk : OutOk (execVcmpfeq st d a b m x g s) := cmpWord_memOk hs
@[simp] theorem execVcmpfne_memOk : OutOk (execVcmpfne st d a b m x g s) := cmpWord_memOk hs
@[simp] theorem execVcmpflt_memOk : OutOk (execVcmpflt st d a b m x g s) := cmpWord_memOk hs
@[simp] theorem execVcmpfge_memOk : OutOk (execVcmpfge st d a b m x g s) := cmpWord_memOk hs
@[simp] theorem execVcmpfun_memOk : OutOk (execVcmpfun st d a b m x g s) := cmpWord_memOk hs
@[simp] theorem execVld_memOk : OutOk (execVld st d a b m x c s) := by simp +contextual [execVld, hs]
@[simp] theorem execVlds_memOk : OutOk (execVlds st d a b m x c s) := by simp +contextual [execVlds, hs]
@[simp] theorem execVldff_memOk : OutOk (execVldff st d a b m x c s) := by simp +contextual [execVldff, hs]
@[simp] theorem execVst_memOk : OutOk (execVst st d a b m x c s) := by simp +contextual [execVst, hs]
@[simp] theorem execVsts_memOk : OutOk (execVsts st d a b m x c s) := by simp +contextual [execVsts, hs]
@[simp] theorem execMld_memOk : OutOk (execMld st d a s) := by simp +contextual [execMld, hs]
@[simp] theorem execCld_memOk : OutOk (execCld st d a s) := by simp +contextual [execCld, hs]
@[simp] theorem execSq_memOk : OutOk (execSq st d a s) := by simp [execSq, hs]
@[simp] theorem execUngang_memOk : OutOk (execUngang st s) := by simp +contextual [execUngang, hs]
@[simp] theorem execBarrierArrival_memOk : OutOk (execBarrierArrival i s) := evOut_memOk (evBarrier_memOk hs)
@[simp] theorem execBarrierCellError_memOk {level unit cell : Nat} : OutOk (execBarrierCellError level unit cell s) :=
  evOut_memOk (evBarError_memOk hs)
@[simp] theorem execItem_memOk : OutOk (execItem st d a s) := by simp +contextual [execItem, hs]
@[simp] theorem execCouloirPublicationDelivery_memOk : OutOk (execCouloirPublicationDelivery i s) := evOut_memOk (evPublication_memOk hs)
@[simp] theorem execAcctrd_memOk : OutOk (execAcctrd st d a s) := by simp [execAcctrd, hs]
@[simp] theorem execAdd_memOk : OutOk (execAdd st d a b k n s) := scalarRR_memOk hs
@[simp] theorem execSub_memOk : OutOk (execSub st d a b k n s) := scalarRR_memOk hs
@[simp] theorem execAnd_memOk : OutOk (execAnd st d a b k n s) := scalarRR_memOk hs
@[simp] theorem execOr_memOk : OutOk (execOr st d a b k n s) := scalarRR_memOk hs
@[simp] theorem execXor_memOk : OutOk (execXor st d a b k n s) := scalarRR_memOk hs
@[simp] theorem execAndn_memOk : OutOk (execAndn st d a b k n s) := scalarRR_memOk hs
@[simp] theorem execOrn_memOk : OutOk (execOrn st d a b k n s) := scalarRR_memOk hs
@[simp] theorem execShl_memOk : OutOk (execShl st d a b k n s) := scalarRR_memOk hs
@[simp] theorem execShr_memOk : OutOk (execShr st d a b k n s) := scalarRR_memOk hs
@[simp] theorem execSra_memOk : OutOk (execSra st d a b k n s) := scalarRR_memOk hs
@[simp] theorem execRot_memOk : OutOk (execRot st d a b k n s) := scalarRR_memOk hs
@[simp] theorem execMin_memOk : OutOk (execMin st d a b k n s) := scalarRR_memOk hs
@[simp] theorem execMax_memOk : OutOk (execMax st d a b k n s) := scalarRR_memOk hs
@[simp] theorem execMinn_memOk : OutOk (execMinn st d a b k n s) := scalarRR_memOk hs
@[simp] theorem execMaxn_memOk : OutOk (execMaxn st d a b k n s) := scalarRR_memOk hs
@[simp] theorem execMul_memOk : OutOk (execMul st d a b k n s) := scalarMul_memOk hs
@[simp] theorem execMulh_memOk : OutOk (execMulh st d a b k n s) := scalarMul_memOk hs
@[simp] theorem execMulhn_memOk : OutOk (execMulhn st d a b k n s) := scalarMul_memOk hs
@[simp] theorem execDiv_memOk : OutOk (execDiv st d a b k n s) := scalarDiv_memOk hs
@[simp] theorem execDivn_memOk : OutOk (execDivn st d a b k n s) := scalarDiv_memOk hs
@[simp] theorem execRem_memOk : OutOk (execRem st d a b k n s) := scalarDiv_memOk hs
@[simp] theorem execRemn_memOk : OutOk (execRemn st d a b k n s) := scalarDiv_memOk hs
@[simp] theorem execClz_memOk : OutOk (execClz st d a k n s) := scalarR_memOk hs
@[simp] theorem execCtz_memOk : OutOk (execCtz st d a k n s) := scalarR_memOk hs
@[simp] theorem execPopc_memOk : OutOk (execPopc st d a k n s) := scalarR_memOk hs
@[simp] theorem execSext_memOk : OutOk (execSext st d a b k n s) := scalarRR_memOk hs
@[simp] theorem execZext_memOk : OutOk (execZext st d a b k n s) := scalarRR_memOk hs
@[simp] theorem execSel_memOk : OutOk (execSel st d a b k n s) := by simp +contextual [execSel, hs]
@[simp] theorem execAddi_memOk {i : BitVec 15} : OutOk (execAddi st d a i s) := scalarI_memOk hs
@[simp] theorem execAndi_memOk {i : BitVec 15} : OutOk (execAndi st d a i s) := scalarI_memOk hs
@[simp] theorem execOri_memOk {i : BitVec 15} : OutOk (execOri st d a i s) := scalarI_memOk hs
@[simp] theorem execXori_memOk {i : BitVec 15} : OutOk (execXori st d a i s) := scalarI_memOk hs
@[simp] theorem execShli_memOk : OutOk (execShli st d a h s) := scalarI_memOk hs
@[simp] theorem execShri_memOk : OutOk (execShri st d a h s) := scalarI_memOk hs
@[simp] theorem execSrai_memOk : OutOk (execSrai st d a h s) := scalarI_memOk hs
@[simp] theorem execRoti_memOk : OutOk (execRoti st d a h s) := scalarI_memOk hs
@[simp] theorem execLi_memOk {i : BitVec 20} : OutOk (execLi st d i s) := by simp [execLi, hs]
@[simp] theorem execLsh_memOk {i : BitVec 20} : OutOk (execLsh st d i s) := by simp [execLsh, hs]
@[simp] theorem execAddpc_memOk {i : BitVec 20} : OutOk (execAddpc st d i s) := by simp [execAddpc, hs]
@[simp] theorem execLix_memOk : OutOk (execLix st d e s) := by simp [execLix, hs]
@[simp] theorem execLixh_memOk : OutOk (execLixh st d e s) := by simp [execLixh, hs]
@[simp] theorem execSeteq_memOk : OutOk (execSeteq st d a b k n s) := scalarRR_memOk hs
@[simp] theorem execSetne_memOk : OutOk (execSetne st d a b k n s) := scalarRR_memOk hs
@[simp] theorem execSetlt_memOk : OutOk (execSetlt st d a b k n s) := scalarRR_memOk hs
@[simp] theorem execSetge_memOk : OutOk (execSetge st d a b k n s) := scalarRR_memOk hs
@[simp] theorem execSetltn_memOk : OutOk (execSetltn st d a b k n s) := scalarRR_memOk hs
@[simp] theorem execSetgen_memOk : OutOk (execSetgen st d a b k n s) := scalarRR_memOk hs
@[simp] theorem execSeteqi_memOk {i : BitVec 12} : OutOk (execSeteqi st d a i s) := scalarI_memOk hs
@[simp] theorem execSetnei_memOk {i : BitVec 12} : OutOk (execSetnei st d a i s) := scalarI_memOk hs
@[simp] theorem execSetlti_memOk {i : BitVec 12} : OutOk (execSetlti st d a i s) := scalarI_memOk hs
@[simp] theorem execSetgei_memOk {i : BitVec 12} : OutOk (execSetgei st d a i s) := scalarI_memOk hs
@[simp] theorem execSetltni_memOk {i : BitVec 12} : OutOk (execSetltni st d a i s) := scalarI_memOk hs
@[simp] theorem execSetgeni_memOk {i : BitVec 12} : OutOk (execSetgeni st d a i s) := scalarI_memOk hs
@[simp] theorem execBfx_memOk {p w : BitVec 6} : OutOk (execBfx st d a p w s) := scalarI_memOk hs
@[simp] theorem execBfi_memOk {p w : BitVec 6} : OutOk (execBfi st d a p w s) := by simp [execBfi, hs]
@[simp] theorem execAdda_memOk : OutOk (execAdda st d a b k n s) := scalarRR_memOk hs
@[simp] theorem execTagset_memOk : OutOk (execTagset st d a b k n s) := scalarRR_memOk hs
@[simp] theorem execTagget_memOk : OutOk (execTagget st d a k n s) := scalarR_memOk hs
@[simp] theorem execPdiff_memOk : OutOk (execPdiff st d a b k n s) := scalarRR_memOk hs
@[simp] theorem execBeqz_memOk {o : BitVec 16} : OutOk (execBeqz st a o s) := branchZ_memOk hs
@[simp] theorem execBnez_memOk {o : BitVec 16} : OutOk (execBnez st a o s) := branchZ_memOk hs
@[simp] theorem execBltz_memOk {o : BitVec 16} : OutOk (execBltz st a o s) := branchZ_memOk hs
@[simp] theorem execBgez_memOk {o : BitVec 16} : OutOk (execBgez st a o s) := branchZ_memOk hs
@[simp] theorem execBlez_memOk {o : BitVec 16} : OutOk (execBlez st a o s) := branchZ_memOk hs
@[simp] theorem execBgtz_memOk {o : BitVec 16} : OutOk (execBgtz st a o s) := branchZ_memOk hs
@[simp] theorem execBeq_memOk {o : BitVec 11} : OutOk (execBeq st a b o s) := branchR_memOk hs
@[simp] theorem execBne_memOk {o : BitVec 11} : OutOk (execBne st a b o s) := branchR_memOk hs
@[simp] theorem execBlt_memOk {o : BitVec 11} : OutOk (execBlt st a b o s) := branchR_memOk hs
@[simp] theorem execBge_memOk {o : BitVec 11} : OutOk (execBge st a b o s) := branchR_memOk hs
@[simp] theorem execBltn_memOk {o : BitVec 11} : OutOk (execBltn st a b o s) := branchR_memOk hs
@[simp] theorem execBgen_memOk {o : BitVec 11} : OutOk (execBgen st a b o s) := branchR_memOk hs
@[simp] theorem execJal_memOk {o : BitVec 25} : OutOk (execJal st o s) := by simp [execJal, hs]
@[simp] theorem execJ_memOk {o : BitVec 25} : OutOk (execJ st o s) := by simp [execJ, hs]
@[simp] theorem execJr_memOk : OutOk (execJr st a s) := jumpReg_memOk hs
@[simp] theorem execJalr_memOk : OutOk (execJalr st d a s) := jumpReg_memOk hs
@[simp] theorem execDbnz_memOk {o : BitVec 15} : OutOk (execDbnz st d o s) := by simp +contextual [execDbnz, hs]
@[simp] theorem execIllegal_memOk : OutOk (execIllegal st s) := by simp +contextual [execIllegal, hs]
@[simp] theorem execUnassignedEncoding_memOk {_r : EncodingFault} {w : BitVec 32} : OutOk (execUnassignedEncoding _r w s) := by
  simp +contextual [execUnassignedEncoding, hs]
@[simp] theorem execMrq_memOk : OutOk (execMrq st d a s) := by simp +contextual [execMrq, hs]
@[simp] theorem execMcmd_memOk : OutOk (execMcmd st d a b e s) := by simp +contextual [execMcmd, hs]
@[simp] theorem execMdist_memOk : OutOk (execMdist st d a b e s) := by simp +contextual [execMdist, hs]
@[simp] theorem execGshape_memOk : OutOk (execGshape st a b s) := by simp +contextual [execGshape, hs]
@[simp] theorem execGcp_memOk : OutOk (execGcp st d a b s) := by simp +contextual [execGcp, hs]
@[simp] theorem execGcpm_memOk : OutOk (execGcpm st d a b s) := by simp +contextual [execGcpm, hs]
@[simp] theorem execGfill_memOk : OutOk (execGfill st d a b s) := by simp +contextual [execGfill, hs]
@[simp] theorem execGq_memOk : OutOk (execGq st d s) := by simp [execGq, hs]
@[simp] theorem execGondolaCopyComplete_memOk : OutOk (execGondolaCopyComplete cluster i s) := evOut_memOk (evCopy_memOk hs)
@[simp] theorem execGondolaEngineFailure_memOk {engine : Nat} : OutOk (execGondolaEngineFailure cluster engine s) :=
  evOut_memOk (evEngineLost_memOk hs)
@[simp] theorem execMoraineRequest_memOk : OutOk (execMoraineRequest die s) := evOut_memOk (evMoraine_memOk hs)
@[simp] theorem execMoraineMovementComplete_memOk : OutOk (execMoraineMovementComplete die i s) := evOut_memOk (evMovement_memOk hs)
@[simp] theorem execMoraineMetadataError_memOk {slot : Nat} : OutOk (execMoraineMetadataError die slot s) :=
  evOut_memOk (evMetaError_memOk hs)
@[simp] theorem execFaultBatchWrite_memOk : OutOk (execFaultBatchWrite s) := by simp [execFaultBatchWrite, hs]
@[simp] theorem execEngineFaultReport_memOk : OutOk (execEngineFaultReport i s) := evOut_memOk (evEngineFault_memOk hs)
@[simp] theorem execMigrationStart_memOk : OutOk (execMigrationStart s) := by simp [execMigrationStart, hs]
@[simp] theorem execMigrationCopyStep_memOk : OutOk (execMigrationCopyStep i s) := evOut_memOk (evMigStep_memOk hs)
@[simp] theorem execMigrationFinish_memOk : OutOk (execMigrationFinish i s) := evOut_memOk (evMigFinish_memOk hs)
@[simp] theorem execDumpStart_memOk : OutOk (execDumpStart s) := by simp [execDumpStart, hs]
@[simp] theorem execDumpPageCopy_memOk : OutOk (execDumpPageCopy s) := by simp [execDumpPageCopy, hs]
@[simp] theorem execDumpComplete_memOk : OutOk (execDumpComplete s) := by simp [execDumpComplete, hs]
@[simp] theorem execTokf_memOk : OutOk (execTokf st a s) := by simp +contextual [execTokf, hs]
@[simp] theorem execToks_memOk : OutOk (execToks st a s) := by simp [execToks, hs]
@[simp] theorem execTokr_memOk : OutOk (execTokr st d a b s) := by simp +contextual [execTokr, hs]
@[simp] theorem execToke_memOk : OutOk (execToke st a b s) := by simp [execToke, hs]
@[simp] theorem execPrio_memOk : OutOk (execPrio st a s) := by simp [execPrio, hs]
@[simp] theorem execSelf_memOk : OutOk (execSelf st d a s) := by simp [execSelf, hs]
@[simp] theorem execDeposit_memOk : OutOk (execDeposit st d a b s) := by simp +contextual [execDeposit, hs]
@[simp] theorem execTrap_memOk : OutOk (execTrap st a s) := by simp +contextual [execTrap, hs]
@[simp] theorem execSynci_memOk : OutOk (execSynci st s) := by simp +contextual [execSynci, hs]
@[simp] theorem execMapfence_memOk : OutOk (execMapfence st s) := by simp +contextual [execMapfence, hs]
@[simp] theorem execTlbinv_memOk : OutOk (execTlbinv st a b s) := by simp +contextual [execTlbinv, hs]
@[simp] theorem execPreemptRequest_memOk : OutOk (execPreemptRequest core strand s) := evOut_memOk (evPreempt_memOk hs)
@[simp] theorem execSuspendedImageMove_memOk : OutOk (execSuspendedImageMove core strand s) := evOut_memOk (evImageMove_memOk hs)
@[simp] theorem execCleanRowCopy_memOk : OutOk (execCleanRowCopy core strand s) := evOut_memOk (evCleanRows_memOk hs)
@[simp] theorem execPreemptLift_memOk : OutOk (execPreemptLift core strand s) := evOut_memOk (evLift_memOk hs)
@[simp] theorem execTrapDelivery_memOk : OutOk (execTrapDelivery core s) := evOut_memOk (evTrap_memOk hs)
@[simp] theorem execTrapSlotFreed_memOk : OutOk (execTrapSlotFreed core s) := evOut_memOk (evSlotFreed_memOk hs)
@[simp] theorem execImageUncorrectable_memOk : OutOk (execImageUncorrectable core strand s) := evOut_memOk (evImageError_memOk hs)
@[simp] theorem execCellUncorrectable_memOk {cell : Nat} : OutOk (execCellUncorrectable core cell s) := evOut_memOk (evCellError_memOk hs)
@[simp] theorem execParkTimeout_memOk : OutOk (execParkTimeout core s) := evOut_memOk (evParkTimeout_memOk hs)
@[simp] theorem execFimetUnpark_memOk : OutOk (execFimetUnpark core s) := evOut_memOk (evUnpark_memOk hs)
@[simp] theorem execVectorExecute_memOk : OutOk (execVectorExecute core s) := evOut_memOk (evVector_memOk hs)
@[simp] theorem execDebugStopTakesEffect_memOk : OutOk (execDebugStopTakesEffect core s) := evOut_memOk (evDebugStop_memOk hs)
@[simp] theorem execStreamFillArrival_memOk {reg : Nat} : OutOk (execStreamFillArrival core strand reg s) := by
  simp [execStreamFillArrival, hs]
@[simp] theorem execStreamDrainComplete_memOk : OutOk (execStreamDrainComplete core i s) := evOut_memOk (evDrain_memOk hs)
@[simp] theorem execMatrixCommandExecute_memOk : OutOk (execMatrixCommandExecute core s) := evOut_memOk (evMatrix_memOk hs)
@[simp] theorem execRemoteMatrixCommand_memOk : OutOk (execRemoteMatrixCommand i s) := evOut_memOk (evRemoteMatrix_memOk hs)
@[simp] theorem execBankModeChange_memOk : OutOk (execBankModeChange cluster s) := evOut_memOk (evBankMode_memOk hs)
@[simp] theorem execLaunchPortWrite_memOk {q size : Nat} {data : BitVec 512} : OutOk (execLaunchPortWrite q off size data s) :=
  evOut_memOk (evPortWrite_memOk hs)
@[simp] theorem execLaunchAdmission_memOk : OutOk (execLaunchAdmission s) := by simp [execLaunchAdmission, hs]
@[simp] theorem execDependencyReport_memOk {k : Nat} : OutOk (execDependencyReport launch k s) := evOut_memOk (evDependency_memOk hs)
@[simp] theorem execLaunchPlacement_memOk {cores : List Nat} {perCore : Nat} : OutOk (execLaunchPlacement launch cores perCore s) :=
  evOut_memOk (evPlace_memOk hs)
@[simp] theorem execItemStart_memOk : OutOk (execItemStart launch s) := evOut_memOk (evItem_memOk hs)
@[simp] theorem execLaunchFinish_memOk : OutOk (execLaunchFinish launch s) := evOut_memOk (evFinish_memOk hs)
@[simp] theorem execCancelComplete_memOk : OutOk (execCancelComplete launch s) := evOut_memOk (evCancel_memOk hs)
@[simp] theorem execWrsNetreload_memOk : OutOk (execWrsNetreload st a s) := by simp +contextual [execWrsNetreload, hs]
@[simp] theorem execPodRemoteAccess_memOk {a : PodAccess} : OutOk (execPodRemoteAccess a s) := evOut_memOk (evPod_memOk hs)
@[simp] theorem execPathDownTimeout_memOk {node : Nat} : OutOk (execPathDownTimeout node s) := evOut_memOk (evPathDown_memOk hs)
@[simp] theorem execRemoteControlMessage_memOk {m : ControlMsg} : OutOk (execRemoteControlMessage m s) := evOut_memOk (evControl_memOk hs)
@[simp] theorem execNetDoorbellAcquire_memOk {qp : Nat} : OutOk (execNetDoorbellAcquire qp s) := evOut_memOk (evDoorbell_memOk hs)
@[simp] theorem execNetPacketArrival_memOk {qp : Nat} {p : NetPacket} : OutOk (execNetPacketArrival qp p s) :=
  evOut_memOk (evPacket_memOk hs)
@[simp] theorem execNetRetransmitTimeout_memOk {qp : Nat} : OutOk (execNetRetransmitTimeout qp s) := evOut_memOk (evRetransmit_memOk hs)
@[simp] theorem execPlacementRequest_memOk {r : PlaceRequest} : OutOk (execPlacementRequest r s) := evOut_memOk (evPlaceRequest_memOk hs)
@[simp] theorem execPlacementUpdate_memOk {u : PlaceUpdate} : OutOk (execPlacementUpdate u s) := evOut_memOk (evPlaceUpdate_memOk hs)
@[simp] theorem execSlotTableSwap_memOk : OutOk (execSlotTableSwap die s) := evOut_memOk (evSwap_memOk hs)
@[simp] theorem execMessagePacketArrival_memOk {id total offset : Nat} {payload : List Byte} {last : Bool} :
    OutOk (execMessagePacketArrival id total offset payload last s) := evOut_memOk (evPacketPart_memOk hs)
@[simp] theorem execMemoryRequest_memOk : OutOk (execMemoryRequest i s) := evOut_memOk (evRequest_memOk hs)
@[simp] theorem execResponseArrival_memOk : OutOk (execResponseArrival i s) := evOut_memOk (evResponse_memOk hs)
@[simp] theorem execReduceAddArrival_memOk : OutOk (execReduceAddArrival i s) := evOut_memOk (evReduce_memOk hs)
@[simp] theorem execL2BankFailure_memOk {bank : Nat} {lost : List Nat} : OutOk (execL2BankFailure die bank lost s) :=
  evOut_memOk (evBankFailure_memOk hs)
@[simp] theorem execRowActivateHint_memOk : OutOk (execRowActivateHint i s) := evOut_memOk (evHint_memOk hs)
@[simp] theorem execPatrolScrub_memOk {line : Nat} {e : EccOutcome} : OutOk (execPatrolScrub line e s) := evOut_memOk (evScrub_memOk hs)
@[simp] theorem execHbmRefresh_memOk {bank : Nat} : OutOk (execHbmRefresh die bank s) := evOut_memOk (evRefresh_memOk hs)
@[simp] theorem execCoreFailure_memOk : OutOk (execCoreFailure core s) := evOut_memOk (evCoreFailure_memOk hs)
@[simp] theorem execClusterSramBankFault_memOk {bank : Nat} : OutOk (execClusterSramBankFault cluster bank s) :=
  evOut_memOk (evSramFault_memOk hs)
@[simp] theorem execCxlDeviceFailure_memOk {port : Nat} : OutOk (execCxlDeviceFailure port s) := evOut_memOk (evCxlFailure_memOk hs)
@[simp] theorem execLinkRetrainStart_memOk {link : Nat} : OutOk (execLinkRetrainStart link s) := evOut_memOk (evRetrain_memOk hs)
@[simp] theorem execLinkRetrainComplete_memOk {link : Nat} : OutOk (execLinkRetrainComplete link s) := evOut_memOk (evRetrained_memOk hs)
@[simp] theorem execLinkDownTimeout_memOk {link : Nat} : OutOk (execLinkDownTimeout link s) := evOut_memOk (evLinkDown_memOk hs)
@[simp] theorem execSupplyDroop_memOk : OutOk (execSupplyDroop s) := by simp [execSupplyDroop, hs]
@[simp] theorem execStretchRecovery_memOk : OutOk (execStretchRecovery s) := by simp [execStretchRecovery, hs]
@[simp] theorem execRideEntry_memOk : OutOk (execRideEntry s) := by simp [execRideEntry, hs]
@[simp] theorem execRideRecovery_memOk : OutOk (execRideRecovery s) := by simp [execRideRecovery, hs]
@[simp] theorem execQuiesceEntry_memOk : OutOk (execQuiesceEntry s) := by simp [execQuiesceEntry, hs]
@[simp] theorem execQuiesceComplete_memOk : OutOk (execQuiesceComplete s) := by simp [execQuiesceComplete, hs]
@[simp] theorem execHeldRestart_memOk : OutOk (execHeldRestart s) := by simp [execHeldRestart, hs]
@[simp] theorem execThermalRide_memOk : OutOk (execThermalRide s) := by simp [execThermalRide, hs]
@[simp] theorem execThermalReturn_memOk : OutOk (execThermalReturn s) := by simp [execThermalReturn, hs]
@[simp] theorem execThermalQuiesce_memOk : OutOk (execThermalQuiesce s) := by simp [execThermalQuiesce, hs]
@[simp] theorem execProfileSwitch_memOk : OutOk (execProfileSwitch s) := by simp [execProfileSwitch, hs]
@[simp] theorem execBurstClockChange_memOk {fast : Bool} : OutOk (execBurstClockChange fast s) := evOut_memOk (evBurst_memOk hs)
@[simp] theorem execHostMemoryAccess_memOk {write : Bool} {len : Nat} {data : BitVec 512} :
    OutOk (execHostMemoryAccess write off len data s) := evOut_memOk (evHost_memOk hs)
@[simp] theorem execAttest_memOk {addr : Nat} {nonce : BitVec 256} : OutOk (execAttest addr nonce s) := evOut_memOk (evAttest_memOk hs)
@[simp] theorem execExtentadd_memOk {size : Nat} : OutOk (execExtentadd off size s) := evOut_memOk (evExtentAdd_memOk hs)
@[simp] theorem execExtentrel_memOk : OutOk (execExtentrel off s) := evOut_memOk (evExtentRel_memOk hs)
@[simp] theorem execSetvec_memOk {vec : Nat} {addr : Word} {data : BitVec 32} : OutOk (execSetvec vec addr data s) :=
  evOut_memOk (evSetvec_memOk hs)
@[simp] theorem execMbxProfile_memOk {sel : BitVec 2} : OutOk (execMbxProfile sel s) := evOut_memOk (evMbxProfile_memOk hs)
@[simp] theorem execDebugstop_memOk {stop : Bool} : OutOk (execDebugstop core stop s) := evOut_memOk (evDebug_memOk hs)
@[simp] theorem execSelftest_memOk {t : SelfTestResult} : OutOk (execSelftest t s) := evOut_memOk (evSelftest_memOk hs)
@[simp] theorem execShockEvent_memOk {milliG : Nat} : OutOk (execShockEvent milliG s) := by simp [execShockEvent, hs]
@[simp] theorem execPowerUp_memOk {images : List StageImage} {t : SelfTestResult} : OutOk (execPowerUp images t s) :=
  evOut_memOk (evPowerUp_memOk hs)
@[simp] theorem execFuseVersionAdvance_memOk {version : Nat} : OutOk (execFuseVersionAdvance version s) := evOut_memOk (evFuse_memOk hs)
@[simp] theorem execResumeDecision_memOk : OutOk (execResumeDecision core s) := evOut_memOk (evResume_memOk hs)
@[simp] theorem execSetl_memOk : OutOk (execSetl st d a b s) := by simp [execSetl, hs]
@[simp] theorem execMand_memOk : OutOk (execMand st d a b s) := maskWord_memOk hs
@[simp] theorem execMor_memOk : OutOk (execMor st d a b s) := maskWord_memOk hs
@[simp] theorem execMxor_memOk : OutOk (execMxor st d a b s) := maskWord_memOk hs
@[simp] theorem execMandn_memOk : OutOk (execMandn st d a b s) := maskWord_memOk hs
@[simp] theorem execMpop_memOk : OutOk (execMpop st d a s) := maskToG_memOk hs
@[simp] theorem execMfirst_memOk : OutOk (execMfirst st d a s) := maskToG_memOk hs
@[simp] theorem execMupto_memOk : OutOk (execMupto st d a s) := maskPrefix_memOk hs
@[simp] theorem execMbefore_memOk : OutOk (execMbefore st d a s) := maskPrefix_memOk hs
@[simp] theorem execMmov_memOk : OutOk (execMmov st d a s) := by simp +contextual [execMmov, hs]
@[simp] theorem execMsetl_memOk : OutOk (execMsetl st d a s) := by simp +contextual [execMsetl, hs]
@[simp] theorem execCset_memOk : OutOk (execCset st d a b s) := by simp +contextual [execCset, hs]
@[simp] theorem execCmov_memOk : OutOk (execCmov st d a s) := by simp +contextual [execCmov, hs]
@[simp] theorem execVmv_memOk : OutOk (execVmv st d a m x s) := vecWord_memOk hs
@[simp] theorem execVbrd_memOk : OutOk (execVbrd st d b m x s) := by simp +contextual [execVbrd, hs]
@[simp] theorem execVins_memOk : OutOk (execVins st d a b s) := by simp +contextual [execVins, hs]
@[simp] theorem execVmrg_memOk : OutOk (execVmrg st d a b m x s) := by simp +contextual [execVmrg, hs]
@[simp] theorem execViota_memOk : OutOk (execViota st d m x s) := by simp +contextual [execViota, hs]
@[simp] theorem execVrowb_memOk : OutOk (execVrowb st d a b m x s) := gatherWord_memOk hs
@[simp] theorem execVcolb_memOk : OutOk (execVcolb st d a b m x s) := gatherWord_memOk hs
@[simp] theorem execVslup_memOk : OutOk (execVslup st d a b m x s) := gatherWord_memOk hs
@[simp] theorem execVsldn_memOk : OutOk (execVsldn st d a b m x s) := gatherWord_memOk hs
@[simp] theorem execVsl1up_memOk : OutOk (execVsl1up st d a b m x s) := gatherWord_memOk hs
@[simp] theorem execVsl1dn_memOk : OutOk (execVsl1dn st d a b m x s) := gatherWord_memOk hs
@[simp] theorem execVgath_memOk : OutOk (execVgath st d a b m x s) := gatherWord_memOk hs
@[simp] theorem execVcprs_memOk : OutOk (execVcprs st d a m x s) := by simp +contextual [execVcprs, hs]
@[simp] theorem execVexpd_memOk : OutOk (execVexpd st d a m x s) := by simp +contextual [execVexpd, hs]
@[simp] theorem execVgxch_memOk : OutOk (execVgxch st d a b m s) := gatherWord_memOk hs
@[simp] theorem execVredsum_memOk : OutOk (execVredsum st d a m x r s) := redWord_memOk hs
@[simp] theorem execVredmin_memOk : OutOk (execVredmin st d a m x r s) := redWord_memOk hs
@[simp] theorem execVredmax_memOk : OutOk (execVredmax st d a m x r s) := redWord_memOk hs
@[simp] theorem execVredminn_memOk : OutOk (execVredminn st d a m x r s) := redWord_memOk hs
@[simp] theorem execVredmaxn_memOk : OutOk (execVredmaxn st d a m x r s) := redWord_memOk hs
@[simp] theorem execVredand_memOk : OutOk (execVredand st d a m x r s) := redWord_memOk hs
@[simp] theorem execVredor_memOk : OutOk (execVredor st d a m x r s) := redWord_memOk hs
@[simp] theorem execVredxor_memOk : OutOk (execVredxor st d a m x r s) := redWord_memOk hs
@[simp] theorem execVfredo_memOk : OutOk (execVfredo st d a m x r s) := redWord_memOk hs
@[simp] theorem execVfredt_memOk : OutOk (execVfredt st d a m x r s) := redWord_memOk hs
@[simp] theorem execVfredmax_memOk : OutOk (execVfredmax st d a m x r s) := redWord_memOk hs
@[simp] theorem execVfredmin_memOk : OutOk (execVfredmin st d a m x r s) := redWord_memOk hs

end Instructions

@[simp] theorem exec_memOk {i : Instr} (hs : s.memOk) : OutOk (exec i s) := by
  unfold exec
  split <;> simp [hs]

/-! ## Fetch -/

@[simp] theorem fetchLine_memOk {va k : Nat} (hs : s.memOk) : (s.fetchLine va k).memOk := by
  unfold State.fetchLine
  dsimp only
  repeat' split
  all_goals simp +contextual [*]

@[simp] theorem fetchWord_memOk {va : Nat} (hs : s.memOk) : (s.fetchWord va).memOk := by
  unfold State.fetchWord
  dsimp only
  repeat' split
  all_goals simp +contextual [*]

@[simp] theorem setIr_memOk {w p : BitVec 32} : (s.setIr w p).memOk ↔ s.memOk := Iff.rfl

@[simp] theorem andThen_memOk {f : Fetched} {va : Nat} {k : BitVec 32 → State → State ⊕ State} (hf : f.memOk)
    (hk : ∀ w s, s.memOk → SumOk (k w s)) : SumOk (Fetched.andThen f va k) := by
  cases f with
  | word s w => exact hk w s hf
  | trap s t => exact (sumOk_inl _).2 (takeTrap_memOk hf)
  | hold s => exact (sumOk_inl _).2 (waitSlots_memOk hf)
  | miss s => exact (sumOk_inl s).2 hf
  | absent s l => exact (sumOk_inl _).2 (faultPath_memOk hf)

@[simp] theorem fetch_memOk {wide : BitVec 32 → Bool} (hs : s.memOk) : SumOk (s.fetch wide) := by
  refine andThen_memOk (fetchWord_memOk (setIr_memOk.2 hs)) fun w t ht => ?_
  have hi : (t.setIr w 0).memOk := setIr_memOk.2 ht
  dsimp only
  split
  · exact andThen_memOk (fetchWord_memOk hi) fun p u hu => (sumOk_inr _).2 (setIr_memOk.2 hu)
  · exact (sumOk_inr _).2 hi

@[simp] theorem tick_memOk : s.tick.memOk ↔ s.memOk := Iff.rfl

/-! ## The step -/

@[simp] theorem coreStep_memOk (hs : s.memOk) : OutOk (coreStep s) := by
  unfold coreStep
  split
  · have hf := fetch_memOk (wide := isWide) (tick_memOk.2 hs)
    split
    · next t e =>
      rw [e] at hf
      exact (outOk_next t).2 ((sumOk_inl t).1 hf)
    · next t e =>
      rw [e] at hf
      exact exec_memOk ((sumOk_inr t).1 hf)
  · exact between_memOk hs

@[simp] theorem move_memOk (hs : s.memOk) : OutOk (move s) := by
  unfold move
  split <;> simp [hs]

@[simp] theorem step_memOk (hs : s.memOk) : OutOk (step s) := afterStep_memOk (move_memOk hs)

/-- Settles O59: a step is a move and what follows every move, and each keeps the form. -/
theorem stepKeepsMemory : Obligations.StepKeepsMemory := fun _ t hs e => step_memOk hs t e

end Sys2Proof.Machine
end

section
/-! SUPPORT. `mxsave` and `mxrst` (R246): with an empty queue nothing of the unit's work comes between, and an image moves by stores and
loads that leave the core alone. -/

namespace Sys2Proof.Machine

/-! ## Images in memory leave the core alone -/

theorem engineWrite_core (s : State) (a : Agent) (va : Nat) (bs : List Byte) : (s.engineWrite a va bs false).core = s.core := by
  refine foldl_core (fun s p => ?_) _ s
  split
  · exact storeBytes_core ..
  · rfl

theorem imageWritten_core (s : State) (va : Nat) (parts : List (Nat × List Byte)) :
    (parts.foldl (fun r p => r.engineWrite r.agent ((va + p.1) % 2 ^ 56) p.2 false) s).core = s.core :=
  foldl_core (fun s _ => engineWrite_core s ..) parts s

/-! ## The unit with an empty queue (R231) -/

theorem matrixNow_empty {s : State} (h : s.core.mx.queue = []) : s.matrixNow s.core.mx.queue.length = s := by
  rw [h]
  rfl

theorem headTimes_empty {m : Matrix} (h : m.queue = []) : m.headTimes = none := by
  simp only [Matrix.headTimes, h]

theorem finishRunning_empty {s : State} (h : s.core.mx.queue = []) (n : Nat) : s.finishRunning n = s := by
  simp only [State.finishRunning, State.mx, matrixNow_empty h, headTimes_empty h]

/-- Changes of the unit that agree on the unit that a state has. -/
theorem onMx_congr {s : State} {f g : Matrix → Matrix} (h : f s.core.mx = g s.core.mx) : s.onMx f = s.onMx g := by
  simp only [State.onMx, State.onFocus, h]

/-! ## The words -/

/-- The frame of both words: outside a handler ILLEGAL, inside it the effect at the pointer. -/
theorem mxFrame_outside {s : State} {st : Bool} {a : BitVec 5} (body : Word → State → Res)
    (h : AtOnce s { priv := true, g := if s.cur.sp.traprec == 0 then [] else [a] } st) (ho : s.cur.sp.traprec = 0) :
    mxFrame st a body s = .next (s.unwait.takeTrap (mkTrap 0x01 0)) :=
  issue_raise h (if_pos (beq_iff_eq.mpr ho))

theorem mxFrame_inside {s t : State} {st : Bool} {a : BitVec 5} {body : Word → State → Res}
    (h : AtOnce s { priv := true, g := if s.cur.sp.traprec == 0 then [] else [a] } st) (ho : s.cur.sp.traprec ≠ 0)
    (hb : body (s.rg a) s = .ok t) (hk : ChainKept t s) : Gives (mxFrame st a body s) (t.after4 st) :=
  kept_gives h ((if_neg (mt beq_iff_eq.mp ho)).trans hb) hk

theorem withRun_go {s : State} {k : AccKind} {align n : Nat} {ea : Word} (h : s.runCheck k align ea n = .go) (body : State → Res) :
    s.withRun k align ea n body = body s := by
  rw [State.withRun, h]

/-- STATE of an image that names free units and as many commands as were lifted passes (R246, R248). -/
theorem stateOk_pass {s : State} {ea : Word} {lifted : Nat} (h : s.runCheck .read 64 ea 64 = .go)
    (hf : s.core.mx.unitsFree (BitVec.ofNat 16 (leValue (s.loadVa s.agent (addrOf ea) 8))) = true)
    (ho : imageOk (leValue (s.loadVa s.agent (addrOf ea) 8)) lifted = true) (k : Res) : s.stateOk ea lifted k = k := by
  simp only [State.stateOk, h, State.mx, hf, State.cfgOk, ho]
  rfl

/-- The matrix unit and the handler's context are no concern of the frame. -/
theorem unitsMoved_kept (s : State) (f : Matrix → Matrix) (g : HandlerCtx → HandlerCtx) : ChainKept ((s.onMx f).onHandler g) s := .refl s

/-- What `mxsave` leaves when the units' image `parts` is written at `va` (R246). -/
def State.unitsSaved (s : State) (va : Nat) (units : BitVec 16) (parts : List (Nat × List Byte)) : State :=
  ((parts.foldl (fun r p => r.engineWrite r.agent ((va + p.1) % 2 ^ 56) p.2 false) s).onMx (·.releaseUnits units)).onHandler
    fun h => { h with mxsaved := true, mxowed := true }

/-- What `mxrst` leaves when it has read the image `x` (R246). -/
def State.unitsRestored (s : State) (x n : Nat) : State := (s.onMx fun m => m.reload x n).onHandler fun h => { h with mxowed := false }

theorem unitsSaved_kept (s : State) (va : Nat) (units : BitVec 16) (parts : List (Nat × List Byte)) :
    ChainKept (s.unitsSaved va units parts) s :=
  (unitsMoved_kept ..).trans (.of_core (imageWritten_core s va parts))

theorem unitsRestored_kept {s r : State} (h : r.core = s.core) (x n : Nat) : ChainKept (r.unitsRestored x n) s :=
  (unitsMoved_kept ..).trans (.of_core h)

section
variable {s : State} {st : Bool} {a : BitVec 5} (h : AtOnce s { priv := true, g := if s.cur.sp.traprec == 0 then [] else [a] } st)
  (ho : s.cur.sp.traprec ≠ 0)
include h ho

theorem mxsave_gives (hc : s.runCheck .write 64 (s.rg a) mxImageBytes = .go) (hq : s.core.mx.queue = []) :
    let units := s.core.mx.unitsOf s.cur.num
    let batch := (s.trappedImage.bind (·.st.batch)).bind fun h => s.core.mx.batches.find? (·.handle == h)
    Gives (execMxsave st a s) ((s.unitsSaved (addrOf (s.rg a)) units (s.core.mx.imageParts units batch [])).after4 st) := by
  intro units batch
  unfold execMxsave
  refine mxFrame_inside h ho ?_ (unitsSaved_kept s _ units _)
  rw [withRun_go hc]
  simp only [finishRunning_empty hq, State.mx, hq, List.filter_nil]
  refine congrArg (fun r => Res.ok (State.onHandler r _)) (onMx_congr ?_)
  rw [imageWritten_core, hq, List.filter_nil, List.append_nil, Matrix.releaseUnits, hq]

theorem mxrst_gives {c : HandlerCtx} {x : Nat} {r : State} (hh : s.cur.handler = some c) (hs : c.mxsaved = true)
    (hc : s.runCheck .read 64 (s.rg a) 64 = .go) (hl : s.core.mx.lifted = [])
    (hf : s.core.mx.unitsFree (BitVec.ofNat 16 (leValue (s.loadVa s.agent (addrOf (s.rg a)) 8))) = true)
    (hok : imageOk (leValue (s.loadVa s.agent (addrOf (s.rg a)) 8)) 0 = true) (hr : s.runCheck .read 64 (s.rg a) mxImageBytes = .go)
    (hx : ∀ body, s.readDesc (addrOf (s.rg a)) mxImageBytes body = body x r) (hcore : r.core = s.core)
    (hb : s.trappedImage.bind (·.st.batch) = none) :
    Gives (execMxrst st a s) ((r.unitsRestored x s.cur.num).after4 st) := by
  unfold execMxrst
  refine mxFrame_inside h ho ?_ (unitsRestored_kept hcore x _)
  simp only [hh, hs, Bool.not_true, Bool.false_eq_true, if_false]
  simp only [State.mx, hl, List.filter_nil, List.zipIdx_nil, List.map_nil, List.length_nil, stateOk_pass hc hf hok, withRun_go hr, hx]
  have hbatch : r.trappedImage.bind (·.st.batch) = none := by simpa only [State.trappedImage, State.cur, hcore] using hb
  refine congrArg (fun r => Res.ok (State.onHandler r _)) (onMx_congr ?_)
  have hlift : (s.core.mx.reload x s.cur.num).lifted = [] := hl
  simp only [hbatch, hcore, hlift, List.filter_nil, List.append_nil]
  rw [← hlift]

end

/-- Settles O46: outside a handler both words trap; inside one each is its image, written or read. -/
theorem matrixSaveRestore : Obligations.MatrixSaveRestore := by
  intro s st a h ea n
  have hsave : exec (.mxsave st a) s = execMxsave st a s := rfl
  have hrestore : exec (.mxrst st a) s = execMxrst st a s := rfl
  rw [hsave, hrestore]
  refine ⟨fun ho => ⟨?saveOutside, ?restoreOutside⟩, fun ho => ⟨fun hc hq => mxsave_gives h ho hc hq, ?restoreInside⟩⟩
  case saveOutside => rw [execMxsave, mxFrame_outside _ h ho]
  case restoreOutside => rw [execMxrst, mxFrame_outside _ h ho]
  case restoreInside =>
    intro c x r hh hs hc hl state hf hok hr hx hcore hb
    exact mxrst_gives h ho hh hs hc hl hf hok hr hx hcore hb

end Sys2Proof.Machine
end

section
/-! SUPPORT. The commands of the matrix unit (R230-R237): what the queue takes when a batch is open, and the batch's own words. -/

namespace Sys2Proof.Machine

/-! ## The checks (R225, R248) -/

/-- A unit that nobody or the strand itself owns. -/
def OwnedBy (n : Nat) (o : Option Nat) : Prop := o = none ∨ o = some n

theorem ownedByOther_false {o : Option Nat} {n : Nat} (h : OwnedBy n o) : ownedByOther o n = false := by
  rcases h with rfl | rfl
  · rfl
  · exact bne_self_eq_false n

theorem owned_pass {s : State} (h : s.matrixHeld = false) (k : Res) : s.owned false k = k := by
  rw [State.owned, h]
  rfl

@[simp] theorem cfgOk_true (s : State) (k : Res) : s.cfgOk true k = k := rfl
@[simp] theorem ringOk_true (s : State) (k : Res) : s.ringOk true k = k := rfl

theorem inBatch_open {s : State} {h : Word} (hb : s.cur.batch = some h) (k : Word → Res) : s.inBatch k = k h := by
  simp only [State.inBatch, hb]

theorem inBatch_closed {s : State} (hb : s.cur.batch = none) (k : Word → Res) : s.inBatch k = s.raise 0x1B 0 := by
  simp only [State.inBatch, hb]

/-- A tile and a selector that pass the checks which `mma` and `mmas` share (R225, R235): no other strand owns a unit that they name, and no
reserved bit is set. -/
structure Selects (s : State) (t : BitVec 3) (x : Word) : Prop where
  tile : OwnedBy s.cur.num (s.mx.tile t).owner
  ringA : OwnedBy s.cur.num (s.mx.ring (selQa x)).owner
  ringB : OwnedBy s.cur.num (s.mx.ring (selQb x)).owner
  legal : x &&& ~~~0x3F073F07#64 = 0

theorem Selects.noOther {s : State} {t : BitVec 3} {x : Word} (h : Selects s t x) :
    (s.ringOther (selQa x) || s.ringOther (selQb x) || s.tileOther t) = false := by
  simp only [State.ringOther, State.tileOther, ownedByOther_false h.tile, ownedByOther_false h.ringA, ownedByOther_false h.ringB, Bool.or_false]

theorem Selects.noReserved {s : State} {t : BitVec 3} {x : Word} (h : Selects s t x) : (x &&& selectorReserved == 0) = true :=
  beq_iff_eq.mpr h.legal

/-! ## The queue (R231) -/

/-- No command of the queue completes before the present cycle. -/
def State.MatrixQuiet (s : State) : Prop := ∀ k i j, s.core.mx.headTimes = some (k, i, j) → s.core.cycle ≤ j

theorem matrixNow_quiet {s : State} (h : s.MatrixQuiet) (n : Nat) : s.matrixNow n = s := by
  cases n with
  | zero => rfl
  | succ n =>
    rw [State.matrixNow]
    split
    · rename_i k i j hk
      exact if_neg (Nat.not_lt.mpr (h k i j hk))
    · rfl

/-- The matrix unit is no concern of the strand's frame. -/
theorem onMx_kept (s : State) (f : Matrix → Matrix) : ChainKept (s.onMx f) s := .refl s

/-- The state in which a command has entered the queue for the batch `h`, with its tile taken (R225, R231). -/
def State.commanded (s : State) (h : Word) (op : MOp) (v : Word) : State :=
  s.onMx fun m =>
    { m.takeFor s.cur.num op with
      queue := (m.takeFor s.cur.num op).queue ++
        [{ op := op, owner := s.cur.num, batch := h, remote := none, word := s.core.ir, operand := v, issuedAt := s.core.cycle
           launch := s.cur.launch }] }

section
variable {s : State} {st : Bool} {d a b : BitVec 5} {h : Word} (hheld : s.matrixHeld = false) (hb : s.cur.batch = some h)
  (hquiet : s.MatrixQuiet) (hroom : s.core.mx.queue.length < 64)

section
include hquiet hroom

theorem pushCommand_room (op : MOp) (v : Word) : s.pushCommand h op v = .ok (s.commanded h op v) := by
  rw [State.pushCommand, matrixNow_quiet hquiet]
  exact if_neg (Nat.not_le.mpr hroom)

end

/-! ## The commands (R234-R237) -/

theorem toNat_bne_zero {x : Word} (h : x ≠ 0) : (x.toNat != 0) = true := bne_iff_ne.mpr fun e => h (BitVec.eq_of_toNat_eq e)

section
include hheld hb hquiet hroom

theorem mzero_gives (hi : AtOnce s {} st) (ht : OwnedBy s.cur.num (s.mx.tile (unitOf d)).owner) :
    Gives (exec (.mzero st d) s) ((s.commanded h (.zero (unitOf d)) 0).after4 st) := by
  refine kept_gives hi ?_ (onMx_kept s _)
  have hother : s.tileOther (unitOf d) = false := ownedByOther_false ht
  simp only [inBatch_open hb, hother, owned_pass hheld, pushCommand_room hquiet hroom]

theorem mma_gives (hi : AtOnce s { g := [a] } st) (hs : Selects s (unitOf d) (s.rg a))
    (hc : (s.mx.classOf (selQa (s.rg a)) (selQb (s.rg a))).isSome = true)
    (hoa : selOffa (s.rg a) < (s.mx.ring (selQa (s.rg a))).depth) (hob : selOffb (s.rg a) < (s.mx.ring (selQb (s.rg a))).depth) :
    Gives (exec (.mma st d a) s)
      ((s.commanded h (.mma (unitOf d) (selQa (s.rg a)) (selQb (s.rg a)) (selOffa (s.rg a)) (selOffb (s.rg a))) (s.rg a)).after4 st) := by
  refine kept_gives hi ?_ (onMx_kept s _)
  simp only [inBatch_open hb, hs.noOther, owned_pass hheld, hs.noReserved, hc, Bool.and_true, cfgOk_true, hoa, hob, decide_true, ringOk_true,
    pushCommand_room hquiet hroom]

theorem mmas_gives {c : MClass} (hi : AtOnce s { g := [a], m := [b.extractLsb' 0 4] } st) (hs : Selects s (unitOf d) (s.rg a))
    (hc : s.mx.classOf (selQa (s.rg a)) (selQb (s.rg a)) = some c)
    (hm : maskCount ((s.cur.vf.getM (b.extractLsb' 0 4)).extractLsb' 0 512) (2 * c.k) ≤ c.k)
    (hoa : selOffa (s.rg a) + 1 < (s.mx.ring (selQa (s.rg a))).depth) (hob : selOffb (s.rg a) < (s.mx.ring (selQb (s.rg a))).depth) :
    Gives (exec (.mmas st d a b) s)
      ((s.commanded h (.mmas (unitOf d) (selQa (s.rg a)) (selQb (s.rg a)) (selOffa (s.rg a)) (selOffb (s.rg a))
        ((s.cur.vf.getM (b.extractLsb' 0 4)).extractLsb' 0 512)) (s.rg a)).after4 st) := by
  refine kept_gives hi ?_ (onMx_kept s _)
  simp only [inBatch_open hb, hs.noOther, owned_pass hheld, hc, hs.noReserved, hm, Bool.and_true, cfgOk_true, hoa, hob, decide_true, ringOk_true,
    pushCommand_room hquiet hroom]

theorem mrpop_gives (hi : AtOnce s { g := [a] } st) (hq : OwnedBy s.cur.num (s.mx.ring (unitOf d)).owner)
    (hd : (s.mx.ring (unitOf d)).depth ≠ 0) (h0 : s.rg a ≠ 0) (hc : (s.rg a).toNat ≤ (s.mx.ring (unitOf d)).depth) :
    Gives (exec (.mrpop st d a) s) ((s.commanded h (.pop (unitOf d) (s.rg a).toNat) (s.rg a)).after4 st) := by
  refine kept_gives hi ?_ (onMx_kept s _)
  have hother : s.ringOther (unitOf d) = false := ownedByOther_false hq
  simp only [inBatch_open hb, hother, owned_pass hheld, bne_iff_ne.mpr hd, cfgOk_true, toNat_bne_zero h0, hc, decide_true, Bool.and_true, ringOk_true,
    pushCommand_room hquiet hroom]

end

/-! ## Batches (R230) -/

/-- Batches that end tell their tokens, and leave the strand alone. -/
theorem endBatches_frame (c : Core) : c.endBatches.running = c.running ∧ c.endBatches.cur = c.cur := by
  unfold Core.endBatches
  refine List.foldlRecOn (motive := fun e : Core => e.running = c.running ∧ e.cur = c.cur) _ _ ⟨rfl, rfl⟩ fun e he b _ => ?_
  have keeps : ∀ {f : Core}, CellChange f e → f.running = c.running ∧ f.cur = c.cur := by
    rintro _ ⟨_, _, _, rfl⟩
    exact he
  dsimp only
  split
  · exact keeps (fail_change ..)
  · exact keeps (signal_change ..)

theorem closeBatch_kept (s : State) (h : Word) : ChainKept (s.closeBatch h) s := by
  obtain ⟨hrun, hcur⟩ := endBatches_frame
    { s.core with cycle := s.core.cycle + 1, mx := { s.core.mx with batches := onBatch h (fun b => { b with closed := true }) s.core.mx.batches } }
  have hctl := endBatches_acctctl
    { s.core with cycle := s.core.cycle + 1, mx := { s.core.mx with batches := onBatch h (fun b => { b with closed := true }) s.core.mx.batches } }
  exact ⟨hrun, congrArg (·.getLsbD 63) hctl, congrArg Strand.pend hcur, congrArg (·.sp.vbank) hcur, congrArg Strand.pc hcur,
    fun r => congrArg (·.readG r) hcur⟩

include hheld in
theorem mend_gives (hi : AtOnce s {} st) (hb : s.cur.batch = some h) :
    Gives (exec (.mend st) s) (((s.closeBatch h).onCur fun z => { z with batch := none }).after4 st) := by
  refine kept_gives hi ?_ (.trans (.refl (s.closeBatch h)) (closeBatch_kept s h))
  simp only [hb, owned_pass hheld]

theorem mend_closed (hi : AtOnce s {} st) (hb : s.cur.batch = none) : exec (.mend st) s = .next (s.unwait.takeTrap (mkTrap 0x1B 0)) :=
  issue_raise hi (by simp only [hb])

theorem mzero_closed (hi : AtOnce s {} st) (hb : s.cur.batch = none) : exec (.mzero st d) s = .next (s.unwait.takeTrap (mkTrap 0x1B 0)) :=
  issue_raise hi (inBatch_closed hb _)

/-- The batch `h` of strand `n` as `mbeg` opens it. -/
def MBatch.opened (h : Word) (n : Nat) : MBatch :=
  { handle := h, owner := n, closed := false, signalled := false, flags := 0, poisoned := false, sat := false }

include hheld in
theorem mbeg_gives (hi : AtOnce s {} st) (hb : s.cur.batch = none) {r : State} (ha : s.allocCell 4 1 = some (h, r)) :
    Gives (exec (.mbeg st d) s)
      ((((r.onMx fun u => { u with batches := u.batches ++ [MBatch.opened h s.cur.num] }).onCur fun z => { z with batch := some h }).wg d h).after4
        st) := by
  refine keptWrite_gives hi ?_ (.trans (.refl r) (allocCell_kept ha))
  have hnum : r.cur.num = s.cur.num := congrArg Strand.num (allocCell_cur ha)
  simp only [hb, Option.isSome_none, Bool.false_eq_true, if_false, owned_pass hheld, ha, hnum]
  rfl

end

end Sys2Proof.Machine
end

section
/-! SUPPORT. Rings (R227-R229): the waits for the queue, and what each ring word leaves. -/

namespace Sys2Proof.Machine

/-! ## Waiting for the queue (R229, R238) -/

/-- Nothing that is waited for is queued. -/
theorem matrixWait_none {s : State} {p : MCommand → Bool} (h : s.core.mx.queue.any p = false) (c : Cause) : s.matrixWait c p = some s := by
  have hdrain : s.matrixDrain p (s.core.mx.queue.length + 1) = (s, true) := by
    rw [State.matrixDrain, h]
    rfl
  simp only [State.matrixWait, hdrain, h, Bool.false_eq_true, if_false, if_true, stall_zero]

theorem ringWait_none {s : State} {q : BitVec 3} (h : (s.core.mx.queue.any fun k => k.op.namesRing q) = false) (body : State → State) :
    s.ringWait q body = .ok (body s) := by
  rw [State.ringWait, matrixWait_none h]

theorem tileWait_none {s : State} {t : BitVec 3} (h : (s.core.mx.queue.any fun k => k.op.namesTile t) = false) (body : State → Res) :
    s.tileWait t body = body s := by
  rw [State.tileWait, matrixWait_none h]

/-! ## Rings (R229) -/

theorem query_eq (r : Ring) :
    r.query = (r.owner.map (BitVec.ofNat 8)).getD 0xFF ++ (0#8 ++ (r.tag ++ (BitVec.ofNat 8 r.depth ++ (r.tail ++ r.head)))) := by
  unfold Ring.query
  cases r.owner <;> rfl

/-- With an empty queue, tiles that become committed start no command. -/
theorem commitRing_idle {s : State} (h : s.core.mx.queue = []) (q : BitVec 3) (c : Nat) :
    s.commitRing q c = s.onMx fun u => u.setRing q { u.ring q with tail := (u.ring q).tail + BitVec.ofNat 16 c } := by
  rw [State.commitRing, matrixNow_empty h]
  simp only [h, List.isEmpty_nil, Bool.not_true, Bool.false_and, Bool.false_eq_true, if_false]
  rfl

/-- The state in which an access at a key is performed. -/
theorem homeTouch_opened (s : State) (va key n : Nat) : (s.cacheFor s.agent va).homeTouch (.here key) n = s.opened va key n := rfl

/-- Ring `q` as `mring` sets it up for strand `n` with a descriptor (R229). -/
def Matrix.setup (m : Matrix) (q : BitVec 3) (e : BitVec 128) (n : Nat) : Matrix :=
  m.setRing q
    { base := (e.extractLsb' 0 56).setWidth 64, tag := e.extractLsb' 56 8, depth := (e.extractLsb' 64 8).toNat, head := 0, tail := 0, owner := some n }

section
variable {s : State} {st : Bool} {d a b : BitVec 5} (hheld : s.matrixHeld = false)

theorem mrq_gives (hi : AtOnce s {} st) (hq : s.MatrixQuiet) :
    Gives (exec (.mrq st d a) s) ((s.wg d (s.mx.ring (unitOf a)).query).after4 st) :=
  keptWrite_gives hi (congrArg (fun r : State => Res.ok (r.wg d (r.mx.ring (unitOf a)).query)) (matrixNow_quiet hq _)) (.refl s)

section
include hheld

theorem mrcommit_gives (hi : AtOnce s { g := [a] } st) (ho : OwnedBy s.cur.num (s.mx.ring (unitOf d)).owner) (hq : s.core.mx.queue = [])
    (hd : (s.mx.ring (unitOf d)).depth ≠ 0) (h0 : s.rg a ≠ 0)
    (hc : (s.mx.ring (unitOf d)).occupancy + (s.rg a).toNat ≤ (s.mx.ring (unitOf d)).depth) :
    Gives (exec (.mrcommit st d a) s)
      ((s.onMx fun u => u.setRing (unitOf d) { u.ring (unitOf d) with tail := (u.ring (unitOf d)).tail + BitVec.ofNat 16 (s.rg a).toNat }).after4 st) := by
  have hother : s.ringOther (unitOf d) = false := ownedByOther_false ho
  have hnow : s.matrixNow s.mx.queue.length = s := matrixNow_empty hq
  obtain ⟨x, hx⟩ := freeStall_like hi.running hi.untraced .order
  refine issue_atLike hi ⟨_, ?_, x, rfl⟩ rfl rfl id
  simp only [hnow, hother, owned_pass hheld, bne_iff_ne.mpr hd, toNat_bne_zero h0, hc, decide_true, Bool.and_true, ringOk_true, hx,
    commitRing_idle (s := s.counted x) hq]
  rfl

variable (ho : OwnedBy s.cur.num (s.mx.ring (unitOf d)).owner) (hn : (s.core.mx.queue.any fun k => k.op.namesRing (unitOf d)) = false)
include ho hn

theorem mring_resets (hi : AtOnce s {} st) : Gives (exec (.mring st d 0) s) ((s.onMx fun u => u.setRing (unitOf d) Ring.reset).after4 st) := by
  refine kept_gives hi ?_ (onMx_kept s _)
  have hother : s.ringOther (unitOf d) = false := ownedByOther_false ho
  simp only [hother, owned_pass hheld, if_true, ringWait_none hn]

theorem mring_gives (hi : AtOnce s { g := [a] } st) (ha : a ≠ 0) {key : Nat} (hr : Reaches s .read 16 false (s.rg a) key)
    (hs : s.sound (addrOf (s.rg a)) key 16) :
    let r := s.opened (addrOf (s.rg a)) key 16
    let e := BitVec.ofNat 128 (Memory.getN r.mem key 16)
    ringDescOk e (unitOf d) s.core.cid = true →
      r.ringBound (e.extractLsb' 0 56).toNat ((e.extractLsb' 64 8).toNat * ringTileBytes (e.extractLsb' 56 8)) = none →
      Gives (exec (.mring st d a) s) ((r.onMx (·.setup (unitOf d) e s.cur.num)).after4 st) := by
  intro r e he hb
  have hcore : r.core = s.core := opened_core ..
  have hother : s.ringOther (unitOf d) = false := ownedByOther_false ho
  have hsound : r.homeBad (.here key) 16 = none := congrArg (Option.map _) hs
  have hi' : AtOnce s { g := if a = 0 then [] else [a] } st := by rwa [if_neg ha]
  have hk : ChainKept (r.onMx (·.setup (unitOf d) e s.cur.num)) s := (onMx_kept r _).trans (.of_core hcore)
  obtain ⟨x, hx⟩ := freeStall_like (s := r) (by rw [hcore]; exact hi.running) (by rw [hcore]; exact hi.untraced) .engine
  have ⟨hrun, hexact, _⟩ := hk
  refine issue_atLike hi' ⟨(r.onMx (·.setup (unitOf d) e s.cur.num)).counted x, ?_, x, rfl⟩ hrun hexact hk.calm
  dsimp only
  rw [hother, owned_pass hheld, if_neg ha, scalarAcc_reaches hr (by decide) (by decide), State.withAcc]
  have hload : BitVec.ofNat 128 (r.homeLoad (.here key) 16) = e := rfl
  have hid : (r.counted x).core.cid = s.core.cid := (congrArg Core.cid hcore :)
  have hnum : r.core.cur.num = s.cur.num := congrArg (·.cur.num) hcore
  have hbound : (r.counted x).ringBound = r.ringBound := rfl
  have hnames : ((r.counted x).core.mx.queue.any fun k => k.op.namesRing (unitOf d)) = false := by
    rw [← hcore] at hn
    exact hn
  have hset : (r.counted x).setupRing (unitOf d) e = (r.onMx (·.setup (unitOf d) e s.cur.num)).counted x := by
    rw [← hnum]
    rfl
  simp only [homeTouch_opened, r, hsound, hload, hx, hid, he, cfgOk_true, hbound, hb, ringWait_none hnames, hset]

end

end

end Sys2Proof.Machine
end

section
/-! SUPPORT. Accumulator moves and the commands to other cores (R238, R241), and the statement about the matrix words. -/

namespace Sys2Proof.Machine

/-! ## Quadrants (R238) -/

theorem tile_setTile (m : Matrix) (t : BitVec 3) (x : Tile) : (m.setTile t x).tile t = x := Vector.getElem_set_self _

/-- A strand that takes a tile changes its owner only. -/
theorem take_tile (s : State) (t : BitVec 3) : (s.take t).mx.tile t = takeTile (s.core.mx.tile t) s.cur.num := tile_setTile ..

theorem onMx_fileWrite (f : Matrix → Matrix) : FileWrite fun s => s.onMx f := ⟨fun _ _ => rfl, fun _ => rfl, fun _ => rfl, fun _ h => h⟩

theorem putOwn_fileWrite (d : BitVec 5) (x : BitVec 32768) : FileWrite fun s => s.putOwn d x :=
  writeV_fileWrite d
    (fun s => (List.range s.files.length).map fun i =>
      if i = s.own then { mask := BitVec.allOnes 32768, data := x, rows := BitVec.allOnes 32, band := 0x3F80#16 } else VWrite.none)
    fun _ _ => rfl

/-- The strand's own vector file after `mrd` has read `v` from tile `t`, which it may then clear. -/
def State.quadRead (s : State) (d : BitVec 5) (v : BitVec 32768) (t : BitVec 3) (clear : Bool) : State :=
  if clear then (s.putOwn d v).onMx fun m => m.setTile t Tile.reset else s.putOwn d v

theorem quadRead_fileWrite (d : BitVec 5) (v : BitVec 32768) (t : BitVec 3) (clear : Bool) : FileWrite fun s => s.quadRead d v t clear :=
  have hput := putOwn_fileWrite d v
  .ite (clear = true) ((onMx_fileWrite fun m => m.setTile t Tile.reset).comp hput) hput

/-- A word that takes a tile, joins the vector queue and then writes gives its write. -/
theorem taken_gives {s : State} {u : Use} {st : Bool} {body : State → Res} {write : State → State} {t : BitVec 3} {q : VQ} (hi : AtOnce s u st)
    (hw : FileWrite write) (hb : body s = .ok (write ((s.take t).enqueue q))) : Gives (issue st 4 u body s) ((write (s.take t)).after4 st) := by
  have htake := onMx_fileWrite fun m => m.setTile t (takeTile (m.tile t) s.cur.num)
  obtain ⟨x, hx⟩ := enqueue_like (s := s.take t) hi.untraced q
  exact issue_atLike hi ⟨_, hb, x, by rw [hx, hw.counted]⟩ (hw.running _) (hw.exact _) fun h => hw.calm _ (htake.calm s h)

section
variable {s : State} {st : Bool} {d a b : BitVec 5} (hheld : s.matrixHeld = false)

section
include hheld

theorem mrd_gives (hi : AtOnce s { g := [b], vd := [d], vec := true } st) (ho : OwnedBy s.cur.num (s.core.mx.tile (unitOf a)).owner)
    (hz : s.rg b &&& ~~~0x103#64 = 0) (hp : (s.mx.tile (unitOf a)).poison = false)
    (hn : (s.core.mx.queue.any fun k => k.op.namesTile (unitOf a)) = false) :
    Gives (exec (.mrd st d a b) s)
      (((s.take (unitOf a)).quadRead d (quadOf (s.core.mx.tile (unitOf a)).data ((s.rg b).extractLsb' 0 2)) (unitOf a)
        ((s.rg b).getLsbD 8)).after4 st) := by
  have hother : s.tileOther (unitOf a) = false := ownedByOther_false ho
  have hdata : ((s.take (unitOf a)).mx.tile (unitOf a)).data = (s.core.mx.tile (unitOf a)).data := by
    rw [take_tile, takeTile]
  generalize hv : quadOf (s.core.mx.tile (unitOf a)).data ((s.rg b).extractLsb' 0 2) = v
  refine taken_gives (write := (·.quadRead d v (unitOf a) ((s.rg b).getLsbD 8))) (q := { vd := [d], t := 8, lam := 4 }) hi
    (quadRead_fileWrite ..) ?_
  simp only [hother, owned_pass hheld, beq_iff_eq.mpr hz, cfgOk_true, tileWait_none hn]
  rw [if_neg (ne_true_of_eq_false hp), hdata, hv]
  rfl

theorem mwr_gives (hi : AtOnce s { g := [b], v := [a], vec := true } st) (ho : OwnedBy s.cur.num (s.core.mx.tile (unitOf d)).owner)
    (hz : s.rg b &&& ~~~3#64 = 0) (hp : (s.cur.vf.getV a).badWords = [])
    (hn : (s.core.mx.queue.any fun k => k.op.namesTile (unitOf d)) = false) :
    Gives (exec (.mwr st d a b) s)
      (((s.take (unitOf d)).onMx fun m => m.setTile (unitOf d)
        { m.tile (unitOf d) with data := putQuad (m.tile (unitOf d)).data ((s.rg b).extractLsb' 0 2) (s.cur.vf.getV a).bits }).after4 st) := by
  have hother : s.tileOther (unitOf d) = false := ownedByOther_false ho
  refine taken_gives hi (onMx_fileWrite _) (q := { v := [a], t := 8, lam := 4 }) ?_
  simp only [hother, owned_pass hheld, beq_iff_eq.mpr hz, cfgOk_true, tileWait_none hn, hp]

end

/-! ## Commands to other cores (R241) -/

theorem allocCell_cid {s r : State} {kind : BitVec 3} {n : Nat} {h : Word} (ha : s.allocCell kind n = some (h, r)) :
    r.core.cid = s.core.cid := by
  unfold State.allocCell at ha
  split at ha
  · cases ha
  · rename_i hc
    cases ha
    exact (alloc_change hc).cid

/-- The state in which a command has gone out to cores of the issuer's die. -/
def State.commandsSent (s : State) (base : Nat) (e : BitVec 32) (cap : BitVec 128) (h : Word) (cores : List Nat) : State :=
  cores.foldl (fun r c => r.post r.replyDue (.matrix (base + c) e cap h r.cur.launch)) s

theorem commandsSent_core (s : State) (base : Nat) (e : BitVec 32) (cap : BitVec 128) (h : Word) (cores : List Nat) :
    (s.commandsSent base e cap h cores).core = s.core := by
  refine foldl_core ?_ cores s
  exact fun _ _ => rfl

section
variable {e : BitVec 32} {kind : BitVec 3} {cores : List Nat} {h : Word} {r : State}
include hheld

theorem sendMatrix_sends (hp : (payloadOp e).isSome = true) (hc : ∀ c ∈ cores, c < 384) (ha : s.allocCell kind cores.length = some (h, r)) :
    s.sendMatrix d b e kind true cores =
      .ok ((r.commandsSent (dieOf s.core.cid * 384) e (s.rg (b + 1) ++ s.rg b) h cores).wg d h) := by
  have hall : cores.all (· < Config.coresPerDie) = true := List.all_eq_true.mpr fun c hm => decide_eq_true (hc c hm)
  have hcur : r.cur = s.cur := allocCell_cur ha
  rw [State.sendMatrix, owned_pass hheld, hall, hp, Bool.and_true, Bool.and_true, cfgOk_true, ha]
  simp only [State.rg, hcur, allocCell_cid ha]
  rfl

theorem sendMatrix_gives {u : Use} {body : State → Res} (hi : AtOnce s u st) (hb : body s = s.sendMatrix d b e kind true cores)
    (hp : (payloadOp e).isSome = true) (hc : ∀ c ∈ cores, c < 384) (ha : s.allocCell kind cores.length = some (h, r)) :
    Gives (issue st 8 u body s) (((r.commandsSent (dieOf s.core.cid * 384) e (s.rg (b + 1) ++ s.rg b) h cores).wg d h).after8 st) := by
  have hk : ChainKept (r.commandsSent (dieOf s.core.cid * 384) e (s.rg (b + 1) ++ s.rg b) h cores) s :=
    (ChainKept.of_core (commandsSent_core ..)).trans (allocCell_kept ha)
  have ⟨hrun, hexact, _⟩ := hk
  exact issue_at (len := 8) hi (hb.trans (sendMatrix_sends hheld hp hc ha)) (hrun.trans hi.running) (hexact.trans hi.untraced)
    fun hst => wg_calm (hk.calm (hi.calm hst)) d h

theorem mcmd_gives (hi : AtOnce s { g := [a, b, b + 1] } st) (hev : b.getLsbD 0 = false) (hp : (payloadOp e).isSome = true)
    (hx : (s.rg a).toNat < 384) (ha : s.allocCell 4 1 = some (h, r)) :
    Gives (exec (.mcmd st d a b e) s)
      (((r.commandsSent (dieOf s.core.cid * 384) e (s.rg (b + 1) ++ s.rg b) h [(s.rg a).toNat]).wg d h).after8 st) := by
  have hexec : exec (.mcmd st d a b e) s = execMcmd st d a b e s := rfl
  have hlow : ((s.rg a).extractLsb' 0 9).toNat = (s.rg a).toNat := by
    rw [BitVec.extractLsb'_toNat, Nat.shiftRight_zero]
    omega
  have hhigh : (s.rg a).extractLsb' 9 55 = 0 := BitVec.eq_of_toNat_eq (by
    rw [BitVec.extractLsb'_toNat, Nat.shiftRight_eq_div_pow, Nat.div_eq_of_lt (by omega)]
    rfl)
  rw [hexec, execMcmd, hev, if_neg Bool.false_ne_true]
  refine sendMatrix_gives hheld hi ?_ hp (by simpa using hx) ha
  simp only [hlow, hhigh, beq_self_eq_true]

theorem mdist_gives (hi : AtOnce s { g := [a, b, b + 1] } st) (hev : b.getLsbD 0 = false) (hp : (payloadOp e).isSome = true) :
    let k := ((s.rg a).extractLsb' 16 7).toNat + 1
    let step := ((s.rg a).extractLsb' 32 9).toNat
    let cores := (List.range k).map fun p => ((s.rg a).extractLsb' 0 9).toNat + p * step
    s.rg a &&& ~~~0x1FF007F01FF#64 = 0 → k ≤ 64 → 1 ≤ step → step ≤ 383 → (∀ c ∈ cores, c < 384) → s.allocCell 7 k = some (h, r) →
      Gives (exec (.mdist st d a b e) s)
        (((r.commandsSent (dieOf s.core.cid * 384) e (s.rg (b + 1) ++ s.rg b) h cores).wg d h).after8 st) := by
  intro k step cores hz hk h1 h2 hc ha
  have hexec : exec (.mdist st d a b e) s = execMdist st d a b e s := rfl
  have hlen : cores.length = k := by simp [cores]
  rw [hexec, execMdist, hev, if_neg Bool.false_ne_true]
  refine sendMatrix_gives hheld hi ?_ hp hc (hlen ▸ ha)
  simp only [beq_iff_eq.mpr hz, decide_eq_true hk, decide_eq_true h1, decide_eq_true h2, Bool.and_true, cores, k, step]

end

end

/-- Settles O45: what each word asks of its unit makes its checks pass; then a command enters the queue with its tile, a ring or a batch
changes, a quadrant moves, or messages leave. -/
theorem matrixWords : Obligations.MatrixWords := by
  intro s st d a b m n x y t q mine quiet push owns hheld
  refine ⟨?batch, ?noBatch, ?ring, ?query, ?read, ?write, ?remote⟩
  case batch =>
    intro h hb hquiet hroom qa qb oa ob
    refine ⟨?mzero, ?mma, ?mrpop, ?mmas, ?mend⟩
    case mzero => exact fun hi ht => mzero_gives hheld hb hquiet hroom hi ht
    case mma => exact fun hi ht ha hb' hx hc hoa hob => mma_gives hheld hb hquiet hroom hi ⟨ht, ha, hb', hx⟩ hc hoa hob
    case mrpop => exact fun hi hq hd h0 hc => mrpop_gives hheld hb hquiet hroom hi hq hd h0 hc
    case mmas => exact fun c hi ht ha hb' hx hc hm hoa hob => mmas_gives hheld hb hquiet hroom hi ⟨ht, ha, hb', hx⟩ hc hm hoa hob
    case mend => exact fun hi => mend_gives hheld hi hb
  case noBatch =>
    exact fun hb hi => ⟨fun h r ha => mbeg_gives hheld hi hb ha, mend_closed hi hb, mzero_closed hi hb⟩
  case ring =>
    refine fun ho => ⟨fun hn => ⟨?reset, ?setup⟩, ?commit⟩
    case reset =>
      rintro rfl hi
      exact mring_resets hheld ho hn hi
    case setup => exact fun key ha hi hr hs => mring_gives hheld ho hn hi ha hr hs
    case commit => exact fun hi hq hd h0 hc => mrcommit_gives hheld hi ho hq hd h0 hc
  case query =>
    intro hi hq r
    rw [← query_eq]
    exact mrq_gives hi hq
  case read => exact fun hi ho hz hp hn => mrd_gives hheld hi ho hz hp hn
  case write => exact fun hi ho hz hp hn => mwr_gives hheld hi ho hz hp hn
  case remote =>
    intro e hi hev hp base cap sent
    exact ⟨fun h r hx ha => mcmd_gives hheld hi hev hp hx ha, fun h r hz hk h1 h2 hc ha => mdist_gives hheld hi hev hp hz hk h1 h2 hc ha⟩

end Sys2Proof.Machine
end
